-- ==== Sys2Proof/Word.lean ====
section
/-! DEFINITION. The word types of the Nerovoette 64: registers and state words are 64 bits (R13), bytes 8. -/

namespace Sys2Proof

/-- A general register or state word (R13). -/
abbrev Word := BitVec 64

/-- One byte of any memory. -/
abbrev Byte := BitVec 8

end Sys2Proof
end

