-- ==== Sys2Proof/Machine/Bits.lean ====
section
/-! DEFINITION. Bit-field, byte-order and table helpers that every later file uses: extraction of fields, sign
extension, little-endian bytes, and sparse tables kept as sorted lists of (key, value) pairs. -/

namespace Sys2Proof.Machine

/-- Bits `hi` down to `lo` of a natural number. -/
def bitsOf (w hi lo : Nat) : Nat := w / 2 ^ lo % 2 ^ (hi + 1 - lo)

/-- Bit `i` of a natural number as a Bool. -/
def bitAt (w i : Nat) : Bool := w / 2 ^ i % 2 == 1

/-- Sign extension of the low `n` bits of a natural number, read as an integer. -/
def sextNat (n w : Nat) : Int :=
  let v := w % 2 ^ n
  if v < 2 ^ (n - 1) then (v : Int) else (v : Int) - 2 ^ n

/-- An integer reduced modulo 2^n to a natural number. -/
def wrapNat (n : Nat) (v : Int) : Nat := (v % (2 ^ n : Int)).toNat

/-- A Bool as one bit. -/
def b2n (b : Bool) : Nat := if b then 1 else 0

/-- The `z` little-endian bytes of `v` (R59, R110). -/
def leBytes : Nat → Nat → List Byte
  | 0, _ => []
  | z + 1, v => BitVec.ofNat 8 v :: leBytes z (v / 256)

/-- The number that little-endian bytes hold. -/
def ofLeBytes : List Byte → Nat
  | [] => 0
  | b :: bs => b.toNat + 256 * ofLeBytes bs

/-- Read a sparse table, with `d` for a key that is not listed. -/
def tblGet {α : Type} (d : α) : List (Nat × α) → Nat → α
  | [], _ => d
  | (k, v) :: t, i => if k = i then v else if i < k then d else tblGet d t i

/-- Read a sparse table where an absent key has no value. -/
def tblFind {α : Type} : List (Nat × α) → Nat → Option α
  | [], _ => none
  | (k, v) :: t, i => if k = i then some v else if i < k then none else tblFind t i

/-- Write a sparse table, keeping its keys strictly rising. -/
def tblSet {α : Type} : List (Nat × α) → Nat → α → List (Nat × α)
  | [], i, a => [(i, a)]
  | (k, v) :: t, i, a =>
    if k = i then (i, a) :: t else if i < k then (i, a) :: (k, v) :: t else (k, v) :: tblSet t i a

/-- Remove a key of a sparse table. -/
def tblErase {α : Type} : List (Nat × α) → Nat → List (Nat × α)
  | [], _ => []
  | (k, v) :: t, i => if k = i then t else (k, v) :: tblErase t i

/-- Insert a natural number into a rising list without repeats. -/
def natInsert : List Nat → Nat → List Nat
  | [], i => [i]
  | k :: t, i => if k = i then k :: t else if i < k then i :: k :: t else k :: natInsert t i

/-- The least number below the bound `n` that is not listed, counted up from `i` (the bound is also the fuel). -/
def firstFree (used : List Nat) : Nat → Nat → Option Nat
  | 0, _ => none
  | n + 1, i => if used.contains i then firstFree used n (i + 1) else some i

/-- Element `i` of a list, or `d` past its end. -/
def nth {α : Type} (d : α) : List α → Nat → α
  | [], _ => d
  | a :: _, 0 => a
  | _ :: t, i + 1 => nth d t i

/-- Replace element `i` of a list. -/
def setNth {α : Type} : List α → Nat → α → List α
  | [], _, _ => []
  | _ :: t, 0, b => b :: t
  | a :: t, i + 1, b => a :: setNth t i b

/-- Floor of the binary logarithm of a natural number (0 for 0). -/
def ilog2 (v : Nat) : Nat := Nat.log2 v

/-- Number of one bits among the low `n` bits. -/
def popcount : Nat → Nat → Nat
  | 0, _ => 0
  | n + 1, v => v % 2 + popcount n (v / 2)

/-- Index of the lowest one bit among `n` bits, counted from `i`; `i + n` when none is set. -/
def ctzFrom : Nat → Nat → Nat → Nat
  | 0, i, _ => i
  | n + 1, i, v => if v % 2 = 1 then i else ctzFrom n (i + 1) (v / 2)

/-- The `n` low bits of `v` in reverse order. -/
def revBits : Nat → Nat → Nat
  | 0, _ => 0
  | n + 1, v => v % 2 * 2 ^ n + revBits n (v / 2)

/-- `n` bits of the CRC-32 of IEEE 802.3, low bit first. -/
def crcBits : Nat → Nat → Nat
  | 0, c => c
  | n + 1, c => crcBits n (if c % 2 = 1 then (c / 2) ^^^ 0xEDB88320 else c / 2)

def crcFrom : List Byte → Nat → Nat
  | [], c => c
  | b :: bs, c => crcFrom bs (crcBits 8 (c ^^^ b.toNat))

/-- CRC-32 with the polynomial of IEEE 802.3 (R343). -/
def crc32 (bs : List Byte) : Nat := crcFrom bs 0xFFFFFFFF ^^^ 0xFFFFFFFF

/-- Ceiling division. -/
def ceilDiv (a b : Nat) : Nat := (a + b - 1) / b

end Sys2Proof.Machine
end

