-- ==== Sys2Proof/Machine/Types.lean ====
section
/-! DEFINITION. The plain data that packets, threads and homes carry: accesses, messages, agreement packets, tile command
words, what a thread waits for. Syntax.lean uses them as the operands of the device's steps, State.lean stores them. -/

namespace Sys2Proof.Machine

/-- g0 to g9 (R13). -/
structure Regs where
  g0 : Word := 0
  g1 : Word := 0
  g2 : Word := 0
  g3 : Word := 0
  g4 : Word := 0
  g5 : Word := 0
  g6 : Word := 0
  g7 : Word := 0
  g8 : Word := 0
  g9 : Word := 0
  deriving DecidableEq, Repr

/-- A tile command word without its opcode (R78, R82). -/
structure Tcw where
  flags : BitVec 8
  dst : BitVec 5
  hA : BitVec 5
  hB : BitVec 5
  acc : BitVec 2
  fmtA : BitVec 4
  fmtB : BitVec 4
  fmtOut : BitVec 4
  rm : BitVec 3
  count : BitVec 8
  win : BitVec 4
  wout : BitVec 4
  q1 : Word
  q2 : Word
  q3 : Word
  deriving DecidableEq, Repr

/-- Who sent a store, merge or load, and so receives its acknowledgement or reply. -/
inductive Issuer where
  | thread (tid : Nat)
  | cmd (core part seq : Nat)      -- a tile command of a queue
  | remote (dev tid : Nat)         -- a thread of another device
  | acceptor (region acc slot : Nat) -- a decision-array write of a member (R138, R142)
  | unit                           -- a unit of the device that needs no acknowledgement (launch unit, acceptor, ports)
  deriving DecidableEq, Repr

/-- What an access does at its home. -/
inductive Act where
  | load
  | store (bytes : List Byte)
  | merge (fetch : Bool) (o : Nat) (wide : Bool) (b : Word)         -- R122: operation of R74, width, operand
  | vbor (b : Word)                                                 -- R128
  | copyr (o fmt rm : Nat) (bytes : List Byte)                      -- R220: one line of COPYR elements
  deriving DecidableEq, Repr

/-- An access packet. `da` is the device address, `z` its size in bytes, `pc` the issuing instruction, `iv` the fence
interval of a class 0x8 access (R345), `op` the operation whose reply it is. `via` is what a window made of a class 0x8 address: the
context that granted it and the address there (R277). `key` is the memory key to which a port translated it: a class 0x4 access on its way
to an LPDDR port has one (R276), and an acknowledgement tells by it which page it unpins (R286). -/
structure Access where
  who : Issuer
  op : Nat
  ctx : Nat
  part : Nat
  core : Nat
  pc : Nat
  da : Nat
  z : Nat
  iv : Nat
  act : Act
  via : Option (Nat × Nat)
  key : Option Nat
  deriving DecidableEq, Repr

/-- How an acknowledgement reports the access: done, or one of the refusals of R19, R27, R30, R126, R127, R179, R229, R250. -/
inductive AckStatus where
  | ok
  | noHome
  | poison
  | badMerge
  | badAdvance
  | graph
  | channel        -- a word of a second writer (R179)
  | discarded      -- a skip wake: acknowledged, nothing written (R317)
  deriving DecidableEq, Repr

/-- A load reply: the bytes read, a poisoned word, or no home. -/
inductive LoadRes where
  | data (bytes : List Byte)
  | poison
  | noHome
  deriving DecidableEq, Repr

/-- An active message or a spawn: sender, source and target partition, words (R170, R175). -/
structure Msg where
  tid : Nat
  op : Nat
  ctx : Nat
  part : Nat
  src : Nat
  dst : Nat
  iv : Nat
  words : List Word
  force : Option Nat := none     -- replay: the thread id that the record gives the child (R329)
  dev : Option Nat := none       -- the device it comes from, when that is another one
  deriving DecidableEq, Repr

/-- A spawn's reply: the status word, and the sequence number that the named core gives its record where the context logs (R175, R327). -/
structure SpawnRes where
  word : Word
  oseq : Option Nat
  deriving DecidableEq, Repr

/-- What a load writes when its bytes arrive (R111, R121, R129). -/
inductive LoadK where
  | ld (d : BitVec 4) (w : Nat)
  | vbtst (d : BitVec 4) (b : Word)
  | lde (d : BitVec 4) (f bl e : Nat) (high : Bool) (seg : Nat) (din : Word)
  | scale (d : BitVec 4) (f raw : Nat) (high : Bool)
  deriving DecidableEq, Repr

/-- The state that a migrating thread carries (R18, R32). -/
structure MigState where
  regs : Regs
  preds : BitVec 16
  pc : BitVec 14
  status : BitVec 16
  fpx : BitVec 5
  trapc : BitVec 8
  trapv : Word
  trappc : BitVec 14
  deriving DecidableEq, Repr

/-- A migration packet (R18, R29, R348): the thread, where it goes, and the load it performs there. -/
structure MigPkt where
  tid : Nat
  ctx : Nat
  part : Nat
  core : Nat
  st : MigState
  load : Option (LoadK × Nat × Nat)      -- what to write, device address, size
  mism : Option (Nat × Int)              -- a count mismatch of the fence before it (R346)
  dev : Option Nat := none               -- the device it comes from, when that is another one
  deriving DecidableEq, Repr

/-- A channel word in flight (R178). -/
structure ChPkt where
  tid : Nat
  ctx : Nat
  part : Nat
  src : Nat
  dst : Nat
  idx : Nat
  q : Nat
  w : Word
  dev : Option Nat := none       -- the device it comes from, when that is another one
  deriving DecidableEq, Repr

/-- A remote advance (R226). -/
structure AdvPkt where
  src : Nat
  part : Nat
  seq : Nat
  ctx : Nat
  dst : Nat
  h : Nat
  consume : Bool
  n : Nat
  dev : Option Nat := none       -- the device it comes from, when that is another one
  deriving DecidableEq, Repr

/-- A LINK exchange, an NFREE or a pair push in flight (R238, R245, R246). -/
structure GraphPkt where
  tid : Nat
  op : Nat
  ctx : Nat
  part : Nat
  src : Nat
  da : Nat
  w : Word
  w2 : Word
  deriving DecidableEq, Repr

/-- A quorum descriptor (R137): the fields q1 and q2 as they stand in it. Members are (device, region). -/
structure Quorum where
  frm : Nat
  f1 : Nat
  f2 : Nat
  members : List (Nat × Nat)
  deriving DecidableEq, Repr

/-- The effective size of a quorum: 0 means a majority (R137). -/
def quorumSize (f n : Nat) : Nat := if f = 0 then n / 2 + 1 else f

/-- The effective phase-1 quorum. -/
def Quorum.q1 (q : Quorum) : Nat := quorumSize q.f1 q.members.length

/-- The effective phase-2 quorum. -/
def Quorum.q2 (q : Quorum) : Nat := quorumSize q.f2 q.members.length

/-- A protocol table (R182): roles, states, final states, and the nonzero half-words by 16·state + kind. -/
structure Proto where
  nrol : Nat
  nst : Nat
  final : Nat
  entries : List (Nat × Nat)
  deriving DecidableEq, Repr

/-- What a reshape carries to a member of a conversation (R184): the state and role registers at a frontier, and their history. -/
structure Carry where
  front : Nat := 0
  conv : Nat := 0
  roles : List (Nat × Nat) := []
  hist : List (Nat × Nat × Nat) := []
  past : List (Nat × Nat) := []
  deriving DecidableEq, Repr

/-- A message from a proposer, holder or opener to a member (R141, R151, R152, R160, R161). `dev` is the sender's device. -/
structure AMsg where
  region : Nat
  member : Nat
  acc : Nat
  gen : Nat
  epoch : Nat
  slot : Nat
  bal : Nat
  flag : Bool          -- PREPARE: RUN; ACCEPT: via run; others: see the step that reads it
  v : Word
  orig : Nat
  tid : Nat
  op : Nat
  core : Nat
  dev : Nat
  config : Bool := false -- the value is a configuration (R158)
  carry : Carry := {}    -- registration of a reshape: the conversation (R184)
  deriving DecidableEq, Repr

/-- A reply of an acceptor to a proposer. `bal` repeats the ballot that was asked; `num` is a reason code of R144, the run flag
g, for a freeze report the promised ballot, for a reply from below the truncation point whether the array holds the slot. -/
structure ARep where
  tid : Nat
  op : Nat
  member : Nat
  bal : Nat
  ab : Nat := 0
  av : Word := 0
  ao : Nat := 0
  num : Nat := 0
  config : Bool := false
  deriving DecidableEq, Repr

/-- Which answer a request to one member asks for (R154 to R162, R188, R189). -/
inductive LForm where
  | learn
  | poll
  | learnt
  | recv (role : Nat) (low : Nat)  -- `low`: bits [7:0] of the cursor
  | ballot
  | stat (sel : Word)
  | next
  | cvstate (sel : Word)
  | frontier        -- CVSEND, CVOP, LNCH and SNAP ask for their first slot (R187, R264, R269)
  | look            -- a resumed CVSEND asks whether a slot is decided (R187)
  | directory       -- a core fills its accord table (R148); `slot` is the context that asks
  | cancel          -- the asker has gone on (R155, R156)
  deriving DecidableEq, Repr

/-- A request to one member. -/
structure LReq where
  region : Nat
  member : Nat
  acc : Nat
  gen : Nat
  epoch : Nat
  slot : Nat
  form : LForm
  tid : Nat
  op : Nat
  core : Nat
  dev : Nat
  deriving DecidableEq, Repr

/-- What a member reads the decision array for (R397): to answer a proposer below the truncation point or with a full store, or a
learning request at a slot. -/
inductive ArrayAsk where
  | trunc (m : AMsg)
  | full (m : AMsg)
  | learn (q : LReq) (slot : Nat)
  deriving DecidableEq, Repr

/-- A member's answer: acknowledgement, keepalive, a stale epoch, a poisoned word, two result words (with whether they report a
decision, for which slot, its origin and ballot), the outcome of OPEN, CLOSE and TRUNC, the close of an accord by force, or a directory
record with the descriptor that it names, for a core of another device (R148). -/
inductive MBody where
  | ack
  | keep
  | stale
  | poison (da : Nat)
  | answer (v1 v2 : Word) (decided : Bool) (slot : Nat) (orig : Nat) (bal : Nat)
  | status (code : Nat) (t : Nat)
  | closed (acc : Nat)
  | config (gen epoch owner desc : Nat) (bytes : List Byte)
  deriving DecidableEq, Repr

/-- What an agreement instruction is part of: PROP, RESHAPE with its new quorum, CVSEND or CVOP, LNCH or a host submission,
SNAP (R143, R158, R187, R264, R269, R354). -/
inductive Outer where
  | plain
  | reshape (q : Quorum)
  | conv
  | lnch
  | snap
  deriving DecidableEq, Repr

/-- Where a proposal stands (R147 to R152, R187). -/
inductive Phase where
  | begin          -- nothing sent yet
  | first          -- asks the nearest member for the slot
  | looking        -- asks whether the slot is decided (resumed CVSEND)
  | prep           -- PREPARE sent
  | fence          -- the fence before ACCEPT
  | acc            -- ACCEPT sent
  | pre            -- PREPACC sent
  | lease          -- LEASE sent
  | reports        -- waiting for freeze reports
  | hold           -- back-off hold of a LOST attempt
  | window         -- waiting until the nearest member has learned slot − 1
  deriving DecidableEq, Repr

/-- A proposal in progress (R147). `d` is the register code of the result, `form` the form field of its log record. -/
structure PropOp where
  outer : Outer
  form : Nat
  d : Nat
  acc : Nat
  slot : Nat
  v0 : Word                      -- the value of the instruction
  hint : Word := 0
  run : Bool := false
  gen : Nat := 0
  epoch : Nat := 0
  q : Quorum := ⟨0, 0, 0, []⟩
  v : Word := 0                  -- the value proposed now, its origin, whether it is a configuration
  orig : Nat := 0
  config : Bool := false
  phase : Phase := .begin
  senior : Bool := false
  leased : Bool := false
  viaRun : Bool := false
  fall : Bool := false           -- the run path fell back (R152)
  bal : Nat := 0
  grants : List Nat := []        -- members that granted in this phase
  refusals : List Nat := []      -- members that refused in this phase
  runs : Nat := 0                -- members that granted a run record
  best : Nat := 0                -- highest accepted ballot reported
  high : Nat := 0                -- highest ballot reported
  lastHigh : Nat := 0            -- reason of the last HIGHER or SENIOR refusal
  lastOther : Nat := 0           -- reason of the last FULL or WINDOW refusal, 256 for NORUN
  other : Bool := false          -- a refusal other than WINDOW was seen
  reports : List Nat := []       -- members whose freeze report arrived
  topRound : Nat := 0            -- highest round in the reports
  why : Nat := 0                 -- reason kept during the hold
  strict : Bool := false         -- the accord's STRICT bit
  sop : Nat := 0                 -- operation number of the attempt's first messages, 0 before them; replies to it and later ones count
  cur : Nat := 0                 -- operation number of the phase's messages
  deriving DecidableEq, Repr

/-- A request to one member in progress, with its failover (R154 to R156). -/
structure LearnOp where
  form : LForm
  d : Nat
  acc : Nat
  slot : Nat
  poll : Bool := false  -- a LEARNT at or past its deadline polls (R155)
  tried : Nat := 0      -- how many members of the nearness order have been given up
  heard : Nat := 0      -- cycle of the last answer, acknowledgement or keepalive
  n : Nat := 0          -- members of the configuration asked
  asked : Option (LReq × Nat) := none -- the last request, and the device it went to
  deriving DecidableEq, Repr

/-- OPEN, CLOSE or TRUNC in progress (R160, R161): 0, 1, 2. -/
structure AccOp where
  form : Nat
  d : Nat
  acc : Nat
  flag : Bool := false
  first : Bool := true  -- the directory (OPEN, CLOSE) or the gate (TRUNC) has still to answer
  waiting : List Nat := []   -- members still unanswered; 255 stands for the directory acceptor
  code : Nat := 0       -- worst status so far
  t : Nat := 0          -- truncation point of TRUNC
  gen : Nat := 0        -- open generation of the accord
  members : List (Nat × Nat) := []
  inAt : List Nat := [] -- OPEN: members that have registered the accord
  undo : Bool := false  -- OPEN: what was registered is being taken back
  cfg : List Byte := [] -- descriptor and protocol table of OPEN
  deriving DecidableEq, Repr

inductive Op where
  | prop (p : PropOp)
  | learn (l : LearnOp)
  | acc (a : AccOp)
  | fill (acc : Nat)
  deriving DecidableEq, Repr

/-- What a LINK waits for (R245, R246). -/
inductive LinkStage where
  | claimA | claimB | redirA | redirB | joinX | joinY | push
  deriving DecidableEq, Repr

/-- A LINK in progress: operands, the two sides being joined, which operands were fresh, steps taken, ends handed over, what the last
exchange of each side returned, and the entries to push at the end. -/
structure LinkOp where
  a : Word
  b : Word
  x : Word
  y : Word
  fa : Bool := false
  fb : Bool := false
  steps : Nat := 0
  extra : List (Word × Word) := []
  stage : LinkStage
  lastX : Word := 0
  pushes : List (Word × Word) := []
  deriving DecidableEq, Repr

/-- An order-log record before its sequence numbers are given (R325, R326). -/
structure LogRec where
  type : Nat
  form : Nat
  obj : Word
  outcome : Word
  ext : Option (Word × Word)
  oseq : Option Nat
  deriving DecidableEq, Repr

/-- How an instruction completes: up to two register writes (code 10 writes nothing), flags for sw.FPX, and the new
defeat count. -/
structure Completion where
  r1 : BitVec 4 := 10
  v1 : Word := 0
  r2 : BitVec 4 := 10
  v2 : Word := 0
  flags : Nat := 0
  defeat : Option Nat := none    -- the new defeat count
  after : Nat := 0               -- 0 the next word; 1 trap 4 with the trigger in v1 (R266); 2 the log pauses (R267); 3 fault 0x14 (R186)
  deriving DecidableEq, Repr

/-- A condition that holds a thread until it is true; the instruction is then carried out again from its start. -/
inductive Cond where
  | always
  | uacZero
  | codeZero                               -- FENCE.I
  | tileIdle                               -- FENCE.T
  | allIdle                                -- FENCE.A
  | storeRoom (da : Nat)                   -- R33 and the line count of R335
  | queueFree                              -- TCMD
  | loopFree                               -- TLOOP
  | handleFree (h : Nat)                   -- HDEF
  | filled (h n : Nat)                     -- TWAIT side 0
  | room (h n : Nat)                       -- TWAIT side 1
  | cmdDone (seq : Nat) (vt : Option Nat)  -- WAITT
  | chRoom (dst idx : Nat)                 -- CHSEND
  | chWord (idx : Nat)                     -- CHRECV
  | bagRoom                                -- BAGINS
  | flag                                   -- WFM
  | tileEntry                              -- REWRITE with TP (R243)
  | logDone                                -- OLOG.FLUSH
  | sharedFill (acc : Nat)                 -- another instruction of the partition fills the entry
  | cycle (c : Nat)                        -- a cycle has come
  deriving DecidableEq, Repr

/-- What a thread waits for. Only `ready` threads issue; `until`, `gathered` and `search` are carried on by the step when their
condition holds, the rest by the packets they wait for. -/
inductive Wait where
  | ready
  | until (c : Cond)
  | load (k : LoadK) (da : Nat)
  | fetch (d : BitVec 4) (o : Nat) (wide : Bool) (da : Nat) (want : Option (Word × Nat))  -- want: what a replay must see
  | gather (todo : List (Nat × Nat)) (got : List Byte) (stage : Nat)
  | gathered (got : List Byte) (stage : Nat)
  | count (got : List (Nat × Nat))         -- totals by position in `peers`
  | bar (kind : Nat) (idx : Nat) (d : BitVec 4)
  | op (o : Op)
  | spawn (d : BitVec 4) (n : Nat) (target : Word)
  | link (l : LinkOp)
  | search (step due : Nat)                -- BAGPOP beyond its own bag (R242)
  | xfault
  | ring (r : LogRec) (c : Completion)
  | turn (type form : Nat) (obj : Word) (since : Nat)   -- replay (R329)
  | ckpt (table : List Word)               -- halted for a dusk stop with its live-range table (R266)
  | moving
  | badPc (w : Word)                       -- its start gave a pc that no word has (R169)
  | stopped
  deriving DecidableEq, Repr

/-- Where a thread stands (R12, R176, R303, R348). -/
inductive Place where
  | slot (n : Nat)
  | arrivalQ
  | runQ
  | flight
  | away                -- at another device
  | engine              -- the submission engine of R354, which is no thread of a core
  | held                -- started, its record waits for room in the order-log ring (R328)
  deriving DecidableEq, Repr

/-- A counter of class 0x8 accesses to one peer device in a fence interval (R345): issued, acknowledged, settled by drop
notices; of an interval that a ninth peer closed, whether COUNT was sent, and the total that came back. -/
structure Peer where
  iv : Nat
  dev : Nat
  src : Nat
  acked : Nat := 0
  dropped : Nat := 0
  asked : Bool := false
  tgt : Option Nat := none
  deriving DecidableEq, Repr

/-- A thread (R13, R32) with the state that hardware carries beside it. `home` is the core, `op` names the operation in
progress so that late replies are discarded, `counted` says that the fence of the current instruction has compared its
counts. -/
structure Thread where
  id : Nat
  ctx : Nat
  core : Nat
  part : Nat
  place : Place
  regs : Regs := {}
  preds : BitVec 16 := 1
  pc : BitVec 14 := 0
  status : BitVec 16 := 0
  fpx : BitVec 5 := 0
  trapc : BitVec 8 := 0
  trapv : Word := 0
  trappc : BitVec 14 := 0
  uac : Nat := 0
  codeUac : Nat := 0
  wakev : Word := 0
  tq : Option Nat := none
  interval : Nat := 0
  peers : List Peer := []
  counted : Bool := false
  held : List Word := []               -- words of a SPAWN read before its fence (R175), the quorum of a RESHAPE (R158)
  kept : List Op := []                 -- what an instruction goes on with after its fence, fill or question
  mism : Option (Nat × Int) := none
  owed : Option (Nat × Int) := none    -- a mismatch of an interval checked in background, for the next fence (R345)
  wait : Wait := .ready
  op : Nat := 0
  deadline : Nat := 0                  -- of the BAR or LEARNT in progress; 0 for none (R133, R155)
  issued : Option Nat := none          -- cycle of the last issue (R12)
  word : BitVec 32 := 0                -- the word that issued then, which a wait carries on
  skid : Option Nat := none            -- how many younger instructions may still issue behind an access that its home refuses (R312)
  deriving DecidableEq, Repr

/-- The self-test and training results with which a dawn runs (R357 to R359): inputs from outside the model. -/
structure Dawn where
  imageOk : Bool
  keysOk : Bool
  failedRegions : List Nat
  memOk : Bool
  linksUp : List (Nat × Nat)           -- links that train, with their one-way flight time in cycles (R342)
  device : Nat
  groups : Nat := 1025                 -- groups of the fabric (R340)
  deriving DecidableEq, Repr

/-- An Avbuak flit (R343): the fields of its trailer and the 56 bytes of its payload. -/
structure Flit where
  crc : Nat
  reserved : Bool
  head : Bool
  tail : Bool
  vc : Nat
  ack : Nat
  seq : Nat
  body : List Byte
  deriving DecidableEq, Repr

/-- Bits [63:32] of a flit's trailer (R343). -/
def Flit.upper (f : Flit) : Nat :=
  b2n f.reserved * 2 ^ 31 + b2n f.head * 2 ^ 30 + b2n f.tail * 2 ^ 29 + f.vc % 32 * 2 ^ 24 + f.ack % 4096 * 2 ^ 12 + f.seq % 4096

/-- Bytes 0 to 59 of a flit, which its CRC covers: the payload, then the upper half of the trailer, least significant byte first (log
entry 56). -/
def Flit.bytes (f : Flit) : List Byte := f.body ++ leBytes 4 f.upper

/-- Whether a receiver takes a flit (R343): its CRC checks, its reserved bit is zero, its virtual channel exists. -/
def Flit.good (f : Flit) : Bool := f.crc == crc32 f.bytes && !f.reserved && f.vc < 20

end Sys2Proof.Machine
end

