-- ==== Sys2Proof/Syntax.lean ====
section
/-! DEFINITION. Every row of the opcode table as a constructor of Instr, in the order of the table: the scalar words with
their raw fields (03_instruction_words.md), the tile command words, and the steps of the device with the packet, request or
register write that each of them takes up (95_what_each_step_holds.md). -/

namespace Sys2Proof

open Sys2Proof.Machine

/-- One indivisible step of the part: `g` is the guard field G of a scalar word (R60), `d`, `a`, `b`, `s` are register codes
(R14), `p`, `q`, `r`, `n` predicate indices, `w`, `o`, `x`, `i`, `k`, `c`, `m`, `t` the further fields of its format (R62). A pair
destination of three bits names the registers 2d and 2d + 1 (R76). The constructors without fields, at the end, take up what State
keeps in focus for the step: an operation of a thread, a partition, a tile command, a context, a router, a link or a host ring. -/
inductive Instr where
  | nop (g : BitVec 5)
  | add (g : BitVec 5) (d : BitVec 4) (a : BitVec 4) (b : BitVec 4)
  | sub (g : BitVec 5) (d : BitVec 4) (a : BitVec 4) (b : BitVec 4)
  | and (g : BitVec 5) (d : BitVec 4) (a : BitVec 4) (b : BitVec 4)
  | or (g : BitVec 5) (d : BitVec 4) (a : BitVec 4) (b : BitVec 4)
  | xor (g : BitVec 5) (d : BitVec 4) (a : BitVec 4) (b : BitVec 4)
  | andn (g : BitVec 5) (d : BitVec 4) (a : BitVec 4) (b : BitVec 4)
  | shl (g : BitVec 5) (d : BitVec 4) (a : BitVec 4) (b : BitVec 4)
  | shr (g : BitVec 5) (d : BitVec 4) (a : BitVec 4) (b : BitVec 4)
  | sra (g : BitVec 5) (d : BitVec 4) (a : BitVec 4) (b : BitVec 4)
  | rol (g : BitVec 5) (d : BitVec 4) (a : BitVec 4) (b : BitVec 4)
  | min (g : BitVec 5) (d : BitVec 4) (a : BitVec 4) (b : BitVec 4)
  | max (g : BitVec 5) (d : BitVec 4) (a : BitVec 4) (b : BitVec 4)
  | minn (g : BitVec 5) (d : BitVec 4) (a : BitVec 4) (b : BitVec 4)
  | maxn (g : BitVec 5) (d : BitVec 4) (a : BitVec 4) (b : BitVec 4)
  | mul (g : BitVec 5) (d : BitVec 4) (a : BitVec 4) (b : BitVec 4)
  | mulh (g : BitVec 5) (d : BitVec 4) (a : BitVec 4) (b : BitVec 4)
  | mulhn (g : BitVec 5) (d : BitVec 4) (a : BitVec 4) (b : BitVec 4)
  | div (g : BitVec 5) (d : BitVec 4) (a : BitVec 4) (b : BitVec 4)
  | divn (g : BitVec 5) (d : BitVec 4) (a : BitVec 4) (b : BitVec 4)
  | rem (g : BitVec 5) (d : BitVec 4) (a : BitVec 4) (b : BitVec 4)
  | remn (g : BitVec 5) (d : BitVec 4) (a : BitVec 4) (b : BitVec 4)
  | clz (g : BitVec 5) (d : BitVec 4) (a : BitVec 4)
  | ctz (g : BitVec 5) (d : BitVec 4) (a : BitVec 4)
  | popc (g : BitVec 5) (d : BitVec 4) (a : BitVec 4)
  | sext (g : BitVec 5) (d : BitVec 4) (a : BitVec 4) (b : BitVec 4)
  | zext (g : BitVec 5) (d : BitVec 4) (a : BitVec 4) (b : BitVec 4)
  | brev (g : BitVec 5) (d : BitVec 4) (a : BitVec 4)
  | fadd (g : BitVec 5) (d : BitVec 4) (a : BitVec 4) (b : BitVec 4)
  | fsub (g : BitVec 5) (d : BitVec 4) (a : BitVec 4) (b : BitVec 4)
  | fmul (g : BitVec 5) (d : BitVec 4) (a : BitVec 4) (b : BitVec 4)
  | fmin (g : BitVec 5) (d : BitVec 4) (a : BitVec 4) (b : BitVec 4)
  | fmax (g : BitVec 5) (d : BitVec 4) (a : BitVec 4) (b : BitVec 4)
  | fcvti (g : BitVec 5) (d : BitVec 4) (a : BitVec 4)
  | fcvtf (g : BitVec 5) (d : BitVec 4) (a : BitVec 4)
  | addi (g : BitVec 5) (d : BitVec 4) (a : BitVec 4) (i : BitVec 12)
  | andi (g : BitVec 5) (d : BitVec 4) (a : BitVec 4) (i : BitVec 12)
  | ori (g : BitVec 5) (d : BitVec 4) (a : BitVec 4) (i : BitVec 12)
  | xori (g : BitVec 5) (d : BitVec 4) (a : BitVec 4) (i : BitVec 12)
  | shli (g : BitVec 5) (d : BitVec 4) (a : BitVec 4) (c : BitVec 6)
  | shri (g : BitVec 5) (d : BitVec 4) (a : BitVec 4) (c : BitVec 6)
  | srai (g : BitVec 5) (d : BitVec 4) (a : BitVec 4) (c : BitVec 6)
  | muli (g : BitVec 5) (d : BitVec 4) (a : BitVec 4) (i : BitVec 12)
  | li (g : BitVec 5) (d : BitVec 4) (i : BitVec 16)
  | lis (g : BitVec 5) (d : BitVec 4) (i : BitVec 16)
  | kld (g : BitVec 5) (d : BitVec 4) (k : BitVec 8)
  | kldX (g : BitVec 5) (d : BitVec 4) (a : BitVec 4) (k : BitVec 8)
  | sel (g : BitVec 5) (d : BitVec 4) (a : BitVec 4) (b : BitVec 4) (n : BitVec 4)
  | tag (g : BitVec 5) (d : BitVec 4) (a : BitVec 4) (t : BitVec 8)
  | sega (g : BitVec 5) (d : BitVec 4) (a : BitVec 4)
  | rds (g : BitVec 5) (d : BitVec 4) (s : BitVec 12)
  | cmp (g : BitVec 5) (p : BitVec 4) (a : BitVec 4) (b : BitVec 4) (c : BitVec 4) (m : BitVec 4)
  | cmpi (g : BitVec 5) (p : BitVec 4) (a : BitVec 4) (c : BitVec 4) (i : BitVec 8)
  | pand (g : BitVec 5) (p : BitVec 4) (q : BitVec 4) (r : BitVec 4)
  | por (g : BitVec 5) (p : BitVec 4) (q : BitVec 4) (r : BitVec 4)
  | pxor (g : BitVec 5) (p : BitVec 4) (q : BitVec 4) (r : BitVec 4)
  | pandn (g : BitVec 5) (p : BitVec 4) (q : BitVec 4) (r : BitVec 4)
  | pnot (g : BitVec 5) (p : BitVec 4) (q : BitVec 4)
  | pmov (g : BitVec 5) (p : BitVec 4) (q : BitVec 4)
  | pget (g : BitVec 5) (d : BitVec 4)
  | pset (g : BitVec 5) (a : BitVec 4)
  | br (g : BitVec 5) (o : BitVec 20)
  | jal (g : BitVec 5) (o : BitVec 20)
  | jr (g : BitVec 5) (d : BitVec 4) (a : BitVec 4)
  | dbnz (g : BitVec 5) (d : BitVec 4) (o : BitVec 16)
  | ld (g : BitVec 5) (d : BitVec 4) (a : BitVec 4) (w : BitVec 3) (x : BitVec 9)
  | st (g : BitVec 5) (s : BitVec 4) (a : BitVec 4) (w : BitVec 2) (x : BitVec 9)
  | lda (g : BitVec 5) (d : BitVec 4) (a : BitVec 4) (w : BitVec 1) (x : BitVec 9)
  | str (g : BitVec 5) (s : BitVec 4) (a : BitVec 4) (w : BitVec 1) (x : BitVec 9)
  | lde (g : BitVec 5) (d : BitVec 4) (a : BitVec 4) (x : BitVec 9)
  | mrg (g : BitVec 5) (a : BitVec 4) (b : BitVec 4) (w : BitVec 1) (o : BitVec 4)
  | fmrg (g : BitVec 5) (d : BitVec 4) (a : BitVec 4) (b : BitVec 4) (w : BitVec 1) (o : BitVec 4)
  | vbor (g : BitVec 5) (a : BitVec 4) (b : BitVec 4)
  | vbtst (g : BitVec 5) (d : BitVec 4) (a : BitVec 4) (b : BitVec 4)
  | fenceD (g : BitVec 5)
  | fenceT (g : BitVec 5)
  | fenceA (g : BitVec 5)
  | fenceI (g : BitVec 5)
  | barRegion (g : BitVec 5) (d : BitVec 4) (a : BitVec 4)
  | barRow (g : BitVec 5) (d : BitVec 4) (a : BitVec 4)
  | barCol (g : BitVec 5) (d : BitVec 4) (a : BitVec 4)
  | prop (g : BitVec 5) (d : BitVec 3) (a : BitVec 4) (b : BitVec 4)
  | propRun (g : BitVec 5) (d : BitVec 3) (a : BitVec 4) (b : BitVec 4)
  | learn (g : BitVec 5) (d : BitVec 3) (a : BitVec 4)
  | learnPoll (g : BitVec 5) (d : BitVec 3) (a : BitVec 4)
  | learnt (g : BitVec 5) (d : BitVec 3) (a : BitVec 4) (b : BitVec 4)
  | ballot (g : BitVec 5) (d : BitVec 4) (a : BitVec 4)
  | reshape (g : BitVec 5) (d : BitVec 3) (a : BitVec 4) (b : BitVec 4)
  | accordOpen (g : BitVec 5) (d : BitVec 4) (a : BitVec 4) (b : BitVec 4)
  | accordClose (g : BitVec 5) (d : BitVec 4) (a : BitVec 4) (b : BitVec 4)
  | accordTrunc (g : BitVec 5) (d : BitVec 4) (a : BitVec 4) (b : BitVec 4)
  | accordStat (g : BitVec 5) (d : BitVec 4) (a : BitVec 4) (b : BitVec 4)
  | accordNext (g : BitVec 5) (d : BitVec 4) (a : BitVec 4) (b : BitVec 4)
  | send (g : BitVec 5) (a : BitVec 4) (b : BitVec 4) (n : BitVec 4)
  | spawn (g : BitVec 5) (d : BitVec 4) (a : BitVec 4) (b : BitVec 4) (n : BitVec 4)
  | migr (g : BitVec 5) (a : BitVec 4)
  | chsend (g : BitVec 5) (a : BitVec 4) (b : BitVec 4)
  | chrecv (g : BitVec 5) (d : BitVec 4) (a : BitVec 4)
  | cvsend (g : BitVec 5) (d : BitVec 4) (a : BitVec 4) (b : BitVec 4) (r : BitVec 3) (k : BitVec 4)
  | cvrecv (g : BitVec 5) (d : BitVec 3) (a : BitVec 4)
  | cvopJoin (g : BitVec 5) (d : BitVec 4) (a : BitVec 4)
  | cvopDlg (g : BitVec 5) (d : BitVec 4) (a : BitVec 4) (b : BitVec 4)
  | cvopLeave (g : BitVec 5) (d : BitVec 4) (a : BitVec 4)
  | cvopState (g : BitVec 5) (d : BitVec 4) (a : BitVec 4) (b : BitVec 4)
  | tcmd (g : BitVec 5) (d : BitVec 4) (a : BitVec 4)
  | tcmdQ1 (g : BitVec 5) (d : BitVec 4) (a : BitVec 4) (b : BitVec 4)
  | tloop (g : BitVec 5) (a : BitVec 4) (b : BitVec 4)
  | adv (g : BitVec 5) (a : BitVec 4) (b : BitVec 4)
  | twait (g : BitVec 5) (a : BitVec 4) (b : BitVec 4)
  | waitt (g : BitVec 5) (a : BitVec 4)
  | tstat (g : BitVec 5) (d : BitVec 4)
  | hdef (g : BitVec 5) (a : BitVec 4) (b : BitVec 4)
  | bagpop (g : BitVec 5) (d : BitVec 4)
  | bagins (g : BitVec 5) (a : BitVec 4) (b : BitVec 4)
  | rewrite (g : BitVec 5)
  | nalloc (g : BitVec 5) (d : BitVec 4) (a : BitVec 4)
  | nfree (g : BitVec 5) (a : BitVec 4)
  | link (g : BitVec 5) (a : BitVec 4) (b : BitVec 4)
  | rules (g : BitVec 5) (a : BitVec 4)
  | trap (g : BitVec 5) (c : BitVec 12)
  | eret (g : BitVec 5)
  | rdsw (g : BitVec 5) (d : BitVec 4) (s : BitVec 12)
  | wrsw (g : BitVec 5) (a : BitVec 4) (s : BitVec 12)
  | yield (g : BitVec 5)
  | halt (g : BitVec 5)
  | ckpt (g : BitVec 5) (a : BitVec 4)
  | ologMark (g : BitVec 5) (a : BitVec 4)
  | ologPause (g : BitVec 5)
  | ologResume (g : BitVec 5)
  | ologFlush (g : BitVec 5)
  | lnch (g : BitVec 5) (d : BitVec 4) (a : BitVec 4)
  | wfm (g : BitVec 5)
  | snap (g : BitVec 5) (d : BitVec 4) (a : BitVec 4)
  | tnop (c : Tcw)
  | mma (c : Tcw)
  | mmas (c : Tcw)
  | mmaz (c : Tcw)
  | spld (c : Tcw)
  | aclr (c : Tcw)
  | acld (c : Tcw)
  | acst (c : Tcw)
  | acsc (c : Tcw)
  | vadd (c : Tcw)
  | vsub (c : Tcw)
  | vmul (c : Tcw)
  | vfma (c : Tcw)
  | vmin (c : Tcw)
  | vmax (c : Tcw)
  | vexp2 (c : Tcw)
  | vlog2 (c : Tcw)
  | vrcp (c : Tcw)
  | vrsq (c : Tcw)
  | vcvt (c : Tcw)
  | vcmp (c : Tcw)
  | vsel (c : Tcw)
  | vand (c : Tcw)
  | vor (c : Tcw)
  | vxor (c : Tcw)
  | vred (c : Tcw)
  | vtrn (c : Tcw)
  | vbcast (c : Tcw)
  | vscl (c : Tcw)
  | copy (c : Tcw)
  | copyr (c : Tcw)
  | gath (c : Tcw)
  | scat (c : Tcw)
  | mcast (c : Tcw)
  | zero (c : Tcw)
  | qtld (c : Tcw)
  | rngk (c : Tcw)
  | tsig (c : Tcw)
  | tmark (c : Tcw)
  | remoteAdvance (p : AdvPkt)
  | storeDelivery (a : Access)
  | mergeApply (a : Access)
  | loadRequest (a : Access)
  | loadReply (tid op : Nat) (r : LoadRes)
  | acknowledgement (a : Access) (st : AckStatus)
  | fetchMergeReply (a : Access) (old : Word) (flags : Nat) (st : AckStatus) (oseq : Nat)
  | messageArrival (m : Msg)
  | spawnRequest (m : Msg)
  | spawnReply (tid op : Nat) (status : Machine.SpawnRes)
  | migrationArrival (p : MigPkt)
  | channelWord (p : ChPkt)
  | channelCredit (p : ChPkt)
  | linkExchange (p : GraphPkt)
  | nfreeAtHome (p : GraphPkt)
  | pairPush (p : GraphPkt)
  | quarantineExpiry (core part node : Nat)
  | prepare (m : AMsg)
  | accept (m : AMsg)
  | prepacc (m : AMsg)
  | decided (m : AMsg)
  | promise (r : ARep)
  | accepted (r : ARep)
  | nack (r : ARep)
  | norun (r : ARep)
  | decidednow (r : ARep)
  | decidedReply (r : ARep)
  | truncReply (r : ARep)
  | phaseTimeout (tid op bal : Nat)
  | lease (m : AMsg)
  | leaseGrant (m : AMsg)
  | freeze (m : AMsg) (expiry : Nat)
  | freezeReport (r : ARep)
  | leaseRelease (m : AMsg)
  | leaseExpiry (region acc holder op : Nat)
  | learnRequest (q : LReq)
  | memberQuery (q : LReq)
  | keepalive (q : LReq)
  | quorumTakeover (acc : Nat)
  | accordRegister (m : AMsg) (cfg : Quorum) (next : Option Quorum) (size : Nat) (darr : Nat) (proto : Option Proto) (owner : Nat) (strict : Bool) (wsen desc : Nat)
  | accordCloseAtMember (m : AMsg)
  | accordTruncAtMember (m : AMsg)
  | barRelease (region part kind idx : Nat)
  | trapRecordInsert (q : Nat)
  | pageZeroingDone (port page : Nat)
  | pageMigrationDone (ctx cls va : Nat)
  | scrubPass (port corrected : Nat) (bad : List Nat)
  | epochNotice (ctx e : Nat)
  | launchStart (vd : Nat)
  | quantumDuskProposal (set part : Nat)
  | quantumRestore (set part : Nat)
  | flitReceive (link : Nat) (f : Flit)
  | nakReceive (link seq : Nat)
  | linkRetrain (link : Nat) (ok : Bool) (farLast : Nat)
  | dropNotice (tid dev iv : Nat)
  | countQuery (dev tid iv : Nat)
  | regulatorAlarm (on : Bool)
  | wake (v : Word)
  | tqhead (q : Nat) (v : Word)
  | cereg (g : Nat)
  | ceport (i : Nat)
  | registerWrite (fn offset : Nat) (v : Word)
  | getCertificate (slot : Nat)
  | challenge (slot : Nat) (nonce : List Byte)
  | getMeasurements (index : Nat)
  | keyExchange (nonce : List Byte)
  | finish (leafDigest : List Byte) (good : Bool)
  | debugWindowRead (vd space offset : Nat)
  | reset (d : Dawn)
  | illegalInstruction (w : BitVec 32)
  | countReply (tid op dev total : Nat)
  | memberReply (tid op member : Nat) (b : MBody)
  | tileCommandComplete
  | tloopPush
  | promiseMissed
  | copyShadowRelease
  | codeOrderRelease
  | handlerStart
  | arrivalTaken
  | backoffEnd
  | seniorReportTimeout
  | accordTableFill
  | learnerFailover
  | learntDeadline
  | openTimeout
  | barTimeout
  | budgetExhausted
  | budgetTrap
  | energyMeter
  | softError
  | imagePageWrite
  | imageComplete
  | ckptPeriodTrigger
  | ckptStepTrigger
  | launchComplete
  | duskStop
  | gangStop
  | ologHeadRecheck
  | replayTurn
  | replayStall
  | cicadaSweep
  | cicadaSweepEnd
  | sweepPrewake
  | packetLifetimeExpired
  | routerGate
  | fireflyWake
  | routerOn
  | linkDown
  | fenceCountTimeout
  | vfLoopInterval
  | alarmEntry
  | alarmClear
  | eqAdapt
  | laneMarginFail
  | migrate
  | evict
  | inval
  | frames
  | configPset
  | openl
  | kill
  | release
  | grant
  | areas
  | dbgkey
  | hostSubmission
  | getVersion
  | getCapabilities
  | negotiateAlgorithms
  | getDigests
  | zeroingEnd
  | debugSessionEnd
  deriving DecidableEq, Repr

end Sys2Proof
end

