-- ==== Sys2Proof/Machine/Check.lean ====
section
/-! DEFINITION. The legality checks of an instruction word beyond the places of its fields: the guard (R61), register codes
(R14, R64, R76), function values (R71, R73, R74), selectors (R100, R253), and the field rules of tile command words (R35, R43,
R78 to R83, R193, R204 to R227). Checks that need the machine (R80, R10) are made at acceptance in the meanings. -/

namespace Sys2Proof.Machine

open Sys2Proof

/-- Why a word is no legal instruction. -/
inductive Reject where
  | short        -- fewer bytes than a word
  | guard        -- G = 0b10000 (R61)
  | major        -- a major opcode that R67 does not list
  | field        -- a fixed field holds another value (R62 to R67)
  | register     -- a register code that R14 or the form forbids
  | pair         -- an odd pair, or zr for a pair (R76)
  | sub          -- a function value that its sub-map does not list
  | width        -- width code 111 (R73)
  | selector     -- a selector that no rule lists (R100, R253)
  | opcode       -- a tile opcode that R83 does not list
  | flag         -- a flag bit of R81
  | tileField    -- a field of Q0 that the family does not use (R79)
  | rounding     -- a rounding mode (R48, R79)
  | format       -- a format code (R35, R209, R212, R216, R220)
  | count        -- a count value
  | quad         -- Q1, Q2 or Q3 (R82)
  | tag          -- the tag of an address (R24, R43, R205, R212)
  deriving DecidableEq, Repr

def need (c : Bool) (r : Reject) : Option Reject := if c then none else some r

/-- The first check that fails. -/
def firstOf : List (Option Reject) → Option Reject
  | [] => none
  | some r :: _ => some r
  | none :: t => firstOf t

/-- Guard and register codes of a scalar word (R61, R64). -/
def regs (g : BitVec 5) (l : List (BitVec 4)) : Option Reject :=
  if g = 16 then some .guard else need (l.all fun c => c.toNat ≤ 10) .register

/-- The legal combinations of R74: `f` FMRG, `w` the width bit (1 for .d), `o` the operation. -/
def mergeLegal (f : Bool) (w : BitVec 1) (o : BitVec 4) : Bool :=
  match o.toNat with
  | 8 => w == 0
  | 9 => w == 1
  | 10 => f
  | 11 => w == 0
  | n => n ≤ 7

/-- Selectors that RDSW may name and those that WRSW may name (R253): 0x000 to 0x00A are sw.CYCLE, VTIME, UAC, FPX, TRAPC, TRAPV,
TRAPPC, TSTAT, OLOG, ENERGY, PRIO, and 0x100 to 0x104 the privileged words. -/
def stateWordReadable (n : Nat) : Bool := n ≤ 0xA || (0x100 ≤ n && n ≤ 0x104)

def stateWordWritable (n : Nat) : Bool := (3 ≤ n && n ≤ 6) || n == 0x100 || n == 0x101 || n == 0x104

/-! ### Tile command words -/

/-- Which fields of Q0 a family uses (R79). A wait field may be nonzero only with a nonzero wait count. -/
structure TileUse where
  dst : Bool := false
  hA : Bool := false
  hB : Bool := false
  waits : Bool := false
  acc : Bool := false
  fmtA : Bool := false
  fmtB : Bool := false
  fmtOut : Bool := false
  rm : Bool := false
  count : Bool := false
  win : Bool := false
  wout : Bool := false
  flags : Nat := 0
  deriving DecidableEq, Repr

/-- Unused fields are zero (R79), flag bits are those of R81 (bit i stands for 48 + i), rm is 0 to 5 (R48). -/
def checkUse (u : TileUse) (c : Tcw) : Option Reject :=
  firstOf [need (c.flags.toNat &&& u.flags == c.flags.toNat) .flag,
    need ((u.dst || c.dst == 0 || (u.waits && c.wout != 0)) && (u.hA || c.hA == 0 || (u.waits && c.win != 0))
      && (u.hB || c.hB == 0) && (u.acc || c.acc == 0) && (u.fmtA || c.fmtA == 0) && (u.fmtB || c.fmtB == 0)
      && (u.fmtOut || c.fmtOut == 0) && (u.rm || c.rm == 0) && (u.count || c.count == 0) && (u.win || c.win == 0)
      && (u.wout || c.wout == 0)) .tileField,
    need (c.rm.toNat ≤ 5) .rounding]

/-- The fmt and blog fields of an address quad (R24). -/
def tagFmt (q : Word) : Nat := q.toNat / 2 ^ 60

def tagBlog (q : Word) : Nat := q.toNat / 2 ^ 56 % 16

/-- A program address of a tile command has no reserved fmt or blog value (R24, R35, R43; log entry 6). -/
def tagOk (dev : Bool) (q : Word) : Bool := dev || (tagFmt q ≤ 11 && tagBlog q ≤ 7)

/-- The control quad (R82): bits [7:5] zero, remote core only with RA or RB, hC only for VFMA and VSEL. -/
def checkControl (remote useC : Bool) (q : Word) : Option Reject :=
  need (q.toNat / 32 % 8 == 0 && (remote || q.toNat / 256 % 256 == 0) && (useC || q.toNat % 32 == 0)) .quad

/-- Quads that must be zero. -/
def zeroQuads (l : List Word) : Option Reject := need (l.all (· == 0)) .quad

def fmtIn (lo hi : Nat) (f : BitVec 4) : Bool := lo ≤ f.toNat && f.toNat ≤ hi

def checkTnop (c : Tcw) : Option Reject :=
  (checkUse { waits := true, win := true, wout := true } c).or (zeroQuads [c.q1, c.q2, c.q3])

/-- A scale-tile quad of a matrix command: zero, or fmt 11 and blog 7 with kq = 4 (R43, R205). -/
def scaleOk (c : Tcw) (q : Word) : Bool := q == 0 || (tagFmt q == 11 && tagBlog q == 7 && c.count == 4)

def matrixUse : TileUse :=
  { hA := true, hB := true, acc := true, fmtA := true, fmtB := true, rm := true, count := true, win := true, flags := 3 }

/-- MMA, MMAS, MMAZ (R79, R81, R82, R204, R205). -/
def checkMatrix (c : Tcw) : Option Reject :=
  firstOf [checkUse matrixUse c,
    need (c.flags.toNat % 4 ≠ 3) .flag,
    need (fmtIn 1 10 c.fmtA && fmtIn 1 10 c.fmtB) .format,
    need (1 ≤ c.count.toNat && c.count.toNat ≤ 4) .count,
    checkControl (c.flags != 0) false c.q1,
    need (scaleOk c c.q2 && scaleOk c c.q3) .tag]

/-- SPLD (R207). -/
def checkSpld (c : Tcw) : Option Reject :=
  firstOf [checkUse { hA := true, count := true, win := true } c, need (c.count.toNat ≤ 3) .count,
    zeroQuads [c.q1, c.q2, c.q3]]

def checkAclr (c : Tcw) : Option Reject := (checkUse { acc := true } c).or (zeroQuads [c.q1, c.q2, c.q3])

def checkAcld (c : Tcw) : Option Reject :=
  firstOf [checkUse { hA := true, acc := true, fmtA := true, win := true } c, need (fmtIn 1 7 c.fmtA) .format,
    zeroQuads [c.q1, c.q2, c.q3]]

def checkAcst (c : Tcw) : Option Reject :=
  firstOf [checkUse { dst := true, acc := true, fmtOut := true, rm := true, wout := true, flags := 1 } c,
    need (fmtIn 1 9 c.fmtOut) .format, checkControl false false c.q1, zeroQuads [c.q2, c.q3]]

/-- ACSC (R209, R210): count 1 or 4, and acc 0 with count 4; R79's table says that its count must be zero, and the model follows R209 (log
entry 69). -/
def checkAcsc (c : Tcw) : Option Reject :=
  firstOf [checkUse { dst := true, acc := true, fmtOut := true, rm := true, count := true, wout := true, flags := 1 } c,
    need (fmtIn 4 9 c.fmtOut) .format, need (c.count == 1 || (c.count == 4 && c.acc == 0)) .count,
    checkControl false false c.q1, need (tagOk false c.q2) .tag, zeroQuads [c.q3]]

/-- Fields of a vector command: binary ones use hB and fmtB. -/
def vecUse (bin : Bool) (flags : Nat) : TileUse :=
  { dst := true, hA := true, hB := bin, fmtA := true, fmtB := bin, fmtOut := true, rm := true, count := true,
    win := true, wout := true, flags := flags }

/-- count[5:0] from 1 to 63, count[7:6] up to `sub` (R211, R212). -/
def vecCount (c : Tcw) (sub : Nat) : Option Reject :=
  need (c.count.toNat % 64 ≠ 0 && c.count.toNat / 64 ≤ sub) .count

/-- The arithmetic vector commands (R212). -/
def checkVecArith (c : Tcw) (bin useC : Bool) (sub : Nat) : Option Reject :=
  firstOf [checkUse (vecUse bin 0) c, vecCount c sub, need (fmtIn 1 10 c.fmtA && (!bin || fmtIn 1 10 c.fmtB) && fmtIn 1 9 c.fmtOut)
    .format, checkControl false useC c.q1, zeroQuads [c.q2, c.q3]]

def checkVcvt (c : Tcw) : Option Reject :=
  firstOf [checkUse (vecUse false 1) c, vecCount c 0, need (fmtIn 1 10 c.fmtA && fmtIn 1 9 c.fmtOut) .format,
    checkControl false false c.q1, zeroQuads [c.q2, c.q3]]

def checkVcmp (c : Tcw) : Option Reject :=
  firstOf [checkUse (vecUse true 0) c, vecCount c 3, need (c.rm == 0) .rounding,
    need (fmtIn 1 10 c.fmtA && fmtIn 1 10 c.fmtB && c.fmtOut == 8) .format, checkControl false false c.q1, zeroQuads [c.q2, c.q3]]

/-- VSEL, VAND, VOR, VXOR, VTRN, VBCAST: equal formats 1 to 11 and rm 0 (R79, R212). -/
def checkVecBits (c : Tcw) (bin useC : Bool) : Option Reject :=
  firstOf [checkUse (vecUse bin 0) c, vecCount c 0, need (c.rm == 0) .rounding,
    need (fmtIn 1 11 c.fmtA && c.fmtOut == c.fmtA && (!bin || c.fmtB == c.fmtA)) .format, checkControl false useC c.q1,
    zeroQuads [c.q2, c.q3]]

/-- VSCL: Q2 carries fmt 11 and blog 1 to 7 (R212). -/
def checkVscl (c : Tcw) : Option Reject :=
  firstOf [checkUse (vecUse false 0) c, vecCount c 0, need (fmtIn 1 10 c.fmtA && fmtIn 1 9 c.fmtOut) .format,
    checkControl false false c.q1, need (tagFmt c.q2 == 11 && 1 ≤ tagBlog c.q2 && tagBlog c.q2 ≤ 7) .tag, zeroQuads [c.q3]]

def copyUse (flags : Nat) : TileUse :=
  { waits := true, fmtA := true, fmtOut := true, rm := true, count := true, win := true, wout := true, flags := flags }

/-- Q1DEV and Q2DEV of a copy-family command (R81). -/
def q1dev (c : Tcw) : Bool := c.flags.getLsbD 6

def q2dev (c : Tcw) : Bool := c.flags.getLsbD 7

/-- The format pairings of R216. -/
def copyPair (c : Tcw) : Bool :=
  (c.fmtA == c.fmtOut && c.fmtA.toNat ≤ 11) || (fmtIn 1 10 c.fmtA && fmtIn 1 9 c.fmtOut)

/-- COPY, GATH, SCAT and the part that COPYR and MCAST share (R79, R81, R216): `rows` says that count may be nonzero. -/
def checkCopyForm (c : Tcw) (rows : Bool) : Option Reject :=
  firstOf [checkUse (copyUse 0xC1) c, need (c.rm.toNat ≠ 5) .rounding, need (copyPair c) .format, need (rows || c.count == 0) .count,
    need (tagOk (q1dev c) c.q1 && tagOk (q2dev c) c.q2) .tag]

def checkCopy (c : Tcw) : Option Reject := checkCopyForm c true

/-- COPYR's formats (R220). -/
def checkCopyr (c : Tcw) : Option Reject :=
  (checkCopyForm c true).or (need (c.fmtA == c.fmtOut
    && (3 ≤ c.q3.toNat / 2 ^ 61 || c.fmtA.toNat ≤ 3 || c.fmtA == 8)) .format)

def checkMcast (c : Tcw) : Option Reject := checkCopyForm c false

/-- ZERO (R81, R218): no Q1DEV, no formats, Q1 zero. -/
def checkZero (c : Tcw) : Option Reject :=
  firstOf [checkUse (copyUse 0x81) c, need (c.rm.toNat ≠ 5) .rounding, need (c.fmtA == 0 && c.fmtOut == 0) .format,
    zeroQuads [c.q1], need (tagOk (q2dev c) c.q2) .tag]

/-- QTLD (R214). -/
def checkQtld (c : Tcw) : Option Reject :=
  firstOf [checkUse { flags := 0x41 } c, need (tagOk (q1dev c) c.q1) .tag, zeroQuads [c.q2, c.q3]]

def checkRngk (c : Tcw) : Option Reject := (checkUse {} c).or (zeroQuads [c.q2, c.q3])

/-- TSIG (R81, R226): ADV needs Q1DEV and a count from 1 to 16. -/
def checkTsig (c : Tcw) : Option Reject :=
  firstOf [checkUse { flags := 0x41 } c, need (!c.flags.getLsbD 0 || q1dev c) .flag,
    need (!c.flags.getLsbD 0 || (1 ≤ c.q2.toNat && c.q2.toNat ≤ 16)) .count, need (tagOk (q1dev c) c.q1) .tag, zeroQuads [c.q3]]

def checkTmark (c : Tcw) : Option Reject := (checkUse {} c).or (zeroQuads [c.q2, c.q3])

/-- The checks of an instruction; the steps of the device are no words and have none. -/
def checkInstr : Instr → Option Reject
  | .nop g => regs g []
  | .add g d a b => regs g [d, a, b]
  | .sub g d a b => regs g [d, a, b]
  | .and g d a b => regs g [d, a, b]
  | .or g d a b => regs g [d, a, b]
  | .xor g d a b => regs g [d, a, b]
  | .andn g d a b => regs g [d, a, b]
  | .shl g d a b => regs g [d, a, b]
  | .shr g d a b => regs g [d, a, b]
  | .sra g d a b => regs g [d, a, b]
  | .rol g d a b => regs g [d, a, b]
  | .min g d a b => regs g [d, a, b]
  | .max g d a b => regs g [d, a, b]
  | .minn g d a b => regs g [d, a, b]
  | .maxn g d a b => regs g [d, a, b]
  | .mul g d a b => regs g [d, a, b]
  | .mulh g d a b => regs g [d, a, b]
  | .mulhn g d a b => regs g [d, a, b]
  | .div g d a b => regs g [d, a, b]
  | .divn g d a b => regs g [d, a, b]
  | .rem g d a b => regs g [d, a, b]
  | .remn g d a b => regs g [d, a, b]
  | .clz g d a => regs g [d, a]
  | .ctz g d a => regs g [d, a]
  | .popc g d a => regs g [d, a]
  | .sext g d a b => regs g [d, a, b]
  | .zext g d a b => regs g [d, a, b]
  | .brev g d a => regs g [d, a]
  | .fadd g d a b => regs g [d, a, b]
  | .fsub g d a b => regs g [d, a, b]
  | .fmul g d a b => regs g [d, a, b]
  | .fmin g d a b => regs g [d, a, b]
  | .fmax g d a b => regs g [d, a, b]
  | .fcvti g d a => regs g [d, a]
  | .fcvtf g d a => regs g [d, a]
  | .addi g d a _ => regs g [d, a]
  | .andi g d a _ => regs g [d, a]
  | .ori g d a _ => regs g [d, a]
  | .xori g d a _ => regs g [d, a]
  | .shli g d a _ => regs g [d, a]
  | .shri g d a _ => regs g [d, a]
  | .srai g d a _ => regs g [d, a]
  | .muli g d a _ => regs g [d, a]
  | .li g d _ => regs g [d]
  | .lis g d _ => regs g [d]
  | .kld g d _ => regs g [d]
  | .kldX g d a _ => regs g [d, a]
  | .sel g d a b _ => regs g [d, a, b]
  | .tag g d a _ => regs g [d, a]
  | .sega g d a => regs g [d, a]
  | .rds g d s => (regs g [d]).or (need (s.toNat ≤ 8) .selector)
  | .cmp g _ a b _ m => (regs g [a, b]).or (need (m.toNat ≤ 2) .sub)
  | .cmpi g _ a c _ => (regs g [a]).or (need (c.toNat ≤ 11) .sub)
  | .pand g _ _ _ => regs g []
  | .por g _ _ _ => regs g []
  | .pxor g _ _ _ => regs g []
  | .pandn g _ _ _ => regs g []
  | .pnot g _ _ => regs g []
  | .pmov g _ _ => regs g []
  | .pget g d => regs g [d]
  | .pset g a => regs g [a]
  | .br g _ => regs g []
  | .jal g _ => regs g []
  | .jr g d a => regs g [d, a]
  | .dbnz g d _ => regs g [d]
  | .ld g d a w _ => (regs g [d, a]).or (need (w.toNat ≠ 7) .width)
  | .st g s a _ _ => regs g [s, a]
  | .lda g d a _ _ => regs g [d, a]
  | .str g s a _ _ => regs g [s, a]
  | .lde g d a _ => regs g [d, a]
  | .mrg g a b w o => (regs g [a, b]).or (need (mergeLegal false w o) .sub)
  | .fmrg g d a b w o => (regs g [d, a, b]).or (need (mergeLegal true w o) .sub)
  | .vbor g a b => regs g [a, b]
  | .vbtst g d a b => regs g [d, a, b]
  | .fenceD g => regs g []
  | .fenceT g => regs g []
  | .fenceA g => regs g []
  | .fenceI g => regs g []
  | .barRegion g d a => regs g [d, a]
  | .barRow g d a => regs g [d, a]
  | .barCol g d a => regs g [d, a]
  | .prop g d a b => (regs g [a, b]).or (need (d.toNat ≤ 4) .pair)
  | .propRun g d a b => (regs g [a, b]).or (need (d.toNat ≤ 4) .pair)
  | .learn g d a => (regs g [a]).or (need (d.toNat ≤ 4) .pair)
  | .learnPoll g d a => (regs g [a]).or (need (d.toNat ≤ 4) .pair)
  | .learnt g d a b => (regs g [a, b]).or (need (d.toNat ≤ 4) .pair)
  | .ballot g d a => regs g [d, a]
  | .reshape g d a b => (regs g [a, b]).or (need (d.toNat ≤ 4) .pair)
  | .accordOpen g d a b => regs g [d, a, b]
  | .accordClose g d a b => regs g [d, a, b]
  | .accordTrunc g d a b => regs g [d, a, b]
  | .accordStat g d a b => regs g [d, a, b]
  | .accordNext g d a b => regs g [d, a, b]
  | .send g a b _ => regs g [a, b]
  | .spawn g d a b _ => regs g [d, a, b]
  | .migr g a => regs g [a]
  | .chsend g a b => regs g [a, b]
  | .chrecv g d a => regs g [d, a]
  | .cvsend g d a b _ k => (regs g [d, a, b]).or (need (k.toNat ≠ 15) .sub)
  | .cvrecv g d a => (regs g [a]).or (need (d.toNat ≤ 4) .pair)
  | .cvopJoin g d a => regs g [d, a]
  | .cvopDlg g d a b => regs g [d, a, b]
  | .cvopLeave g d a => regs g [d, a]
  | .cvopState g d a b => regs g [d, a, b]
  | .tcmd g d a => regs g [d, a]
  | .tcmdQ1 g d a b => regs g [d, a, b]
  | .tloop g a b => regs g [a, b]
  | .adv g a b => regs g [a, b]
  | .twait g a b => regs g [a, b]
  | .waitt g a => regs g [a]
  | .tstat g d => regs g [d]
  | .hdef g a b => regs g [a, b]
  | .bagpop g d => (regs g [d]).or (need (d.toNat ≠ 8 && d.toNat ≠ 9) .register)
  | .bagins g a b => regs g [a, b]
  | .rewrite g => regs g []
  | .nalloc g d a => regs g [d, a]
  | .nfree g a => regs g [a]
  | .link g a b => regs g [a, b]
  | .rules g a => regs g [a]
  | .trap g _ => regs g []
  | .eret g => regs g []
  | .rdsw g d s => (regs g [d]).or (need (stateWordReadable s.toNat) .selector)
  | .wrsw g a s => (regs g [a]).or (need (stateWordWritable s.toNat) .selector)
  | .yield g => regs g []
  | .halt g => regs g []
  | .ckpt g a => regs g [a]
  | .ologMark g a => regs g [a]
  | .ologPause g => regs g []
  | .ologResume g => regs g []
  | .ologFlush g => regs g []
  | .lnch g d a => regs g [d, a]
  | .wfm g => regs g []
  | .snap g d a => regs g [d, a]
  | .tnop c => checkTnop c
  | .mma c => checkMatrix c
  | .mmas c => checkMatrix c
  | .mmaz c => checkMatrix c
  | .spld c => checkSpld c
  | .aclr c => checkAclr c
  | .acld c => checkAcld c
  | .acst c => checkAcst c
  | .acsc c => checkAcsc c
  | .vadd c => checkVecArith c true false 0
  | .vsub c => checkVecArith c true false 0
  | .vmul c => checkVecArith c true false 0
  | .vfma c => checkVecArith c true true 0
  | .vmin c => checkVecArith c true false 0
  | .vmax c => checkVecArith c true false 0
  | .vexp2 c => checkVecArith c false false 0
  | .vlog2 c => checkVecArith c false false 0
  | .vrcp c => checkVecArith c false false 0
  | .vrsq c => checkVecArith c false false 0
  | .vcvt c => checkVcvt c
  | .vcmp c => checkVcmp c
  | .vsel c => checkVecBits c true true
  | .vand c => checkVecBits c true false
  | .vor c => checkVecBits c true false
  | .vxor c => checkVecBits c true false
  | .vred c => checkVecArith c false false 2
  | .vtrn c => (checkVecBits c false false).or (need (c.count.toNat = 16) .count)
  | .vbcast c => checkVecBits c false false
  | .vscl c => checkVscl c
  | .copy c => checkCopy c
  | .copyr c => checkCopyr c
  | .gath c => checkCopyForm c true
  | .scat c => checkCopyForm c true
  | .mcast c => checkMcast c
  | .zero c => checkZero c
  | .qtld c => checkQtld c
  | .rngk c => checkRngk c
  | .tsig c => checkTsig c
  | .tmark c => checkTmark c
  | .tileCommandComplete => none
  | .tloopPush => none
  | .promiseMissed => none
  | .remoteAdvance _ => none
  | .storeDelivery _ => none
  | .mergeApply _ => none
  | .loadRequest _ => none
  | .loadReply _ _ _ => none
  | .acknowledgement _ _ => none
  | .fetchMergeReply _ _ _ _ _ => none
  | .copyShadowRelease => none
  | .codeOrderRelease => none
  | .messageArrival _ => none
  | .handlerStart => none
  | .spawnRequest _ => none
  | .spawnReply _ _ _ => none
  | .migrationArrival _ => none
  | .arrivalTaken => none
  | .channelWord _ => none
  | .channelCredit _ => none
  | .linkExchange _ => none
  | .nfreeAtHome _ => none
  | .pairPush _ => none
  | .quarantineExpiry _ _ _ => none
  | .prepare _ => none
  | .accept _ => none
  | .prepacc _ => none
  | .decided _ => none
  | .promise _ => none
  | .accepted _ => none
  | .nack _ => none
  | .norun _ => none
  | .decidednow _ => none
  | .decidedReply _ => none
  | .truncReply _ => none
  | .phaseTimeout _ _ _ => none
  | .backoffEnd => none
  | .lease _ => none
  | .leaseGrant _ => none
  | .freeze _ _ => none
  | .freezeReport _ => none
  | .seniorReportTimeout => none
  | .leaseRelease _ => none
  | .leaseExpiry _ _ _ _ => none
  | .accordTableFill => none
  | .learnRequest _ => none
  | .memberQuery _ => none
  | .keepalive _ => none
  | .learnerFailover => none
  | .learntDeadline => none
  | .quorumTakeover _ => none
  | .accordRegister _ _ _ _ _ _ _ _ _ _ => none
  | .openTimeout => none
  | .accordCloseAtMember _ => none
  | .accordTruncAtMember _ => none
  | .barRelease _ _ _ _ => none
  | .barTimeout => none
  | .budgetExhausted => none
  | .budgetTrap => none
  | .energyMeter => none
  | .trapRecordInsert _ => none
  | .pageZeroingDone _ _ => none
  | .pageMigrationDone _ _ _ => none
  | .scrubPass _ _ _ => none
  | .softError => none
  | .epochNotice _ _ => none
  | .imagePageWrite => none
  | .imageComplete => none
  | .ckptPeriodTrigger => none
  | .ckptStepTrigger => none
  | .launchStart _ => none
  | .launchComplete => none
  | .quantumDuskProposal _ _ => none
  | .duskStop => none
  | .quantumRestore _ _ => none
  | .gangStop => none
  | .ologHeadRecheck => none
  | .replayTurn => none
  | .replayStall => none
  | .cicadaSweep => none
  | .cicadaSweepEnd => none
  | .sweepPrewake => none
  | .packetLifetimeExpired => none
  | .routerGate => none
  | .fireflyWake => none
  | .routerOn => none
  | .flitReceive _ _ => none
  | .nakReceive _ _ => none
  | .linkDown => none
  | .linkRetrain _ _ _ => none
  | .dropNotice _ _ _ => none
  | .countQuery _ _ _ => none
  | .fenceCountTimeout => none
  | .vfLoopInterval => none
  | .alarmEntry => none
  | .alarmClear => none
  | .regulatorAlarm _ => none
  | .eqAdapt => none
  | .laneMarginFail => none
  | .wake _ => none
  | .tqhead _ _ => none
  | .cereg _ => none
  | .ceport _ => none
  | .registerWrite _ _ _ => none
  | .migrate => none
  | .evict => none
  | .inval => none
  | .frames => none
  | .configPset => none
  | .openl => none
  | .kill => none
  | .release => none
  | .grant => none
  | .areas => none
  | .dbgkey => none
  | .hostSubmission => none
  | .getVersion => none
  | .getCapabilities => none
  | .negotiateAlgorithms => none
  | .getDigests => none
  | .getCertificate _ => none
  | .challenge _ _ => none
  | .getMeasurements _ => none
  | .keyExchange _ => none
  | .finish _ _ => none
  | .debugWindowRead _ _ _ => none
  | .reset _ => none
  | .illegalInstruction _ => none
  | .countReply _ _ _ _ => none
  | .memberReply _ _ _ _ => none
  | .zeroingEnd => none
  | .debugSessionEnd => none

end Sys2Proof.Machine
end

