-- ==== Sys2Proof/WellFormed.lean ====
section
/-! DEFINITION. Which instructions are legal: those that pass the checks of Machine/Check.lean. -/

namespace Sys2Proof

open Sys2Proof.Machine

/-- A legal instruction: no check refuses it. -/
abbrev WellFormed (i : Instr) : Prop := checkInstr i = none

end Sys2Proof
end

