-- ==== Sys2Proof/Decode.lean ====
section
/-! DEFINITION. Decoding of scalar words (R59 to R76) and tile command words (R77 to R83), total on any bytes and rejecting by
name, and after it the encoders, from the same tables. -/

namespace Sys2Proof

open Sys2Proof.Machine

/-- The six fields of a scalar word in format R (R59, R62); the other formats read the same bits joined. -/
structure Fields where
  g : BitVec 5
  o : BitVec 7
  d : BitVec 4
  a : BitVec 4
  b : BitVec 4
  f : BitVec 8
  deriving DecidableEq, Repr

/-- The fields of a word. -/
def fieldsOf (w : BitVec 32) : Fields :=
  ⟨w.extractLsb' 27 5, w.extractLsb' 20 7, w.extractLsb' 16 4, w.extractLsb' 12 4, w.extractLsb' 8 4, w.extractLsb' 0 8⟩

/-- The word of its fields. -/
def wordOf (x : Fields) : BitVec 32 := x.g ++ x.o ++ x.d ++ x.a ++ x.b ++ x.f

def Fields.imm12 (x : Fields) : BitVec 12 := x.b ++ x.f

def Fields.imm16 (x : Fields) : BitVec 16 := x.a ++ x.b ++ x.f

def Fields.off20 (x : Fields) : BitVec 20 := x.d ++ x.a ++ x.b ++ x.f

/-- Formats I and M: the low twelve bits are one field (R62). -/
def ofImm12 (g : BitVec 5) (o : BitVec 7) (d a : BitVec 4) (i : BitVec 12) : Fields :=
  ⟨g, o, d, a, i.extractLsb' 8 4, i.extractLsb' 0 8⟩

/-- Format L. -/
def ofImm16 (g : BitVec 5) (o : BitVec 7) (d : BitVec 4) (i : BitVec 16) : Fields :=
  ⟨g, o, d, i.extractLsb' 12 4, i.extractLsb' 8 4, i.extractLsb' 0 8⟩

/-- Format B. -/
def ofOff20 (g : BitVec 5) (o : BitVec 7) (i : BitVec 20) : Fields :=
  ⟨g, o, i.extractLsb' 16 4, i.extractLsb' 12 4, i.extractLsb' 8 4, i.extractLsb' 0 8⟩

/-- The instruction that the fields name by the opcode map and its sub-maps (R67 to R75), before the checks of Check.lean. -/
def decodeFields (x : Fields) : Except Reject Instr :=
  match x.o.toNat with
  | 0x1 => if decide (x.d = 0) && decide (x.a = 0) && decide (x.b = 0) && decide (x.f = 0x0) then .ok (.nop x.g)
    else .error .field
  | 0x2 => if decide (x.f = 0x0) then .ok (.add x.g x.d x.a x.b)
    else if decide (x.f = 0x1) then .ok (.sub x.g x.d x.a x.b)
    else if decide (x.f = 0x2) then .ok (.and x.g x.d x.a x.b)
    else if decide (x.f = 0x3) then .ok (.or x.g x.d x.a x.b)
    else if decide (x.f = 0x4) then .ok (.xor x.g x.d x.a x.b)
    else if decide (x.f = 0x5) then .ok (.andn x.g x.d x.a x.b)
    else if decide (x.f = 0x6) then .ok (.shl x.g x.d x.a x.b)
    else if decide (x.f = 0x7) then .ok (.shr x.g x.d x.a x.b)
    else if decide (x.f = 0x8) then .ok (.sra x.g x.d x.a x.b)
    else if decide (x.f = 0x9) then .ok (.rol x.g x.d x.a x.b)
    else if decide (x.f = 0xa) then .ok (.min x.g x.d x.a x.b)
    else if decide (x.f = 0xb) then .ok (.max x.g x.d x.a x.b)
    else if decide (x.f = 0xc) then .ok (.minn x.g x.d x.a x.b)
    else if decide (x.f = 0xd) then .ok (.maxn x.g x.d x.a x.b)
    else if decide (x.f = 0xe) then .ok (.mul x.g x.d x.a x.b)
    else if decide (x.f = 0xf) then .ok (.mulh x.g x.d x.a x.b)
    else if decide (x.f = 0x10) then .ok (.mulhn x.g x.d x.a x.b)
    else if decide (x.f = 0x11) then .ok (.div x.g x.d x.a x.b)
    else if decide (x.f = 0x12) then .ok (.divn x.g x.d x.a x.b)
    else if decide (x.f = 0x13) then .ok (.rem x.g x.d x.a x.b)
    else if decide (x.f = 0x14) then .ok (.remn x.g x.d x.a x.b)
    else if decide (x.b = 0) && decide (x.f = 0x15) then .ok (.clz x.g x.d x.a)
    else if decide (x.b = 0) && decide (x.f = 0x16) then .ok (.ctz x.g x.d x.a)
    else if decide (x.b = 0) && decide (x.f = 0x17) then .ok (.popc x.g x.d x.a)
    else if decide (x.f = 0x18) then .ok (.sext x.g x.d x.a x.b)
    else if decide (x.f = 0x19) then .ok (.zext x.g x.d x.a x.b)
    else if decide (x.b = 0) && decide (x.f = 0x1a) then .ok (.brev x.g x.d x.a)
    else .error .field
  | 0x3 => if decide (x.f = 0x0) then .ok (.fadd x.g x.d x.a x.b)
    else if decide (x.f = 0x1) then .ok (.fsub x.g x.d x.a x.b)
    else if decide (x.f = 0x2) then .ok (.fmul x.g x.d x.a x.b)
    else if decide (x.f = 0x3) then .ok (.fmin x.g x.d x.a x.b)
    else if decide (x.f = 0x4) then .ok (.fmax x.g x.d x.a x.b)
    else if decide (x.b = 0) && decide (x.f = 0x5) then .ok (.fcvti x.g x.d x.a)
    else if decide (x.b = 0) && decide (x.f = 0x6) then .ok (.fcvtf x.g x.d x.a)
    else .error .field
  | 0x4 => .ok (.addi x.g x.d x.a x.imm12)
  | 0x5 => .ok (.andi x.g x.d x.a x.imm12)
  | 0x6 => .ok (.ori x.g x.d x.a x.imm12)
  | 0x7 => .ok (.xori x.g x.d x.a x.imm12)
  | 0x8 => if decide (x.imm12.extractLsb' 6 6 = 0) then .ok (.shli x.g x.d x.a (x.imm12.extractLsb' 0 6))
    else .error .field
  | 0x9 => if decide (x.imm12.extractLsb' 6 6 = 0) then .ok (.shri x.g x.d x.a (x.imm12.extractLsb' 0 6))
    else .error .field
  | 0xa => if decide (x.imm12.extractLsb' 6 6 = 0) then .ok (.srai x.g x.d x.a (x.imm12.extractLsb' 0 6))
    else .error .field
  | 0xb => .ok (.muli x.g x.d x.a x.imm12)
  | 0xc => .ok (.li x.g x.d x.imm16)
  | 0xd => .ok (.lis x.g x.d x.imm16)
  | 0xe => if decide (x.a = 0) && decide (x.b = 0) then .ok (.kld x.g x.d x.f)
    else if decide (x.b = 1) then .ok (.kldX x.g x.d x.a x.f)
    else .error .field
  | 0xf => if decide (x.f.extractLsb' 4 4 = 0) then .ok (.sel x.g x.d x.a x.b (x.f.extractLsb' 0 4))
    else .error .field
  | 0x10 => if decide (x.imm12.extractLsb' 8 4 = 0) then .ok (.tag x.g x.d x.a (x.imm12.extractLsb' 0 8))
    else .error .field
  | 0x11 => if decide (x.b = 0) && decide (x.f = 0x0) then .ok (.sega x.g x.d x.a)
    else .error .field
  | 0x12 => if decide (x.a = 0) then .ok (.rds x.g x.d x.imm12)
    else .error .field
  | 0x13 => .ok (.cmp x.g x.d x.a x.b (x.f.extractLsb' 4 4) (x.f.extractLsb' 0 4))
  | 0x14 => .ok (.cmpi x.g x.d x.a x.b x.f)
  | 0x15 => if decide (x.f = 0x0) then .ok (.pand x.g x.d x.a x.b)
    else if decide (x.f = 0x1) then .ok (.por x.g x.d x.a x.b)
    else if decide (x.f = 0x2) then .ok (.pxor x.g x.d x.a x.b)
    else if decide (x.f = 0x3) then .ok (.pandn x.g x.d x.a x.b)
    else if decide (x.b = 0) && decide (x.f = 0x4) then .ok (.pnot x.g x.d x.a)
    else if decide (x.b = 0) && decide (x.f = 0x5) then .ok (.pmov x.g x.d x.a)
    else .error .field
  | 0x16 => if decide (x.a = 0) && decide (x.b = 0) && decide (x.f = 0x0) then .ok (.pget x.g x.d)
    else if decide (x.d = 0) && decide (x.b = 0) && decide (x.f = 0x1) then .ok (.pset x.g x.a)
    else .error .field
  | 0x18 => .ok (.br x.g x.off20)
  | 0x19 => .ok (.jal x.g x.off20)
  | 0x1a => if decide (x.b = 0) && decide (x.f = 0x0) then .ok (.jr x.g x.d x.a)
    else .error .field
  | 0x1b => .ok (.dbnz x.g x.d x.imm16)
  | 0x20 => .ok (.ld x.g x.d x.a (x.imm12.extractLsb' 9 3) (x.imm12.extractLsb' 0 9))
  | 0x21 => if decide (x.imm12.extractLsb' 9 1 = 0) then .ok (.st x.g x.d x.a (x.imm12.extractLsb' 10 2) (x.imm12.extractLsb' 0 9))
    else .error .field
  | 0x22 => if decide (x.imm12.extractLsb' 11 1 = 1) && decide (x.imm12.extractLsb' 9 1 = 0) then .ok (.lda x.g x.d x.a (x.imm12.extractLsb' 10 1) (x.imm12.extractLsb' 0 9))
    else .error .field
  | 0x23 => if decide (x.imm12.extractLsb' 11 1 = 1) && decide (x.imm12.extractLsb' 9 1 = 0) then .ok (.str x.g x.d x.a (x.imm12.extractLsb' 10 1) (x.imm12.extractLsb' 0 9))
    else .error .field
  | 0x24 => if decide (x.imm12.extractLsb' 9 3 = 0) then .ok (.lde x.g x.d x.a (x.imm12.extractLsb' 0 9))
    else .error .field
  | 0x25 => if decide (x.d = 10) && decide (x.f.extractLsb' 5 3 = 0) then .ok (.mrg x.g x.a x.b (x.f.extractLsb' 4 1) (x.f.extractLsb' 0 4))
    else .error .field
  | 0x26 => if decide (x.f.extractLsb' 5 3 = 0) then .ok (.fmrg x.g x.d x.a x.b (x.f.extractLsb' 4 1) (x.f.extractLsb' 0 4))
    else .error .field
  | 0x27 => if decide (x.d = 10) && decide (x.f = 0x0) then .ok (.vbor x.g x.a x.b)
    else .error .field
  | 0x28 => if decide (x.f = 0x0) then .ok (.vbtst x.g x.d x.a x.b)
    else .error .field
  | 0x29 => if decide (x.d = 0) && decide (x.a = 0) && decide (x.b = 0) && decide (x.f = 0x0) then .ok (.fenceD x.g)
    else if decide (x.d = 0) && decide (x.a = 0) && decide (x.b = 0) && decide (x.f = 0x1) then .ok (.fenceT x.g)
    else if decide (x.d = 0) && decide (x.a = 0) && decide (x.b = 0) && decide (x.f = 0x2) then .ok (.fenceA x.g)
    else if decide (x.d = 0) && decide (x.a = 0) && decide (x.b = 0) && decide (x.f = 0x3) then .ok (.fenceI x.g)
    else .error .field
  | 0x2a => if decide (x.b = 0) && decide (x.f = 0x0) then .ok (.barRegion x.g x.d x.a)
    else if decide (x.b = 0) && decide (x.f = 0x1) then .ok (.barRow x.g x.d x.a)
    else if decide (x.b = 0) && decide (x.f = 0x2) then .ok (.barCol x.g x.d x.a)
    else .error .field
  | 0x30 => if decide (x.d.extractLsb' 0 1 = 0) && decide (x.f = 0x0) then .ok (.prop x.g (x.d.extractLsb' 1 3) x.a x.b)
    else if decide (x.d.extractLsb' 0 1 = 0) && decide (x.f = 0x1) then .ok (.propRun x.g (x.d.extractLsb' 1 3) x.a x.b)
    else .error .field
  | 0x31 => if decide (x.d.extractLsb' 0 1 = 0) && decide (x.b = 0) && decide (x.f = 0x0) then .ok (.learn x.g (x.d.extractLsb' 1 3) x.a)
    else if decide (x.d.extractLsb' 0 1 = 0) && decide (x.b = 0) && decide (x.f = 0x1) then .ok (.learnPoll x.g (x.d.extractLsb' 1 3) x.a)
    else .error .field
  | 0x32 => if decide (x.d.extractLsb' 0 1 = 0) && decide (x.f = 0x0) then .ok (.learnt x.g (x.d.extractLsb' 1 3) x.a x.b)
    else .error .field
  | 0x33 => if decide (x.b = 0) && decide (x.f = 0x0) then .ok (.ballot x.g x.d x.a)
    else .error .field
  | 0x34 => if decide (x.d.extractLsb' 0 1 = 0) && decide (x.f = 0x0) then .ok (.reshape x.g (x.d.extractLsb' 1 3) x.a x.b)
    else .error .field
  | 0x35 => if decide (x.f = 0x0) then .ok (.accordOpen x.g x.d x.a x.b)
    else if decide (x.f = 0x1) then .ok (.accordClose x.g x.d x.a x.b)
    else if decide (x.f = 0x2) then .ok (.accordTrunc x.g x.d x.a x.b)
    else if decide (x.f = 0x3) then .ok (.accordStat x.g x.d x.a x.b)
    else if decide (x.f = 0x4) then .ok (.accordNext x.g x.d x.a x.b)
    else .error .field
  | 0x38 => if decide (x.d = 10) && decide (x.f.extractLsb' 4 4 = 0) then .ok (.send x.g x.a x.b (x.f.extractLsb' 0 4))
    else .error .field
  | 0x39 => if decide (x.f.extractLsb' 4 4 = 0) then .ok (.spawn x.g x.d x.a x.b (x.f.extractLsb' 0 4))
    else .error .field
  | 0x3a => if decide (x.d = 0) && decide (x.b = 0) && decide (x.f = 0x0) then .ok (.migr x.g x.a)
    else .error .field
  | 0x3b => if decide (x.d = 10) && decide (x.f = 0x0) then .ok (.chsend x.g x.a x.b)
    else .error .field
  | 0x3c => if decide (x.b = 0) && decide (x.f = 0x0) then .ok (.chrecv x.g x.d x.a)
    else .error .field
  | 0x3d => if decide (x.f.extractLsb' 7 1 = 0) then .ok (.cvsend x.g x.d x.a x.b (x.f.extractLsb' 4 3) (x.f.extractLsb' 0 4))
    else .error .field
  | 0x3e => if decide (x.d.extractLsb' 0 1 = 0) && decide (x.b = 0) && decide (x.f = 0x0) then .ok (.cvrecv x.g (x.d.extractLsb' 1 3) x.a)
    else .error .field
  | 0x3f => if decide (x.b = 10) && decide (x.f = 0x0) then .ok (.cvopJoin x.g x.d x.a)
    else if decide (x.f = 0x2) then .ok (.cvopDlg x.g x.d x.a x.b)
    else if decide (x.b = 10) && decide (x.f = 0x3) then .ok (.cvopLeave x.g x.d x.a)
    else if decide (x.f = 0x4) then .ok (.cvopState x.g x.d x.a x.b)
    else .error .field
  | 0x40 => if decide (x.b = 0) && decide (x.f = 0x0) then .ok (.tcmd x.g x.d x.a)
    else if decide (x.f = 0x1) then .ok (.tcmdQ1 x.g x.d x.a x.b)
    else .error .field
  | 0x41 => if decide (x.d = 0) && decide (x.f = 0x0) then .ok (.tloop x.g x.a x.b)
    else .error .field
  | 0x42 => if decide (x.d = 0) && decide (x.f = 0x0) then .ok (.adv x.g x.a x.b)
    else .error .field
  | 0x43 => if decide (x.d = 0) && decide (x.f = 0x0) then .ok (.twait x.g x.a x.b)
    else .error .field
  | 0x44 => if decide (x.d = 0) && decide (x.b = 0) && decide (x.f = 0x0) then .ok (.waitt x.g x.a)
    else .error .field
  | 0x45 => if decide (x.a = 0) && decide (x.b = 0) && decide (x.f = 0x0) then .ok (.tstat x.g x.d)
    else .error .field
  | 0x46 => if decide (x.d = 0) && decide (x.f = 0x0) then .ok (.hdef x.g x.a x.b)
    else .error .field
  | 0x48 => if decide (x.a = 0) && decide (x.b = 0) && decide (x.f = 0x0) then .ok (.bagpop x.g x.d)
    else .error .field
  | 0x49 => if decide (x.d = 0) && decide (x.f = 0x0) then .ok (.bagins x.g x.a x.b)
    else .error .field
  | 0x4a => if decide (x.d = 0) && decide (x.a = 0) && decide (x.b = 0) && decide (x.f = 0x0) then .ok (.rewrite x.g)
    else .error .field
  | 0x4b => if decide (x.b = 0) && decide (x.f = 0x0) then .ok (.nalloc x.g x.d x.a)
    else .error .field
  | 0x4c => if decide (x.d = 0) && decide (x.b = 0) && decide (x.f = 0x0) then .ok (.nfree x.g x.a)
    else .error .field
  | 0x4d => if decide (x.d = 0) && decide (x.f = 0x0) then .ok (.link x.g x.a x.b)
    else .error .field
  | 0x4e => if decide (x.d = 0) && decide (x.b = 0) && decide (x.f = 0x0) then .ok (.rules x.g x.a)
    else .error .field
  | 0x50 => if decide (x.d = 0) && decide (x.a = 0) then .ok (.trap x.g x.imm12)
    else .error .field
  | 0x51 => if decide (x.d = 0) && decide (x.a = 0) && decide (x.b = 0) && decide (x.f = 0x0) then .ok (.eret x.g)
    else .error .field
  | 0x52 => if decide (x.a = 0) then .ok (.rdsw x.g x.d x.imm12)
    else .error .field
  | 0x53 => if decide (x.d = 0) then .ok (.wrsw x.g x.a x.imm12)
    else .error .field
  | 0x54 => if decide (x.d = 0) && decide (x.a = 0) && decide (x.b = 0) && decide (x.f = 0x0) then .ok (.yield x.g)
    else .error .field
  | 0x55 => if decide (x.d = 0) && decide (x.a = 0) && decide (x.b = 0) && decide (x.f = 0x0) then .ok (.halt x.g)
    else .error .field
  | 0x56 => if decide (x.d = 0) && decide (x.b = 0) && decide (x.f = 0x0) then .ok (.ckpt x.g x.a)
    else .error .field
  | 0x57 => if decide (x.d = 0) && decide (x.b = 0) && decide (x.f = 0x0) then .ok (.ologMark x.g x.a)
    else if decide (x.d = 0) && decide (x.a = 0) && decide (x.b = 0) && decide (x.f = 0x1) then .ok (.ologPause x.g)
    else if decide (x.d = 0) && decide (x.a = 0) && decide (x.b = 0) && decide (x.f = 0x2) then .ok (.ologResume x.g)
    else if decide (x.d = 0) && decide (x.a = 0) && decide (x.b = 0) && decide (x.f = 0x3) then .ok (.ologFlush x.g)
    else .error .field
  | 0x58 => if decide (x.b = 0) && decide (x.f = 0x0) then .ok (.lnch x.g x.d x.a)
    else .error .field
  | 0x59 => if decide (x.d = 0) && decide (x.a = 0) && decide (x.b = 0) && decide (x.f = 0x0) then .ok (.wfm x.g)
    else .error .field
  | 0x5a => if decide (x.b = 0) && decide (x.f = 0x0) then .ok (.snap x.g x.d x.a)
    else .error .field
  | _ => .error .major

/-- Keep an instruction that passes every check. -/
def checked (r : Except Reject Instr) : Except Reject Instr :=
  match r with
  | .error e => .error e
  | .ok i => match checkInstr i with
    | some e => .error e
    | none => .ok i

/-- Decode a scalar word (R59 to R76). -/
def decodeScalar (w : BitVec 32) : Except Reject Instr := checked (decodeFields (fieldsOf w))

/-! ### Tile command words -/

/-- The fields of a tile command word, whose bits 63 to 0 are Q0 and so on upward (R77, R78). -/
def tcwOf (w : BitVec 256) : Tcw where
  flags := w.extractLsb' 48 8
  dst := w.extractLsb' 43 5
  hA := w.extractLsb' 38 5
  hB := w.extractLsb' 33 5
  acc := w.extractLsb' 31 2
  fmtA := w.extractLsb' 27 4
  fmtB := w.extractLsb' 23 4
  fmtOut := w.extractLsb' 19 4
  rm := w.extractLsb' 16 3
  count := w.extractLsb' 8 8
  win := w.extractLsb' 4 4
  wout := w.extractLsb' 0 4
  q1 := w.extractLsb' 64 64
  q2 := w.extractLsb' 128 64
  q3 := w.extractLsb' 192 64

/-- The command of an opcode (R83). -/
def tileOp (o : Nat) (c : Tcw) : Except Reject Instr :=
  match o with
  | 0x1 => .ok (.tnop c)
  | 0x10 => .ok (.mma c)
  | 0x11 => .ok (.mmas c)
  | 0x12 => .ok (.mmaz c)
  | 0x18 => .ok (.spld c)
  | 0x20 => .ok (.aclr c)
  | 0x21 => .ok (.acld c)
  | 0x22 => .ok (.acst c)
  | 0x23 => .ok (.acsc c)
  | 0x30 => .ok (.vadd c)
  | 0x31 => .ok (.vsub c)
  | 0x32 => .ok (.vmul c)
  | 0x33 => .ok (.vfma c)
  | 0x34 => .ok (.vmin c)
  | 0x35 => .ok (.vmax c)
  | 0x36 => .ok (.vexp2 c)
  | 0x37 => .ok (.vlog2 c)
  | 0x38 => .ok (.vrcp c)
  | 0x39 => .ok (.vrsq c)
  | 0x3a => .ok (.vcvt c)
  | 0x3b => .ok (.vcmp c)
  | 0x3c => .ok (.vsel c)
  | 0x3d => .ok (.vand c)
  | 0x3e => .ok (.vor c)
  | 0x3f => .ok (.vxor c)
  | 0x40 => .ok (.vred c)
  | 0x41 => .ok (.vtrn c)
  | 0x42 => .ok (.vbcast c)
  | 0x43 => .ok (.vscl c)
  | 0x50 => .ok (.copy c)
  | 0x51 => .ok (.copyr c)
  | 0x52 => .ok (.gath c)
  | 0x53 => .ok (.scat c)
  | 0x54 => .ok (.mcast c)
  | 0x55 => .ok (.zero c)
  | 0x60 => .ok (.qtld c)
  | 0x61 => .ok (.rngk c)
  | 0x70 => .ok (.tsig c)
  | 0x71 => .ok (.tmark c)
  | _ => .error .opcode

/-- Decode a tile command word with every field rule of R84 that does not depend on the machine. -/
def decodeTcw (w : BitVec 256) : Except Reject Instr := checked (tileOp (w.extractLsb' 56 8).toNat (tcwOf w))

/-! ### Bytes -/

/-- Decode the scalar word at the front of a list of bytes, little-endian (R59); answers the rest as well. -/
def decodeBytes (bs : List Byte) : Except Reject (Instr × List Byte) :=
  if bs.length < 4 then .error .short
  else match decodeScalar (BitVec.ofNat 32 (ofLeBytes (bs.take 4))) with
    | .ok i => .ok (i, bs.drop 4)
    | .error e => .error e

/-- Decode the tile command word at the front of a list of bytes (R77). -/
def decodeTcwBytes (bs : List Byte) : Except Reject (Instr × List Byte) :=
  if bs.length < 32 then .error .short
  else match decodeTcw (BitVec.ofNat 256 (ofLeBytes (bs.take 32))) with
    | .ok i => .ok (i, bs.drop 32)
    | .error e => .error e

/-- The decoder on an instruction whose bits are `w`, in the numbering of the opcode table: a scalar word up to 32 bits, else a
tile command word. Both are little-endian in memory, so the numbering is the word's own. -/
def decodeTableWord (nbits w : Nat) : Option Instr :=
  if nbits ≤ 32 then
    match decodeBytes (leBytes 4 w) with
    | .ok r => some r.1
    | .error _ => none
  else match decodeTcwBytes (leBytes 32 w) with
    | .ok r => some r.1
    | .error _ => none

/-! ### Encoding -/

/-- The fields of a scalar instruction; tile commands and the steps of the device are no scalar words. -/
def encodeFields : Instr → Option Fields
  | .nop g => some (⟨g, 0x1, 0, 0, 0, 0⟩)
  | .add g d a b => some (⟨g, 0x2, d, a, b, 0⟩)
  | .sub g d a b => some (⟨g, 0x2, d, a, b, 1⟩)
  | .and g d a b => some (⟨g, 0x2, d, a, b, 2⟩)
  | .or g d a b => some (⟨g, 0x2, d, a, b, 3⟩)
  | .xor g d a b => some (⟨g, 0x2, d, a, b, 4⟩)
  | .andn g d a b => some (⟨g, 0x2, d, a, b, 5⟩)
  | .shl g d a b => some (⟨g, 0x2, d, a, b, 6⟩)
  | .shr g d a b => some (⟨g, 0x2, d, a, b, 7⟩)
  | .sra g d a b => some (⟨g, 0x2, d, a, b, 8⟩)
  | .rol g d a b => some (⟨g, 0x2, d, a, b, 9⟩)
  | .min g d a b => some (⟨g, 0x2, d, a, b, 10⟩)
  | .max g d a b => some (⟨g, 0x2, d, a, b, 11⟩)
  | .minn g d a b => some (⟨g, 0x2, d, a, b, 12⟩)
  | .maxn g d a b => some (⟨g, 0x2, d, a, b, 13⟩)
  | .mul g d a b => some (⟨g, 0x2, d, a, b, 14⟩)
  | .mulh g d a b => some (⟨g, 0x2, d, a, b, 15⟩)
  | .mulhn g d a b => some (⟨g, 0x2, d, a, b, 16⟩)
  | .div g d a b => some (⟨g, 0x2, d, a, b, 17⟩)
  | .divn g d a b => some (⟨g, 0x2, d, a, b, 18⟩)
  | .rem g d a b => some (⟨g, 0x2, d, a, b, 19⟩)
  | .remn g d a b => some (⟨g, 0x2, d, a, b, 20⟩)
  | .clz g d a => some (⟨g, 0x2, d, a, 0, 21⟩)
  | .ctz g d a => some (⟨g, 0x2, d, a, 0, 22⟩)
  | .popc g d a => some (⟨g, 0x2, d, a, 0, 23⟩)
  | .sext g d a b => some (⟨g, 0x2, d, a, b, 24⟩)
  | .zext g d a b => some (⟨g, 0x2, d, a, b, 25⟩)
  | .brev g d a => some (⟨g, 0x2, d, a, 0, 26⟩)
  | .fadd g d a b => some (⟨g, 0x3, d, a, b, 0⟩)
  | .fsub g d a b => some (⟨g, 0x3, d, a, b, 1⟩)
  | .fmul g d a b => some (⟨g, 0x3, d, a, b, 2⟩)
  | .fmin g d a b => some (⟨g, 0x3, d, a, b, 3⟩)
  | .fmax g d a b => some (⟨g, 0x3, d, a, b, 4⟩)
  | .fcvti g d a => some (⟨g, 0x3, d, a, 0, 5⟩)
  | .fcvtf g d a => some (⟨g, 0x3, d, a, 0, 6⟩)
  | .addi g d a i => some (ofImm12 g 0x4 d a i)
  | .andi g d a i => some (ofImm12 g 0x5 d a i)
  | .ori g d a i => some (ofImm12 g 0x6 d a i)
  | .xori g d a i => some (ofImm12 g 0x7 d a i)
  | .shli g d a c => some (ofImm12 g 0x8 d a ((0 : BitVec 6) ++ c : BitVec 12))
  | .shri g d a c => some (ofImm12 g 0x9 d a ((0 : BitVec 6) ++ c : BitVec 12))
  | .srai g d a c => some (ofImm12 g 0xa d a ((0 : BitVec 6) ++ c : BitVec 12))
  | .muli g d a i => some (ofImm12 g 0xb d a i)
  | .li g d i => some (ofImm16 g 0xc d i)
  | .lis g d i => some (ofImm16 g 0xd d i)
  | .kld g d k => some (⟨g, 0xe, d, 0, 0, k⟩)
  | .kldX g d a k => some (⟨g, 0xe, d, a, 1, k⟩)
  | .sel g d a b n => some (⟨g, 0xf, d, a, b, ((0 : BitVec 4) ++ n : BitVec 8)⟩)
  | .tag g d a t => some (ofImm12 g 0x10 d a ((0 : BitVec 4) ++ t : BitVec 12))
  | .sega g d a => some (⟨g, 0x11, d, a, 0, 0⟩)
  | .rds g d s => some (ofImm12 g 0x12 d 0 s)
  | .cmp g p a b c m => some (⟨g, 0x13, p, a, b, (c ++ m : BitVec 8)⟩)
  | .cmpi g p a c i => some (⟨g, 0x14, p, a, c, i⟩)
  | .pand g p q r => some (⟨g, 0x15, p, q, r, 0⟩)
  | .por g p q r => some (⟨g, 0x15, p, q, r, 1⟩)
  | .pxor g p q r => some (⟨g, 0x15, p, q, r, 2⟩)
  | .pandn g p q r => some (⟨g, 0x15, p, q, r, 3⟩)
  | .pnot g p q => some (⟨g, 0x15, p, q, 0, 4⟩)
  | .pmov g p q => some (⟨g, 0x15, p, q, 0, 5⟩)
  | .pget g d => some (⟨g, 0x16, d, 0, 0, 0⟩)
  | .pset g a => some (⟨g, 0x16, 0, a, 0, 1⟩)
  | .br g o => some (ofOff20 g 0x18 o)
  | .jal g o => some (ofOff20 g 0x19 o)
  | .jr g d a => some (⟨g, 0x1a, d, a, 0, 0⟩)
  | .dbnz g d o => some (ofImm16 g 0x1b d o)
  | .ld g d a w x => some (ofImm12 g 0x20 d a (w ++ x : BitVec 12))
  | .st g s a w x => some (ofImm12 g 0x21 s a (w ++ (0 : BitVec 1) ++ x : BitVec 12))
  | .lda g d a w x => some (ofImm12 g 0x22 d a ((1 : BitVec 1) ++ w ++ (0 : BitVec 1) ++ x : BitVec 12))
  | .str g s a w x => some (ofImm12 g 0x23 s a ((1 : BitVec 1) ++ w ++ (0 : BitVec 1) ++ x : BitVec 12))
  | .lde g d a x => some (ofImm12 g 0x24 d a ((0 : BitVec 3) ++ x : BitVec 12))
  | .mrg g a b w o => some (⟨g, 0x25, 10, a, b, ((0 : BitVec 3) ++ w ++ o : BitVec 8)⟩)
  | .fmrg g d a b w o => some (⟨g, 0x26, d, a, b, ((0 : BitVec 3) ++ w ++ o : BitVec 8)⟩)
  | .vbor g a b => some (⟨g, 0x27, 10, a, b, 0⟩)
  | .vbtst g d a b => some (⟨g, 0x28, d, a, b, 0⟩)
  | .fenceD g => some (⟨g, 0x29, 0, 0, 0, 0⟩)
  | .fenceT g => some (⟨g, 0x29, 0, 0, 0, 1⟩)
  | .fenceA g => some (⟨g, 0x29, 0, 0, 0, 2⟩)
  | .fenceI g => some (⟨g, 0x29, 0, 0, 0, 3⟩)
  | .barRegion g d a => some (⟨g, 0x2a, d, a, 0, 0⟩)
  | .barRow g d a => some (⟨g, 0x2a, d, a, 0, 1⟩)
  | .barCol g d a => some (⟨g, 0x2a, d, a, 0, 2⟩)
  | .prop g d a b => some (⟨g, 0x30, (d ++ (0 : BitVec 1) : BitVec 4), a, b, 0⟩)
  | .propRun g d a b => some (⟨g, 0x30, (d ++ (0 : BitVec 1) : BitVec 4), a, b, 1⟩)
  | .learn g d a => some (⟨g, 0x31, (d ++ (0 : BitVec 1) : BitVec 4), a, 0, 0⟩)
  | .learnPoll g d a => some (⟨g, 0x31, (d ++ (0 : BitVec 1) : BitVec 4), a, 0, 1⟩)
  | .learnt g d a b => some (⟨g, 0x32, (d ++ (0 : BitVec 1) : BitVec 4), a, b, 0⟩)
  | .ballot g d a => some (⟨g, 0x33, d, a, 0, 0⟩)
  | .reshape g d a b => some (⟨g, 0x34, (d ++ (0 : BitVec 1) : BitVec 4), a, b, 0⟩)
  | .accordOpen g d a b => some (⟨g, 0x35, d, a, b, 0⟩)
  | .accordClose g d a b => some (⟨g, 0x35, d, a, b, 1⟩)
  | .accordTrunc g d a b => some (⟨g, 0x35, d, a, b, 2⟩)
  | .accordStat g d a b => some (⟨g, 0x35, d, a, b, 3⟩)
  | .accordNext g d a b => some (⟨g, 0x35, d, a, b, 4⟩)
  | .send g a b n => some (⟨g, 0x38, 10, a, b, ((0 : BitVec 4) ++ n : BitVec 8)⟩)
  | .spawn g d a b n => some (⟨g, 0x39, d, a, b, ((0 : BitVec 4) ++ n : BitVec 8)⟩)
  | .migr g a => some (⟨g, 0x3a, 0, a, 0, 0⟩)
  | .chsend g a b => some (⟨g, 0x3b, 10, a, b, 0⟩)
  | .chrecv g d a => some (⟨g, 0x3c, d, a, 0, 0⟩)
  | .cvsend g d a b r k => some (⟨g, 0x3d, d, a, b, ((0 : BitVec 1) ++ r ++ k : BitVec 8)⟩)
  | .cvrecv g d a => some (⟨g, 0x3e, (d ++ (0 : BitVec 1) : BitVec 4), a, 0, 0⟩)
  | .cvopJoin g d a => some (⟨g, 0x3f, d, a, 10, 0⟩)
  | .cvopDlg g d a b => some (⟨g, 0x3f, d, a, b, 2⟩)
  | .cvopLeave g d a => some (⟨g, 0x3f, d, a, 10, 3⟩)
  | .cvopState g d a b => some (⟨g, 0x3f, d, a, b, 4⟩)
  | .tcmd g d a => some (⟨g, 0x40, d, a, 0, 0⟩)
  | .tcmdQ1 g d a b => some (⟨g, 0x40, d, a, b, 1⟩)
  | .tloop g a b => some (⟨g, 0x41, 0, a, b, 0⟩)
  | .adv g a b => some (⟨g, 0x42, 0, a, b, 0⟩)
  | .twait g a b => some (⟨g, 0x43, 0, a, b, 0⟩)
  | .waitt g a => some (⟨g, 0x44, 0, a, 0, 0⟩)
  | .tstat g d => some (⟨g, 0x45, d, 0, 0, 0⟩)
  | .hdef g a b => some (⟨g, 0x46, 0, a, b, 0⟩)
  | .bagpop g d => some (⟨g, 0x48, d, 0, 0, 0⟩)
  | .bagins g a b => some (⟨g, 0x49, 0, a, b, 0⟩)
  | .rewrite g => some (⟨g, 0x4a, 0, 0, 0, 0⟩)
  | .nalloc g d a => some (⟨g, 0x4b, d, a, 0, 0⟩)
  | .nfree g a => some (⟨g, 0x4c, 0, a, 0, 0⟩)
  | .link g a b => some (⟨g, 0x4d, 0, a, b, 0⟩)
  | .rules g a => some (⟨g, 0x4e, 0, a, 0, 0⟩)
  | .trap g c => some (ofImm12 g 0x50 0 0 c)
  | .eret g => some (⟨g, 0x51, 0, 0, 0, 0⟩)
  | .rdsw g d s => some (ofImm12 g 0x52 d 0 s)
  | .wrsw g a s => some (ofImm12 g 0x53 0 a s)
  | .yield g => some (⟨g, 0x54, 0, 0, 0, 0⟩)
  | .halt g => some (⟨g, 0x55, 0, 0, 0, 0⟩)
  | .ckpt g a => some (⟨g, 0x56, 0, a, 0, 0⟩)
  | .ologMark g a => some (⟨g, 0x57, 0, a, 0, 0⟩)
  | .ologPause g => some (⟨g, 0x57, 0, 0, 0, 1⟩)
  | .ologResume g => some (⟨g, 0x57, 0, 0, 0, 2⟩)
  | .ologFlush g => some (⟨g, 0x57, 0, 0, 0, 3⟩)
  | .lnch g d a => some (⟨g, 0x58, d, a, 0, 0⟩)
  | .wfm g => some (⟨g, 0x59, 0, 0, 0, 0⟩)
  | .snap g d a => some (⟨g, 0x5a, d, a, 0, 0⟩)
  | .tnop _ => none
  | .mma _ => none
  | .mmas _ => none
  | .mmaz _ => none
  | .spld _ => none
  | .aclr _ => none
  | .acld _ => none
  | .acst _ => none
  | .acsc _ => none
  | .vadd _ => none
  | .vsub _ => none
  | .vmul _ => none
  | .vfma _ => none
  | .vmin _ => none
  | .vmax _ => none
  | .vexp2 _ => none
  | .vlog2 _ => none
  | .vrcp _ => none
  | .vrsq _ => none
  | .vcvt _ => none
  | .vcmp _ => none
  | .vsel _ => none
  | .vand _ => none
  | .vor _ => none
  | .vxor _ => none
  | .vred _ => none
  | .vtrn _ => none
  | .vbcast _ => none
  | .vscl _ => none
  | .copy _ => none
  | .copyr _ => none
  | .gath _ => none
  | .scat _ => none
  | .mcast _ => none
  | .zero _ => none
  | .qtld _ => none
  | .rngk _ => none
  | .tsig _ => none
  | .tmark _ => none
  | .tileCommandComplete => none
  | .tloopPush => none
  | .promiseMissed => none
  | .remoteAdvance _ => none
  | .storeDelivery _ => none
  | .mergeApply _ => none
  | .loadRequest _ => none
  | .loadReply _ _ _ => none
  | .acknowledgement _ _ => none
  | .fetchMergeReply _ _ _ _ _ => none
  | .copyShadowRelease => none
  | .codeOrderRelease => none
  | .messageArrival _ => none
  | .handlerStart => none
  | .spawnRequest _ => none
  | .spawnReply _ _ _ => none
  | .migrationArrival _ => none
  | .arrivalTaken => none
  | .channelWord _ => none
  | .channelCredit _ => none
  | .linkExchange _ => none
  | .nfreeAtHome _ => none
  | .pairPush _ => none
  | .quarantineExpiry _ _ _ => none
  | .prepare _ => none
  | .accept _ => none
  | .prepacc _ => none
  | .decided _ => none
  | .promise _ => none
  | .accepted _ => none
  | .nack _ => none
  | .norun _ => none
  | .decidednow _ => none
  | .decidedReply _ => none
  | .truncReply _ => none
  | .phaseTimeout _ _ _ => none
  | .backoffEnd => none
  | .lease _ => none
  | .leaseGrant _ => none
  | .freeze _ _ => none
  | .freezeReport _ => none
  | .seniorReportTimeout => none
  | .leaseRelease _ => none
  | .leaseExpiry _ _ _ _ => none
  | .accordTableFill => none
  | .learnRequest _ => none
  | .memberQuery _ => none
  | .keepalive _ => none
  | .learnerFailover => none
  | .learntDeadline => none
  | .quorumTakeover _ => none
  | .accordRegister _ _ _ _ _ _ _ _ _ _ => none
  | .openTimeout => none
  | .accordCloseAtMember _ => none
  | .accordTruncAtMember _ => none
  | .barRelease _ _ _ _ => none
  | .barTimeout => none
  | .budgetExhausted => none
  | .budgetTrap => none
  | .energyMeter => none
  | .trapRecordInsert _ => none
  | .pageZeroingDone _ _ => none
  | .pageMigrationDone _ _ _ => none
  | .scrubPass _ _ _ => none
  | .softError => none
  | .epochNotice _ _ => none
  | .imagePageWrite => none
  | .imageComplete => none
  | .ckptPeriodTrigger => none
  | .ckptStepTrigger => none
  | .launchStart _ => none
  | .launchComplete => none
  | .quantumDuskProposal _ _ => none
  | .duskStop => none
  | .quantumRestore _ _ => none
  | .gangStop => none
  | .ologHeadRecheck => none
  | .replayTurn => none
  | .replayStall => none
  | .cicadaSweep => none
  | .cicadaSweepEnd => none
  | .sweepPrewake => none
  | .packetLifetimeExpired => none
  | .routerGate => none
  | .fireflyWake => none
  | .routerOn => none
  | .flitReceive _ _ => none
  | .nakReceive _ _ => none
  | .linkDown => none
  | .linkRetrain _ _ _ => none
  | .dropNotice _ _ _ => none
  | .countQuery _ _ _ => none
  | .fenceCountTimeout => none
  | .vfLoopInterval => none
  | .alarmEntry => none
  | .alarmClear => none
  | .regulatorAlarm _ => none
  | .eqAdapt => none
  | .laneMarginFail => none
  | .wake _ => none
  | .tqhead _ _ => none
  | .cereg _ => none
  | .ceport _ => none
  | .registerWrite _ _ _ => none
  | .migrate => none
  | .evict => none
  | .inval => none
  | .frames => none
  | .configPset => none
  | .openl => none
  | .kill => none
  | .release => none
  | .grant => none
  | .areas => none
  | .dbgkey => none
  | .hostSubmission => none
  | .getVersion => none
  | .getCapabilities => none
  | .negotiateAlgorithms => none
  | .getDigests => none
  | .getCertificate _ => none
  | .challenge _ _ => none
  | .getMeasurements _ => none
  | .keyExchange _ => none
  | .finish _ _ => none
  | .debugWindowRead _ _ _ => none
  | .reset _ => none
  | .illegalInstruction _ => none
  | .countReply _ _ _ _ => none
  | .memberReply _ _ _ _ => none
  | .zeroingEnd => none
  | .debugSessionEnd => none

/-- The word of a scalar instruction. -/
def encode (i : Instr) : Option (BitVec 32) := (encodeFields i).map wordOf

/-- The tile command word of an opcode and its fields (R78, R82). -/
def packTcw (op : BitVec 8) (c : Tcw) : BitVec 256 :=
  c.q3 ++ c.q2 ++ c.q1 ++ op ++ c.flags ++ c.dst ++ c.hA ++ c.hB ++ c.acc ++ c.fmtA ++ c.fmtB ++ c.fmtOut ++ c.rm ++ c.count
    ++ c.win ++ c.wout

/-- The word of a tile command. -/
def encodeTcw : Instr → Option (BitVec 256)
  | .nop _ => none
  | .add _ _ _ _ => none
  | .sub _ _ _ _ => none
  | .and _ _ _ _ => none
  | .or _ _ _ _ => none
  | .xor _ _ _ _ => none
  | .andn _ _ _ _ => none
  | .shl _ _ _ _ => none
  | .shr _ _ _ _ => none
  | .sra _ _ _ _ => none
  | .rol _ _ _ _ => none
  | .min _ _ _ _ => none
  | .max _ _ _ _ => none
  | .minn _ _ _ _ => none
  | .maxn _ _ _ _ => none
  | .mul _ _ _ _ => none
  | .mulh _ _ _ _ => none
  | .mulhn _ _ _ _ => none
  | .div _ _ _ _ => none
  | .divn _ _ _ _ => none
  | .rem _ _ _ _ => none
  | .remn _ _ _ _ => none
  | .clz _ _ _ => none
  | .ctz _ _ _ => none
  | .popc _ _ _ => none
  | .sext _ _ _ _ => none
  | .zext _ _ _ _ => none
  | .brev _ _ _ => none
  | .fadd _ _ _ _ => none
  | .fsub _ _ _ _ => none
  | .fmul _ _ _ _ => none
  | .fmin _ _ _ _ => none
  | .fmax _ _ _ _ => none
  | .fcvti _ _ _ => none
  | .fcvtf _ _ _ => none
  | .addi _ _ _ _ => none
  | .andi _ _ _ _ => none
  | .ori _ _ _ _ => none
  | .xori _ _ _ _ => none
  | .shli _ _ _ _ => none
  | .shri _ _ _ _ => none
  | .srai _ _ _ _ => none
  | .muli _ _ _ _ => none
  | .li _ _ _ => none
  | .lis _ _ _ => none
  | .kld _ _ _ => none
  | .kldX _ _ _ _ => none
  | .sel _ _ _ _ _ => none
  | .tag _ _ _ _ => none
  | .sega _ _ _ => none
  | .rds _ _ _ => none
  | .cmp _ _ _ _ _ _ => none
  | .cmpi _ _ _ _ _ => none
  | .pand _ _ _ _ => none
  | .por _ _ _ _ => none
  | .pxor _ _ _ _ => none
  | .pandn _ _ _ _ => none
  | .pnot _ _ _ => none
  | .pmov _ _ _ => none
  | .pget _ _ => none
  | .pset _ _ => none
  | .br _ _ => none
  | .jal _ _ => none
  | .jr _ _ _ => none
  | .dbnz _ _ _ => none
  | .ld _ _ _ _ _ => none
  | .st _ _ _ _ _ => none
  | .lda _ _ _ _ _ => none
  | .str _ _ _ _ _ => none
  | .lde _ _ _ _ => none
  | .mrg _ _ _ _ _ => none
  | .fmrg _ _ _ _ _ _ => none
  | .vbor _ _ _ => none
  | .vbtst _ _ _ _ => none
  | .fenceD _ => none
  | .fenceT _ => none
  | .fenceA _ => none
  | .fenceI _ => none
  | .barRegion _ _ _ => none
  | .barRow _ _ _ => none
  | .barCol _ _ _ => none
  | .prop _ _ _ _ => none
  | .propRun _ _ _ _ => none
  | .learn _ _ _ => none
  | .learnPoll _ _ _ => none
  | .learnt _ _ _ _ => none
  | .ballot _ _ _ => none
  | .reshape _ _ _ _ => none
  | .accordOpen _ _ _ _ => none
  | .accordClose _ _ _ _ => none
  | .accordTrunc _ _ _ _ => none
  | .accordStat _ _ _ _ => none
  | .accordNext _ _ _ _ => none
  | .send _ _ _ _ => none
  | .spawn _ _ _ _ _ => none
  | .migr _ _ => none
  | .chsend _ _ _ => none
  | .chrecv _ _ _ => none
  | .cvsend _ _ _ _ _ _ => none
  | .cvrecv _ _ _ => none
  | .cvopJoin _ _ _ => none
  | .cvopDlg _ _ _ _ => none
  | .cvopLeave _ _ _ => none
  | .cvopState _ _ _ _ => none
  | .tcmd _ _ _ => none
  | .tcmdQ1 _ _ _ _ => none
  | .tloop _ _ _ => none
  | .adv _ _ _ => none
  | .twait _ _ _ => none
  | .waitt _ _ => none
  | .tstat _ _ => none
  | .hdef _ _ _ => none
  | .bagpop _ _ => none
  | .bagins _ _ _ => none
  | .rewrite _ => none
  | .nalloc _ _ _ => none
  | .nfree _ _ => none
  | .link _ _ _ => none
  | .rules _ _ => none
  | .trap _ _ => none
  | .eret _ => none
  | .rdsw _ _ _ => none
  | .wrsw _ _ _ => none
  | .yield _ => none
  | .halt _ => none
  | .ckpt _ _ => none
  | .ologMark _ _ => none
  | .ologPause _ => none
  | .ologResume _ => none
  | .ologFlush _ => none
  | .lnch _ _ _ => none
  | .wfm _ => none
  | .snap _ _ _ => none
  | .tnop c => some (packTcw 0x1 c)
  | .mma c => some (packTcw 0x10 c)
  | .mmas c => some (packTcw 0x11 c)
  | .mmaz c => some (packTcw 0x12 c)
  | .spld c => some (packTcw 0x18 c)
  | .aclr c => some (packTcw 0x20 c)
  | .acld c => some (packTcw 0x21 c)
  | .acst c => some (packTcw 0x22 c)
  | .acsc c => some (packTcw 0x23 c)
  | .vadd c => some (packTcw 0x30 c)
  | .vsub c => some (packTcw 0x31 c)
  | .vmul c => some (packTcw 0x32 c)
  | .vfma c => some (packTcw 0x33 c)
  | .vmin c => some (packTcw 0x34 c)
  | .vmax c => some (packTcw 0x35 c)
  | .vexp2 c => some (packTcw 0x36 c)
  | .vlog2 c => some (packTcw 0x37 c)
  | .vrcp c => some (packTcw 0x38 c)
  | .vrsq c => some (packTcw 0x39 c)
  | .vcvt c => some (packTcw 0x3a c)
  | .vcmp c => some (packTcw 0x3b c)
  | .vsel c => some (packTcw 0x3c c)
  | .vand c => some (packTcw 0x3d c)
  | .vor c => some (packTcw 0x3e c)
  | .vxor c => some (packTcw 0x3f c)
  | .vred c => some (packTcw 0x40 c)
  | .vtrn c => some (packTcw 0x41 c)
  | .vbcast c => some (packTcw 0x42 c)
  | .vscl c => some (packTcw 0x43 c)
  | .copy c => some (packTcw 0x50 c)
  | .copyr c => some (packTcw 0x51 c)
  | .gath c => some (packTcw 0x52 c)
  | .scat c => some (packTcw 0x53 c)
  | .mcast c => some (packTcw 0x54 c)
  | .zero c => some (packTcw 0x55 c)
  | .qtld c => some (packTcw 0x60 c)
  | .rngk c => some (packTcw 0x61 c)
  | .tsig c => some (packTcw 0x70 c)
  | .tmark c => some (packTcw 0x71 c)
  | .tileCommandComplete => none
  | .tloopPush => none
  | .promiseMissed => none
  | .remoteAdvance _ => none
  | .storeDelivery _ => none
  | .mergeApply _ => none
  | .loadRequest _ => none
  | .loadReply _ _ _ => none
  | .acknowledgement _ _ => none
  | .fetchMergeReply _ _ _ _ _ => none
  | .copyShadowRelease => none
  | .codeOrderRelease => none
  | .messageArrival _ => none
  | .handlerStart => none
  | .spawnRequest _ => none
  | .spawnReply _ _ _ => none
  | .migrationArrival _ => none
  | .arrivalTaken => none
  | .channelWord _ => none
  | .channelCredit _ => none
  | .linkExchange _ => none
  | .nfreeAtHome _ => none
  | .pairPush _ => none
  | .quarantineExpiry _ _ _ => none
  | .prepare _ => none
  | .accept _ => none
  | .prepacc _ => none
  | .decided _ => none
  | .promise _ => none
  | .accepted _ => none
  | .nack _ => none
  | .norun _ => none
  | .decidednow _ => none
  | .decidedReply _ => none
  | .truncReply _ => none
  | .phaseTimeout _ _ _ => none
  | .backoffEnd => none
  | .lease _ => none
  | .leaseGrant _ => none
  | .freeze _ _ => none
  | .freezeReport _ => none
  | .seniorReportTimeout => none
  | .leaseRelease _ => none
  | .leaseExpiry _ _ _ _ => none
  | .accordTableFill => none
  | .learnRequest _ => none
  | .memberQuery _ => none
  | .keepalive _ => none
  | .learnerFailover => none
  | .learntDeadline => none
  | .quorumTakeover _ => none
  | .accordRegister _ _ _ _ _ _ _ _ _ _ => none
  | .openTimeout => none
  | .accordCloseAtMember _ => none
  | .accordTruncAtMember _ => none
  | .barRelease _ _ _ _ => none
  | .barTimeout => none
  | .budgetExhausted => none
  | .budgetTrap => none
  | .energyMeter => none
  | .trapRecordInsert _ => none
  | .pageZeroingDone _ _ => none
  | .pageMigrationDone _ _ _ => none
  | .scrubPass _ _ _ => none
  | .softError => none
  | .epochNotice _ _ => none
  | .imagePageWrite => none
  | .imageComplete => none
  | .ckptPeriodTrigger => none
  | .ckptStepTrigger => none
  | .launchStart _ => none
  | .launchComplete => none
  | .quantumDuskProposal _ _ => none
  | .duskStop => none
  | .quantumRestore _ _ => none
  | .gangStop => none
  | .ologHeadRecheck => none
  | .replayTurn => none
  | .replayStall => none
  | .cicadaSweep => none
  | .cicadaSweepEnd => none
  | .sweepPrewake => none
  | .packetLifetimeExpired => none
  | .routerGate => none
  | .fireflyWake => none
  | .routerOn => none
  | .flitReceive _ _ => none
  | .nakReceive _ _ => none
  | .linkDown => none
  | .linkRetrain _ _ _ => none
  | .dropNotice _ _ _ => none
  | .countQuery _ _ _ => none
  | .fenceCountTimeout => none
  | .vfLoopInterval => none
  | .alarmEntry => none
  | .alarmClear => none
  | .regulatorAlarm _ => none
  | .eqAdapt => none
  | .laneMarginFail => none
  | .wake _ => none
  | .tqhead _ _ => none
  | .cereg _ => none
  | .ceport _ => none
  | .registerWrite _ _ _ => none
  | .migrate => none
  | .evict => none
  | .inval => none
  | .frames => none
  | .configPset => none
  | .openl => none
  | .kill => none
  | .release => none
  | .grant => none
  | .areas => none
  | .dbgkey => none
  | .hostSubmission => none
  | .getVersion => none
  | .getCapabilities => none
  | .negotiateAlgorithms => none
  | .getDigests => none
  | .getCertificate _ => none
  | .challenge _ _ => none
  | .getMeasurements _ => none
  | .keyExchange _ => none
  | .finish _ _ => none
  | .debugWindowRead _ _ _ => none
  | .reset _ => none
  | .illegalInstruction _ => none
  | .countReply _ _ _ _ => none
  | .memberReply _ _ _ _ => none
  | .zeroingEnd => none
  | .debugSessionEnd => none

end Sys2Proof
end

