-- ==== Sys2Proof/Config.lean ====
section
/-! DEFINITION. The free values: what the manual leaves open, as opaque constants applied to State.nonce (a fresh value each
time) or to the operands they depend on. No proof can see any of them (log entry 4). -/

namespace Sys2Proof

/-- Delay of a packet beyond the uncontended latency of R333, where contention, gated routers or a sweep allow one: nonce, packet. -/
opaque Config.netExtra : Nat → Nat → Nat

/-- Which way the adaptive choice of R335 sends the packets of a line: true along y first. -/
opaque Config.netRoute : Nat → Bool

/-- Whether a packet stands in a router when a soft error strikes it (R349): nonce, packet. -/
opaque Config.inRouter : Nat → Nat → Bool

/-- Where in its range a memory port's service time falls (R394): nonce, draw. -/
opaque Config.service : Nat → Nat → Nat

/-- What a scrub of a port's tier finds (R275): nonce, port. Corrected errors, and the physical addresses of uncorrectable words. -/
opaque Config.scrubErrors : Nat → Nat → Nat
opaque Config.scrubBad : Nat → Nat → List Nat

/-- Whether a port uses a completed translation in place of a walk (R281). -/
opaque Config.useTlb : Nat → Bool

/-- When within 64 cycles of detection the halt tree reaches the cores (R318). -/
opaque Config.haltDelay : Nat → Nat

/-- Measured power of a region in watts in the last interval (R360), which in an interval of 1 µs is its energy in microjoules (R305):
nonce, region. -/
opaque Config.regionPower : Nat → Nat → Nat

/-- Measured power in watts of everything outside the regions and the Avbuak links (R360). -/
opaque Config.otherPower : Nat → Nat

/-- Eye margin of a lane in millivolts (R362): nonce, lane 128·link + lane. -/
opaque Config.laneMargin : Nat → Nat → Nat

/-- Measured gain of a step of an equaliser setting (R362): nonce, lane, setting; its sign is the direction of the step. -/
opaque Config.eqGap : Nat → Nat → Nat → Int

/-- Cycles that the copy engine takes from one line to the next, and those of SPLD in the array, which no rule states. -/
opaque Config.unitTime : Nat → Nat

/-- Time of a step of the dawn sequence (R358). -/
opaque Config.dawnTime : Nat → Nat

/-- Time of a step on the host side of the PCIe link (R394). -/
opaque Config.hostTime : Nat → Nat

/-- Contents of an SPDM response that depend on keys, certificates or hashes (R355, R356): kind of response, request bytes. -/
opaque Config.spdmBytes : Nat → List (BitVec 8) → List (BitVec 8)

/-- SHAKE256 with 64-byte output (R355). -/
opaque Config.shake256 : List (BitVec 8) → List (BitVec 8)

/-- Fault value of a fatal record whose cause has no address (R315): nonce, code. -/
opaque Config.faultValue : Nat → Nat → Nat

/-- What KLD reads of a poisoned entry (R89, R96): nonce. -/
opaque Config.poisonedWord : Nat → BitVec 64

/-- Whether a source routes a packet through an intermediate group when its minimal link has no free buffer (R342). -/
opaque Config.detour : Nat → Bool

/-- Share of the transmitting end, in thousandths, of the energy of a bit on a link (R341): nonce, link. -/
opaque Config.sendShare : Nat → Nat → Nat

/-- Retraining time of an Avbuak link (R344), and the flight time of a packet to another device. -/
opaque Config.linkTime : Nat → Nat

end Sys2Proof
end

