-- ==== Sys2Proof/Machine/Mem.lean ====
section
/-! DEFINITION. Memory as one sorted list of (key, byte). A key is space · 2^48 + offset, the spaces being 0 scratchpads, 1
instruction stores, 2 commons, 3 HBM, 4 LPDDR, 5 host. An unlisted key reads 0 (log entry 3). -/

namespace Sys2Proof.Machine

/-- The byte at a key. -/
def memByte : List Host.Cell → Nat → Byte
  | [], _ => 0
  | (k, b) :: t, i => if k = i then b else if i < k then 0 else memByte t i

/-- Put a cell in front unless its byte is what an unlisted key reads as. -/
def memCons (i : Nat) (b : Byte) (t : List Host.Cell) : List Host.Cell := if b = 0 then t else (i, b) :: t

/-- Write one byte, keeping the canonical form: keys strictly rising, no byte equal to 0. -/
def memPut : List Host.Cell → Nat → Byte → List Host.Cell
  | [], i, b => memCons i b []
  | (k, v) :: t, i, b =>
    if k = i then memCons i b t else if i < k then memCons i b ((k, v) :: t) else (k, v) :: memPut t i b

/-- `n` bytes from a key upward. -/
def memRead (m : List Host.Cell) : Nat → Nat → List Byte
  | _, 0 => []
  | k, n + 1 => memByte m k :: memRead m (k + 1) n

/-- Write bytes from a key upward. -/
def memWrite (m : List Host.Cell) : Nat → List Byte → List Host.Cell
  | _, [] => m
  | k, b :: bs => memWrite (memPut m k b) (k + 1) bs

/-- Zero `n` bytes from a key upward. -/
def memZero (m : List Host.Cell) (k n : Nat) : List Host.Cell := m.filter fun c => c.1 < k || k + n ≤ c.1

/-- The listed bytes of `n` bytes from a key, as offsets from it. -/
def memCells (m : List Host.Cell) (k n : Nat) : List Host.Cell :=
  (m.filter fun c => k ≤ c.1 && c.1 < k + n).map fun c => (c.1 - k, c.2)

/-- Write listed bytes at offsets from a key. -/
def memPutAll (m : List Host.Cell) (k : Nat) : List Host.Cell → List Host.Cell
  | [] => m
  | c :: cs => memPutAll (memPut m (k + c.1) c.2) k cs

/-- Copy `n` bytes from one key to another (whole pages and save areas). -/
def memCopy (m : List Host.Cell) (src dst n : Nat) : List Host.Cell :=
  memPutAll (memZero m dst n) dst (memCells m src n)

/-- The canonical form of a memory list from a lower bound on. -/
def memSorted : Nat → List Host.Cell → Bool
  | _, [] => true
  | lo, (k, b) :: t => decide (lo ≤ k) && b != 0 && memSorted (k + 1) t

/-- The canonical form (guide, Memory): keys strictly rising and no entry equal to what an unlisted key reads as. -/
def Memory.wf (m : List Host.Cell) : Bool := memSorted 0 m

/-- The spaces of the key. -/
def spaceKey (space offset : Nat) : Nat := space * 2 ^ 48 + offset

/-- Key of a scratchpad byte: core and absolute offset in its 64 KiB. -/
def scratchKey (core off : Nat) : Nat := spaceKey 0 (core * 65536 + off)

/-- Key of an instruction-store byte. -/
def istoreKey (core off : Nat) : Nat := spaceKey 1 (core * 16384 + off)

/-- Key of a commons byte. -/
def commonsKey (region off : Nat) : Nat := spaceKey 2 (region * 2 ^ 23 + off)

/-- Key of a physical byte of a tier (R279): 0 HBM, 1 LPDDR, 2 host. -/
def tierKey (tier pa : Nat) : Nat := spaceKey (3 + tier) pa

end Sys2Proof.Machine
end

