-- ==== Sys2Proof/Machine/State.lean ====
section
/-! DEFINITION. The whole state of the device as plain data: threads, contexts, partitions, cores, regions, ports, trap
queues, memory, the device's registers, and the model's own event lists. INVENTORY.md lists every field with its rule. -/

namespace Sys2Proof.Machine

/-- A handle (R197): view offset, slot size, slot count and the four counts modulo 2^16. -/
structure Handle where
  base : Nat := 0
  size : Nat := 0
  n : Nat := 0
  p : Nat := 0
  c : Nat := 0
  pe : Nat := 0
  ce : Nat := 0
  deriving DecidableEq, Repr

/-- An accepted, unfinished tile command (R192 to R199, R221 to R225): what acceptance fixed (sequence number, issuing thread, TCMD's pc, SR
key and write count, promise with its lines), whether it started, the claimed slots, the copy cursor with its index or target list (of a
matrix command: its scale bytes) and the source bytes read but not yet converted, the lines whose writes are unacknowledged (as 2^24 · row +
line of the row) and the number of unanswered accesses, whether it is parked at a read, when its unit is done with it, and the results that
completion applies: bytes of slots, device address writes, accumulators and side memory banks whole. -/
structure QEntry where
  seq : Nat
  tid : Nat
  pc : Nat
  word : BitVec 256
  key : Nat := 0
  wc : Nat := 0
  vt : Nat := 0
  lines : Nat := 0
  started : Bool := false
  slotA : Nat := 0
  slotB : Nat := 0
  slotC : Nat := 0
  slotD : Nat := 0
  next : Nat := 0
  idx : List Nat := []
  carry : List Byte := []
  lineAcks : List Nat := []
  unacked : Nat := 0
  parked : Bool := false
  reading : Bool := false
  allRead : Bool := true
  cost : Nat := 0                      -- cycles to run once earlier conflicting commands are complete (R194), 0 when it need not wait
  finish : Option Nat := none
  outBytes : List (Nat × List Byte) := []
  outDev : List (Nat × List Byte) := []
  outAcc : List (Nat × List Nat) := []
  outSide : List (Nat × List Nat) := []
  flags : Nat := 0
  deriving DecidableEq, Repr

/-- The loop unit (R202): strides are b[21:0] of TLOOP. -/
inductive LoopSt where
  | idle
  | capturing (tid left m strides : Nat) (cmds : List QEntry)
  | pushing (m strides iter pos : Nat) (cmds : List QEntry)
  deriving DecidableEq, Repr

/-- The graph state that RULES sets (R234). -/
structure GraphSt where
  rtab : Word
  cl : Nat
  abase : Nat
  bsz : Nat
  boff : Nat
  deriving DecidableEq, Repr

/-- A reader's side of a channel (R177, R179): words taken, valid bits of the sixteen quads, writer core of the untaken words. -/
structure RdChan where
  taken : Nat := 0
  valid : Nat := 0
  writer : Option Nat := none
  deriving DecidableEq, Repr

/-- An entry of the writer table (R177). -/
structure WrChan where
  dst : Nat
  idx : Nat
  sent : Nat
  untaken : Nat
  deriving DecidableEq, Repr

/-- An entry of the accord table (R148). -/
structure AccTab where
  acc : Nat
  gen : Nat
  epoch : Nat
  qa : Quorum
  qb : Option Quorum
  llen : Nat
  desc : Nat
  conv : Bool
  strict : Bool
  owner : Nat
  deriving DecidableEq, Repr

/-- A message or spawn held at its source router with the class 0x2 stores it waits for (R174). -/
structure HeldMsg where
  m : Msg
  spawn : Bool
  after : List Nat
  deriving DecidableEq, Repr

/-- The state of one partition of one core; the defaults are its state when no context has held it. -/
structure Part where
  owner : Nat := 0
  queue : List QEntry := []
  seqCtr : Nat := 0
  dead : Option Nat := none            -- the first command that faulted: neither it nor a later one starts (R84, R229)
  handles : List (Nat × Handle) := []
  table : List Int := []
  esc : Bool := false
  key : Nat := 0
  wcount : Nat := 0
  sticky : Nat := 0
  newFlags : Nat := 0                  -- flags set in cycle `newAt`, which TSTAT leaves set (R228)
  newAt : Nat := 0
  mark : Word := 0
  loop : LoopSt := .idle
  reserved : List Nat := []            -- threads whose rewrite handler has a queue entry kept for its command (R244)
  prev : Option (Nat × Nat) := none    -- (sequence, vt) of the previous accepted copy-family command
  bag : Nat := 0
  graph : Option GraphSt := none
  bump : Nat := 0
  free : List Nat := []
  quarantine : List (Nat × Nat) := []  -- node and the sw.VTIME at which it was freed (R236)
  rd : List (Nat × RdChan) := []
  wr : List WrChan := []
  msgs : List Msg := []
  arrivals : List Nat := []
  flags : Nat := 0                     -- event flags of the sixteen slots (R263)
  accTab : List AccTab := []
  ckptTimer : Bool := false
  ckptStep : Bool := false
  ckptCount : Nat := 0
  budgetTrap : Bool := false
  sent : Nat := 0
  rcvd : Nat := 0
  discarded : Nat := 0
  codeOut : List (Nat × Nat) := []     -- (target core, store id) of unacknowledged class 0x2 stores
  held : List HeldMsg := []
  bounced : List GraphPkt := []        -- pair pushes that wait for room in the bag (R240)
  stopCycle : Option Nat := none       -- when a gang stop stopped the core (R319)
  liveMask : Nat := 0
  faulter : Bool := false
  startWait : List (Nat × Nat) := []   -- replay: since when a start of a record type waits for its turn (R330)
  zeroUntil : Nat := 0                 -- when the zeroing of a partition that nobody owns ends (R293)
  deriving DecidableEq, Repr

/-- A shadow comparator (R131): scratchpad range still unread, and the accesses it holds. -/
structure Shadow where
  src : Nat                            -- core of the copying command
  part : Nat
  seq : Nat
  lo : Nat
  hi : Nat
  held : List (Nat × Access)           -- with the absolute offset of each
  deriving DecidableEq, Repr

/-- An entry of a core's line table (R335): the route of its packets (false: x first), the next sequence number, and how many are
unacknowledged. `tracked` is false for a line that found the table full: its packets go x first and carry no sequence number, and only
their count is kept. -/
structure LineEnt where
  yFirst : Bool := false
  seq : Nat := 0
  count : Nat := 0
  tracked : Bool := true
  deriving DecidableEq, Repr

/-- What a core has one of: accumulators (R7, R10), side memory (R207), shadow comparators (R131), the unit times of its tile
engine (R208, R213), whose turn it is (R196), and the router (R338). -/
structure CoreSt where
  acc : List (Nat × Nat) := []         -- element 1024·a + 32·i + j, fp32 bits; unlisted 0
  side : List (Nat × Nat) := []        -- byte 512·bank + i; unlisted 0
  shadows : List Shadow := []
  matrixBusy : Nat := 0
  vectorBusy : Nat := 0
  copies : Nat := 0
  turns : List (Nat × Nat) := []       -- by unit: the partition whose turn is next
  router : Nat := 0                    -- 0 ON, 1 GATED, 2 WAKING
  idle : Nat := 0                      -- first cycle of its idleness
  lines : List (Nat × LineEnt) := []   -- the line table (R335), by line
  deriving DecidableEq, Repr

/-- An acceptor's slot entry (R140). -/
structure SlotEntry where
  slot : Nat
  p : Nat := 0
  ab : Nat := 0
  av : Word := 0
  ao : Nat := 0
  decided : Bool := false
  config : Bool := false
  acked : Bool := false                -- its decision-array write is acknowledged
  deriving DecidableEq, Repr

/-- A run record (R152). -/
structure RunRec where
  bal : Nat
  lo : Nat
  hi : Nat
  deriving DecidableEq, Repr

/-- A configuration entry of an open accord at a member with all that the member keeps for it (R140, R151, R184). -/
structure AccCfg where
  acc : Nat
  gen : Nat
  epoch : Nat
  trunc : Nat
  front : Nat
  llen : Nat
  darr : Nat                           -- device address of the decision array; 0 for a control accord
  desc : Nat
  owner : Nat                          -- owning context; 0 for launch and control accords
  part : Nat                           -- share from which its entries are drawn
  qa : Quorum
  qb : Option Quorum
  strict : Bool
  wsen : Nat
  proto : Option Proto
  conv : Nat := 0                      -- conversation state σ
  roles : List (Nat × Nat) := []       -- owners, unlisted 0
  hist : List (Nat × Nat × Nat) := []  -- states before decided slots: (slot, σ, kind 16 marks a configuration slot)
  past : List (Nat × Nat) := []        -- role changes: (8·slot + role, owner after that slot)
  entries : List SlotEntry := []
  late : List SlotEntry := []          -- decisions recorded without an entry (R142), until the frontier has passed them
  writing : List (SlotEntry × Nat) := [] -- array writes in progress: 2, 1 stores before quad 1 unanswered, 0 quad 1 unanswered (R138)
  reads : List (Nat × ArrayAsk) := []  -- array reads in progress (R397)
  runs : List RunRec := []
  waits : List LReq := []
  cfgAt : Option Nat := none           -- first slot of a configuration that is decided and not yet registered here (R158)
  opener : Nat × Nat := (0, 0)         -- thread and operation of the OPEN that registered it
  frozen : Option (Nat × Nat) := none  -- holder, expiry
  lease : Option (AMsg × Nat) := none  -- at the gate: holder's request, expiry
  leaseQ : List AMsg := []
  deriving DecidableEq, Repr

/-- A directory record (R139). `poisoned` says that its word is uncorrectable (R145); `passed` lists the members on other devices that have
reported a frontier past the first slot of quorum B, so that it may take over (R158). -/
structure DirRec where
  desc : Nat := 0
  owner : Nat := 0
  epoch : Nat := 0
  gen : Nat := 0
  isOpen : Bool := false
  vd : Option Nat := none              -- the virtual device of a launch accord
  poisoned : Bool := false
  passed : List (Nat × Nat) := []
  deriving DecidableEq, Repr

/-- A hardware barrier (R132): kind 0 REGION, 1 ROW, 2 COL. -/
structure Bar where
  phase : Nat := 0
  arrived : List Nat := []
  releasing : Bool := false
  deriving DecidableEq, Repr

/-- A block of the region bag (R240): the core that spilled it, its place and its entries, oldest first, and the commons offset of the bag
in which it lies. -/
structure BagBlock where
  core : Nat
  index : Nat
  count : Nat
  boff : Nat
  deriving DecidableEq, Repr

/-- The state of one region. Tables are keyed by partition index, barriers by 64·part + 16·kind + index. -/
structure Region where
  accs : List AccCfg := []
  dir : List (Nat × DirRec) := []
  bars : List (Nat × Bar) := []
  runq : List (Nat × List (Nat × Option Nat)) := []
  spill : List (Nat × List Msg) := []
  bags : List (Nat × List BagBlock) := []
  clock : Nat := 1300
  target : Nat := 1300
  narrow : Bool := false
  excluded : Bool := false
  ce : Nat := 0
  used : List (Nat × Nat) := []        -- issue cycles and tile-engine cycles of the interval, by context (R305)
  deriving DecidableEq, Repr

/-- A segment descriptor (R22). -/
structure Seg where
  base : Nat := 0
  limit : Nat := 0
  r : Bool := false
  w : Bool := false
  x : Bool := false
  m : Bool := false
  a : Bool := false
  deriving DecidableEq, Repr

/-- The first fatal report of a context (R315). -/
structure FatalRep where
  code : Nat
  tid : Nat
  core : Nat
  pc : Nat
  addr : Nat
  cyc : Nat
  deriving DecidableEq, Repr

/-- A snapshot image being written (R288 to R291): the request fields, the destination, and the pages still to write. -/
structure ImageJob where
  epoch : Nat
  req : Nat
  label : Word
  dest : Nat
  tid : Nat
  cyc : Nat
  vt : Nat
  todo : List (Nat × Nat)              -- (segment, byte offset in the segment)
  inexact : Nat := 0
  overflow : Nat := 0
  nans : Nat := 0
  poison : Nat := 0
  failed : Bool := false
  parked : Bool := false
  writing : Bool := true
  begun : Bool := false                -- quad 0 says WRITING
  headed : Bool := false               -- quads 1 to 511 are written
  held : List Access := []             -- writes that wait for their page (R289)
  deriving DecidableEq, Repr

/-- What a stopped context has in its save area (R323): its threads; its partitions; accumulators, side memory and comparators of its
cores; barriers, run queues, spill queues and bag blocks of its regions; bytes and poison of its banks and slices; the packets that
arrived meanwhile; and what the save area held in HBM at the end of the save. -/
structure Saved where
  threads : List (Nat × Thread) := []
  parts : List (Nat × Part) := []
  cores : List (Nat × CoreSt) := []
  bars : List (Nat × List (Nat × Bar)) := []
  runq : List (Nat × List (Nat × Option Nat)) := []
  spill : List (Nat × List Msg) := []
  bags : List (Nat × List BagBlock) := []
  bytes : List Host.Cell := []
  poison : List Nat := []
  packets : List Instr := []
  area : List Host.Cell := []
  deriving DecidableEq, Repr

/-- Where a context is in its life (R302, R318, R321). -/
inductive Life where
  | running
  | descheduled
  | stopped (killed : Bool)
  deriving DecidableEq, Repr

/-- The order log of a context (R325 to R330): ring, log2 of the segment size, flags, and per region the records appended and the cycle
of the last one (tail and head stand in the ring); per object the next sequence number; replay cursors. -/
structure LogSt where
  ring : Nat := 0
  lseg : Nat := 0
  on : Bool := false
  paused : Bool := false
  rpl : Bool := false
  start : Nat := 0
  counts : List (Nat × Nat) := []
  last : List (Nat × Nat) := []
  oseq : List (Nat × Nat) := []        -- object key (type class · 2^64 + object)
  cursors : List (Nat × Nat) := []     -- replay: lowest record not yet consumed, by region
  used : List Nat := []                -- replay: consumed records above that, as 2^32 · region + record
  lastTurn : Nat := 0                  -- replay: cycle at which a record was last consumed
  deriving DecidableEq, Repr

/-- A live context (R21, R296). -/
structure Ctx where
  vd : Nat
  part : Nat
  ox : Nat
  oy : Nat
  w : Nat
  h : Nat
  acc : Nat
  slot : Nat
  segs : List Seg
  tvec : Option Nat
  sys : Bool := false
  det : Bool := false
  barr : Bool := false
  log : LogSt := {}
  vtAcc : Nat := 0                     -- sw.VTIME accumulated before `vtSince`
  vtSince : Option Nat := none
  budget : Nat := 0
  energy : Nat := 0
  exhausted : Bool := false
  prio : Nat := 0
  period : Nat := 0
  steps : Nat := 0
  root4 : Nat := 0
  root5 : Nat := 0
  root6 : Nat := 0
  save : Nat := 0
  done : Nat := 0
  life : Life := .running
  fault : Option FatalRep := none
  more : Nat := 0
  dusk : Option Nat := none
  epoch : Nat := 0
  epochs : List (Nat × Nat) := []      -- epoch that a slot of the control accord fixed
  image : Option ImageJob := none
  saved : Option Saved := none
  zeroing : Bool := false              -- its cores are being zeroed for it (R293)
  record : Nat := 0                    -- device address of its launch record
  deriving DecidableEq, Repr

/-- An access held at a port (R314): the uid of its trap-queue record when it has one, and whether it waits behind another of its line. -/
structure HeldAcc where
  acc : Access
  trap : Option Nat                    -- uid of its record
  behind : Bool
  deriving DecidableEq, Repr

/-- A completed translation (R281); `entry` is the HBM address of its table entry, in which A and D are set. -/
structure Tlb where
  ctx : Nat
  cls : Nat
  va : Nat
  size : Nat
  pa : Nat
  tier : Nat
  r : Bool
  w : Bool
  m : Bool
  entry : Nat
  deriving DecidableEq, Repr

/-- A page in motion or being zeroed, with the accesses that wait for it (R284, R287). `size` bytes from `va`. -/
structure PageJob where
  ctx : Nat
  cls : Nat
  va : Nat
  size : Nat
  tier : Nat
  pa : Nat
  entry : Nat                          -- HBM address of its table entry
  newTier : Nat
  newPa : Nat
  waiting : List Access
  cmd : Option Nat                     -- ring entry whose status the end of the move writes
  deriving DecidableEq, Repr

/-- A memory port or the set of free frames it serves: 0–7 HBM, 8–11 LPDDR, 12 host. -/
structure Port where
  held : List HeldAcc := []
  tlb : List Tlb := []
  ce : Nat := 0
  deriving DecidableEq, Repr

/-- A trap-queue record (R315). `live` says that its access is still parked, `uid` names what it parks. -/
structure TrapRec where
  seq : Nat
  type : Nat
  tid : Nat
  cause : Nat
  cls : Nat
  kind : Nat
  skipOk : Bool
  core : Nat
  part : Nat
  ctx : Nat
  pc : Nat
  addr : Nat
  more : Nat
  cyc : Nat
  live : Bool
  uid : Nat
  deriving DecidableEq, Repr

/-- A trap queue (R316): records in use by position, insertion count, consumer index, window address, waiting records. -/
structure TrapQ where
  recs : List (Nat × TrapRec) := []
  ins : Nat := 0
  head : Nat := 0
  window : Nat := 0
  waiting : List TrapRec := []
  deriving DecidableEq, Repr

/-- A used schedule entry (R308). -/
structure Sched where
  p : Nat
  vd : Nat
  weight : Nat
  qbase : Nat
  qlen : Nat
  quantum : Nat
  deriving DecidableEq, Repr

/-- The turn of one partition index (R309): entry in turn, quanta left in the turn, start of the quantum, idle between stops. -/
structure Turn where
  idx : Nat := 0
  left : Nat := 0
  start : Nat := 0
  switching : Bool := false
  deriving DecidableEq, Repr

/-- A partition set (R308). -/
structure PSet where
  rx : Nat
  ry : Nat
  rw : Nat
  rh : Nat
  n : Nat
  holder : Nat
  entries : List Sched
  turns : List (Nat × Turn)
  raw : List Word                      -- the descriptor's quads, for measurement 4 (R355)
  readyAt : Nat := 0                   -- when the zeroing of its quotas ends (R293)
  deriving DecidableEq, Repr

/-- A virtual device (R300, R353): launch accord, next slot to start, values that AREAS set for future contexts, debug key. -/
structure Vd where
  acc : Option Nat := none
  next : Nat := 0
  save : Nat := 0
  window : Nat := 0
  root4 : Nat := 0
  root5 : Nat := 0
  root6 : Nat := 0
  dbg : Option (List Byte) := none
  decided : List (Nat × Word) := []    -- decided launch slots not yet started
  offered : List Word := []            -- records that the management function has submitted and that no slot holds yet (R251)
  sysSlots : List Nat := []            -- decided slots that it submitted
  deriving DecidableEq, Repr

/-- A grant (R311, R353): an accord, or a window table entry of 64 descriptors (R277). -/
structure Grant where
  owner : Nat
  grantee : Nat
  acc : Option Nat
  window : List Word
  deriving DecidableEq, Repr

/-- A host ring (R351). -/
structure Ring where
  base : Word := 0
  size : Nat := 0
  tail : Nat := 0
  head : Nat := 0
  deriving DecidableEq, Repr

/-- A packet that waits for a link (R342 to R344): the device it goes to, its lane, the Avbuak hops it has taken, what it is when it is
this device's own, and the payloads of its flits. -/
structure Waiting where
  dest : Nat
  lane : Nat
  hop : Nat
  what : Option Instr
  flits : List (List Byte)
  deriving DecidableEq, Repr

/-- An Avbuak link (R341 to R344, R362). -/
structure Link where
  up : Bool := false
  retrains : Nat := 0
  margin : Nat := 0
  low : List Nat := []                 -- by lane: consecutive intervals below 10 mV
  taps : List (List Int) := []         -- by lane: three feed-forward taps and the receive equaliser; unlisted 0
  replay : List Flit := []
  next : Nat := 0                      -- next sequence number to send
  expect : Nat := 0                    -- next sequence number expected
  resends : Nat := 0
  lastAck : Nat := 0                   -- cycle of the last acknowledgement
  naks : List Nat := []                -- NAKs returned, oldest first
  flight : Nat := 0                    -- one-way flight time in cycles (R342)
  cut : List Byte := []                -- header of the packet whose first flits have left the replay buffer
  through : List (Nat × List Flit) := [] -- by virtual channel: the flits received so far of the packet in progress
  bitsOut : Nat := 0                   -- flits sent and received since the last power interval (R341)
  bitsIn : Nat := 0
  deriving DecidableEq, Repr

/-- Packets delivered here for a thread of another device in one fence interval (R345). -/
structure InCount where
  dev : Nat
  tid : Nat
  iv : Nat
  total : Nat
  closed : Bool
  deriving DecidableEq, Repr

/-- The SPDM mailbox (R355). -/
structure Spdm where
  version : Bool := false
  caps : Bool := false
  algs : Bool := false
  keyed : Bool := false
  session : Option (List Byte) := none
  answers : List (List Byte) := []
  deriving DecidableEq, Repr

/-- Everything the device has one of. -/
structure Dev where
  state : Nat := 0                     -- dawn state (R358)
  failed : Nat := 0                    -- failed step
  id : Nat := 0
  keys : Bool := false
  wakev : Word := 0
  pcap : Nat := 4000
  pwr : Nat := 0
  alarm : Bool := false
  alarmExt : Bool := false
  alarmCount : Nat := 0
  overCnt : Nat := 0
  clearCnt : Nat := 0
  regulator : Bool := false
  sweeping : Bool := false
  migrating : List PageJob := []
  zeroing : List PageJob := []
  frames : List (Nat × List Nat) := [] -- free frames by 4·tier + size
  owners : List (Nat × Nat) := []      -- owner context of a 64 KiB frame: (tier · 2^40 + frame number)
  groups : Nat := 0                    -- groups of the fabric (R340); 0 before the links are trained
  backlog : List Waiting := []         -- packets that no route can carry yet (R344), oldest first
  parked : List (Nat × Instr) := []    -- answers of members parked by a translation fault (R397), by record uid
  deriving DecidableEq, Repr

/-- On whose behalf the step in progress acts. -/
inductive Focus where
  | idle
  | thread (tid : Nat)                 -- the issuing thread
  | op (tid op : Nat)                  -- an operation of a thread
  | part (core p : Nat)                -- a partition of a core, its tile engine included
  | cmd (core p seq : Nat)             -- a started tile command
  | member (region acc : Nat)          -- an acceptor on behalf of an accord
  | ctx (c : Nat)
  | core (c : Nat)                     -- a router
  | link (l : Nat)
  | ring (k : Nat)                     -- a host ring: 0 memory, 1 configuration, 2 launch, 3 + v of virtual function v
  | dawn                               -- a step of the dawn sequence (R358)
  deriving DecidableEq, Repr

/-- The journey of a packet in the on-module network: its ends, its injection cycle (R337), and whether it goes along y first (R335). -/
structure Trip where
  src : Nat
  dst : Nat
  born : Nat
  yFirst : Bool
  deriving DecidableEq, Repr

/-- A future internal step or a packet in flight: due cycle, order key (packets with one nonzero key stay in order), what it is,
on whose behalf, and the journey of a packet of the on-module network. -/
structure Pend where
  due : Nat
  key : Nat
  what : Instr
  who : Focus
  trip : Option Trip := none
  deriving DecidableEq, Repr

/-- What the outside does next: so many cycles after the happening before it. -/
structure Happening where
  wait : Nat
  what : Instr
  who : Focus
  deriving DecidableEq, Repr

/-- The machine. `focus`, `cursor`, `pend`, `agenda`, `nonce`, `outbox` and `fresh` are the model's own. -/
structure State where
  cycle : Nat
  focus : Focus
  cursor : Nat
  nonce : Nat
  pend : List Pend
  agenda : List Happening
  outbox : List (Nat × Instr)          -- packets handed to other devices, newest first
  mem : List Host.Cell
  poison : List Nat
  fresh : List Host.Cell               -- what scratchpad bytes held before writes were delivered to them in this cycle (R77)
  threads : List (Nat × Thread)
  ctxs : List (Nat × Ctx)
  parts : List (Nat × Part)
  cores : List (Nat × CoreSt)
  regions : List (Nat × Region)
  ports : List (Nat × Port)
  trapqs : List (Nat × TrapQ)
  sets : List PSet
  vds : List (Nat × Vd)
  grants : List Grant
  rings : List (Nat × Ring)            -- 0 memory, 1 configuration, 2 launch, 3 + v of virtual function v
  links : List (Nat × Link)
  counts : List InCount
  spdm : Spdm
  dev : Dev
  deriving DecidableEq, Repr

/-- Why a step cannot be taken at all. -/
inductive Fault where
  /-- Raised by the meaning of a scalar word when no thread is in focus. The step never calls it so; it is safe. -/
  | noIssuer
  /-- Raised by the meaning of a tile command, or of a step that acts on what is in focus, when nothing of its kind is in focus.
  The step calls it so only for a happening that State.agenda holds without its subject; it is safe. -/
  | noSubject
  deriving DecidableEq, Repr

/-- Why an instruction has no meaning. -/
inductive Refusal where
  /-- Raised by an arm of the dispatch whose instruction has no meaning yet. It is safe: nothing is proved of it. -/
  | notModelled (mnemonic : String)
  deriving DecidableEq, Repr

/-- The machine right after reset: dawn state ROM at cycle 0 (R1, R358), every SRAM zero, no partition set, no context and no
thread; registers without a reset value of the spec as the log's entry 12 says. -/
def State.reset : State where
  cycle := 0
  focus := .idle
  cursor := 0
  nonce := 0
  pend := []
  agenda := []
  outbox := []
  mem := []
  poison := []
  fresh := []
  threads := []
  ctxs := []
  parts := []
  cores := []
  regions := []
  ports := []
  trapqs := []
  sets := []
  vds := []
  grants := []
  rings := []
  links := []
  counts := []
  spdm := {}
  dev := { sweeping := true }

end Sys2Proof.Machine
end

