-- ==== Sys2Proof/Machine/Ops.lean ====
section
/-! DEFINITION. The named operations that every meaning uses: tables of threads, contexts, partitions, cores and regions;
geometry (R5 to R8); events and packets in flight (R333); registers (R13 to R15); retiring an instruction; fatal faults and
the trap queue (R312 to R317); taking a recoverable trap and returning from it (R256 to R260). -/

namespace Sys2Proof.Machine

/-- The outcome of a meaning. -/
abbrev Res := Host.Outcome State Fault Refusal

/-! ### Tables -/

def getThread (s : State) (tid : Nat) : Option Thread := tblFind s.threads tid

def setThread (s : State) (t : Thread) : State := { s with threads := tblSet s.threads t.id t }

def modThread (s : State) (tid : Nat) (f : Thread → Thread) : State :=
  match getThread s tid with
  | some t => { s with threads := tblSet s.threads tid (f t) }
  | none => s

def dropThread (s : State) (tid : Nat) : State := { s with threads := tblErase s.threads tid }

def getCtx (s : State) (c : Nat) : Option Ctx := tblFind s.ctxs c

def setCtx (s : State) (c : Nat) (x : Ctx) : State := { s with ctxs := tblSet s.ctxs c x }

def modCtx (s : State) (c : Nat) (f : Ctx → Ctx) : State :=
  match getCtx s c with
  | some x => setCtx s c (f x)
  | none => s

def partKey (core p : Nat) : Nat := core * 4 + p

def getPart (s : State) (core p : Nat) : Part := tblGet {} s.parts (partKey core p)

def setPart (s : State) (core p : Nat) (x : Part) : State := { s with parts := tblSet s.parts (partKey core p) x }

def modPart (s : State) (core p : Nat) (f : Part → Part) : State := setPart s core p (f (getPart s core p))

def getCore (s : State) (core : Nat) : CoreSt := tblGet {} s.cores core

def setCore (s : State) (core : Nat) (x : CoreSt) : State := { s with cores := tblSet s.cores core x }

def modCore (s : State) (core : Nat) (f : CoreSt → CoreSt) : State := setCore s core (f (getCore s core))

def getRegion (s : State) (g : Nat) : Region := tblGet {} s.regions g

def setRegion (s : State) (g : Nat) (x : Region) : State := { s with regions := tblSet s.regions g x }

def modRegion (s : State) (g : Nat) (f : Region → Region) : State := setRegion s g (f (getRegion s g))

def getPort (s : State) (p : Nat) : Port := tblGet {} s.ports p

def setPort (s : State) (p : Nat) (x : Port) : State := { s with ports := tblSet s.ports p x }

def modPort (s : State) (p : Nat) (f : Port → Port) : State := setPort s p (f (getPort s p))

def getTrapQ (s : State) (q : Nat) : TrapQ := tblGet {} s.trapqs q

def setTrapQ (s : State) (q : Nat) (x : TrapQ) : State := { s with trapqs := tblSet s.trapqs q x }

def getVd (s : State) (v : Nat) : Vd := tblGet {} s.vds v

def modVd (s : State) (v : Nat) (f : Vd → Vd) : State := { s with vds := tblSet s.vds v (f (getVd s v)) }

/-- Count cycles of issue or of the tile engine for the context that holds a partition of a core (R305). -/
def countCycles (s : State) (g ctx n : Nat) : State :=
  modRegion s g fun r => { r with used := tblSet r.used ctx (tblGet 0 r.used ctx + n) }

/-! ### Geometry -/

def coreX (c : Nat) : Nat := c % 128

def coreY (c : Nat) : Nat := c / 128

def coreAt (x y : Nat) : Nat := y * 128 + x

/-- The region of a core (R5). -/
def regionOf (c : Nat) : Nat := coreY c / 16 * 8 + coreX c / 16

/-- The die of a core (R5). -/
def dieOf (c : Nat) : Nat := coreY c / 32 * 4 + coreX c / 32

/-- Core at region-relative position (x, y) of region g. -/
def regionCore (g x y : Nat) : Nat := coreAt (g % 8 * 16 + x) (g / 8 * 16 + y)

/-- The core whose router serves the acceptor and commons of a region (R6). -/
def regionHub (g : Nat) : Nat := regionCore g 8 8

/-- Attachment core of a port (R394): 0–7 HBM, 8–11 LPDDR, 12 host. -/
def portCore (p : Nat) : Nat :=
  if p < 4 then coreAt (32 * p + 16) 0
  else if p < 8 then coreAt (32 * (p - 4) + 16) 127
  else if p < 12 then coreAt 0 (32 * (p - 8) + 16)
  else coreAt 127 64

/-- The region to which a port attaches (R394). -/
def portRegion (p : Nat) : Nat := regionOf (portCore p)

/-- The partition set that covers a region (R308, R395). -/
def psetOf (s : State) (g : Nat) : Option PSet :=
  s.sets.find? fun x => x.rx ≤ g % 8 && g % 8 < x.rx + x.rw && x.ry ≤ g / 8 && g / 8 < x.ry + x.rh

/-- Partition count of a core; 0 in an unconfigured region. -/
def partCount (s : State) (core : Nat) : Nat :=
  match psetOf s (regionOf core) with
  | some x => x.n
  | none => 0

/-- The matrix holder of a core (R10). -/
def matrixHolder (s : State) (core : Nat) : Nat :=
  match psetOf s (regionOf core) with
  | some x => x.holder
  | none => 0

/-- View size of a partition (R8); 0 when unconfigured. -/
def viewSize (s : State) (core : Nat) : Nat := if partCount s core = 0 then 0 else 65536 / partCount s core

/-- First scratchpad byte of a partition's view. -/
def viewBase (s : State) (core p : Nat) : Nat := viewSize s core * p

/-- Instruction-store slice of a partition: size, and base p · size (R8). -/
def sliceSize (s : State) (core : Nat) : Nat := if partCount s core = 0 then 0 else 16384 / partCount s core

def sliceBase (s : State) (core p : Nat) : Nat := sliceSize s core * p

/-- Whether a byte address is a fetchable target of a partition (R9, R65). -/
def inSlice (s : State) (core p a : Nat) : Bool :=
  a % 4 == 0 && sliceBase s core p ≤ a && a < sliceBase s core p + sliceSize s core

/-- Slots of a partition: count, first, and the handler slot (R8). -/
def slotCount (s : State) (core : Nat) : Nat := if partCount s core = 0 then 0 else 16 / partCount s core

def firstSlot (s : State) (core p : Nat) : Nat := slotCount s core * p

def handlerSlot (s : State) (core p : Nat) : Nat := firstSlot s core p + slotCount s core - 1

/-- Handles of a partition (R8). -/
def handleCount (s : State) (core : Nat) : Nat := if partCount s core = 0 then 0 else 32 / partCount s core

def inHandles (s : State) (core p h : Nat) : Bool :=
  handleCount s core * p ≤ h && h < handleCount s core * (p + 1)

/-- Whether a context holds a partition of a core (R30). -/
def holds (s : State) (ctx core p : Nat) : Bool := p < partCount s core && (getPart s core p).owner == ctx && ctx != 0

/-- The cores of a context's block, row by row. -/
def blockCores (x : Ctx) : List Nat :=
  (List.range (x.w * x.h)).map fun i => coreAt (x.ox + i % x.w) (x.oy + i / x.w)

/-- Whether a core lies in a context's block. -/
def inBlock (x : Ctx) (core : Nat) : Bool :=
  x.ox ≤ coreX core && coreX core < x.ox + x.w && x.oy ≤ coreY core && coreY core < x.oy + x.h

/-- The regions that a block covers, in ascending order, which is row-major. -/
def blockRegions (x : Ctx) : List Nat := (blockCores x).foldl (fun l c => natInsert l (regionOf c)) []

/-- Physical core of block coordinates taken modulo the block (R28). -/
def blockCore (x : Ctx) (bx by' : Nat) : Nat := coreAt (x.ox + bx % x.w) (x.oy + by' % x.h)

/-! ### Time and events -/

/-- sw.CYCLE (R1, R32). -/
def cycleWord (s : State) : Word := BitVec.ofNat 64 s.cycle

/-- sw.VTIME of a context (R34). -/
def vtimeOf (s : State) (x : Ctx) : Nat :=
  x.vtAcc + (match x.vtSince with
    | some c => s.cycle - c
    | none => 0)

/-- Advance the counter of free values. -/
def bump (s : State) : State := { s with nonce := s.nonce + 1 }

/-- The last due cycle among the pending events of an order key, at least `d`. -/
def keyDue (key : Nat) (d : Nat) : List Pend → Nat
  | [] => d
  | p :: t => keyDue key (if p.key = key && d < p.due then p.due else d) t

/-- Put an event on the list of pending ones. Events of one nonzero order key keep the order in which they were put. -/
def post (s : State) (due key : Nat) (what : Instr) (who : Focus := .idle) : State :=
  { s with pend := s.pend ++ [⟨if key = 0 then due else keyDue key due s.pend, key, what, who, none⟩] }

/-- Put an event of an order key in front of the others of its key, `n` cycles ahead: they wait for it. -/
def postFirst (s : State) (n key : Nat) (what : Instr) : State :=
  let d := s.cycle + n
  { s with pend := ⟨d, key, what, .idle, none⟩ :: s.pend.map fun p => if p.key = key then { p with due := max p.due d } else p }

/-- Put an event `n` cycles ahead. -/
def after (s : State) (n : Nat) (what : Instr) (who : Focus := .idle) : State := post s (s.cycle + n) 0 what who

/-- Steps along one axis of the torus from `a` to `b`: positive direction first at distance 64 (R333). -/
def axisHops (a b : Nat) : Nat := if (b + 128 - a) % 128 ≤ 64 then (b + 128 - a) % 128 else (a + 128 - b) % 128

/-- Die crossings along one axis (R333); every wrap-around link crosses. -/
def axisCross (a b : Nat) : Nat :=
  let f := (b + 128 - a) % 128
  if f ≤ 64 then (a + f) / 32 - a / 32 else (a + 128) / 32 - (a + f) / 32

def hops (a b : Nat) : Nat := axisHops (coreX a) (coreX b) + axisHops (coreY a) (coreY b)

def dieCross (a b : Nat) : Nat := axisCross (coreX a) (coreX b) + axisCross (coreY a) (coreY b)

/-- Uncontended latency L of R333 for a payload in bytes. -/
def latency (a b payload : Nat) : Nat := 6 + 2 * hops a b + 8 * dieCross a b + (ceilDiv (16 + payload) 64 - 1) + 4

/-- How far a coordinate lies from `p` in the direction that leads from `p` to `q` on its axis (R333). -/
def alongAxis (p q r : Nat) : Nat := if (q + 128 - p) % 128 ≤ 64 then (r + 128 - p) % 128 else (p + 128 - r) % 128

/-- Whether a coordinate lies on the way from `p` to `q` on its axis. -/
def onAxis (p q r : Nat) : Bool := alongAxis p q r ≤ axisHops p q

/-- Whether a core's router lies on a packet's route: x first, or y first (R333, R335). -/
def onRoute (t : Trip) (c : Nat) : Bool :=
  let x := onAxis (coreX t.src) (coreX t.dst) (coreX c)
  let y := onAxis (coreY t.src) (coreY t.dst) (coreY c)
  if t.yFirst then (coreX c == coreX t.src && y) || (coreY c == coreY t.dst && x)
  else (coreY c == coreY t.src && x) || (coreX c == coreX t.dst && y)

/-- The cycle at which a packet injected at `start` reaches a router of its route without delay (R333, R338). -/
def reaches (t : Trip) (start c : Nat) : Nat := start + 6 + 2 * hops t.src c + 8 * dieCross t.src c

/-- Wake the routers on a packet's route that are gated, or will be when it comes: each as the packet reaches the router two hops before
it, the first two as it is accepted (R338). -/
def wakeRoute (t : Trip) (start : Nat) : List (Nat × CoreSt) → State → State
  | [], s => s
  | (c, x) :: l, s =>
    let r := reaches t start c
    let asleep := x.router == 1 || (x.router == 0 && x.idle + 4096 ≤ r)
    wakeRoute t start l (if onRoute t c && asleep then
      post s (if hops t.src c ≤ 2 then start else r - 4) 0 .fireflyWake (.core c) else s)

/-- The passing packet ends the idleness of the routers on its route (R338). -/
def passRoute (t : Trip) (start : Nat) (l : List (Nat × CoreSt)) : List (Nat × CoreSt) :=
  l.map fun e => if onRoute t e.1 then (e.1, { e.2 with idle := max e.2.idle (reaches t start e.1) }) else e

/-- Whether a router that nothing has used since reset is gated or waking (R336, R338): 4,096 cycles after reset or after the wake before
a sweep, and until the next such wake has done. -/
def unusedGated (cycle : Nat) : Bool := 4096 ≤ cycle && 4092 ≤ cycle % 65536 && cycle % 65536 < 65532

/-- How many routers of a route are not on, or may be gated when the packet comes (R338). A core without an entry is one whose router
nothing has used (log entry 57). -/
def gatedOn (s : State) (t : Trip) (start : Nat) : Nat :=
  let l := s.cores.filter fun e => onRoute t e.1
  (l.filter fun e => e.2.router != 0 || e.2.idle + 4096 ≤ reaches t start e.1).length
    + (if unusedGated s.cycle then hops t.src t.dst + 1 - l.length else 0)

/-- Whether a packet is on its way in the on-module network. -/
def inFlight (s : State) : Bool := s.pend.any fun p => p.trip.isSome

/-- What is left of the bound of R116 for a packet that would arrive at `due`. -/
def slack (born due : Nat) : Nat := born + 131072 - due

/-- A new packet contends with every packet in flight, each of which may be delayed within its bound (R116, R337); the events of one order
key keep their order. `n` numbers the packets, the first list holds those done. -/
def contend (nonce : Nat) : Nat → List Pend → List Pend → List Pend
  | _, done, [] => done
  | n, done, p :: l =>
    let due := match p.trip with
      | some t => p.due + Config.netExtra nonce n % (slack t.born p.due + 1)
      | none => p.due
    contend nonce (n + 1) (done ++ [{ p with due := if p.key = 0 then due else keyDue p.key due done }]) l

/-- The first cycle in which a router takes a packet for injection (R336): not before the end of a sweep. -/
def injectAt (c : Nat) : Nat := if c % 65536 < 256 then c - c % 65536 + 256 else c

/-- Send a packet on its journey `wait` cycles from now (R333): uncontended, with every router on and outside a sweep it arrives after L;
a gated router holds it for up to 8 cycles; where other packets are in flight or a sweep begins before it arrives its delay is free, within
the bound of R116. -/
def sendOn (yFirst : Bool) (s : State) (wait src dst payload key : Nat) (what : Instr) (who : Focus := .idle) : State :=
  let born := s.cycle + wait
  let t : Trip := ⟨src, dst, born, yFirst⟩
  let start := injectAt born
  let due := start + latency src dst payload
  let busy := inFlight s
  let extra := if busy || start / 65536 ≠ due / 65536 then Config.netExtra s.nonce 0 % (slack born due + 1)
    else Config.netExtra s.nonce 0 % (8 * gatedOn s t start + 1)
  let s1 := wakeRoute t start s.cores { s with pend := if busy then contend s.nonce 1 [] s.pend else s.pend }
  let p : Pend := ⟨if key = 0 then due + extra else keyDue key (due + extra) s1.pend, key, what, who, some t⟩
  bump { s1 with cores := passRoute t start s1.cores, pend := s1.pend ++ [p] }

def sendAfter (s : State) (wait src dst payload key : Nat) (what : Instr) (who : Focus := .idle) : State :=
  sendOn false s wait src dst payload key what who

def send (s : State) (src dst payload key : Nat) (what : Instr) (who : Focus := .idle) : State :=
  sendAfter s 0 src dst payload key what who

/-- Time of the first leg of a round trip whose return is the packet that the model sends: L, and a free delay below the bound of R116 while
other packets are in flight. -/
def legTime (s : State) (src dst payload : Nat) : Nat :=
  latency src dst payload + (if inFlight s then Config.netExtra s.nonce (2 ^ 20) % 130000 else 0)

/-! ### Packets to other devices (R334, R340 to R344) -/

/-- Whether a device id names a device of the fabric (R340, R347): this device, or one of the groups that the training of the links found
(log entry 20). That no link to it is up makes a packet wait, and no device unreachable (R344). -/
def inFabric (s : State) (d : Nat) : Bool := d == s.dev.id || d < 32 * s.dev.groups

/-- The local port of member `m` towards member `k` of its group (R340). -/
def localPort (m k : Nat) : Nat := if m < k then k - 1 else k

/-- The global links of a group that join it to group `t`, in a fabric of `k` groups (R340). -/
def globalLinks (k g t : Nat) : List Nat :=
  let l := if t < g then t else t - 1
  ((List.range (1024 / max 1 (k - 1) + 1)).map fun j => l + j * (k - 1)).filter fun l => l < 1024

/-- The links of device `id` on which a minimal route to device `d` begins: its own global links to the group first, then the local links
to the members that hold one (R340, R342). -/
def minimalLinks (k id d : Nat) : List Nat :=
  let m := id % 32
  if d / 32 = id / 32 then [localPort m (d % 32)]
  else
    let l := globalLinks k (id / 32) (d / 32)
    ((l.filter fun x => x / 32 == m).map fun x => 31 + x % 32) ++ (l.filter fun x => x / 32 != m).map fun x => localPort m (x / 32)

/-- Whether a link is up and has room in its replay buffer for `n` flits (R343). -/
def linkTakes (k : Link) (n : Nat) : Bool := k.up && k.replay.length + n ≤ 512

/-- The link on which a packet of `n` flits for a device leaves: a minimal one that takes it; when none of them is up, or when the source
chooses to route through another group because their buffers are full, the lowest link that takes it; else none (R342, R344). -/
def pickLink (s : State) (d hop n : Nat) : Option (Nat × Link) :=
  let own := minimalLinks s.dev.groups s.dev.id d
  let minimal := s.links.filter fun l => own.contains l.1
  let other := s.links.filter fun l => !own.contains l.1
  match minimal.find? fun l => linkTakes l.2 n with
  | some l => some l
  | none =>
    if 4 < hop then none
    else if (minimal.all fun l => !l.2.up) || (hop = 0 && Config.detour s.nonce) then other.find? fun l => linkTakes l.2 n
    else none

/-- Lane of a packet (R334): 0 request, 1 reply, 2 migration, 3 control. In the on-module network a lane bears only on contention, which the
free delay of a contended packet covers. -/
def laneOf : Instr → Nat
  | .acknowledgement _ _ => 1
  | .loadReply _ _ _ => 1
  | .fetchMergeReply _ _ _ _ _ => 1
  | .spawnReply _ _ _ => 1
  | .channelCredit _ => 1
  | .countReply _ _ _ _ => 1
  | .memberReply _ _ _ _ => 1
  | .promise _ => 1
  | .accepted _ => 1
  | .nack _ => 1
  | .norun _ => 1
  | .decidednow _ => 1
  | .decidedReply _ => 1
  | .truncReply _ => 1
  | .freezeReport _ => 1
  | .leaseGrant _ => 1
  | .dropNotice _ _ _ => 1
  | .migrationArrival _ => 2
  | .epochNotice _ _ => 3
  | .gangStop => 3
  | .migrate => 3
  | .evict => 3
  | .inval => 3
  | .frames => 3
  | _ => 0

/-- Payload bytes of an access packet (R333): a load request and a merge fit in one beat, a store carries its bytes. -/
def Access.payload (a : Access) : Nat :=
  match a.act with
  | .store bs => bs.length
  | .copyr _ _ _ bs => bs.length
  | _ => 8

/-- Payload of a packet in bytes (R333, R343). -/
def payloadOf : Instr → Nat
  | .storeDelivery a => a.payload
  | .mergeApply a => a.payload
  | .messageArrival m => 8 * m.words.length
  | .spawnRequest m => 8 * m.words.length
  | .migrationArrival _ => 96
  | _ => 8

/-- Who sends a packet, the context on whose behalf, the fence interval, and whether R345 counts it. -/
def senderOf (s : State) : Instr → Nat × Nat × Nat × Bool
  | .storeDelivery a => ofAccess s a
  | .mergeApply a => ofAccess s a
  | .messageArrival m => (m.tid, m.ctx, m.iv, true)
  | .spawnRequest m => (m.tid, m.ctx, 0, false)
  | .channelWord p => (p.tid, p.ctx, 0, false)
  | .migrationArrival p => (p.tid, p.ctx, 0, false)
  | _ => (0, 0, 0, false)
where
  /-- Those of an access. -/
  ofAccess (_ : State) (a : Access) : Nat × Nat × Nat × Bool :=
    match a.who with
    | .thread tid => (tid, a.ctx, a.iv, true)
    | _ => (0, a.ctx, 0, false)

/-- Number of the kind of a packet in its header; R349 speaks of kinds that do not exist. -/
def kindOf : Instr → Nat
  | .storeDelivery _ => 1
  | .mergeApply _ => 2
  | .loadRequest _ => 3
  | .acknowledgement _ _ => 4
  | .fetchMergeReply _ _ _ _ _ => 5
  | .messageArrival _ => 6
  | .spawnRequest _ => 7
  | .spawnReply _ _ _ => 8
  | .channelWord _ => 9
  | .channelCredit _ => 10
  | .remoteAdvance _ => 11
  | .migrationArrival _ => 12
  | .countQuery _ _ _ => 13
  | .countReply _ _ _ _ => 14
  | .dropNotice _ _ _ => 15
  | _ => 16

/-- The 16-byte header of a packet between devices. Its layout is the device's own, and the model's is this (log entry 58): destination,
source, kind, lane, thread, interval, context, whether R345 counts it. -/
def headerBytes (s : State) (d : Nat) (i : Instr) : List Byte :=
  let w := senderOf s i
  leBytes 2 d ++ leBytes 2 s.dev.id ++ leBytes 1 (kindOf i) ++ leBytes 1 (laneOf i) ++ leBytes 5 w.1 ++ leBytes 1 w.2.2.1
    ++ leBytes 2 w.2.1 ++ leBytes 1 (b2n w.2.2.2) ++ [0]

/-- The payload of a packet between devices as far as it is plain data; the rest of it is zero. -/
def payloadBytes : Instr → List Byte
  | .storeDelivery ⟨_, _, _, _, _, _, _, _, _, .store bs, _, _⟩ => bs
  | .messageArrival m => m.words.flatMap fun w => leBytes 8 w.toNat
  | .spawnRequest m => m.words.flatMap fun w => leBytes 8 w.toNat
  | _ => []

/-- Cut bytes into `n` pieces of 56, the last filled up with zeros. -/
def cutFlits : Nat → List Byte → List (List Byte)
  | 0, _ => []
  | n + 1, bs => (bs.take 56 ++ List.replicate (56 - bs.length) 0) :: cutFlits n (bs.drop 56)

/-- The flits of a packet on a link (R342, R343): payloads, then trailers with their sequence numbers, `j` of `n` sent. -/
def flitsOf (k : Link) (vc n : Nat) : Nat → List (List Byte) → List Flit
  | _, [] => []
  | j, b :: bs =>
    let f : Flit := { crc := 0, reserved := false, head := j == 0, tail := j + 1 == n, vc := vc, ack := (k.expect + 4095) % 4096,
                      seq := (k.next + j) % 4096, body := b }
    { f with crc := crc32 f.bytes } :: flitsOf k vc n (j + 1) bs

/-- Put the flits of a packet on a link: they stay in its replay buffer until they are acknowledged, and a link without an
acknowledgement for 65,536 cycles is down (R343). -/
def putOnLink (s : State) (l : Nat) (k : Link) (w : Waiting) : State :=
  let f := flitsOf k (5 * w.lane + w.hop) w.flits.length 0 w.flits
  let k1 := { k with replay := k.replay ++ f, next := (k.next + f.length) % 4096, bitsOut := k.bitsOut + 512 * f.length,
                     lastAck := if k.replay.isEmpty then s.cycle else k.lastAck }
  let s1 := { s with links := tblSet s.links l k1, outbox := match w.what with
    | some i => (w.dest, i) :: s.outbox
    | none => s.outbox }
  if k.replay.isEmpty then after s1 65536 .linkDown (.link l) else s1

/-- Route a packet between devices: onto a link, or behind those that wait (R342, R344). -/
def routeOut (s : State) (w : Waiting) : State :=
  match pickLink s w.dest w.hop w.flits.length with
  | some (l, k) => bump (putOnLink s l k w)
  | none => bump { s with dev := { s.dev with backlog := s.dev.backlog ++ [w] } }

/-- Hand a packet to another device (R342, R343): ⌈(16 + payload)/56⌉ flits. -/
def emit (s : State) (d : Nat) (i : Instr) : State :=
  routeOut s ⟨d, laneOf i, 0, some i, cutFlits (ceilDiv (16 + payloadOf i) 56) (headerBytes s d i ++ payloadBytes i)⟩

/-- Route the packets that wait, in their order, as far as links take them (R344). -/
def routeAll : List Waiting → State → State
  | [], s => s
  | w :: l, s => routeAll l (routeOut s w)

def retryRoutes (s : State) : State := routeAll s.dev.backlog { s with dev := { s.dev with backlog := [] } }

/-- The name of the line of a device address: a class 0x7 address has the line of its physical core (R28, R117). -/
def lineOf (s : State) (ctx da : Nat) : Nat :=
  match getCtx s ctx with
  | some x =>
    if da / 2 ^ 52 = 7 then
      let c := blockCore x (da / 2 ^ 16 % 128) (da / 2 ^ 23 % 128)
      (2 ^ 52 + coreY c * 2 ^ 23 + coreX c * 2 ^ 16 + da % 65536) / 64
    else da / 64
  | none => da / 64

/-- Packets of a core to a line that are not acknowledged (R335). -/
def unackedTo (x : CoreSt) (line : Nat) : Nat := (tblGet {} x.lines line).count

/-- A request packet of a core to a line takes the next sequence number of the line's entry. Without an entry it gets one, with a route of
the adaptive choice, as long as the table of 64 has room, and else goes x first (R335). -/
def enterLine (s : State) (core line : Nat) : State :=
  modCore s core fun x =>
    let e := match tblFind x.lines line with
      | some e => e
      | none =>
        let tracked := x.lines.filter fun (l : Nat × LineEnt) => l.2.tracked
        if tracked.length < 64 then { yFirst := Config.netRoute s.nonce } else { tracked := false }
    { x with lines := tblSet x.lines line { e with count := e.count + 1, seq := if e.tracked then (e.seq + 1) % 256 else 0 } }

/-- One packet of a core to a line is acknowledged; the entry is freed when none is left (R335). -/
def leaveLine (s : State) (core line : Nat) : State :=
  modCore s core fun x =>
    let e := tblGet {} x.lines line
    { x with lines := if e.count ≤ 1 then tblErase x.lines line else tblSet x.lines line { e with count := e.count - 1 } }

/-- The route of the packets of a core to a line: false is x first (R335). -/
def lineRoute (s : State) (core line : Nat) : Bool := (tblGet {} (getCore s core).lines line).yFirst

/-- Order key of the packets of one core to one line (R117, R335). -/
def lineKey (s : State) (ctx core da : Nat) : Nat := (core + 1) * 2 ^ 56 + lineOf s ctx da

/-! ### Registers -/

/-- The value of a register code: zr reads zero (R14). Codes 11 to 15 reach no meaning: the decoder refuses them. -/
def readReg (r : Regs) (c : BitVec 4) : Word :=
  match c.toNat with
  | 0 => r.g0
  | 1 => r.g1
  | 2 => r.g2
  | 3 => r.g3
  | 4 => r.g4
  | 5 => r.g5
  | 6 => r.g6
  | 7 => r.g7
  | 8 => r.g8
  | 9 => r.g9
  | _ => 0

/-- Write a register code: writes to zr are discarded (R14). -/
def writeReg (r : Regs) (c : BitVec 4) (v : Word) : Regs :=
  match c.toNat with
  | 0 => { r with g0 := v }
  | 1 => { r with g1 := v }
  | 2 => { r with g2 := v }
  | 3 => { r with g3 := v }
  | 4 => { r with g4 := v }
  | 5 => { r with g5 := v }
  | 6 => { r with g6 := v }
  | 7 => { r with g7 := v }
  | 8 => { r with g8 := v }
  | 9 => { r with g9 := v }
  | _ => r

/-- Operand read of a thread. -/
def Thread.reg (t : Thread) (c : BitVec 4) : Word := readReg t.regs c

/-- Destination write of a thread. -/
def Thread.setReg (t : Thread) (c : BitVec 4) (v : Word) : Thread := { t with regs := writeReg t.regs c v }

/-- The register code of the even member of a pair (R76). -/
def pairLo (d : BitVec 3) : BitVec 4 := BitVec.ofNat 4 (2 * d.toNat)

/-- The register code of the odd member of a pair. -/
def pairHi (d : BitVec 3) : BitVec 4 := BitVec.ofNat 4 (2 * d.toNat + 1)

/-- The predicate word as it reads: p0 is 1 (R15). -/
def Thread.predWord (t : Thread) : BitVec 16 := t.preds ||| 1

/-- One predicate. -/
def Thread.pred (t : Thread) (p : BitVec 4) : Bool := t.predWord.getLsbD p.toNat

/-- Write one predicate; writes to p0 are discarded (R15). -/
def Thread.setPred (t : Thread) (p : BitVec 4) (b : Bool) : Thread :=
  let m : BitVec 16 := (1 : BitVec 16) <<< p.toNat
  { t with preds := (if b then t.preds ||| m else t.preds &&& ~~~m) ||| 1 }

/-- Write the whole predicate word; bit 0 stays set (R15). -/
def Thread.setPreds (t : Thread) (w : BitVec 16) : Thread := { t with preds := w ||| 1 }

/-- OR flags into sw.FPX (R56). -/
def Thread.orFpx (t : Thread) (f : Nat) : Thread := { t with fpx := t.fpx ||| BitVec.ofNat 5 f }

/-- DEFEAT, the defeat count of the status half-word (R16). -/
def Thread.defeat (t : Thread) : Nat := t.status.toNat % 16

def Thread.setDefeat (t : Thread) (n : Nat) : Thread :=
  { t with status := BitVec.ofNat 16 (t.status.toNat / 16 * 16 + n % 16) }

/-- Set or clear TRAPPEND, status bit 4 (R16). -/
def Thread.setTrapPend (t : Thread) (b : Bool) : Thread :=
  { t with status := if b then t.status ||| 0x10 else t.status &&& 0xFFEF }

/-- Set or clear RECPEND, status bit 5 (R16). -/
def Thread.setRecPend (t : Thread) (b : Bool) : Thread :=
  { t with status := if b then t.status ||| 0x20 else t.status &&& 0xFFDF }

/-- A thread is in a trap while sw.TRAPC is nonzero (R259). -/
def Thread.inTrap (t : Thread) : Bool := t.trapc != 0

/-- The slot of a thread, when it stands in one. -/
def Thread.slot? (t : Thread) : Option Nat :=
  match t.place with
  | .slot n => some n
  | _ => none

/-- Whether a guard lets its word execute (R60). -/
def guardHolds (t : Thread) (g : BitVec 5) : Bool := t.pred (g.setWidth 4) != g.getLsbD 4

/-! ### The trap queue (R315 to R317) -/

/-- The trap queue of a partition index on a core: 4 · first region of its set + index (R317). -/
def trapQueueOf (s : State) (core p : Nat) : Nat :=
  match psetOf s (regionOf core) with
  | some x => 4 * (x.ry * 8 + x.rx) + p
  | none => 4 * regionOf core + p

/-- Whether sw.TQHEAD has passed a sequence number, both counted modulo 2^16. -/
def headPassed (q : TrapQ) (seq : Nat) : Bool := (q.head + 65536 - seq % 65536 - 1) % 65536 < 32768 && q.head != seq % 65536

/-- Whether a position of the queue is in use (R316). -/
def posInUse (q : TrapQ) (pos : Nat) : Bool :=
  match tblFind q.recs pos with
  | some r => r.live || !headPassed q r.seq
  | none => false

/-- Quads 0 to 3 of a record (R315). -/
def trapRecQuads (r : TrapRec) : List Word :=
  [BitVec.ofNat 64 (r.seq % 65536 * 2 ^ 48 + r.type * 2 ^ 40 + r.tid % 2 ^ 40),
   BitVec.ofNat 64 (r.cause * 2 ^ 56 + r.cls * 2 ^ 52 + r.kind * 2 ^ 50 + b2n r.skipOk * 2 ^ 49 + r.core * 2 ^ 34
     + r.part * 2 ^ 32 + r.ctx * 2 ^ 16 + r.pc % 2 ^ 14),
   BitVec.ofNat 64 r.addr,
   BitVec.ofNat 64 (r.more * 2 ^ 32 + r.cyc % 2 ^ 32)]

/-- Bytes of a list of quads. -/
def quadBytes : List Word → List Byte
  | [] => []
  | w :: ws => leBytes 8 w.toNat ++ quadBytes ws

/-- Give a record the next position and write it to the queue window in HBM (R316). -/
def placeRec (s : State) (q : Nat) (r : TrapRec) : State :=
  let tq := getTrapQ s q
  let r' := { r with seq := tq.ins % 65536 }
  let pos := tq.ins % 256
  let s1 := setTrapQ s q { tq with recs := tblSet tq.recs pos r', ins := tq.ins + 1 }
  if tq.window = 0 then s1
  else { s1 with mem := memWrite s1.mem (tierKey 0 (tq.window + 32 * pos)) (quadBytes (trapRecQuads r')) }

/-- Insert the waiting records of a queue as long as two positions are out of use; a thread of which none waits any more loses RECPEND
(R316). The list is the queue's waiting list, oldest first. -/
def insertWaiting (q : Nat) : List TrapRec → State → State
  | [], s => s
  | r :: rs, s =>
    let tq := getTrapQ s q
    let free := !posInUse tq (tq.ins % 256) && (r.type == 5 || !posInUse tq ((tq.ins + 1) % 256))
    if free then
      let s1 := setTrapQ s q { tq with waiting := rs }
      insertWaiting q rs (modThread (placeRec s1 q r) r.tid (·.setRecPend (rs.any fun w => w.type != 5 && w.tid == r.tid)))
    else s

/-- Retry the insertion of waiting records. -/
def retryRecs (s : State) (q : Nat) : State := insertWaiting q (getTrapQ s q).waiting s

/-- A new record: types 1 to 4 wait behind those that wait already, a fatal record goes ahead of every waiting one of types 1 to
4 (R316). Until it is inserted its thread has RECPEND set. -/
def addRec (s : State) (q : Nat) (r : TrapRec) : State :=
  let tq := getTrapQ s q
  let w := if r.type = 5 then tq.waiting.filter (·.type == 5) ++ [r] ++ tq.waiting.filter (·.type != 5)
    else tq.waiting ++ [r]
  let s1 := setTrapQ s q { tq with waiting := w }
  retryRecs (if r.type = 5 then s1 else modThread s1 r.tid (·.setRecPend true)) q

/-! ### Fatal faults (R312, R313, R315, R318) -/

/-- The fault value of a fatal record: the address where the cause has one, the ring index for code 0x17 (R315). An illegal-instruction
fault has one when it is a target outside the slice, which bit 64 of `addr` marks. What it is for the other causes the manual leaves open: a
free value. -/
def faultValue (s : State) (code addr : Nat) : Nat :=
  match code with
  | 0x02 => addr
  | 0x03 => addr
  | 0x10 => addr
  | 0x11 => addr
  | 0x13 => addr
  | 0x15 => addr
  | 0x16 => addr
  | 0x17 => addr
  | _ => if code = 0x01 && 2 ^ 64 ≤ addr then addr - 2 ^ 64 else Config.faultValue s.nonce code % 2 ^ 64

/-- One more fatal fault of a context before its gang stop: the more field of the record that its first fault wrote in cycle `cyc` rises by
one, in the queue and in its window (R316). -/
def countMore (s : State) (q ctx cyc : Nat) : State :=
  let tq := getTrapQ s q
  let mine := fun (r : TrapRec) => r.type == 5 && r.ctx == ctx && r.cyc == cyc
  let f := fun (r : TrapRec) => if mine r then { r with more := r.more + 1 } else r
  let s1 := setTrapQ s q { tq with recs := tq.recs.map fun e => (e.1, f e.2), waiting := tq.waiting.map f }
  match tq.recs.find? fun e => mine e.2 with
  | none => s1
  | some e =>
    if tq.window = 0 then s1
    else { s1 with mem := memWrite s1.mem (tierKey 0 (tq.window + 32 * e.1 + 28)) (leBytes 4 (e.2.more + 1)) }

/-- A fatal fault of a context: `core`, `part` and `pc` say where and at which instruction it is reported, `tid` names the
faulting thread, `addr` is the fault value. The first one of a context is reported and starts its gang stop; later ones are
counted until the gang stop is complete (R315, R316). -/
def raiseFatal (s : State) (ctx core part tid pc code addr : Nat) : State :=
  match getCtx s ctx with
  | none => s
  | some x =>
    match x.fault with
    | some f =>
      match x.life with
      | .stopped _ => s
      | _ => countMore (setCtx s ctx { x with more := x.more + 1 }) (trapQueueOf s f.core part) ctx f.cyc
    | none =>
      let v := faultValue s code addr
      let rep : FatalRep := ⟨code, tid, core, pc, v, s.cycle⟩
      let s1 := setCtx s ctx { x with fault := some rep }
      let s2 := modPart s1 core part fun p => { p with faulter := true }
      let rec' : TrapRec := ⟨0, 5, tid, code, v / 2 ^ 52 % 16, 0, false, core, part, ctx, pc, v, 0, s.cycle, false, 0⟩
      let s3 := addRec s2 (trapQueueOf s2 core part) rec'
      bump (post s3 (s3.cycle + Config.haltDelay s3.nonce % 65) 0 .gangStop (.ctx ctx))

/-- A fatal fault of a thread at its own instruction: with skid 0 it stops there, and nothing of the instruction is done. -/
def fatalAt (s : State) (t : Thread) (code addr : Nat) : State :=
  let s1 := modThread s t.id fun u => { u with wait := .stopped }
  raiseFatal s1 t.ctx t.core t.part t.id t.pc.toNat code addr

/-- The fault of R65: a target, or pc + 4, that no word of the slice has. -/
def leaveFault (s : State) (t : Thread) (target : Nat) : State := fatalAt s t 0x01 (2 ^ 64 + target)

/-- The fatal code of a refusal that comes back to a thread (R19, R27, R126, R127, R179, R250). -/
def ackFault : AckStatus → Option Nat
  | .ok => none
  | .discarded => none
  | .poison => some 0x11
  | .badMerge => some 0x16
  | .graph => some 0x15
  | .channel => some 0x13
  | .noHome => some 0x10
  | .badAdvance => some 0x10

/-- At most 32 younger instructions of a thread complete behind an access that its home is going to refuse (R312, R313). -/
def Thread.noteSkid (t : Thread) (bad : Bool) : Thread := if bad then { t with skid := some (t.skid.getD 32) } else t

/-- A home refuses an access of a thread: beyond what the thread may still issue, it issues nothing until the report arrives (R312, log
entry 5). -/
def stopSoon (s : State) (tid : Nat) (st : AckStatus) : State :=
  if (ackFault st).isSome then modThread s tid fun t => { t with skid := some (t.skid.getD 0) } else s

/-- A fatal fault with skid, found when an answer comes back: reported against the instruction in progress (R127), at which the thread
stops (log entry 5). -/
def fatalLate (s : State) (tid code addr : Nat) : State :=
  match getThread s tid with
  | some t => fatalAt s t code addr
  | none => s

/-! ### Recoverable traps (R255 to R260) -/

/-- Enter a recoverable trap: TRAPPEND, the trap words and the pc of the trap vector, an offset in the slice of the core (R256, R296). A
context without a trap vector turns causes 1 to 4 into the fatal unhandled-trap fault and drops cause 5 (R260). -/
def takeTrap (s : State) (t : Thread) (cause : Nat) (value : Word) (ret : BitVec 14) : State :=
  match (getCtx s t.ctx).bind (·.tvec) with
  | none => if cause = 5 then setThread s t else fatalAt (setThread s t) t 0x07 0
  | some v =>
    let t1 := { t with trapc := BitVec.ofNat 8 cause, trapv := value, trappc := ret, pc := BitVec.ofNat 14 (sliceBase s t.core t.part + v),
                       wait := .ready, counted := false, held := [], kept := [], mism := none }
    setThread s (t1.setTrapPend true)

/-- Return from a trap (R258): the saved pc is checked by R65, sw.TRAPC is cleared, the other trap words keep their values. -/
def returnFromTrap (s : State) (t : Thread) : State :=
  if t.trapc = 0 then fatalAt s t 0x06 0
  else if !inSlice s t.core t.part t.trappc.toNat then leaveFault s t t.trappc.toNat
  else setThread s { t with trapc := 0, pc := t.trappc, wait := .ready, counted := false }

/-- The value of sw.TRAPV after a count mismatch (R255). -/
def mismatchValue (dev : Nat) (diff : Int) : Word := BitVec.ofNat 64 (dev % 65536 * 2 ^ 32 + wrapNat 32 diff)

/-! ### Retiring an instruction -/

/-- The instruction of `t` has taken effect (`t` holds its register writes): pc + 4, or the fault of R65 when that leaves the slice; the
last word of the slice takes it with a false guard too (log entry 72). A count mismatch found by the instruction's fence is trapped now
(R346), as a double trap when the thread is in a trap (R259). -/
def retire (s : State) (t : Thread) : State :=
  let npc := t.pc.toNat + 4
  let t1 := { t with wait := .ready, counted := false, held := [], kept := [], mism := none }
  match t.mism with
  | some (dev, diff) =>
    if t.inTrap then fatalAt (setThread s t1) t1 0x05 0
    else takeTrap s t1 3 (mismatchValue dev diff) (BitVec.ofNat 14 npc)
  | none =>
    if !inSlice s t.core t.part npc then leaveFault (setThread s t1) t1 npc
    else setThread s { t1 with pc := BitVec.ofNat 14 npc }

/-- Retire with a result register. -/
def retireReg (s : State) (t : Thread) (d : BitVec 4) (v : Word) : State := retire s (t.setReg d v)

/-- Apply a completion to a thread (R144, R56, R76). -/
def Thread.apply (t : Thread) (c : Completion) : Thread :=
  let t1 := ((t.setReg c.r1 c.v1).setReg c.r2 c.v2).orFpx c.flags
  match c.defeat with
  | some n => t1.setDefeat n
  | none => t1

/-- What follows a completed instruction: the next word, the trap of CKPT (R266), the pause of the log, whose cores acknowledge within
64 cycles (R267), or the fault of a message that a STRICT accord refuses, found as the instruction returns (R186). -/
def complete (s : State) (t : Thread) (c : Completion) : State :=
  match c.after with
  | 0 => retire s (t.apply c)
  | 1 => takeTrap s t 4 c.v1 t.pc
  | 3 => fatalLate (retire s (t.apply c)) t.id 0x14 0
  | _ =>
    let s1 := modCtx s t.ctx fun x => { x with log := { x.log with paused := true } }
    bump (setThread s1 { t with held := [1], wait := .until (.cycle (s.cycle + Config.netExtra s.nonce 0 % 65)) })

/-- Park or hold a thread. -/
def wait (s : State) (t : Thread) (w : Wait) : State := setThread s { t with wait := w }

/-- The operation number with which a thread starts: above every number that an earlier thread of the same id has used, so that no late
reply to that one counts for it. -/
def startOp (s : State) : Nat := s.cycle * 2 ^ 16

/-- A new operation number for a thread that waits for a reply. -/
def newOp (t : Thread) : Thread := { t with op := t.op + 1 }

/-- Whether an instruction is carried on after a wait, so that its guard is not evaluated again. -/
def Wait.resumes : Wait → Bool
  | .until _ => true
  | .gathered _ _ => true
  | .search _ _ => true
  | _ => false

/-- The frame of every scalar word: it acts for the thread in focus; a false guard only takes the issue and advances pc (R60). -/
def scalar (g : BitVec 5) (s : State) (body : State → Thread → State) : Res :=
  match s.focus with
  | .thread tid =>
    match getThread s tid with
    | some t => if t.wait.resumes || guardHolds t g then .next (body s t) else .next (retire s t)
    | none => .fault .noIssuer
  | _ => .fault .noIssuer

end Sys2Proof.Machine
end

