-- ==== Sys2Proof/Machine/Addr.lean ====
section
/-! DEFINITION. Program addresses and segments (R22 to R25), device addresses and homes (R27, R28, R30, R273, R274, R277) and
the port translators' walk (R276, R278 to R280). -/

namespace Sys2Proof.Machine

/-- The rights that an access needs of its segment (R23). -/
structure Rights where
  r : Bool := false
  w : Bool := false
  m : Bool := false
  a : Bool := false
  deriving DecidableEq, Repr

def rightR : Rights := { r := true }
def rightW : Rights := { w := true }
def rightM : Rights := { m := true }
def rightRM : Rights := { r := true, m := true }
def rightARW : Rights := { r := true, w := true, a := true }

def addrClass (da : Nat) : Nat := da / 2 ^ 52 % 16

/-- Segment of a program address (R24). -/
def segOf (x : Ctx) (a : Word) : Seg := nth {} x.segs (a.toNat / 2 ^ 53 % 8)

/-- The checks of R25 in their order: segment limit and rights (fault code 0x02), then alignment (0x03); the answer is the
effective device address. The writes of class 0x2 by stores and copies need X as well, what ACCORD OPEN names does not (R23). -/
def segCheck (x : Ctx) (a : Word) (z align : Nat) (need : Rights) : Except Nat Nat :=
  let g := segOf x a
  let off := a.toNat % 2 ^ 53
  let da := (g.base + off) % 2 ^ 56
  if g.limit < off + z then .error 0x02
  else if (need.r && !g.r) || (need.w && !g.w) || (need.m && !g.m) || (need.a && !g.a) then .error 0x02
  else if need.w && !need.a && addrClass da == 2 && !g.x then .error 0x02
  else if da % align ≠ 0 then .error 0x03
  else .ok da

/-- Program address a + disp9 · z, the displacement added as ADD adds (R109). -/
def effAddr (a : Word) (x : BitVec 9) (z : Nat) : Word :=
  let lo := wrapNat 56 ((a.toNat % 2 ^ 56 : Nat) + x.toInt * z)
  BitVec.ofNat 64 (a.toNat / 2 ^ 56 * 2 ^ 56 + lo)

/-- The home of a device address (R27). Scratchpad and instruction-store offsets are absolute on their core. -/
inductive Home where
  | scratch (core off : Nat)
  | istore (core off : Nat)
  | commons (region off : Nat)
  | port (p cls va : Nat)
  | device (dev off : Nat)
  | none
  deriving DecidableEq, Repr

/-- Whether a context holds a core of a region (R273). -/
def holdsRegion (s : State) (ctx g : Nat) : Bool :=
  match getCtx s ctx with
  | some x => (blockCores x).any fun c => regionOf c == g && holds s ctx c x.part
  | none => false

/-- Scratchpad home of a view offset on a core: within the view, and held by the context (R9, R30). -/
def viewHome (s : State) (ctx core p off : Nat) : Home :=
  if holds s ctx core p && off < viewSize s core then .scratch core (viewBase s core p + off) else .none

/-- The home of a device address for an access of a context from a core (R27, R28, R30, R273, R274, R276). -/
def homeOf (s : State) (ctx core p da : Nat) : Home :=
  match addrClass da with
  | 0 => if da / 2 ^ 16 % 2 ^ 36 = 0 then viewHome s ctx core p (da % 65536) else .none
  | 1 => if da / 2 ^ 30 % 2 ^ 22 = 0 then
      viewHome s ctx (coreAt (da / 2 ^ 16 % 128) (da / 2 ^ 23 % 128)) p (da % 65536) else .none
  | 2 =>
    let c := coreAt (da / 2 ^ 16 % 128) (da / 2 ^ 23 % 128)
    let off := da % 2 ^ 14
    if da / 2 ^ 30 % 2 ^ 22 = 0 && da / 2 ^ 14 % 4 = 0 && holds s ctx c p && sliceBase s c p ≤ off
        && off < sliceBase s c p + sliceSize s c then .istore c off else .none
  | 3 =>
    let g := da / 2 ^ 23 % 64
    let off := da % 2 ^ 23
    if da / 2 ^ 29 % 2 ^ 23 ≠ 0 then .none
    else if off < 0x7F0000 then .commons g off
    else if 0x7FFFC0 ≤ off && holdsRegion s ctx g then .commons g off
    else .none
  | 4 => if da / 2 ^ 39 % 2 ^ 13 = 0 then .port (da / 2 ^ 11 % 8) 4 (da % 2 ^ 39) else .none
  | 5 => if da / 2 ^ 41 % 2 ^ 11 = 0 then .port (8 + da / 2 ^ 11 % 4) 5 (da % 2 ^ 41) else .none
  | 6 => if da / 2 ^ 48 % 2 ^ 4 = 0 then .port 12 6 (da % 2 ^ 48) else .none
  | 7 =>
    match getCtx s ctx with
    | some x => if da / 2 ^ 30 % 2 ^ 22 = 0 then
        viewHome s ctx (blockCore x (da / 2 ^ 16 % 128) (da / 2 ^ 23 % 128)) p (da % 65536) else .none
    | none => .none
  | 8 => if inFabric s (da / 2 ^ 36 % 65536) then .device (da / 2 ^ 36 % 65536) (da % 2 ^ 36) else .none
  | _ => .none

/-- The core at which a home is reached in the on-module network. -/
def homeCore (_ : State) (core : Nat) : Home → Nat
  | .scratch c _ => c
  | .istore c _ => c
  | .commons g _ => regionHub g
  | .port p _ _ => portCore p
  | .device _ _ => core
  | .none => core

/-- Region whose merge-exception word a home uses (R125). -/
def homeRegion (s : State) (core : Nat) : Home → Nat
  | .port p _ _ => portRegion p
  | h => regionOf (homeCore s core h)

/-- A core reference (R167): target core and its sub field, or another device, or nothing. -/
inductive CoreRef where
  | core (c sub : Nat)
  | device (dev c sub : Nat)
  | none
  deriving DecidableEq, Repr

def coreRef (s : State) (ctx : Nat) (a : Word) : CoreRef :=
  let da := a.toNat % 2 ^ 56
  let sub := da % 65536
  let x := da / 2 ^ 16 % 128
  let y := da / 2 ^ 23 % 128
  if a.toNat / 2 ^ 56 ≠ 0 then .none
  else match addrClass da with
  | 1 => if da / 2 ^ 30 % 2 ^ 22 = 0 then .core (coreAt x y) sub else .none
  | 7 => match getCtx s ctx with
    | some c => if da / 2 ^ 30 % 2 ^ 22 = 0 then .core (blockCore c x y) sub else .none
    | none => .none
  | 8 => if da / 2 ^ 30 % 2 ^ 6 = 0 && inFabric s (da / 2 ^ 36 % 65536) then
      (if da / 2 ^ 36 % 65536 = s.dev.id then .core (coreAt x y) sub else .device (da / 2 ^ 36 % 65536) (coreAt x y) sub)
      else .none
  | _ => .none

/-! ### Poison -/

/-- Whether any byte of a range of keys lies in a poisoned word (R127). -/
def poisoned (s : State) (k n : Nat) : Bool := s.poison.any fun w => w < k + n && k < w + 8

/-- Clear the poison of words that a write covers whole. -/
def clearPoison (s : State) (k n : Nat) : State := { s with poison := s.poison.filter fun w => !(k ≤ w && w + 8 ≤ k + n) }

/-- Poison the aligned words at keys (R127, R275). -/
def addPoison (s : State) : List Nat → State
  | [] => s
  | k :: ks => addPoison { s with poison := natInsert s.poison (k / 8 * 8) } ks

/-- Write bytes at a key: words that are covered whole lose their poison, others keep it. -/
def putBytes (s : State) (k : Nat) (bs : List Byte) : State :=
  clearPoison { s with mem := memWrite s.mem k bs } k bs.length

/-! ### Translation (R278 to R280) -/

/-- The access kinds of a walk: needed rights R, W and M, and whether it writes. -/
structure WalkKind where
  r : Bool
  w : Bool
  m : Bool
  deriving DecidableEq, Repr

def WalkKind.writes (k : WalkKind) : Bool := k.w || k.m

def walkKindOf : Act → WalkKind
  | .load => ⟨true, false, false⟩
  | .store _ => ⟨false, true, false⟩
  | .merge f _ _ _ => ⟨f, false, true⟩
  | .vbor _ => ⟨false, false, true⟩
  | .copyr _ _ _ _ => ⟨false, false, true⟩

/-- A leaf that a walk reached: HBM address of its entry, the entry, page size, tier, page address. -/
structure Leaf where
  at' : Nat
  e : Nat
  size : Nat
  tier : Nat
  pa : Nat
  deriving DecidableEq, Repr

/-- Index of a level for a virtual address (R278). -/
def levelIndex (level va : Nat) : Nat :=
  match level with
  | 1 => va / 2 ^ 30
  | 2 => va / 2 ^ 21 % 512
  | _ => va / 2 ^ 16 % 32

def levelPage : Nat → Nat
  | 1 => 2 ^ 30
  | 2 => 2 ^ 21
  | _ => 2 ^ 16

/-- Size of the table that an entry of a level points to. -/
def nextTable : Nat → Nat
  | 1 => 4096
  | _ => 256

def ownerArea : Nat := 0x7FFC000000

/-- Whether a tier may back a class (R279). -/
def tierAllowed (cls tier : Nat) : Bool :=
  match cls with
  | 4 => tier == 0 || tier == 1
  | 5 => tier == 1
  | _ => tier == 2

/-- Whether a frame lies inside its tier and outside the owner area (R276, R280). -/
def frameInTier (tier pa size : Nat) : Bool :=
  match tier with
  | 0 => pa + size ≤ ownerArea
  | 1 => pa + size ≤ 0x18000000000
  | _ => pa + size ≤ 2 ^ 48

/-- The walk's reads from level `level` on, in the table at `t`; `n` levels are left. The answer is the leaf, or the cause of the
translation fault: 1 NOTPRESENT, 4 FORMAT (R280). -/
def walkFrom (s : State) (cls va : Nat) : Nat → Nat → Nat → Except Nat Leaf
  | 0, _, _ => .error 4
  | n + 1, level, t =>
    let ad := t + 8 * levelIndex level va
    let k := tierKey 0 ad
    let e := ofLeBytes (memRead s.mem k 8)
    let addr := e / 2 ^ 8 % 2 ^ 40 * 256
    if poisoned s k 8 then .error 4
    else if !bitAt e 63 then .error 1
    else if bitAt e 62 then
      let size := levelPage level
      let tier := bitsOf e 55 54
      if addr % size ≠ 0 || !tierAllowed cls tier || !frameInTier tier addr size then .error 4
      else .ok ⟨ad, e, size, tier, addr⟩
    else if level = 3 || bitsOf e 61 48 ≠ 0 || addr % nextTable level ≠ 0 || ownerArea < addr + nextTable level then .error 4
    else walkFrom s cls va n (level + 1) addr

/-- The root of a context for a class (R278). -/
def rootOf (x : Ctx) (cls : Nat) : Nat :=
  match cls with
  | 4 => x.root4
  | 5 => x.root5
  | _ => x.root6

/-- A whole walk with its rights check: cause 2 RIGHTS (R280). -/
def walk (s : State) (root cls va : Nat) (k : WalkKind) : Except Nat Leaf :=
  if root = 0 then .error 1
  else match walkFrom s cls va 3 1 root with
  | .error c => .error c
  | .ok l =>
    if (k.r && !bitAt l.e 61) || (k.w && !bitAt l.e 60) || (k.m && !bitAt l.e 59) then .error 2 else .ok l

/-- Memory key that a leaf gives a virtual address. -/
def leafKey (l : Leaf) (va : Nat) : Nat := tierKey l.tier (l.pa + va % l.size)

end Sys2Proof.Machine
end

