-- ==== Sys2Proof/Machine/Float.lean ====
section
/-! DEFINITION. Number formats (02_number_formats.md): exact values, one rounding function for every format and mode,
conversions R52 to R54, scalar and vector arithmetic R57, R58, R212, and the generator R51. -/

namespace Sys2Proof.Machine

/-- An exact value of a number format: a NaN (signalling or not), an infinity, or sign and magnitude m · 2^e. The sign of
a zero is kept. -/
inductive FVal where
  | nan (signalling : Bool)
  | inf (neg : Bool)
  | fin (neg : Bool) (m : Nat) (e : Int)
  deriving DecidableEq, Repr

/-- How a format spells NaN: like IEEE 754, one code as e4m3 does, or not at all (R37). -/
inductive NanKind where
  | ieee
  | single
  | absent
  deriving DecidableEq, Repr

/-- A floating-point format (R37, R38). -/
structure FpFmt where
  ebits : Nat
  mbits : Nat
  bias : Nat
  nan : NanKind
  maxFin : Nat
  canon : Nat
  deriving DecidableEq, Repr

def fp32 : FpFmt := ⟨8, 23, 127, .ieee, 0x7F7FFFFF, 0x7FC00000⟩
def bf16 : FpFmt := ⟨8, 7, 127, .ieee, 0x7F7F, 0x7FC0⟩
def fp16 : FpFmt := ⟨5, 10, 15, .ieee, 0x7BFF, 0x7E00⟩
def e4m3 : FpFmt := ⟨4, 3, 7, .single, 0x7E, 0x7F⟩
def e5m2 : FpFmt := ⟨5, 2, 15, .ieee, 0x7B, 0x7E⟩
def e2m3 : FpFmt := ⟨2, 3, 1, .absent, 0x1F, 0⟩
def e2m1 : FpFmt := ⟨2, 1, 1, .absent, 0x7, 0⟩
def fp64 : FpFmt := ⟨11, 52, 1023, .ieee, 0x7FEFFFFFFFFFFFFF, 0x7FF8000000000000⟩

/-- The floating-point format that a format code names (R35); none for the integer formats, q4t, s8 and the rest. -/
def fpOfCode : Nat → Option FpFmt
  | 1 => some fp32
  | 2 => some bf16
  | 3 => some fp16
  | 4 => some e4m3
  | 5 => some e5m2
  | 6 => some e2m3
  | 7 => some e2m1
  | _ => none

/-- Storage width in bits of a format code (R35); 0 for the codes that name no format. -/
def fmtWidth : Nat → Nat
  | 1 => 32
  | 2 => 16
  | 3 => 16
  | 4 => 8
  | 5 => 8
  | 6 => 8
  | 7 => 4
  | 8 => 8
  | 9 => 4
  | 10 => 4
  | 11 => 8
  | _ => 0

/-- The flags of sw.FPX (R56). -/
def flagIV : Nat := 16
def flagDZ : Nat := 8
def flagOF : Nat := 4
def flagUF : Nat := 2
def flagNX : Nat := 1

/-- A value together with the exception flags raised on the way. -/
structure Flagged (α : Type) where
  val : α
  flags : Nat
  deriving DecidableEq, Repr

/-- The value of an encoding of a floating-point format (R37). -/
def fpDecode (f : FpFmt) (w : Nat) : FVal :=
  let neg := bitAt w (f.ebits + f.mbits)
  let ex := bitsOf w (f.ebits + f.mbits - 1) f.mbits
  let mn := w % 2 ^ f.mbits
  let top := 2 ^ f.ebits - 1
  let finite : FVal :=
    if ex = 0 then .fin neg mn (1 - (f.bias : Int) - f.mbits)
    else .fin neg (2 ^ f.mbits + mn) ((ex : Int) - f.bias - f.mbits)
  match f.nan with
  | .ieee => if ex = top then (if mn = 0 then .inf neg else .nan (mn < 2 ^ (f.mbits - 1))) else finite
  | .single => if ex = top && mn = 2 ^ f.mbits - 1 then .nan false else finite
  | .absent => finite

def FVal.isNan : FVal → Bool
  | .nan _ => true
  | _ => false

def FVal.isSnan : FVal → Bool
  | .nan s => s
  | _ => false

def FVal.isInf : FVal → Bool
  | .inf _ => true
  | _ => false

def FVal.isZero : FVal → Bool
  | .fin _ m _ => m == 0
  | _ => false

def FVal.neg : FVal → Bool
  | .nan _ => false
  | .inf n => n
  | .fin n _ _ => n

def FVal.negate : FVal → FVal
  | .nan s => .nan s
  | .inf n => .inf (!n)
  | .fin n m e => .fin (!n) m e

/-- An integer as an exact value; zero is +0. -/
def FVal.ofInt (v : Int) : FVal := .fin (decide (v < 0)) v.natAbs 0

/-- An exact signed number m · 2^e. -/
structure Dy where
  m : Int
  e : Int
  deriving DecidableEq, Repr

def Dy.add (a b : Dy) : Dy :=
  if a.e ≤ b.e then ⟨a.m + b.m * 2 ^ (b.e - a.e).toNat, a.e⟩ else ⟨a.m * 2 ^ (a.e - b.e).toNat + b.m, b.e⟩

def Dy.mul (a b : Dy) : Dy := ⟨a.m * b.m, a.e + b.e⟩

/-- The exact number of a finite value (0 for NaN and infinity, which no caller passes). -/
def FVal.dy : FVal → Dy
  | .fin n m e => ⟨if n then -(m : Int) else m, e⟩
  | _ => ⟨0, 0⟩

/-- The exact value of a number, with the sign given for a zero. -/
def Dy.toVal (d : Dy) (zeroNeg : Bool) : FVal :=
  if d.m = 0 then .fin zeroNeg 0 0 else .fin (decide (d.m < 0)) d.m.natAbs d.e

/-- Comparison of two numbers. -/
def Dy.lt (a b : Dy) : Bool := decide ((a.add ⟨-b.m, b.e⟩).m < 0)

def Dy.eq (a b : Dy) : Bool := decide ((a.add ⟨-b.m, b.e⟩).m = 0)

/-- Rounding modes (R48): 0 RNE, 1 RZ, 2 RU, 3 RD, 4 RNA, 5 SR with the generator bits `u` (R49). `m · 2^e` is rounded to a
multiple of 2^q; `sticky` says that the exact magnitude lies strictly between `m · 2^e` and `(m + 1) · 2^e`. The answer
is the multiple and whether it is inexact. -/
def roundMag (mode u : Nat) (neg : Bool) (m : Nat) (e : Int) (sticky : Bool) (q : Int) : Nat × Bool :=
  if q ≤ e then (m * 2 ^ (e - q).toNat, sticky)
  else
    let k := (q - e).toNat
    let t := m / 2 ^ k
    let r := m % 2 ^ k
    let h := 2 ^ (k - 1)
    let inexact := r != 0 || sticky
    let up : Bool := match mode with
      | 0 => decide (h < r) || (r == h && (sticky || t % 2 == 1))
      | 1 => false
      | 2 => inexact && !neg
      | 3 => inexact && neg
      | 4 => decide (h ≤ r)
      | _ => inexact && decide (2 ^ 24 ≤ r * 2 ^ 24 / 2 ^ k + u % 2 ^ 24)
    (if up then t + 1 else t, inexact)

/-- A magnitude rounded to a format: its encoding with the exponent range unbounded above, whether it exceeds the largest
finite value, whether it is tiny after rounding, and whether it is inexact. -/
structure Rounded where
  enc : Nat
  overflow : Bool
  tiny : Bool
  inexact : Bool
  deriving DecidableEq, Repr

def fpRoundMag (f : FpFmt) (mode u : Nat) (neg : Bool) (m : Nat) (e : Int) (sticky : Bool) : Rounded :=
  if m = 0 then ⟨0, false, false, sticky⟩
  else
    let top := e + (ilog2 m : Nat)
    let qmin : Int := 1 - (f.bias : Int) - f.mbits
    let qn := top - f.mbits
    let q := if qmin ≤ qn then qn else qmin
    let r := roundMag mode u neg m e sticky q
    let enc := (q - qmin).toNat * 2 ^ f.mbits + r.1
    let tiny : Bool :=
      if qn < qmin then decide ((roundMag mode u neg m e sticky qn).1 < 2 ^ (f.mbits + (qmin - qn).toNat)) else false
    ⟨enc, decide (f.maxFin < enc), tiny, r.2⟩

/-- A sign and a magnitude encoding joined. -/
def withSign (f : FpFmt) (neg : Bool) (mag : Nat) : Nat := mag + (if neg then 2 ^ (f.ebits + f.mbits) else 0)

/-- The encoding of infinity in the formats that have one. -/
def infMag (f : FpFmt) : Nat := (2 ^ f.ebits - 1) * 2 ^ f.mbits

/-- Whether an overflow goes to infinity (and not to the largest finite value) in a mode (R45). -/
def overflowToInf (mode : Nat) (neg : Bool) : Bool :=
  match mode with
  | 1 => false
  | 2 => !neg
  | 3 => neg
  | _ => true

/-- Conversion of a value to a floating-point format (R52). The exact magnitude may carry a sticky bit below it. -/
def fpConvertSticky (f : FpFmt) (sat : Bool) (mode u : Nat) (v : FVal) (sticky : Bool) : Flagged Nat :=
  match v with
  | .nan _ => match f.nan with
    | .absent => ⟨0, flagIV⟩
    | _ => ⟨f.canon, flagIV⟩
  | .inf n => match f.nan with
    | .ieee => ⟨withSign f n (if sat then f.maxFin else infMag f), 0⟩
    | .single => if sat then ⟨withSign f n f.maxFin, 0⟩ else ⟨f.canon, flagIV⟩
    | .absent => ⟨withSign f n f.maxFin, flagIV⟩
  | .fin n m e =>
    let r := fpRoundMag f mode u n m e sticky
    if r.overflow then
      match f.nan with
      | .ieee => ⟨withSign f n (if !sat && overflowToInf mode n then infMag f else f.maxFin), flagOF + flagNX⟩
      | .single => if sat then ⟨withSign f n f.maxFin, flagOF + flagNX⟩ else ⟨f.canon, flagOF + flagNX⟩
      | .absent => ⟨withSign f n f.maxFin, flagOF + flagNX⟩
    else ⟨withSign f n r.enc, (if r.inexact then flagNX else 0) + (if r.inexact && r.tiny then flagUF else 0)⟩

def fpConvert (f : FpFmt) (sat : Bool) (mode u : Nat) (v : FVal) : Flagged Nat := fpConvertSticky f sat mode u v false

/-- Rounding of a finite value to an integer (ulp 1), with its inexactness. -/
def roundToInt (mode u : Nat) (v : FVal) : Int × Bool :=
  match v with
  | .fin n m e =>
    let r := roundMag mode u n m e false 0
    (if n then -(r.1 : Int) else r.1, r.2)
  | _ => (0, false)

/-- Conversion to an integer format of `bits` bits (R53), as the unsigned encoding of the result. -/
def intConvert (bits mode u : Nat) (v : FVal) : Flagged Nat :=
  let lo : Int := -(2 ^ (bits - 1) : Int)
  let hi : Int := 2 ^ (bits - 1) - 1
  match v with
  | .nan _ => ⟨0, flagIV⟩
  | .inf n => ⟨wrapNat bits (if n then lo else hi), flagIV⟩
  | .fin .. =>
    let r := roundToInt mode u v
    if r.1 < lo then ⟨wrapNat bits lo, flagIV⟩
    else if hi < r.1 then ⟨wrapNat bits hi, flagIV⟩
    else ⟨wrapNat bits r.1, if r.2 then flagNX else 0⟩

/-- Conversion of a value to the format that a code names, as a tile command makes it (R52, R53). -/
def convertTo (code : Nat) (sat : Bool) (mode u : Nat) (v : FVal) : Flagged Nat :=
  match fpOfCode code with
  | some f => fpConvert f sat mode u v
  | none => intConvert (fmtWidth code) mode u v

/-- The exact value of one stored element of a format other than q4t (R37, R40, R41). -/
def elemValue (code w : Nat) : FVal :=
  match fpOfCode code with
  | some f => fpDecode f w
  | none =>
    if code = 11 then (if w % 256 = 255 then .nan false else .fin false 1 ((w % 256 : Nat) - 127))
    else FVal.ofInt (sextNat (fmtWidth code) w)

/-- The outlier of R42 built from the neighbour nibble `n`, as an integer. -/
def q4Outlier (n : Nat) : Int :=
  let mag : Int := (2 ^ (2 * (n % 8) + 1) : Nat)
  if bitAt n 3 then -mag else mag

/-- The unscaled integer of a q4t element: table, escape flag, its own nibble, its byte partner's nibble (R42). -/
def q4Value (table : List Int) (esc : Bool) (own other : Nat) : Int :=
  if esc && own == 8 then q4Outlier other
  else if esc && other == 8 then 0
  else nth 0 table own

/-- q4 pair rule: in a byte with both nibbles 8 the low one is the outlier and the high one is 0 (R42). -/
def q4Element (table : List Int) (esc : Bool) (byte : Nat) (high : Bool) : Int :=
  let l := byte % 16
  let h := byte / 16 % 16
  if high then (if esc && l == 8 then 0 else if esc && h == 8 then q4Outlier l else nth 0 table h)
  else (if esc && l == 8 then q4Outlier h else if esc && h == 8 then 0 else nth 0 table l)

/-- The sign of an exact zero sum (IEEE 754): both operands' sign when they agree, else − only when rounding down. -/
def zeroSign (mode : Nat) (a b : Bool) : Bool := if a == b then a else mode == 3

/-- Exact sum of two values; an invalid combination is `none`. -/
def fvAdd (mode : Nat) (a b : FVal) : Option FVal :=
  match a, b with
  | .inf x, .inf y => if x == y then some (.inf x) else none
  | .inf x, _ => some (.inf x)
  | _, .inf y => some (.inf y)
  | x, y => some ((x.dy.add y.dy).toVal (zeroSign mode x.neg y.neg))

/-- Exact product of two values; 0 × inf is `none`. -/
def fvMul (a b : FVal) : Option FVal :=
  let n := a.neg != b.neg
  match a, b with
  | .inf _, y => if y.isZero then none else some (.inf n)
  | x, .inf _ => if x.isZero then none else some (.inf n)
  | .fin _ m e, .fin _ m' e' => some (.fin n (m * m') (e + e'))
  | _, _ => none

/-- The result of an arithmetic operation whose exact value is `r`, rounded to a format; `iv` says that a NaN input sets IV,
`none` is an invalid operation. -/
def arith (f : FpFmt) (mode u : Nat) (anyNan iv : Bool) (r : Option FVal) : Flagged Nat :=
  if anyNan then ⟨f.canon, if iv then flagIV else 0⟩
  else match r with
    | none => ⟨f.canon, flagIV⟩
    | some v => fpConvert f false mode u v

/-- Scalar and merge addition of two encodings (R57, R124): IV only for a signalling NaN. -/
def fpAdd (f : FpFmt) (a b : Nat) : Flagged Nat :=
  let x := fpDecode f a
  let y := fpDecode f b
  arith f 0 0 (x.isNan || y.isNan) (x.isSnan || y.isSnan) (fvAdd 0 x y)

def fpSub (f : FpFmt) (a b : Nat) : Flagged Nat :=
  let x := fpDecode f a
  let y := fpDecode f b
  arith f 0 0 (x.isNan || y.isNan) (x.isSnan || y.isSnan) (fvAdd 0 x y.negate)

def fpMul (f : FpFmt) (a b : Nat) : Flagged Nat :=
  let x := fpDecode f a
  let y := fpDecode f b
  arith f 0 0 (x.isNan || y.isNan) (x.isSnan || y.isSnan) (fvMul x y)

/-- Total order of two values without NaN, −0 below +0 (R57). -/
def fvLess (a b : FVal) : Bool :=
  match a, b with
  | .inf x, .inf y => x && !y
  | .inf x, _ => x
  | _, .inf y => !y
  | x, y => x.dy.lt y.dy || (x.isZero && y.isZero && x.neg && !y.neg)

/-- Numeric comparison without the order of zeros. -/
def fvLt (a b : FVal) : Bool := fvLess a b && !(a.isZero && b.isZero)

def fvEq (a b : FVal) : Bool :=
  match a, b with
  | .inf x, .inf y => x == y
  | .fin .., .fin .. => a.dy.eq b.dy
  | _, _ => false

/-- Scalar minimum (`isMax` false) or maximum of two encodings (R57). -/
def fpMinMax (f : FpFmt) (isMax : Bool) (a b : Nat) : Flagged Nat :=
  let x := fpDecode f a
  let y := fpDecode f b
  let iv := if x.isSnan || y.isSnan then flagIV else 0
  let w := 2 ^ (1 + f.ebits + f.mbits)
  if x.isNan && y.isNan then ⟨f.canon, iv⟩
  else if x.isNan then ⟨b % w, iv⟩
  else if y.isNan then ⟨a % w, iv⟩
  else ⟨(if fvLess y x != isMax then b else a) % w, iv⟩

/-- FCVTI: a signed 64-bit integer rounded RNE to fp32 (R57). -/
def fpFromInt (w : Nat) : Flagged Nat := fpConvert fp32 false 0 0 (FVal.ofInt (sextNat 64 w))

/-- FCVTF: fp32 rounded toward zero to a signed 64-bit integer (R57). -/
def fpToInt64 (w : Nat) : Flagged Nat := intConvert 64 1 0 (fpDecode fp32 w)

/-- The four floating-point conditions (R58): 0 FEQ, 1 FLT, 2 FLE, else FUN; the flag is IV. -/
def fpTest (c a b : Nat) : Flagged Bool :=
  let x := fpDecode fp32 a
  let y := fpDecode fp32 b
  let un := x.isNan || y.isNan
  let sg := if x.isSnan || y.isSnan then flagIV else 0
  match c with
  | 0 => ⟨!un && fvEq x y, sg⟩
  | 1 => ⟨!un && fvLt x y, if un then flagIV else 0⟩
  | 2 => ⟨!un && (fvLt x y || fvEq x y), if un then flagIV else 0⟩
  | _ => ⟨un, sg⟩

/-- Rotation of a 32-bit value to the left. -/
def rotl32 (x n : Nat) : Nat := (x * 2 ^ n) % 2 ^ 32 + x % 2 ^ 32 / 2 ^ (32 - n)

/-- One round of the generator of R51. -/
def srRound (rc k : Nat) (xy : Nat × Nat) : Nat × Nat :=
  let x := (xy.1 + rc + k) % 2 ^ 32
  let y := xy.2 ^^^ rotl32 x 8
  ((x + rotl32 y 16) % 2 ^ 32, y)

/-- The generator bits of R51 for key, logical row, logical column and write count. -/
def srBits (key row col wc : Nat) : Nat :=
  let c := row % 2 ^ 24 * 2 ^ 40 + col % 2 ^ 24 * 2 ^ 16 + wc % 2 ^ 16
  let k0 := key % 2 ^ 32
  let k1 := key / 2 ^ 32 % 2 ^ 32
  let r0 := srRound 0x9E3779B9 k0 (c % 2 ^ 32, c / 2 ^ 32)
  let r1 := srRound 0x3C6EF372 k1 r0
  let r2 := srRound 0xDAA66D2B k0 r1
  let r3 := srRound 0x78DDE6E4 k1 r2
  r3.1 ^^^ r3.2

/-- Integer square root by bits, from bit `n - 1` down, starting at `r`. -/
def isqrtBits : Nat → Nat → Nat → Nat
  | 0, _, r => r
  | n + 1, v, r => if (r + 2 ^ n) * (r + 2 ^ n) ≤ v then isqrtBits n v (r + 2 ^ n) else isqrtBits n v r

/-- The fixed-point precision of the transcendental functions, in bits (log 9). -/
def fixBits : Nat := 320

/-- Sum of the series y + y·z²/3 + y·z⁴/5 + … in fixed point; `p` holds the current power. -/
def atanhSum : Nat → Nat → Nat → Nat → Nat
  | 0, _, _, _ => 0
  | n + 1, p, z2, k => p / (2 * k + 1) + atanhSum n (p * z2 / 2 ^ fixBits) z2 (k + 1)

/-- ln of num/den (between 1 and 2) in fixed point, by 2·atanh((num − den)/(num + den)). -/
def lnFix (num den : Nat) : Nat :=
  let z := (num - den) * 2 ^ fixBits / (num + den)
  2 * atanhSum 110 z (z * z / 2 ^ fixBits) 0

def ln2Fix : Nat := lnFix 2 1

/-- exp of a fixed-point argument below 1, by its Taylor series. -/
def expSum : Nat → Nat → Nat → Nat → Nat
  | 0, _, _, _ => 0
  | n + 1, term, y, k => term + expSum n (term * y / 2 ^ fixBits / (k + 1)) y (k + 1)

def expFix (y : Nat) : Nat := expSum 80 (2 ^ fixBits) y 0

/-- 2^a of a finite value: an exact power of two for an integer a, else a fixed-point magnitude with its sticky bit. Values
beyond ±2^11 stand for any larger ones: they overflow or vanish in every format. -/
def exp2Val (n : Bool) (m : Nat) (e : Int) : FVal × Bool :=
  if m = 0 then (.fin false 1 0, false)
  else if 11 < e + (ilog2 m : Nat) then
    (if n then .fin false 1 (-4096) else .fin false 1 4096, true)
  else
    let d : Int := if n then -(m : Int) else m
    if 0 ≤ e then (.fin false 1 (d * 2 ^ e.toNat), false)
    else
      let k := (-e).toNat
      let ip := d / (2 ^ k : Int)
      let fr := (d % (2 ^ k : Int)).toNat
      if fr = 0 then (.fin false 1 ip, false)
      else
        let y := fr * ln2Fix / 2 ^ k
        (.fin false (expFix y) (ip - fixBits), true)

/-- log2 of a positive finite value m · 2^e: an exact integer for a power of two, else fixed point with its sticky bit. -/
def log2Val (m : Nat) (e : Int) : FVal × Bool :=
  let l := ilog2 m
  let ip : Int := e + l
  if m = 2 ^ l then (FVal.ofInt ip, false)
  else
    let fr := lnFix m (2 ^ l) * 2 ^ fixBits / ln2Fix
    let v : Int := ip * 2 ^ fixBits + fr
    if 0 ≤ v then (.fin false v.toNat (-(fixBits : Int)), true)
    else (.fin true ((-v).toNat - 1) (-(fixBits : Int)), true)

/-- 1/a of a nonzero finite value, with its sticky bit. -/
def rcpVal (n : Bool) (m : Nat) (e : Int) : FVal × Bool :=
  let k := ilog2 m + 128
  let q := 2 ^ k / m
  (.fin n q (-e - k), 2 ^ k % m != 0)

/-- 1/√a of a positive finite value, with its sticky bit. -/
def rsqVal (m : Nat) (e : Int) : FVal × Bool :=
  let m' := if e % 2 = 0 then m else 2 * m
  let e' := if e % 2 = 0 then e else e - 1
  let k := ilog2 m' + 256
  let k' := k + k % 2
  let v := 2 ^ k' / m'
  let r := isqrtBits 200 v 0
  (.fin false r (-(e' / 2) - k' / 2), r * r != v || 2 ^ k' % m' != 0)

end Sys2Proof.Machine
end

