-- ==== Sys2Proof/Machine/Operands.lean ====
section
/-! DEFINITION. Operand forms: immediates (R63), access widths (R73), and the integer operations on register values (R26, R90,
R91, R93). -/

namespace Sys2Proof.Machine

/-- imm12, imm16 and imm8 sign-extended to 64 bits (R63). -/
def sext12 (i : BitVec 12) : Word := i.signExtend 64

def sext16 (i : BitVec 16) : Word := i.signExtend 64

/-- CMPI's immediate: zero-extended for the unsigned conditions LTN, GEN, GTN, LEN, else sign-extended (R63). -/
def cmpiImm (c : BitVec 4) (i : BitVec 8) : Word :=
  match c.toNat with
  | 4 => i.setWidth 64
  | 5 => i.setWidth 64
  | 8 => i.setWidth 64
  | 9 => i.setWidth 64
  | _ => i.signExtend 64

/-- Size in bytes of a width code (R73). -/
def widthBytes (w : Nat) : Nat := 2 ^ (w / 2)

/-- What a load of a width code writes: sign-extended for even codes below 6, zero-extended for odd ones (R73). -/
def loadExtend (w : Nat) (bs : List Byte) : Word :=
  let v := ofLeBytes bs
  if w % 2 = 0 && w < 6 then BitVec.ofInt 64 (sextNat (8 * widthBytes w) v) else BitVec.ofNat 64 v

/-- a[63:56] joined to (a[55:0] + b[55:0]) mod 2^56 (R26). -/
def tagAdd (a b : Word) : Word := (a.extractLsb' 56 8 ++ (a.setWidth 56 + b.setWidth 56) : BitVec (8 + 56))

def tagSub (a b : Word) : Word := (a.extractLsb' 56 8 ++ (a.setWidth 56 - b.setWidth 56) : BitVec (8 + 56))

/-- The low six bits of an operand: a shift count or bit number (R90). -/
def low6 (b : Word) : Nat := b.toNat % 64

def aluShl (a b : Word) : Word := a <<< low6 b

def aluShr (a b : Word) : Word := a >>> low6 b

def aluSra (a b : Word) : Word := a.sshiftRight (low6 b)

def aluRol (a b : Word) : Word := a.rotateLeft (low6 b)

def aluMin (a b : Word) : Word := if a.toInt ≤ b.toInt then a else b

def aluMax (a b : Word) : Word := if a.toInt ≤ b.toInt then b else a

def aluMinn (a b : Word) : Word := if a.toNat ≤ b.toNat then a else b

def aluMaxn (a b : Word) : Word := if a.toNat ≤ b.toNat then b else a

def aluMulh (a b : Word) : Word := BitVec.ofInt 64 (a.toInt * b.toInt / 2 ^ 64)

def aluMulhn (a b : Word) : Word := BitVec.ofNat 64 (a.toNat * b.toNat / 2 ^ 64)

/-- DIV (R91): all ones for a zero divisor, the most negative number for its quotient by −1, else truncation toward zero. -/
def aluDiv (a b : Word) : Word :=
  if b = 0 then BitVec.allOnes 64
  else if a = 0x8000000000000000 && b = BitVec.allOnes 64 then 0x8000000000000000
  else BitVec.ofInt 64 (a.toInt.tdiv b.toInt)

def aluDivn (a b : Word) : Word := if b = 0 then BitVec.allOnes 64 else BitVec.ofNat 64 (a.toNat / b.toNat)

def aluRem (a b : Word) : Word :=
  if b = 0 then a
  else if a = 0x8000000000000000 && b = BitVec.allOnes 64 then 0
  else BitVec.ofInt 64 (a.toInt - a.toInt.tdiv b.toInt * b.toInt)

def aluRemn (a b : Word) : Word := if b = 0 then a else BitVec.ofNat 64 (a.toNat % b.toNat)

def aluClz (a : Word) : Word := BitVec.ofNat 64 (if a = 0 then 64 else 63 - ilog2 a.toNat)

def aluCtz (a : Word) : Word := BitVec.ofNat 64 (ctzFrom 64 0 a.toNat)

def aluPopc (a : Word) : Word := BitVec.ofNat 64 (popcount 64 a.toNat)

def aluSext (a b : Word) : Word := BitVec.ofInt 64 (sextNat (low6 b + 1) a.toNat)

def aluZext (a b : Word) : Word := BitVec.ofNat 64 (a.toNat % 2 ^ (low6 b + 1))

def aluBrev (a : Word) : Word := BitVec.ofNat 64 (revBits 64 a.toNat)

end Sys2Proof.Machine
end

