-- ==== Sys2Proof/Machine/Flags.lean ====
section
/-! DEFINITION. Conditions and flags: CMP and CMPI (R58, R71, R101), the merge operations with their flags (R123, R124), and
the element operations of COPYR (R220). -/

namespace Sys2Proof.Machine

/-- The function test of R101: truth and the IV flag. -/
def condTest (c : BitVec 4) (a b : Word) : Flagged Bool :=
  match c.toNat with
  | 0 => ⟨a == b, 0⟩
  | 1 => ⟨a != b, 0⟩
  | 2 => ⟨decide (a.toInt < b.toInt), 0⟩
  | 3 => ⟨decide (b.toInt ≤ a.toInt), 0⟩
  | 4 => ⟨decide (a.toNat < b.toNat), 0⟩
  | 5 => ⟨decide (b.toNat ≤ a.toNat), 0⟩
  | 6 => ⟨decide (b.toInt < a.toInt), 0⟩
  | 7 => ⟨decide (a.toInt ≤ b.toInt), 0⟩
  | 8 => ⟨decide (b.toNat < a.toNat), 0⟩
  | 9 => ⟨decide (a.toNat ≤ b.toNat), 0⟩
  | 10 => ⟨a &&& b != 0, 0⟩
  | 11 => ⟨a &&& b == 0, 0⟩
  | n => fpTest (n - 12) (a.toNat % 2 ^ 32) (b.toNat % 2 ^ 32)

/-- How CMP combines a test with the old predicate: mode 0 set, 1 AND, 2 OR (R62, R101). -/
def cmpMode (m : BitVec 4) (old r : Bool) : Bool :=
  match m.toNat with
  | 0 => r
  | 1 => old && r
  | _ => old || r

/-- Merge operation on a word of `w` bits (R123, R124): new value and flags. -/
def mergeOp (o w old b : Nat) : Flagged Nat :=
  match o with
  | 0 => ⟨(old + b) % 2 ^ w, 0⟩
  | 1 => ⟨if sextNat w b < sextNat w old then b else old, 0⟩
  | 2 => ⟨if sextNat w old < sextNat w b then b else old, 0⟩
  | 3 => ⟨if b < old then b else old, 0⟩
  | 4 => ⟨if old < b then b else old, 0⟩
  | 5 => ⟨old &&& b, 0⟩
  | 6 => ⟨old ||| b, 0⟩
  | 7 => ⟨old ^^^ b, 0⟩
  | 8 => fpAdd fp32 old b
  | 9 => fpAdd fp64 old b
  | 10 => ⟨b, 0⟩
  | _ => fpMinMax fp32 false old b

/-- Whether a merge operation is a floating-point one (R124). -/
def mergeIsFp (o : Nat) : Bool := o == 8 || o == 9 || o == 11

/-- The bits that VBOR sets, as byte offset and bit (R128). -/
def vborBits (b : Word) : List (Nat × Nat) :=
  (List.range 8).map fun j => (bitsOf b.toNat (8 * j + 7) (8 * j) / 8, b.toNat / 2 ^ (8 * j) % 8)

/-- Number of bytes of b whose named bit is set in a 32-byte block (R129). -/
def vbtstCount (bs : List Byte) (b : Word) : Nat :=
  ((vborBits b).filter fun p => bitAt (nth 0 bs p.1).toNat p.2).length

/-- Floating-point ADD of COPYR (R220): one rounding by rm, and in every mode the special values of R124's FADD column: an exact zero sum is
+0 unless both are −0, an overflow is infinite. -/
def copyrAdd (f : FpFmt) (rm old b : Nat) : Flagged Nat :=
  let x := fpDecode f old
  let y := fpDecode f b
  let r := arith f rm 0 (x.isNan || y.isNan) (x.isSnan || y.isSnan) (fvAdd 0 x y)
  if r.flags &&& flagOF = 0 then r else ⟨withSign f (bitAt r.val (f.ebits + f.mbits)) (infMag f), r.flags⟩

/-- A result of a bitwise operation as it is written: bits [7:6] of an e2m3 byte are zero (R36). -/
def cleanElem (code v : Nat) : Nat := if code = 6 then v % 64 else v

/-- One element of COPYR (R220): op 0 ADD, 1 MIN, 2 MAX, 3 AND, 4 OR, 5 XOR on a format code, rounding mode rm. `w` is the
element width in bits. -/
def copyrOp (o code rm w old b : Nat) : Flagged Nat :=
  match o with
  | 3 => ⟨cleanElem code (old &&& b), 0⟩
  | 4 => ⟨cleanElem code (old ||| b), 0⟩
  | 5 => ⟨cleanElem code (old ^^^ b), 0⟩
  | _ =>
    match fpOfCode code with
    | some f => if o = 0 then copyrAdd f rm old b else fpMinMax f (o == 2) old b
    | none => mergeOp o w old b

end Sys2Proof.Machine
end

