-- ==== Sys2Proof/Machine/Home.lean ====
section
/-! DEFINITION. What a home does with an access: applying loads, stores and merges (R110, R115, R122 to R129), poison (R127), the
copy shadow (R131), the port translators with copy-on-write, ownership, migration and held accesses (R280 to R289, R314), and
acknowledgements. -/

namespace Sys2Proof.Machine

/-- Service time of a port for an access (R394): the range of its tier, where in it is free; the host's is set by the PCIe link. While
other packets are in flight a port may be contended, and its service time then has no bound of its own. -/
def serviceTime (s : State) (p : Nat) : Nat :=
  let busy := if inFlight s then Config.service s.nonce 8 else 0
  if p < 8 then 160 + Config.service s.nonce 0 % 121 + busy
  else if p < 12 then 280 + Config.service s.nonce 0 % 201 + busy
  else Config.hostTime s.nonce

/-- Time of a walk that reads `n` levels: one HBM service time for each (R394). -/
def walkTime (s : State) (n : Nat) : Nat := ((List.range n).map fun i => 160 + Config.service s.nonce (i + 1) % 121).sum

/-- The result of an access at its home. -/
structure Served where
  st : State
  old : Word
  flags : Nat
  status : AckStatus
  bytes : List Byte

/-- OR flags into the merge-exception word of a region (R125). -/
def orException (s : State) (g f : Nat) : State :=
  if f = 0 then s
  else
    let k := commonsKey g 0x7FFFC0
    { s with mem := memPut s.mem k (memByte s.mem k ||| BitVec.ofNat 8 f) }

/-- Elements of COPYR, each `n` bytes wide, applied to old bytes: new bytes and flags. The list of fuel is the operand bytes. -/
def copyrBytes (o code rm n : Nat) : Nat → List Byte → List Byte → List Byte × Nat
  | 0, _, _ => ([], 0)
  | k + 1, old, bs =>
    if bs = [] then ([], 0)
    else
      let r := copyrOp o code rm (8 * n) (ofLeBytes (old.take n)) (ofLeBytes (bs.take n))
      let t := copyrBytes o code rm n k (old.drop n) (bs.drop n)
      (leBytes n r.val ++ t.1, r.flags ||| t.2)

/-- Element size in bytes of a COPYR: 8 for untyped, 1 for the 4-bit formats handled a byte at a time. -/
def copyrSize (code : Nat) : Nat := if code = 0 then 8 else max 1 (fmtWidth code / 8)

/-- Set the bits of a VBOR block. -/
def vborApply (bs : List Byte) : List (Nat × Nat) → List Byte
  | [] => bs
  | p :: ps => vborApply (setNth bs p.1 (nth 0 bs p.1 ||| BitVec.ofNat 8 (2 ^ p.2))) ps

/-- Carry out an access at a memory key: `g` is the home region for exception flags, `lim` how many bytes from the key exist
(the rest of the merge-exception line reads zero and discards writes, R273). Two choices of the model: a doubleword store into an
instruction store writes both its words in this one step (log entry 45), and bits [63:5] of the merge-exception word keep what a plain
store wrote there (log entry 62). -/
def applyAt (s : State) (k g : Nat) (a : Access) (lim : Nat) : Served :=
  match a.act with
  | .load =>
    if poisoned s k a.z then ⟨s, 0, 0, .poison, []⟩
    else ⟨s, 0, 0, .ok, memRead s.mem k a.z⟩
  | .store bs => ⟨putBytes s k (bs.take lim), 0, 0, .ok, []⟩
  | .merge _ o wide b =>
    let n := if wide then 8 else 4
    if poisoned s k n then ⟨s, 0, 0, .poison, []⟩
    else if lim < n then ⟨s, 0, 0, .ok, []⟩
    else
      let old := ofLeBytes (memRead s.mem k n)
      let r := mergeOp o (8 * n) old (b.toNat % 2 ^ (8 * n))
      let s1 := { s with mem := memWrite s.mem k (leBytes n r.val) }
      ⟨if mergeIsFp o then orException s1 g r.flags else s1, BitVec.ofNat 64 old, r.flags, .ok, []⟩
  | .vbor b =>
    if poisoned s k 32 then ⟨s, 0, 0, .poison, []⟩
    else ⟨{ s with mem := memWrite s.mem k ((vborApply (memRead s.mem k 32) (vborBits b)).take lim) }, 0, 0, .ok, []⟩
  | .copyr o code rm bs =>
    if poisoned s k a.z then ⟨s, 0, 0, .poison, []⟩
    else
      let r := copyrBytes o code rm (copyrSize code) bs.length (memRead s.mem k a.z) bs
      ⟨{ s with mem := memWrite s.mem k (r.1.take lim) }, 0, r.2, .ok, []⟩

/-! ### Acknowledgements and replies -/

/-- Where an access is served: at the memory of a core, or behind the router of a commons slice or of a port, which takes `wait` cycles
before the answer leaves (R394). -/
structure ServedAt where
  core : Nat
  own : Bool
  wait : Nat

/-- The scratchpad, instruction store or merge unit of a core. -/
def atCore (c : Nat) : ServedAt := ⟨c, true, 0⟩

/-- A commons slice or a port with its service time. -/
def atRouter (c wait : Nat) : ServedAt := ⟨c, false, wait⟩

/-- Send something from a home to the core of an access: in the same cycle when its memory is that core's own (R396). -/
def backTo (s : State) (home : ServedAt) (a : Access) (payload : Nat) (what : Instr) : State :=
  let who : Focus := match a.who with
    | .cmd c p q => .cmd c p q
    | .acceptor g acc _ => .member g acc
    | _ => .idle
  if home.own && home.core == a.core then post s s.cycle 0 what who
  else sendAfter s home.wait home.core a.core payload 0 what who

/-- The thread that a load reply names. A tile command is named by the focus of the reply, which then names its context. -/
def replyTid (a : Access) : Nat :=
  match a.who with
  | .thread tid => tid
  | .cmd _ _ _ => a.ctx
  | _ => 0

/-- Acknowledge a store or merge to its issuer (R115). -/
def ackTo (s : State) (home : ServedAt) (a : Access) (st : AckStatus) : State :=
  match a.who with
  | .thread tid => backTo (stopSoon s tid st) home a 8 (.acknowledgement a st)
  | .cmd _ _ _ => backTo s home a 8 (.acknowledgement a st)
  | .acceptor _ _ _ => backTo s home a 8 (.acknowledgement a st)
  | .remote d _ => emit s d (.acknowledgement a st)
  | .unit => s

/-- The next sequence number of an object of the order log, given by its sequencer (R327): 0 when the context does not log, as in a
replay, where the records give the numbers (R329). -/
def takeOseq (s : State) (ctx obj : Nat) : State × Nat :=
  match getCtx s ctx with
  | some x =>
    if x.log.on && !x.log.paused && !x.log.rpl then
      let n := tblGet 0 x.log.oseq obj
      (setCtx s ctx { x with log := { x.log with oseq := tblSet x.log.oseq obj (n + 1) } }, n)
    else (s, 0)
  | none => (s, 0)

/-- The device and the thread that issued an access. -/
def sourceOf (s : State) (a : Access) : Nat × Nat :=
  match a.who with
  | .remote d t => (d, t)
  | .thread t => (s.dev.id, t)
  | _ => (s.dev.id, 0)

/-- The count of a source thread's interval at this device (R345). -/
def countAt (s : State) (dev tid iv : Nat) : InCount :=
  (s.counts.find? fun c => c.dev == dev && c.tid == tid && c.iv == iv).getD ⟨dev, tid, iv, 0, false⟩

def setCount (s : State) (c : InCount) : State :=
  { s with counts := (s.counts.filter fun d => !(d.dev == c.dev && d.tid == c.tid && d.iv == c.iv)) ++ [c] }

/-- Count a packet of a thread as delivered (R345). -/
def countIn (s : State) (dev tid iv : Nat) : State :=
  let c := countAt s dev tid iv
  setCount s { c with total := c.total + 1 }

/-- Count the delivery of a class 0x8 store or merge (R345). -/
def countServed (s : State) (a : Access) : State :=
  if addrClass a.da = 8 && a.act != .load then
    let d := sourceOf s a
    countIn s d.1 d.2 a.iv
  else s

/-- Answer a served access: reply to a load, fetch reply, or acknowledgement. -/
def answer (home : ServedAt) (a : Access) (r : Served) : State :=
  let r : Served := { r with st := if r.status = .ok then countServed r.st a else r.st }
  match a.act with
  | .load =>
    backTo r.st home a a.z (.loadReply (replyTid a) a.op (match r.status with
      | .ok => .data r.bytes
      | .poison => .poison
      | _ => .noHome))
  | .merge true _ _ _ =>
    let q := takeOseq r.st a.ctx (1 * 2 ^ 64 + a.da)
    match a.who with
    | .remote d _ => emit q.1 d (.fetchMergeReply a r.old r.flags r.status q.2)
    | _ => backTo q.1 home a 8 (.fetchMergeReply a r.old r.flags r.status q.2)
  | .copyr _ _ _ _ =>
    match a.who with
    | .cmd c p sq =>
      let s1 := modPart r.st c p fun x =>
        { x with queue := x.queue.map fun e => if e.seq = sq then { e with flags := e.flags ||| r.flags } else e }
      ackTo s1 home a r.status
    | _ => ackTo r.st home a r.status
  | _ => ackTo r.st home a r.status

/-- Refuse an access: nothing is done, the issuer is told when the refusal returns (R19, R27, R30, R126). -/
def refuse (s : State) (home : ServedAt) (a : Access) (st : AckStatus) : State :=
  match a.act with
  | .load => backTo s home a 8 (.loadReply (replyTid a) a.op (if st = .poison then .poison else .noHome))
  | .merge true _ _ _ => match a.who with
    | .remote d _ => emit s d (.fetchMergeReply a 0 0 st 0)
    | _ => backTo s home a 8 (.fetchMergeReply a 0 0 st 0)
  | _ => ackTo s home a st

/-! ### Translation faults (R314, R315) -/

/-- The address of an access at its home: what the window made of a class 0x8 one. -/
def Access.localDa (a : Access) : Nat :=
  match a.via with
  | some v => v.2
  | none => a.da

/-- Kind field of a record: 0 load, 1 store, 2 merge, 3 tile command. -/
def recKind (a : Access) : Nat :=
  match a.who with
  | .cmd _ _ _ => 3
  | _ => match a.act with
    | .load => 0
    | .store _ => 1
    | _ => 2

/-- No thread: ids have 40 bits (R17). -/
def noThread : Nat := 2 ^ 40

/-- The thread whose instruction a member's array read answers (R397). -/
def askerTid (s : State) (g acc op : Nat) : Nat :=
  match ((getRegion s g).accs.find? fun c => c.acc == acc).bind fun c => c.reads.find? fun r => r.1 == op with
  | some (_, .trunc m) => m.tid
  | some (_, .full m) => m.tid
  | some (_, .learn q _) => q.tid
  | none => noThread

def issuerTid (s : State) (a : Access) : Nat :=
  match a.who with
  | .thread t => t
  | .remote _ t => t
  | .cmd c p sq => match (getPart s c p).queue.find? (·.seq == sq) with
    | some e => e.tid
    | none => noThread
  | .acceptor g acc _ => if a.act = .load then askerTid s g acc a.op else noThread
  | .unit => noThread

def issuerSeq (a : Access) : Nat :=
  match a.who with
  | .cmd _ _ sq => sq
  | _ => 0

/-- SKIPOK (R315): stores and merges of types 2 and 3, and a parked FMRG. -/
def recSkipOk (type kind : Nat) : Bool := (type ≤ 3 && (kind == 1 || kind == 2)) && type ≠ 0

/-- The core, partition index and context of an access's record (R315): its issuer's; where another device issued it, those of the context
that granted the window, at the origin of its block (log entry 60). -/
def recPlace (s : State) (a : Access) : Nat × Nat × Nat :=
  match a.who, a.via.bind fun v => (getCtx s v.1).map fun x => (v.1, x) with
  | .remote _ _, some (c, x) => (coreAt x.ox x.oy, x.part, c)
  | _, _ => (a.core, a.part, a.ctx)

/-- Insert the record of a translation fault of an access; its uid is the current nonce. Its address is the virtual page address that did
not translate (R276, R315). That of a unit of the device names no thread, and none has RECPEND for it. -/
def faultRec (s : State) (a : Access) (type cause kind va : Nat) : State :=
  let w := recPlace s a
  let r : TrapRec := ⟨0, type, issuerTid s a, cause, addrClass (a.localDa), kind, recSkipOk type kind, w.1, w.2.1, w.2.2, a.pc,
    va, issuerSeq a, s.cycle, true, s.nonce⟩
  bump (addRec s (trapQueueOf s w.1 w.2.1) r)

/-- A command of a queue, changed. -/
def modEntry (s : State) (core p seq : Nat) (f : QEntry → QEntry) : State :=
  modPart s core p fun x => { x with queue := x.queue.map fun e => if e.seq = seq then f e else e }

/-- A translation fault meets an access (R314): a load parks its thread or tile command for a reissue, an array read parks the answer
(R397), everything else is held at the port. -/
def translationFault (s : State) (p : Nat) (a : Access) (cause va : Nat) : State :=
  match a.act with
  | .load =>
    match a.who with
    | .thread tid =>
      let s1 := modThread s tid fun t => if t.op = a.op then { t with wait := .xfault, op := t.op + 1 } else t
      faultRec s1 a 1 cause 0 va
    | .cmd c q sq => faultRec (modEntry s c q sq fun e => { e with parked := true, reading := false }) a 3 cause 3 va
    | .acceptor g acc _ =>
      let s1 := { s with dev := { s.dev with parked := s.dev.parked ++ [(s.nonce, .loadRequest a)] } }
      let b := match getThread s (askerTid s g acc a.op) with
        | some t => { a with core := t.core, part := t.part, ctx := t.ctx, pc := t.pc.toNat }
        | none => a
      faultRec s1 b 1 cause 0 va
    | _ => refuse s (atCore a.core) a .noHome
  | act =>
    let type := match act with
      | .merge true _ _ _ => 1
      | _ => 2
    let s1 := modPort s p fun x => { x with held := x.held ++ [⟨a, some s.nonce, false⟩] }
    faultRec s1 a type cause (recKind a) va

/-! ### Port translators -/

/-- The answer of a port's translation: a key with its tier and the levels that a walk read, a translation fault, or the access waits (and
is already noted). -/
inductive Xlat where
  | key (k : Nat) (tier : Nat) (levels : Nat)
  | fault (cause : Nat)
  | waits
  deriving DecidableEq, Repr

def ownerKey (tier pa : Nat) : Nat := tier * 2 ^ 40 + pa / 65536

/-- Whether a context owns every frame of a page; host frames have no owner (R284). `n` frames from `pa`. -/
def ownsFrames (s : State) (ctx tier : Nat) : Nat → Nat → Bool
  | _, 0 => true
  | pa, n + 1 => tblGet 0 s.dev.owners (ownerKey tier pa) == ctx && ownsFrames s ctx tier (pa + 65536) n

def setOwners (tier ctx : Nat) : Nat → Nat → List (Nat × Nat) → List (Nat × Nat)
  | _, 0, l => l
  | pa, n + 1, l => setOwners tier ctx (pa + 65536) n (tblSet l (ownerKey tier pa) ctx)

/-- Write a table entry (A and D merges, COW, migration); the entry is 8 bytes in HBM. -/
def setEntry (s : State) (at' e : Nat) : State := { s with mem := memWrite s.mem (tierKey 0 at') (leBytes 8 e) }

def sizeIndex (size : Nat) : Nat := if size = 2 ^ 16 then 0 else if size = 2 ^ 21 then 1 else 2

/-- Take a frame from a tier's free list (R283). -/
def takeFrame (s : State) (tier size : Nat) : Option (Nat × State) :=
  let k := 4 * tier + sizeIndex size
  match tblGet [] s.dev.frames k with
  | [] => none
  | f :: fs => some (f, { s with dev := { s.dev with frames := tblSet s.dev.frames k fs } })

def freeFrame (s : State) (tier size pa : Nat) : State :=
  let k := 4 * tier + sizeIndex size
  { s with dev := { s.dev with frames := tblSet s.dev.frames k (tblGet [] s.dev.frames k ++ [pa]) } }

/-- Bits [57:56] of an entry set as an access demands (R280). -/
def withAD (e : Nat) (writes : Bool) : Nat :=
  let e1 := if bitAt e 57 then e else e + 2 ^ 57
  if writes && !bitAt e1 56 then e1 + 2 ^ 56 else e1

/-- The page job that covers an address of a context and class. -/
def findJob (l : List PageJob) (ctx cls va : Nat) : Option PageJob :=
  l.find? fun j => j.ctx == ctx && j.cls == cls && j.va ≤ va && va < j.va + j.size

def addWaiting (l : List PageJob) (ctx cls va : Nat) (a : Access) : List PageJob :=
  l.map fun j => if j.ctx == ctx && j.cls == cls && j.va ≤ va && va < j.va + j.size then { j with waiting := j.waiting ++ [a] }
    else j

/-- The job that zeroes a physical page (R284). -/
def findZero (l : List PageJob) (tier pa : Nat) : Option PageJob :=
  l.find? fun j => j.tier == tier && j.pa ≤ pa && pa < j.pa + j.size

/-- Copy the poison of a page with its bytes. -/
def movePoison (s : State) (src dst n : Nat) : State :=
  addPoison (clearPoison s dst n) ((s.poison.filter fun w => src ≤ w && w < src + n).map fun w => w - src + dst)

/-- What a walk does with a leaf whose rights allow the access, before ownership: copy-on-write (R283), A and D (R280), and the completed
translation. The answer is the page's frame, or none when no frame is free. -/
def useLeaf (s : State) (p ctx cls va : Nat) (k : WalkKind) (l : Leaf) : Option (Nat × State) :=
  let cow := k.writes && bitAt l.e 58
  match if cow then takeFrame s l.tier l.size else some (l.pa, s) with
  | none => none
  | some (pa, s1) =>
    let src := tierKey l.tier l.pa
    let dst := tierKey l.tier pa
    let s2 := if cow then movePoison { s1 with mem := memCopy s1.mem src dst l.size } src dst l.size else s1
    let e1 := if cow then l.e / 2 ^ 48 * 2 ^ 48 - 2 ^ 58 + (if bitAt l.e 60 then 0 else 2 ^ 60) + pa + l.e % 2 ^ 8 else l.e
    let s3 := setEntry s2 l.at' (withAD e1 k.writes)
    let s4 := if cow then { s3 with dev := { s3.dev with owners := setOwners l.tier ctx pa (l.size / 65536) s3.dev.owners } } else s3
    some (pa, modPort s4 p fun x => { x with tlb := (⟨ctx, cls, va / l.size * l.size, l.size, pa, l.tier, bitAt e1 61,
      bitAt e1 60 && (cow || !bitAt e1 58), bitAt e1 59 && (cow || !bitAt e1 58), l.at'⟩ :: x.tlb).take 2048 })

/-- take_owner of a page whose frames another context owns, or none (R284): its bytes are zero, the walking context owns it, and until the
zeroing ends the accesses that reach it wait; `w` are those that wait from the beginning. -/
def takePage (s : State) (p ctx cls va : Nat) (l : Leaf) (pa : Nat) (w : List Access) : State :=
  let dst := tierKey l.tier pa
  let s1 := { s with mem := memZero s.mem dst l.size,
                     dev := { s.dev with owners := setOwners l.tier ctx pa (l.size / 65536) s.dev.owners } }
  let job : PageJob := ⟨ctx, cls, va / l.size * l.size, l.size, l.tier, pa, l.at', l.tier, pa, w, none⟩
  let s2 := clearPoison s1 dst l.size
  after { s2 with dev := { s2.dev with zeroing := s2.dev.zeroing ++ [job] } } (ceilDiv l.size 20480) (.pageZeroingDone p dst)

/-- Levels that the walk to a leaf of a page size read. -/
def levelsOf (size : Nat) : Nat := if size = 2 ^ 30 then 1 else if size = 2 ^ 21 then 2 else 3

/-- The steps of a walk after its leaf is found and its rights allow the access (R280, R283, R284). The access `a` waits when its page has
to be zeroed; without a context no owner is taken (log entry 59). -/
def afterWalk (s : State) (p : Nat) (a : Access) (ctx cls va : Nat) (k : WalkKind) (l : Leaf) : State × Xlat :=
  match useLeaf s p ctx cls va k l with
  | none => (s, .fault 3)
  | some (pa, s1) =>
    if l.tier = 2 || ctx = 0 || ownsFrames s1 ctx l.tier pa (l.size / 65536) then
      (s1, .key (tierKey l.tier pa + va % l.size) l.tier (levelsOf l.size))
    else (takePage s1 p ctx cls va l pa [a], .waits)

/-- The port that serves a class and virtual address (R276). -/
def portOf (cls va : Nat) : Nat := if cls = 4 then va / 2 ^ 11 % 8 else if cls = 5 then 8 + va / 2 ^ 11 % 4 else 12

/-- A walk of a unit of the device, with the roots given, for an access that it carries out in one step (R280, R283, R284): the memory key,
if the address translates. Without a context (`ctx` 0: the launch unit before a context starts) no owner is taken (log entry 59). -/
def unitWalk (s : State) (ctx root cls va : Nat) (k : WalkKind) : State × Option Nat :=
  match walk s root cls va k with
  | .error _ => (s, none)
  | .ok l =>
    match useLeaf s (portOf cls va) ctx cls va k l with
    | none => (s, none)
    | some (pa, s1) =>
      let key := tierKey l.tier pa + va % l.size
      if l.tier = 2 || ctx = 0 || ownsFrames s1 ctx l.tier pa (l.size / 65536) then (s1, some key)
      else (takePage s1 (portOf cls va) ctx cls va l pa [], some key)

/-- Key of a device address for a unit of the device (launch unit, log, acceptors, image writer), which reads and writes with
the roots given; `none` where there is no home or no translation. -/
def unitKey (s : State) (ctx core p r4 r5 r6 : Nat) (da : Nat) (k : WalkKind) : State × Option Nat :=
  match homeOf s ctx core p da with
  | .scratch c off => (s, some (scratchKey c off))
  | .istore c off => (s, some (istoreKey c off))
  | .commons g off => (s, some (commonsKey g off))
  | .port _ cls va => unitWalk s ctx (if cls = 4 then r4 else if cls = 5 then r5 else r6) cls va k
  | .device _ _ => (s, none)
  | .none => (s, none)

/-- Bytes at a device address as a context's unit reads them, in lines of 64; `none` when a line has no home, no translation or a poisoned
word. The first number counts lines. -/
def unitRead (s : State) (ctx core p r4 r5 r6 : Nat) : Nat → Nat → Nat → State × Option (List Byte)
  | 0, _, _ => (s, some [])
  | n + 1, da, len =>
    let z := min len (64 - da % 64)
    if len = 0 then (s, some [])
    else match unitKey s ctx core p r4 r5 r6 da ⟨true, false, false⟩ with
    | (s1, none) => (s1, none)
    | (s1, some k) =>
      if poisoned s1 k z then (s1, none)
      else
        let r := unitRead s1 ctx core p r4 r5 r6 n (da + z) (len - z)
        (r.1, r.2.map fun bs => memRead r.1.mem k z ++ bs)

/-- Whether a write must wait for the image writer (R289): its page belongs to an image being written and is not imaged yet. -/
def imageHolds (s : State) (ctx da : Nat) : Bool :=
  (addrClass da == 4 || addrClass da == 5) && match (getCtx s ctx).bind fun x => x.image.map fun j => (x, j) with
  | none => false
  | some (x, j) => j.writing && j.todo.any fun t =>
      let b := (nth {} x.segs t.1).base + t.2
      da / 65536 == b / 65536

/-- The virtual device whose launch accord an accord is. -/
def launchVd (s : State) (acc : Nat) : Option Nat :=
  (s.vds.find? fun v => v.2.acc == some acc).map (·.1)

/-- The root with which a port translates an access: its context's; for a member of a launch accord, which no context owns, the one that
its virtual device keeps for future contexts (R353). -/
def rootFor (s : State) (a : Access) (ctx cls : Nat) : Option Nat :=
  match getCtx s ctx with
  | some x => some (rootOf x cls)
  | none =>
    match a.who with
    | .acceptor _ acc _ => (launchVd s acc).map fun v =>
        let d := getVd s v
        if cls = 4 then d.root4 else if cls = 5 then d.root5 else d.root6
    | _ => none

/-- Translation of an access at a port (R280, R281, R284, R287). Of the accesses that wait for a page in motion the first 256 fill the
port's migration buffer, and those behind them wait in the network; both go on in their order of arrival. -/
def translate (s : State) (p : Nat) (a : Access) (ctx cls va : Nat) (k : WalkKind) : State × Xlat :=
  match rootFor s a ctx cls with
  | none => (s, .fault 1)
  | some root =>
    let mig := findJob s.dev.migrating ctx cls va
    let behindWrite := match mig with
      | some j => j.waiting.any fun b => b.localDa / 64 == a.localDa / 64
      | none => false
    if mig.isSome && (k.writes || behindWrite) then
      ({ s with dev := { s.dev with migrating := addWaiting s.dev.migrating ctx cls va a } }, .waits)
    else
      let tlb := if ctx ≠ 0 && Config.useTlb s.nonce then
          (getPort s p).tlb.find? fun t => t.ctx == ctx && t.cls == cls && t.va ≤ va && va < t.va + t.size
            && (!k.r || t.r) && (!k.w || t.w) && (!k.m || t.m)
        else none
      let s1 := bump s
      match tlb with
      | some t =>
        match findZero s1.dev.zeroing t.tier (t.pa + (va - t.va)) with
        | some j => ({ s1 with dev := { s1.dev with zeroing := s1.dev.zeroing.map fun i =>
            if i.pa = j.pa && i.tier = j.tier then { i with waiting := i.waiting ++ [a] } else i } }, .waits)
        | none =>
          let e := ofLeBytes (memRead s1.mem (tierKey 0 t.entry) 8)
          (setEntry s1 t.entry (withAD e k.writes), .key (tierKey t.tier (t.pa + (va - t.va))) t.tier 0)
      | none =>
        match walk s1 root cls va k with
        | .error c => (s1, .fault c)
        | .ok l =>
          match findZero s1.dev.zeroing l.tier l.pa with
          | some j => ({ s1 with dev := { s1.dev with zeroing := s1.dev.zeroing.map fun i =>
              if i.pa = j.pa && i.tier = j.tier then { i with waiting := i.waiting ++ [a] } else i } }, .waits)
          | none => afterWalk s1 p a ctx cls va k l

/-- Whether two accesses are of one issuer, from one core, and to one line (R117). -/
def sameLine (a b : Access) : Bool := a.who == b.who && a.core == b.core && a.da / 64 == b.da / 64

/-- Whether the order of its line binds an access (R113, R117): all but the reads of a tile command, which no rule orders behind the
command's own writes. -/
def keepsLine (a : Access) : Bool :=
  (walkKindOf a.act).writes || (match a.who with
    | .cmd _ _ _ => false
    | _ => true)

/-- Whether an access waits behind a held access of the same thread and line (R113, R117, R314). -/
def behindHeld (s : State) (p : Nat) (a : Access) : Bool := keepsLine a && (getPort s p).held.any fun h => sameLine h.acc a

/-- Whether an access waits behind a write of the same thread and line that waits for the image writer (R113, R117, R289). -/
def behindImage (s : State) (ctx : Nat) (a : Access) : Bool :=
  keepsLine a && (match (getCtx s ctx).bind (·.image) with
    | some j => j.held.any fun h => sameLine h a
    | none => false)

/-- The step that an access packet is at its home. -/
def accessStep (a : Access) : Instr :=
  match a.act with
  | .load => .loadRequest a
  | .store _ => .storeDelivery a
  | _ => .mergeApply a

/-- An access carried out at a port, `wait` cycles after it came: its answer tells the key, which pins the page until it has arrived. -/
def answerAt (s : State) (p wait key : Nat) (a : Access) : State :=
  answer (atRouter (portCore p) (wait + serviceTime s p)) { a with key := some key } (applyAt s key (portRegion p) a a.z)

/-- An access at a port: merges to host memory are refused (R126, R347), then translation, then the access itself. A class 0x4 access whose
page lies in the LPDDR tier travels on to the port that holds it (R276, R394). -/
def servePort (s : State) (p : Nat) (a : Access) (ctx cls va : Nat) : State :=
  let k := walkKindOf a.act
  if behindHeld s p a then modPort s p fun x => { x with held := x.held ++ [⟨a, none, true⟩] }
  else if k.writes && imageHolds s ctx a.localDa || behindImage s ctx a then
    post (modCtx s ctx fun x => { x with image := x.image.map fun j => { j with held := j.held ++ [a] } })
      s.cycle 0 .imagePageWrite (.ctx ctx)
  else if k.m && cls = 6 then refuse s (atRouter (portCore p) 0) a .badMerge
  else match translate s p a ctx cls va k with
    | (s1, .key key tier n) =>
      if k.m && tier = 2 then refuse s1 (atRouter (portCore p) 0) a .badMerge
      else if cls = 4 && tier = 1 then
        sendAfter s1 (walkTime s1 n) (portCore p) (portCore (8 + va / 2 ^ 11 % 4)) a.payload (lineKey s1 ctx a.core a.da)
          (accessStep { a with key := some key })
      else answerAt s1 p (walkTime s1 n) key a
    | (s1, .fault c) => translationFault s1 p a c va
    | (s1, .waits) => s1

/-! ### Delivery -/

/-- Bytes that exist from a commons offset on: the merge-exception line has 8 (R273). -/
def commonsLimit (off z : Nat) : Nat := if 0x7FFFC0 ≤ off then 0x7FFFC8 - off else z

/-- The shadow comparator of a core that covers a byte range (R131). -/
def coveredBy (sh : Shadow) (off z : Nat) : Bool := sh.lo < off + z && off < sh.hi

/-- Whether a comparator holds a write: it covers bytes of it, or it holds an earlier one of the same issuer to the same line (R117). -/
def holdsWrite (sh : Shadow) (off : Nat) (a : Access) : Bool :=
  coveredBy sh off a.z || sh.held.any fun h => h.2.who == a.who && h.2.core == a.core && h.1 / 64 == off / 64

def holdInShadow (l : List Shadow) (off : Nat) (a : Access) : List Shadow :=
  match l with
  | [] => []
  | x :: t => if holdsWrite x off a then { x with held := x.held ++ [(off, a)] } :: t else x :: holdInShadow t off a

/-- Note what `n` bytes hold before a write of this cycle is delivered to them (R77). -/
def noteFresh (s : State) (k n : Nat) : State :=
  { s with fresh := (List.range n).foldl (fun l i => if l.any (·.1 == k + i) then l else (k + i, memByte s.mem (k + i)) :: l) s.fresh }

/-- Bytes without the writes delivered in this cycle (R77). -/
def readBefore (s : State) (k n : Nat) : List Byte :=
  (List.range n).map fun i => ((s.fresh.find? (·.1 == k + i)).map (·.2)).getD (memByte s.mem (k + i))

/-- An access at an absolute offset of a core's scratchpad: a write that a copy has still to pass is held, and one to the same line
behind it (R117, R131). -/
def scratchAccess (s : State) (c off : Nat) (a : Access) : State :=
  if (walkKindOf a.act).writes && (getCore s c).shadows.any fun x => holdsWrite x off a then
    modCore s c fun x => { x with shadows := holdInShadow x.shadows off a }
  else
    let s1 := if (walkKindOf a.act).writes then noteFresh s (scratchKey c off) a.z else s
    answer (atCore c) a (applyAt s1 (scratchKey c off) (regionOf c) a a.z)

/-- The window descriptor lookup of a class 0x8 access at this device (R277): the context that granted the window and the local device
address, when V, the right and the class are good. Where several contexts have granted a window, the first grant that maps the GiB counts,
and a descriptor whose base lies in another class than it names has an invalid class (log entry 60). -/
def windowLocal (s : State) (ctx off : Nat) (k : WalkKind) : Option (Nat × Nat) :=
  let word := fun (g : Grant) => (nth 0 g.window (off / 2 ^ 30)).toNat
  match s.grants.find? fun g => g.grantee == ctx && g.acc.isNone && bitAt (word g) 63 with
  | none => none
  | some g =>
    let d := word g
    let cls := bitsOf d 59 56
    let da := bitsOf d 55 30 * 2 ^ 30 + off % 2 ^ 30
    if (!k.r || bitAt d 62) && (!k.w || bitAt d 61) && (!k.m || bitAt d 60)
        && (cls == 1 || cls == 3 || cls == 4 || cls == 5) && addrClass da == cls then some (g.owner, da)
    else none

/-- Deliver an access of a context at a local home; `p` is the partition index in whose view it lies. -/
def deliverHome (s : State) (a : Access) (ctx p : Nat) (h : Home) : State :=
  match h with
  | .none => refuse s (atCore a.core) a .noHome
  | .scratch c off =>
    if off - viewBase s c p < 0x800 && (walkKindOf a.act).writes && a.who != .unit then refuse s (atCore c) a .noHome
    else scratchAccess s c off a
  | .istore c off =>
    if (walkKindOf a.act).m then refuse s (atCore c) a .noHome
    else answer (atCore c) a (applyAt s (istoreKey c off) (regionOf c) a a.z)
  | .commons g off => answer (atRouter (regionHub g) 0) a (applyAt s (commonsKey g off) g a (commonsLimit off a.z))
  | .port q cls va => servePort s q a ctx cls va
  | .device _ _ => refuse s (atCore a.core) a .noHome

/-- Whether a context is off its cores, so that packets to its partition go to the save area (R322). -/
def descheduled (s : State) (ctx : Nat) : Bool :=
  match getCtx s ctx with
  | some x => x.life == .descheduled
  | none => false

/-- Keep a packet for a descheduled context (R322). -/
def savePacket (s : State) (ctx : Nat) (i : Instr) : State :=
  modCtx s ctx fun x => { x with saved := x.saved.map fun v => { v with packets := v.packets ++ [i] } }

/-- Whether a device address names a core resource (classes 0x0, 0x1, 0x2, 0x7). -/
def coreClass (da : Nat) : Bool := addrClass da == 0 || addrClass da == 1 || addrClass da == 2 || addrClass da == 7

/-- Partition index of a context. -/
def partOf (s : State) (ctx : Nat) : Nat :=
  match getCtx s ctx with
  | some x => x.part
  | none => 0

/-- Deliver a class 0x8 access at the device that it names (R277, R345, R346): a packet of a closed interval is discarded. A local class 0x1
address lies in the partition index of the context that granted the window (log entry 61), and goes to the save area of one that is off its
cores (R322). -/
def deliverWindow (s : State) (a : Access) : State :=
  let d := sourceOf s a
  if a.act != .load && (countAt s d.1 d.2 a.iv).closed then s
  else match windowLocal s a.ctx (a.da % 2 ^ 36) (walkKindOf a.act) with
    | none => refuse s (atCore a.core) a .noHome
    | some (owner, da) =>
      let b := { a with via := some (owner, da) }
      if coreClass da && descheduled s owner then savePacket s owner (accessStep b)
      else deliverHome s b owner (partOf s owner) (homeOf s owner a.core (partOf s owner) da)

/-- Deliver an access packet (R112, R115, R122): to its home here, to its saved context, at the LPDDR port to which it was sent on, through
this device's window table, or out to the device it names. An address that names no device of the fabric has no home (R347). -/
def deliver (s : State) (a : Access) : State :=
  match a.key with
  | some k => answerAt s (8 + k / 2 ^ 11 % 4) 0 k a
  | none =>
    if coreClass a.da && descheduled s a.ctx then savePacket s a.ctx (accessStep a)
    else if addrClass a.da = 8 then
      let d := a.da / 2 ^ 36 % 65536
      if d = s.dev.id then deliverWindow s a
      else if inFabric s d then emit s d (accessStep a)
      else refuse s (atCore a.core) a .noHome
    else deliverHome s a a.ctx a.part (homeOf s a.ctx a.core a.part a.da)

/-- Deliver accesses in order. -/
def deliverAll (s : State) : List Access → State
  | [] => s
  | a :: t => deliverAll (deliver s a) t

/-- Whether the home refuses a store or merge of a thread as things stand now: its acknowledgement reports a fault (R19, R27, R30, R126,
R127). What another device answers is not known here. -/
def refusedNow (s : State) (a : Access) : Bool :=
  (deliver { s with pend := [] } a).pend.any fun p => match p.what with
    | .acknowledgement b st => b.who == a.who && (ackFault st).isSome
    | _ => false

/-- Whether the line table of its core counts a packet (R335): the stores and merges of threads and of tile commands. The acknowledgement of
a packet that names no line (a message, a channel word, a pair push) carries an empty store. -/
def counted (a : Access) : Bool :=
  (walkKindOf a.act).writes && a.act != .store [] && match a.who with
    | .thread _ => true
    | .cmd _ _ _ => true
    | _ => false

/-- Send an access from its core to its home: in the issue cycle for the own core (R396), else under R333 and R335. -/
def sendAccess (s : State) (a : Access) : State :=
  let h := homeOf s a.ctx a.core a.part a.da
  let key := lineKey s a.ctx a.core a.da
  let line := lineOf s a.ctx a.da
  let go := fun (dst : Nat) =>
    let s1 := if counted a then enterLine s a.core line else s
    sendOn (lineRoute s1 a.core line) s1 0 a.core dst a.payload key (accessStep a)
  match h with
  | .scratch c _ => if c = a.core then post s s.cycle key (accessStep a) else go c
  | .istore c _ => if c = a.core then post s s.cycle key (accessStep a) else go c
  | .none => post (if counted a then enterLine s a.core line else s) (s.cycle + 1) key (accessStep a)
  | h => go (homeCore s a.core h)

/-- Write of a unit within one line (R280 to R289): it reaches its home as a store does, and nothing happens where there is no home. A unit
without a context writes with the roots given, and drops what does not translate (log entry 59). -/
def unitWrite (s : State) (ctx core p r4 r5 r6 da : Nat) (bs : List Byte) : State :=
  if (getCtx s ctx).isSome then deliver s ⟨.unit, 0, ctx, p, core, 0, da, bs.length, 0, .store bs, none, none⟩
  else match unitKey s ctx core p r4 r5 r6 da ⟨false, true, false⟩ with
    | (s1, some k) => putBytes s1 k bs
    | (s1, none) => s1

end Sys2Proof.Machine
end

