-- ==== Sys2Proof/Machine/Log.lean ====
section
/-! DEFINITION. The order log and its replay (R325 to R330): records, their sequence numbers and places, full segments, and turns.
A record's bytes and the tail that counts it are written in the step that appends it. -/

namespace Sys2Proof.Machine

/-- Whether a context records operations now. -/
def logging (x : Ctx) : Bool := x.log.on && !x.log.paused && !x.log.rpl

/-- Whether a replay enforces recorded outcomes now (R267, R329). -/
def replaying (x : Ctx) : Bool := x.log.rpl && !x.log.paused

/-- The sequencer class of a record type (R327): 1 words, 2 slots and accords, 3 cores, 4 barriers, 5 the context. -/
def logClass (type : Nat) : Nat :=
  match type with
  | 0x01 => 1
  | 0x07 => 3
  | 0x08 => 3
  | 0x09 => 3
  | 0x0C => 3
  | 0x0E => 3
  | 0x0D => 4
  | 0x10 => 5
  | 0x11 => 5
  | 0x12 => 5
  | _ => 2

/-- Key of an object in the table of next sequence numbers; types 0x10 to 0x12 share one sequencer. -/
def logKey (type : Nat) (obj : Word) : Nat :=
  logClass type * 2 ^ 64 + (if logClass type = 5 then 0 else obj.toNat)

/-- The core reference of a core as the log writes it: class 0x1, sub zero. -/
def coreRefWord (core : Nat) : Word := BitVec.ofNat 64 (2 ^ 52 + coreY core * 2 ^ 23 + coreX core * 2 ^ 16)

/-- Device address of entry `r` of the segment of region `g`, and of quad `q` of its header (R327). -/
def logEntryAddr (x : Ctx) (g r : Nat) : Nat := x.log.ring + 4096 + g * 32 * 2 ^ x.log.lseg + 32 * (r % 2 ^ x.log.lseg)

def logHeadAddr (x : Ctx) (g q : Nat) : Nat := x.log.ring + 64 * g + 8 * q

/-- Bytes that a unit of the context reads in one or two lines, with what the walk does to the tables (R280). -/
def ctxRead (s : State) (c : Nat) (x : Ctx) (da n : Nat) : State × Option (List Byte) :=
  unitRead s c (coreAt x.ox x.oy) x.part x.root4 x.root5 x.root6 2 da n

/-- The state after a unit of the context has read a line: A is set and its page owned (R280, R284). -/
def ctxTouch (s : State) (c : Nat) (x : Ctx) (da : Nat) : State := (ctxRead s c x da 8).1

/-- A quad that a unit of the context reads in memory; 0 where it cannot be read. -/
def ctxReadQuad (s : State) (c : Nat) (x : Ctx) (da : Nat) : Nat :=
  match (ctxRead s c x da 8).2 with
  | some bs => ofLeBytes bs
  | none => 0

/-- Bytes that a unit of the context writes within one line. -/
def ctxWrite (s : State) (c : Nat) (x : Ctx) (da : Nat) (bs : List Byte) : State :=
  unitWrite s c (coreAt x.ox x.oy) x.part x.root4 x.root5 x.root6 da bs

/-- Quads of a record (R325). -/
def logQuads (r : LogRec) (g tid oseq delta : Nat) : List Word :=
  [BitVec.ofNat 64 (r.type * 2 ^ 56 + b2n r.ext.isSome * 2 ^ 55 + r.form % 128 * 2 ^ 48 + g * 2 ^ 42 + tid % 2 ^ 40), r.obj,
   BitVec.ofNat 64 (oseq % 2 ^ 32 * 2 ^ 32 + delta), r.outcome]

/-- Quads of an extension record. -/
def logExtQuads (r : LogRec) (g tid oseq : Nat) (e : Word × Word) : List Word :=
  [BitVec.ofNat 64 (0x1F * 2 ^ 56 + r.form % 128 * 2 ^ 48 + g * 2 ^ 42 + tid % 2 ^ 40), e.1,
   BitVec.ofNat 64 (oseq % 2 ^ 32 * 2 ^ 32), e.2]

/-- The record of a handler start (R326): its word count stands in [51:48], where 16 reads 0 (log entry 81). -/
def handlerRec (core tid words : Nat) : LogRec :=
  ⟨0x0C, 0, coreRefWord core, BitVec.ofNat 64 (tid + words % 16 * 2 ^ 48), none, none⟩

/-- How many entries a record takes. -/
def logSize (r : LogRec) : Nat := if r.ext.isSome then 2 else 1

/-- Give a record its sequence number if its sequencer has not done so yet (R327). -/
def sequenceRec (x : Ctx) (r : LogRec) : Ctx × LogRec :=
  match r.oseq with
  | some _ => (x, r)
  | none =>
    let k := logKey r.type r.obj
    let n := tblGet 0 x.log.oseq k
    ({ x with log := { x.log with oseq := tblSet x.log.oseq k (n + 1) } }, { r with oseq := some n })

/-- The tail and the head of a segment, as they stand in its header (R327). In a recording without software's hand the tail is the number of
records appended (R328); what software writes there counts instead (log entry 79). -/
def logTail (s : State) (c : Nat) (x : Ctx) (g : Nat) : Nat := ctxReadQuad s c x (logHeadAddr x g 0)

def logHead (s : State) (c : Nat) (x : Ctx) (g : Nat) : Nat := ctxReadQuad s c x (logHeadAddr x g 1)

/-- Whether a record fits its segment (R328): both entries of one with an extension. -/
def logFits (s : State) (c : Nat) (x : Ctx) (g : Nat) (r : LogRec) : Bool :=
  logTail s c x g + logSize r ≤ logHead s c x g + 2 ^ x.log.lseg

/-- The state after a unit of the context has read the headers of some segments (R280, R328). -/
def touchHeads (c : Nat) (x : Ctx) : List Nat → State → State
  | [], s => s
  | g :: l, s => touchHeads c x l (ctxTouch s c x (logHeadAddr x g 1))

/-- Whether an outcome that waits for room in the order log has happened at a home, a target, a bag, a barrier or the trap request, so that
its record has its number already and it is kept over a dusk stop (R249, R321, log entry 80); an agreement instruction, LNCH, SNAP or OLOG
is issued again (R165, R270). -/
def keptOutcome (r : LogRec) : Bool := r.type == 0x01 || r.type == 0x07 || r.type == 0x09 || r.type == 0x0D || r.type == 0x15

/-- Append a record that fits, numbered here if its sequencer has not done so yet: its entries, then the tail (R325, R327). -/
def appendRec (s : State) (c : Nat) (x : Ctx) (g tid : Nat) (r0 : LogRec) : State :=
  let q := sequenceRec x r0
  let x := q.1
  let r := q.2
  let n := tblGet 0 x.log.counts g
  let oseq := r.oseq.getD 0
  let delta := min (s.cycle - tblGet x.log.start x.log.last g) (2 ^ 32 - 1)
  let x1 := { x with log := { x.log with counts := tblSet x.log.counts g (n + logSize r), last := tblSet x.log.last g s.cycle } }
  let s1 := ctxWrite (setCtx s c x1) c x1 (logEntryAddr x g n) (quadBytes (logQuads r g tid oseq delta))
  let s2 := match r.ext with
    | some e => ctxWrite s1 c x1 (logEntryAddr x g (n + 1)) (quadBytes (logExtQuads r g tid oseq e))
    | none => s1
  ctxWrite s2 c x1 (logHeadAddr x g 0) (leBytes 8 (logTail s c x g + logSize r))

/-- Whether anything of a context waits for room in its ring. -/
def ringWaits (t : Thread) : Bool :=
  (t.place == .held && !t.held.isEmpty) || (match t.wait with
    | .ring _ _ => true
    | _ => false)

/-- Ask for the next reading of the heads, if none is on its way (R328). -/
def askRecheck (s : State) (c : Nat) : State :=
  if s.pend.any fun p => p.what == .ologHeadRecheck && p.who == .ctx c then s
  else after s 4096 .ologHeadRecheck (.ctx c)

/-- Deliver an outcome that is logged: the record is appended first, or the thread parks until it fits (R325, R328). An outcome that a dusk
stop keeps is numbered now, one that is issued again when its record is appended. -/
def finish (s : State) (t : Thread) (r : LogRec) (c : Completion) : State :=
  match getCtx s t.ctx with
  | none => complete s t c
  | some x =>
    if logging x then
      let g := regionOf t.core
      if logFits s t.ctx x g r then complete (appendRec s t.ctx x g t.id r) t c
      else
        let q := if keptOutcome r then sequenceRec x r else (x, r)
        askRecheck (wait (setCtx s t.ctx q.1) { t with op := t.op + 1 } (.ring q.2 c)) t.ctx
    else complete s t c

/-! ### Replay -/

/-- A record as the replay unit reads it: its ring index, type, form, tid, object, sequence number, outcome, extension. -/
structure LogRead where
  idx : Nat
  type : Nat
  form : Nat
  tid : Nat
  obj : Word
  oseq : Nat
  outcome : Word
  ext : Option (Word × Word)
  deriving DecidableEq, Repr

/-- Read entry `r` of the segment of region `g`. -/
def readRec (s : State) (c : Nat) (x : Ctx) (g r : Nat) : LogRead :=
  let q := fun i e => ctxReadQuad s c x (logEntryAddr x g e + 8 * i)
  let q0 := q 0 r
  { idx := r, type := q0 / 2 ^ 56, form := q0 / 2 ^ 48 % 128, tid := q0 % 2 ^ 40, obj := BitVec.ofNat 64 (q 1 r), oseq := q 2 r / 2 ^ 32,
    outcome := BitVec.ofNat 64 (q 3 r),
    ext := if bitAt q0 55 then some (BitVec.ofNat 64 (q 1 (r + 1)), BitVec.ofNat 64 (q 3 (r + 1))) else none }

/-- Find the first unconsumed record that satisfies `f` among `n` records from `r` on (R329: up to 1,024 are read ahead). -/
def findRec (s : State) (c : Nat) (x : Ctx) (g : Nat) (f : LogRead → Bool) : Nat → Nat → Option (Nat × LogRead)
  | 0, _ => none
  | n + 1, r =>
    let e := readRec s c x g r
    if !x.log.used.contains (g * 2 ^ 32 + r) && e.type != 0x1F && f e then some (r, e) else findRec s c x g f n (r + 1)

/-- The unconsumed part of a segment: first record and count. -/
def replayWindow (s : State) (c : Nat) (x : Ctx) (g : Nat) : Nat × Nat :=
  let r := tblGet 0 x.log.cursors g
  (r, min 1024 (ctxReadQuad s c x (logHeadAddr x g 0) - r))

/-- What a replay says of a logged operation of a thread: its turn with the record and its index, not yet, or divergence at a
record (R330). -/
inductive Turned where
  | now (idx : Nat) (r : LogRead)
  | later
  | diverged (idx : Nat)
  deriving DecidableEq, Repr

/-- Look for the turn of an operation (R329, R330). Type 0x13 takes the thread's next record of that type; types 0x0A, 0x0B and 0x14,
whose objects name slots that only the record tells, take it when it is next of its object. -/
def turnOf (s : State) (c : Nat) (x : Ctx) (g tid type form : Nat) (obj : Word) : Turned :=
  let w := replayWindow s c x g
  if w.2 = 0 then .diverged w.1
  else if type = 0x13 then
    match findRec s c x g (fun e => e.type == 0x13 && e.tid == tid) w.2 w.1 with
    | some (i, e) => .now i e
    | none => .later
  else if type = 0x0A || type = 0x0B || type = 0x14 then
    match findRec s c x g (fun e => e.type == type && e.tid == tid) w.2 w.1 with
    | some (i, e) =>
      if e.oseq ≠ tblGet 0 x.log.oseq (logKey e.type e.obj) % 2 ^ 32 then .later
      else if e.form = form then .now i e
      else .diverged i
    | none => .later
  else
    let k := logKey type obj
    let n := tblGet 0 x.log.oseq k
    match findRec s c x g (fun e => logKey e.type e.obj == k && e.oseq == n % 2 ^ 32) w.2 w.1 with
    | none => .later
    | some (i, e) =>
      if e.tid ≠ tid then .later
      else if e.type = type && e.form = form then .now i e
      else .diverged i

/-- Move a cursor past the consumed records above it. The fuel is the number of records noted as consumed. -/
def passUsed (g : Nat) : Nat → Nat → List Nat → Nat × List Nat
  | 0, r, l => (r, l)
  | n + 1, r, l => if l.contains (g * 2 ^ 32 + r) then passUsed g n (r + 1) (l.filter (· != g * 2 ^ 32 + r)) else (r, l)

/-- Ask every waiting thread of a context to look for its turn again. -/
def wakeTurns (c : Nat) : List (Nat × Thread) → State → State
  | [], s => s
  | (tid, t) :: l, s =>
    wakeTurns c l (match t.wait with
      | .turn _ _ _ _ => if t.ctx = c then post s s.cycle 0 .replayTurn (.op tid t.op) else s
      | .bar _ _ _ => if t.ctx = c then post s s.cycle 0 .replayTurn (.op tid t.op) else s
      | _ => s)

/-- Consume a record: the object's next number, the segment's head, and the others' turns (R329). -/
def consumeRec (s : State) (c : Nat) (x : Ctx) (g idx : Nat) (e : LogRead) : State :=
  let k := logKey e.type e.obj
  let used := (g * 2 ^ 32 + idx) :: ((if e.ext.isSome then [g * 2 ^ 32 + idx + 1] else []) ++ x.log.used)
  let p := passUsed g used.length (tblGet 0 x.log.cursors g) used
  let x1 := { x with log := { x.log with oseq := tblSet x.log.oseq k (tblGet 0 x.log.oseq k + 1), used := p.2,
                                         cursors := tblSet x.log.cursors g p.1, lastTurn := s.cycle } }
  let s1 := ctxWrite (setCtx s c x1) c x1 (logHeadAddr x g 1) (leBytes 8 p.1)
  wakeTurns c s1.threads s1

/-- The gate of a logged operation in a replay (R329): before its turn the thread waits, in its turn `k` goes on with the record, a
divergence is fatal. -/
def atTurn (s : State) (t : Thread) (x : Ctx) (type form : Nat) (obj : Word) (k : State → Thread → Nat → LogRead → State) : State :=
  match turnOf s t.ctx x (regionOf t.core) t.id type form obj with
  | .now i e => k s t i e
  | .later => after (wait s t (.turn type form obj s.cycle)) (2 ^ 24) .replayStall (.op t.id t.op)
  | .diverged i => fatalAt s t 0x17 i

/-- The gate at which an operation takes effect whole: its record is consumed in its turn (R329). -/
def inTurn (s : State) (t : Thread) (x : Ctx) (type form : Nat) (obj : Word) (k : State → Thread → LogRead → State) : State :=
  atTurn s t x type form obj fun s t i e => k (consumeRec s t.ctx x (regionOf t.core) i e) t e

/-- OLOG_HEAD_RECHECK (R328): the heads are read again and every outcome that now fits is delivered. -/
def retryRing (c : Nat) : List (Nat × Thread) → State → State
  | [], s => s
  | (_, t) :: l, s =>
    retryRing c l (match t.wait, getCtx s c with
      | .ring r k, some x =>
        if t.ctx = c && logFits s c x (regionOf t.core) r then
          complete (appendRec s c x (regionOf t.core) t.id r) t k
        else s
      | _, _ => s)

end Sys2Proof.Machine
end

