-- ==== Sys2Proof/Machine/Acceptor.lean ====
section
/-! DEFINITION. Acceptors: quorums and protocol tables (R137, R182, R183), entries and their shares (R139, R142), the procedures of
R141, decisions with the decision array (R138, R397), leases and freezes (R151), conversations at a member (R184, R188), and what a
decided slot of a control or launch accord sets off (R288, R300, R320). -/

namespace Sys2Proof.Machine

/-! ### Descriptors -/

/-- Number `i` of `z` bytes at a byte offset. -/
def fieldAt (bs : List Byte) (off z : Nat) : Nat := ofLeBytes ((bs.drop off).take z)

/-- A quorum descriptor as it reads. -/
def parseQuorum (bs : List Byte) : Quorum :=
  let h := fieldAt bs 0 8
  let n := h % 16
  ⟨h / 2 ^ 32, h / 16 % 16, h / 256 % 16,
   (List.range n).map fun i => (fieldAt bs (8 + 4 * i) 4 / 65536, fieldAt bs (8 + 4 * i) 4 % 64)⟩

def distinct : List (Nat × Nat) → Bool
  | [] => true
  | a :: l => !l.contains a && distinct l

/-- Whether a quorum descriptor of 128 bytes is valid (R137). -/
def validQuorum (bs : List Byte) : Bool :=
  let h := fieldAt bs 0 8
  let q := parseQuorum bs
  let n := h % 16
  1 ≤ n && h / 2 ^ 12 % 2 ^ 20 == 0 && q.q1 ≤ n && q.q2 ≤ n && n < q.q1 + q.q2 && distinct q.members
    && ((List.range n).all fun i => fieldAt bs (8 + 4 * i) 4 / 64 % 1024 == 0)
    && ((bs.take 128).drop (8 + 4 * n)).all (· == 0)

/-- The 128 bytes of a quorum descriptor. -/
def quorumBytes (q : Quorum) : List Byte :=
  let l := leBytes 8 (q.frm * 2 ^ 32 + q.f2 * 256 + q.f1 * 16 + q.members.length)
    ++ (q.members.map fun m => leBytes 4 (m.1 * 65536 + m.2)).flatten
  l ++ List.replicate (128 - l.length) 0

/-- The quorum that governs a slot (R158). -/
def governing (qa : Quorum) (qb : Option Quorum) (slot : Nat) : Quorum :=
  match qb with
  | some q => if q.frm ≤ slot then q else qa
  | none => qa

/-- The epoch of the configuration that governs a slot: quorum B, while it waits to take over, has the new one (R158). -/
def epochAt (epoch : Nat) (qb : Option Quorum) (slot : Nat) : Nat :=
  match qb with
  | some q => if q.frm ≤ slot then epoch else epoch - 1
  | none => epoch

/-- The epoch with which a proposal for a slot must come at a member (R141, R158): a member that knows a configuration to be decided, and
has not had its registration yet, refuses the old one for the slots that the configuration governs. -/
def epochFor (c : AccCfg) (slot : Nat) : Nat :=
  match c.qb, c.cfgAt with
  | none, some f => if f ≤ slot then c.epoch + 1 else c.epoch
  | qb, _ => epochAt c.epoch qb slot

/-- An entry of a protocol table is well formed by itself (R183). -/
def protoEntryOk (nrol nst st kind e : Nat) : Bool :=
  if e < 2 ^ 15 then e == 0
  else kind < 15 && st < nst && e / 32 % 8 == 0 && e / 2 ^ 11 % 8 < nrol && e / 2 ^ 8 % 8 < nrol && e % 32 < nst

/-- The choice condition of R183 for one state: no entry has C, or all have it with one sending role. -/
def choiceOk (l : List Nat) : Bool :=
  match l with
  | [] => true
  | e :: _ => l.all fun f => bitAt f 14 == bitAt e 14 && (!bitAt e 14 || f / 2 ^ 11 % 8 == e / 2 ^ 11 % 8)

/-- A protocol table of 1,088 bytes, when it is valid (R182, R183). -/
def parseProto (bs : List Byte) : Option Proto :=
  let q0 := fieldAt bs 0 8
  let q1 := fieldAt bs 8 8
  let nrol := q0 / 256 % 16
  let nst := q0 % 64
  let es := (List.range 512).map fun i => (i, fieldAt bs (64 + 2 * i) 2)
  let used := es.filter fun e => e.2 != 0
  if q0 / 2 ^ 12 = 0 && q0 / 64 % 4 = 0 && q1 / 2 ^ 32 = 0 && ((bs.take 64).drop 16).all (· == 0)
      && 1 ≤ nrol && nrol ≤ 8 && 1 ≤ nst && nst ≤ 32
      && (used.all fun e => protoEntryOk nrol nst (e.1 / 16) (e.1 % 16) e.2)
      && ((List.range 32).all fun st => choiceOk ((used.filter fun e => e.1 / 16 == st).map (·.2))) then
    some ⟨nrol, nst, q1, used⟩
  else none

/-! ### Members -/

def findAcc (s : State) (g acc : Nat) : Option AccCfg := (getRegion s g).accs.find? fun c => c.acc == acc

def setAcc (s : State) (g : Nat) (c : AccCfg) : State :=
  modRegion s g fun r => { r with accs := r.accs.map fun x => if x.acc = c.acc then c else x }

/-- The directory record of an accord of this device, at the acceptor of region index mod 64 (R139). -/
def dirGet (s : State) (acc : Nat) : DirRec := tblGet {} (getRegion s (acc % 64)).dir (acc % 65536)

def dirMod (s : State) (acc : Nat) (f : DirRec → DirRec) : State :=
  modRegion s (acc % 64) fun r => { r with dir := tblSet r.dir (acc % 65536) (f (tblGet {} r.dir (acc % 65536))) }

/-- Any member of an accord on this device. -/
def accordView (s : State) (acc : Nat) : Option (Nat × AccCfg) :=
  s.regions.findSome? fun r => (r.2.accs.find? fun c => c.acc == acc).map fun c => (r.1, c)

/-- Control accord of trap queue number q, which is 4·region + partition (R320). -/
def controlAcc (s : State) (q : Nat) : Nat := s.dev.id * 65536 + 0xFC00 + q

def isControl (s : State) (acc : Nat) : Bool := acc / 65536 == s.dev.id && 0xFC00 ≤ acc % 65536 && acc % 65536 < 0xFD00

/-- Context, core, partition and roots with which the descriptor and decision array of an accord are reached: the owner's, for a
launch accord those for future contexts of its virtual device (R353). -/
def accReach (s : State) (owner acc : Nat) : Nat × Nat × Nat × Nat × Nat × Nat :=
  match getCtx s owner with
  | some x => (owner, coreAt x.ox x.oy, x.part, x.root4, x.root5, x.root6)
  | none =>
    match launchVd s acc with
    | some v => let d := getVd s v; (0, 0, 0, d.root4, d.root5, d.root6)
    | none => (0, 0, 0, 0, 0, 0)

/-- The device's own writes to a descriptor (R136): stores of the owner's context, which meet translation faults as such (R314); an accord
without an owning context has those that do not translate dropped (log entry 59). -/
def accWrite (s : State) (owner acc da : Nat) (bs : List Byte) : State :=
  let r := accReach s owner acc
  unitWrite s r.1 r.2.1 r.2.2.1 r.2.2.2.1 r.2.2.2.2.1 r.2.2.2.2.2 da bs

def accRead (s : State) (owner acc da n : Nat) : State × Option (List Byte) :=
  let r := accReach s owner acc
  unitRead s r.1 r.2.1 r.2.2.1 r.2.2.2.1 r.2.2.2.2.1 r.2.2.2.2.2 (n / 64 + 2) da n

/-- Send something from a core to the acceptor of a member, here or on its device. -/
def toMember (s : State) (core dev region payload : Nat) (i : Instr) : State :=
  if dev = s.dev.id then send s core (regionHub region) payload 0 i else emit s dev i

/-- Send an answer from a region's acceptor to the core that asked. -/
def fromMember (s : State) (g dev core payload : Nat) (i : Instr) : State :=
  if dev = s.dev.id then send s (regionHub g) core payload 0 i else emit s dev i

/-- Send a message to each member of a quorum, with its index and region. -/
def toEach (core payload : Nat) (mk : Nat → Nat → Instr) : Nat → List (Nat × Nat) → State → State
  | _, [], s => s
  | i, m :: l, s => toEach core payload mk (i + 1) l (toMember s core m.1 m.2 payload (mk i m.2))

/-- A reply to a message, to be completed. -/
def repTo (m : AMsg) : ARep := { tid := m.tid, op := m.op, member := m.member, bal := m.bal }

def replyTo (s : State) (m : AMsg) (i : Instr) : State := fromMember s m.region m.dev m.core 24 i

def nackTo (s : State) (m : AMsg) (why high : Nat) : State := replyTo s m (.nack { repTo m with ab := high, num := why })

def answerTo (s : State) (q : LReq) (b : MBody) : State :=
  fromMember s q.region q.dev q.core 24 (.memberReply q.tid q.op q.member b)

/-! ### Entries and shares (R139, R142, R308, R395) -/

/-- Entries that an accord holds at a member, its waiting records apart. -/
def accSize (c : AccCfg) : Nat := 1 + c.entries.length + c.runs.length

/-- Whether a share of a region has room for `k` entries and `w` waiting records more. -/
def shareRoom (s : State) (g part k w : Nat) : Bool :=
  let n := match psetOf s g with
    | some x => x.n
    | none => 1
  let l := (getRegion s g).accs.filter fun c => (psetOf s g).isNone || c.part == part
  let waits := l.foldl (fun a c => a + c.waits.length) 0
  l.foldl (fun a c => a + accSize c) 0 + k + ceilDiv (waits + w) 8 ≤ 16256 / n

def slotEntry (c : AccCfg) (slot : Nat) : Option SlotEntry := c.entries.find? fun e => e.slot == slot

/-- Whether a member knows a slot to be decided, or has it below the truncation point. -/
def knownDecided (c : AccCfg) (slot : Nat) : Bool :=
  slot < c.front || (c.entries.any fun e => e.slot == slot && e.decided) || c.late.any fun e => e.slot == slot

/-- Keep a slot entry. -/
def putEntry (c : AccCfg) (e : SlotEntry) : AccCfg :=
  { c with entries := if c.entries.any fun x => x.slot == e.slot then c.entries.map fun x => if x.slot = e.slot then e else x
    else c.entries ++ [e] }

/-- Free what R142 frees: entries below the truncation point whose array write is acknowledged, run records that are used up. -/
def collect (c : AccCfg) : AccCfg :=
  { c with entries := c.entries.filter fun e => !(e.slot < c.trunc && (e.acked || !e.decided)),
           runs := c.runs.filter fun r => !((List.range (r.hi + 1 - r.lo)).all fun i => knownDecided c (r.lo + i)) }

/-- Ballot of a run record that covers a slot (R141). -/
def runBallot (c : AccCfg) (slot : Nat) : Nat :=
  c.runs.foldl (fun b r => if r.lo ≤ slot && slot ≤ r.hi then max b r.bal else b) 0

/-! ### Conversations at a member (R184, R188) -/

def roleOwner (c : AccCfg) (r : Nat) : Nat := tblGet 0 c.roles r

/-- Owner of a role in the state before a slot below the frontier: that of its last change below the slot. -/
def ownerAt (c : AccCfg) (slot r : Nat) : Nat :=
  c.past.foldl (fun o p => if p.1 / 8 < slot && p.1 % 8 == r then p.2 else o) 0

/-- The conversation before a slot: its state and the owner of a role; `none` beyond the frontier, or where the member knows no state. -/
def convAt (c : AccCfg) (slot : Nat) : Option (Nat × (Nat → Nat)) :=
  if slot = c.front then some (c.conv, roleOwner c)
  else if slot < c.front then (tblFind c.hist slot).map fun h => (h.1, ownerAt c slot)
  else none

def isFinal (p : Proto) (st : Nat) : Bool := bitAt p.final st

/-- The check of R184: 0 when the value is legal at a slot, in the state before it, else the reason PROTO (11) or OWNER (12). -/
def legalWhy (p : Proto) (slot conv : Nat) (owner : Nat → Nat) (v : Word) (o : Nat) : Nat :=
  let k := bitsOf v.toNat 63 60
  let r := bitsOf v.toNat 59 57
  if k = 15 then
    match bitsOf v.toNat 55 54 with
    | 0 => if owner r = o && v.toNat % 2 ^ 40 ≠ 0 then 0 else 12
    | 1 => if r < p.nrol && owner r = 0 then 0 else 12
    | 2 => if owner r = o then 0 else 12
    | _ => 11
  else if isFinal p conv || 2 ^ 24 ≤ slot then 11
  else
    let e := tblGet 0 p.entries (16 * conv + k)
    if e < 2 ^ 15 || e / 2 ^ 11 % 8 ≠ r then 11
    else if owner r ≠ o then 12
    else 0

/-- Apply the decided slot at the frontier to the conversation (R184). -/
def applyConv (c : AccCfg) (e : SlotEntry) : AccCfg :=
  match c.proto with
  | none => c
  | some p =>
    let k := bitsOf e.av.toNat 63 60
    let r := bitsOf e.av.toNat 59 57
    if e.config then { c with hist := tblSet c.hist e.slot (c.conv, 16) }
    else
      let c1 := { c with hist := tblSet c.hist e.slot (c.conv, k) }
      if k = 15 then
        let o := match bitsOf e.av.toNat 55 54 with
          | 0 => e.av.toNat % 2 ^ 40
          | 1 => e.ao
          | _ => 0
        { c1 with roles := tblSet c.roles r o, past := tblSet c.past (8 * e.slot + r) o }
      else { c1 with conv := tblGet 0 p.entries (16 * c.conv + k) % 32 }

/-- The slot after the last message of kind 0 to 14. -/
def afterLast (c : AccCfg) : Nat := c.hist.foldl (fun n h => if h.2.2 < 15 then h.1 + 1 else n) 0

/-- Move the frontier over decided slots. The fuel bounds their number. -/
def advanceFront : Nat → AccCfg → AccCfg
  | 0, c => c
  | n + 1, c =>
    match (c.entries ++ c.late).find? fun e => e.slot == c.front && e.decided with
    | some e => advanceFront n { applyConv c e with front := c.front + 1 }
    | none => c

/-! ### Answers -/

/-- A status word: bits [63:8] of a ballot, reason, outcome (R143). -/
def statusWord (bal why out : Nat) : Word := BitVec.ofNat 64 (bal / 256 * 256 + why * 16 + out)

/-- A cursor as CVRECV returns it (R188): outcome position in [4:0]. -/
def cursorWord (acc slot low out : Nat) : Word :=
  BitVec.ofNat 64 (acc * 2 ^ 32 + slot % 2 ^ 24 * 2 ^ 8 + low / 32 * 32 + out)

/-- DECIDED_MINE or DECIDED_OTHER. -/
def mineOrOther (orig tid : Nat) : Nat := if orig = tid then 0 else 1

/-- The answer of a learning form or BALLOT for a decided slot (R154, R157). -/
def decidedBody (q : LReq) (slot : Nat) (v : Word) (orig bal : Nat) (config : Bool) : MBody :=
  let out := mineOrOther orig q.tid
  match q.form with
  | .ballot => .answer (statusWord bal 9 out) 0 true slot orig bal
  | _ => .answer v (statusWord bal (if config then 15 else 0) out) true slot orig bal

/-- The answer of CVRECV at a message of its role (R188). -/
def recvBody (c : AccCfg) (q : LReq) (role low slot : Nat) (v : Word) (orig bal : Nat) : MBody :=
  if ownerAt c slot role = q.tid then .answer v (cursorWord q.acc (slot + 1) low (mineOrOther orig q.tid)) true slot orig bal
  else .answer 0 (cursorWord q.acc q.slot low 5) false slot 0 0

/-- Whether a decided slot is a message that a role receives, by the history (R188). -/
def receives (c : AccCfg) (slot role : Nat) : Bool :=
  match c.proto, tblFind c.hist slot with
  | some p, some (st, k) => k < 15 && tblGet 0 p.entries (16 * st + k) / 2 ^ 8 % 8 == role
  | _, _ => false

/-- What a request meets at a member: an answer, an array read at a slot, or it has to wait (R154, R188). -/
inductive Scan where
  | done (b : MBody)
  | read (slot : Nat)
  | wait
  deriving DecidableEq, Repr

/-- Whether a conversation has reached a final state before a slot (R188). -/
def convEnded (c : AccCfg) (slot : Nat) : Bool :=
  match c.proto with
  | some p => isFinal p c.conv && afterLast c ≤ slot
  | none => false

/-- Examine slots from `slot` on; the fuel is the number of slots below the frontier. -/
def recvScan (c : AccCfg) (q : LReq) (role low : Nat) : Nat → Nat → Scan
  | 0, slot => if convEnded c slot then .done (.answer 0 (cursorWord q.acc (afterLast c) low 5) false slot 0 0) else .wait
  | n + 1, slot =>
    if convEnded c slot then .done (.answer 0 (cursorWord q.acc (afterLast c) low 5) false slot 0 0)
    else if slot < c.trunc then .read slot
    else if !receives c slot role then recvScan c q role low n (slot + 1)
    else match (c.entries ++ c.late).find? fun e => e.slot == slot && e.decided with
      | some e => .done (recvBody c q role low slot e.av e.ao e.ab)
      | none => .read slot

/-- The decision of a slot that a member holds in its store. -/
def decidedHere (c : AccCfg) (slot : Nat) : Option SlotEntry := (c.entries ++ c.late).find? fun e => e.slot == slot && e.decided

/-- What a learning request or BALLOT meets at a member (R154, R157, R188, R397): a decision, a read of the array for a slot below the
truncation point or one that is known decided without an entry, or nothing decided yet. -/
def learnScan (c : AccCfg) (q : LReq) : Scan :=
  match q.form with
  | .recv role low => recvScan c q role low (c.front - q.slot) q.slot
  | _ =>
    if q.slot < c.trunc then .read q.slot
    else match decidedHere c q.slot with
      | some e => .done (decidedBody q q.slot e.av e.ao e.ab e.config)
      | none => if knownDecided c q.slot then .read q.slot else .wait

/-- The answer of BALLOT, STAT, NEXT, CVOP.STATE and a question for the frontier (R157, R159, R162, R189). -/
def queryBody (s : State) (c : AccCfg) (q : LReq) : MBody :=
  let ones : Word := BitVec.allOnes 64
  let plain := fun (v : Word) => MBody.answer v 0 false q.slot 0 0
  match q.form with
  | .ballot =>
    match slotEntry c q.slot with
    | some e => plain (statusWord (max e.p (runBallot c q.slot)) 2 2)
    | none => plain 0
  | .stat sel =>
    match sel.toNat with
    | 0 => plain (BitVec.ofNat 64 c.front)
    | 1 => plain (BitVec.ofNat 64 c.trunc)
    | 2 => plain (BitVec.ofNat 64 c.epoch)
    | 3 => plain (BitVec.ofNat 64 (accSize c + ceilDiv c.waits.length 8))
    | 4 => plain (BitVec.ofNat 64 (match c.frozen with
      | some f => if s.cycle < f.2 then f.1 else 0
      | none => 0))
    | _ => plain ones
  | .next =>
    let known := c.entries.filterMap fun e => if e.decided then some e.slot else none
    let l := known ++ c.late.map (·.slot)
    match firstFree l (l.length + 1) (max q.slot (max c.trunc c.front)) with
    | some n => plain (if n < 2 ^ 32 then BitVec.ofNat 64 (c.acc * 2 ^ 32 + n) else ones)
    | none => plain ones
  | .cvstate sel =>
    if sel.toNat < 8 then plain (BitVec.ofNat 64 (roleOwner c sel.toNat))
    else if sel.toNat = 8 then
      let fin := match c.proto with
        | some p => isFinal p c.conv
        | none => false
      plain (BitVec.ofNat 64 (c.front * 2 ^ 32 + b2n fin * 2 ^ 8 + c.conv))
    else plain ones
  | _ => plain (BitVec.ofNat 64 c.front)

/-! ### The decision array (R138, R397) -/

def arrayAddr (c : AccCfg) (slot : Nat) : Nat := c.darr + 32 * (slot % 2 ^ c.llen)

/-- Quads 0 to 3 of an entry. -/
def arrayQuads (e : SlotEntry) : List Word :=
  [e.av, BitVec.ofNat 64 (e.slot * 2 ^ 32 + b2n e.config * 2 + 1), BitVec.ofNat 64 (e.ao % 2 ^ 40), BitVec.ofNat 64 e.ab]

/-- A store or load of a member to the array; `op` is 0 for quads 0, 2 and 3, 1 for quad 1, the read number for a load. -/
def arrayAccess (g : Nat) (c : AccCfg) (slot op da z : Nat) (act : Act) : Access :=
  ⟨.acceptor g c.acc slot, op, c.owner, c.part, regionHub g, 0, da, z, 0, act, none, none⟩

/-- Begin the write of a decided entry (R138): quads 0, 2 and 3 first. A control accord has no array. -/
def writeArray (s : State) (g : Nat) (c : AccCfg) (e : SlotEntry) : State :=
  if c.darr = 0 then setAcc s g (match slotEntry c e.slot with
    | some x => putEntry c { x with acked := true }
    | none => c)
  else
    let q := arrayQuads e
    let da := arrayAddr c e.slot
    let s1 := setAcc s g { c with writing := c.writing ++ [(e, 2)] }
    let s2 := sendAccess s1 (arrayAccess g c e.slot 0 da 8 (.store (quadBytes (q.take 1))))
    sendAccess s2 (arrayAccess g c e.slot 0 (da + 16) 16 (.store (quadBytes (q.drop 2))))

/-- A store of a member is acknowledged: quad 1 follows as a release store, then R142 may free the entry. -/
def arrayAcked (s : State) (g acc slot op : Nat) : State :=
  match findAcc s g acc with
  | none => s
  | some c =>
    if op = 1 then
      let c1 := { c with writing := c.writing.filter fun w => !(w.1.slot == slot && w.2 == 0) }
      setAcc s g (collect { c1 with entries := c1.entries.map fun e => if e.slot = slot then { e with acked := true } else e })
    else
      let s1 := setAcc s g { c with writing := c.writing.map fun w => if w.1.slot = slot then (w.1, w.2 - 1) else w }
      match c.writing.find? fun w => w.1.slot == slot && w.2 == 1 with
      | some w => sendAccess s1 (arrayAccess g c slot 1 (arrayAddr c slot + 8) 8 (.store (quadBytes ((arrayQuads w.1).drop 1 |>.take 1))))
      | none => s1

/-- What an array entry says of a slot: the decision, when it holds it (R138, R141). -/
def arrayHolds (bs : List Byte) (slot : Nat) : Option SlotEntry :=
  if fieldAt bs 12 4 = slot && bitAt (fieldAt bs 8 4) 0 then
    some { slot, av := BitVec.ofNat 64 (fieldAt bs 0 8), ao := fieldAt bs 16 8 % 2 ^ 40, ab := fieldAt bs 24 8, decided := true,
           config := bitAt (fieldAt bs 8 4) 1 }
  else none

/-- Acknowledge a request that is not answered at once, and send keepalives for it (R156). -/
def noteAsk (s : State) (q : LReq) : State :=
  if s.pend.any fun p => p.what == .keepalive q then s else after (answerTo s q .ack) 262144 (.keepalive q)

/-- Keep a waiting record, or answer FULL (R142, R154, R188). -/
def keepWaiting (s : State) (g : Nat) (c : AccCfg) (q : LReq) : State :=
  if shareRoom s g c.part 0 1 then noteAsk (setAcc s g { c with waits := c.waits ++ [q] }) q
  else match q.form with
    | .recv _ low => answerTo s q (.answer 0 (cursorWord q.acc q.slot low 3) false q.slot 0 0)
    | _ => answerTo s q (.answer 0 (statusWord 0 5 3) false q.slot 0 0)

/-- Begin a load of an array entry for an answer (R397); a learner's core is told that its request has come (R156). -/
def beginRead (s : State) (g : Nat) (c : AccCfg) (slot : Nat) (ask : ArrayAsk) : State :=
  let s1 := bump (setAcc s g { c with reads := c.reads ++ [(s.nonce, ask)] })
  let s2 := match ask with
    | .learn q _ => noteAsk s1 q
    | _ => s1
  sendAccess s2 (arrayAccess g c slot s.nonce (arrayAddr c slot) 32 .load)

/-- The answer to a proposer from the array: DECIDED or FULL, TRUNC with the entry or without (R141, R142). -/
def answerMsg (s : State) (m : AMsg) (below : Bool) (e : Option SlotEntry) : State :=
  match e with
  | some e =>
    let r : ARep := { repTo m with ab := e.ab, av := e.av, ao := e.ao, num := 1, config := e.config }
    replyTo s m (if below then .truncReply r else .decidedReply r)
  | none => if below then replyTo s m (.truncReply (repTo m)) else nackTo s m 5 0

/-- An origin that no thread has: a resumed CVSEND takes a slot whose decision the array no longer holds as another's (R187). -/
def noOrigin : Nat := 2 ^ 40

/-- The answer to a learning request, BALLOT or CVRECV with what the array says of a slot (R142, R154, R157, R187, R188). -/
def learnFrom (s : State) (g : Nat) (c : AccCfg) (q : LReq) (slot : Nat) (e : Option SlotEntry) : State :=
  match q.form, e with
  | .recv role low, some e =>
    if receives c slot role then answerTo s q (recvBody c q role low slot e.av e.ao e.ab)
    else match recvScan c q role low (c.front - (slot + 1)) (slot + 1) with
      | .done b => answerTo s q b
      | .wait => keepWaiting s g c q
      | .read j => beginRead s g c j (.learn q j)
  | .recv _ low, none =>
    if slot < c.trunc then answerTo s q (.answer 0 (cursorWord q.acc slot low 4) false slot 0 0) else keepWaiting s g c q
  | .ballot, some e => answerTo s q (decidedBody q slot e.av e.ao e.ab e.config)
  | .ballot, none =>
    if (slotEntry c slot).isNone && !shareRoom s g c.part 1 0 then answerTo s q (.answer (statusWord 0 5 3) 0 false slot 0 0)
    else answerTo s q (queryBody s c q)
  | .look, some e => answerTo s q (decidedBody q slot e.av e.ao e.ab e.config)
  | .look, none => answerTo s q (if slot < c.trunc then .answer 0 0 true slot noOrigin 0 else .answer 0 0 false slot 0 0)
  | _, some e =>
    if slot < c.trunc then answerTo s q (.answer e.av (statusWord e.ab 9 4) false slot e.ao e.ab)
    else answerTo s q (decidedBody q slot e.av e.ao e.ab e.config)
  | .poll, none =>
    answerTo s q (if slot < c.trunc then .answer 0 (statusWord 0 0 4) false slot 0 0 else .answer 0 (statusWord 0 0 8) false slot 0 0)
  | _, none =>
    if slot < c.trunc then answerTo s q (.answer 0 (statusWord 0 0 4) false slot 0 0) else keepWaiting s g c q

/-- Go on with what the array says of the slot that was asked for. -/
def answerAsk (s : State) (g : Nat) (c : AccCfg) (ask : ArrayAsk) (e : Option SlotEntry) : State :=
  match ask with
  | .trunc m => answerMsg s m true e
  | .full m => answerMsg s m false e
  | .learn q slot => learnFrom s g c q slot e

/-- The slot of an array read. -/
def ArrayAsk.slotOf : ArrayAsk → Nat
  | .trunc m => m.slot
  | .full m => m.slot
  | .learn _ slot => slot

/-- Read the array for an answer (R397). A control accord has no array. -/
def readArray (s : State) (g : Nat) (c : AccCfg) (ask : ArrayAsk) : State :=
  if c.darr = 0 then answerAsk s g c ask none else beginRead s g c ask.slotOf ask

/-- The bytes of an array read come back (R397). -/
def arrayRead (s : State) (g acc op : Nat) (r : LoadRes) : State :=
  match findAcc s g acc with
  | none => s
  | some c =>
    match c.reads.find? fun x => x.1 == op with
    | none => s
    | some x =>
      let c1 := { c with reads := c.reads.filter fun y => y.1 != op }
      let s1 := setAcc s g c1
      match x.2, r with
      | .trunc m, .poison => replyTo s1 m (.memberReply m.tid m.op m.member (.poison (arrayAddr c m.slot)))
      | .full m, .poison => replyTo s1 m (.memberReply m.tid m.op m.member (.poison (arrayAddr c m.slot)))
      | .learn q slot, .poison => answerTo s1 q (.poison (arrayAddr c slot))
      | ask, .data bs => answerAsk s1 g c1 ask (arrayHolds bs ask.slotOf)
      | ask, .noHome => answerAsk s1 g c1 ask none

/-! ### Decisions -/

/-- Whether a context's block covers a region of a set (R309). -/
def covers (x : PSet) (c : Ctx) : Bool :=
  c.ox < 16 * (x.rx + x.rw) && 16 * x.rx < c.ox + c.w && c.oy < 16 * (x.ry + x.rh) && 16 * x.ry < c.oy + c.h

/-- The contexts that hold partition index `p` on cores of a set (R320). -/
def holdersOf (s : State) (x : PSet) (p : Nat) : List Nat :=
  s.ctxs.filterMap fun c => if c.2.part = p && c.2.life = .running && covers x c.2 then some c.1 else none

/-- The id with which the submission engine proposes (R354). -/
def engineTid (s : State) : Nat := s.dev.id * 2 ^ 24 + 16383 * 2 ^ 10 + 1023

/-- A launch slot is decided: it may start in its turn, and is marked when the management function submitted its record (R251). -/
def noteLaunch (s : State) (d : Vd) (e : SlotEntry) : Vd :=
  let w : Word := if e.config then 0 else e.av
  let mine := e.ao = engineTid s && d.offered.contains w
  { d with decided := tblSet d.decided e.slot w, offered := if mine then d.offered.erase w else d.offered,
           sysSlots := if mine then natInsert d.sysSlots e.slot else d.sysSlots }

/-- A DUSK value is decided: valid when at least 1,024 cycles ahead and no other is pending (R320). -/
def requestDusk (d : Nat) : List Nat → State → State
  | [], s => s
  | c :: l, s =>
    requestDusk d l (match getCtx s c with
      | some x =>
        if x.dusk.isNone && x.fault.isNone && s.cycle + 1024 ≤ d then
          post (setCtx s c { x with dusk := some d }) d 0 .duskStop (.ctx c)
        else s
      | none => s)

/-- The 64 KiB pages of a segment, from a byte offset on; the fuel bounds their number. -/
def segPages (i base limit : Nat) : Nat → Nat → List (Nat × Nat)
  | 0, _ => []
  | n + 1, off => if limit ≤ off then [] else (i, off) :: segPages i base limit n ((base + off) / 65536 * 65536 + 65536 - base)

/-- The image that a SNAP request asks for (R268, R288 to R291). It is written once the epoch notice has arrived. -/
def newImage (s : State) (c : Nat) (x : Ctx) (e tid da : Nat) : ImageJob :=
  let bs := ((ctxRead s c x da 64).2).getD []
  let req := fieldAt bs 0 8
  let dest := match segCheck x (BitVec.ofNat 64 (fieldAt bs 8 8)) 1 1 rightW with
    | .ok a => a
    | .error _ => 0
  let pages := ((List.range 8).filter fun i => bitAt req i).map fun i =>
    let g := nth {} x.segs i
    segPages i g.base g.limit (g.limit / 65536 + 2) 0
  { epoch := e, req, label := BitVec.ofNat 64 (fieldAt bs 16 8), dest, tid, cyc := s.cycle, vt := vtimeOf s x, todo := pages.flatten,
    writing := false }

/-- A SNAP value is decided: the context's next epoch, unless an image is still being written (R269, R288). -/
def takeEpoch (s : State) (slot orig da : Nat) : State :=
  match (getThread s orig).bind fun t => (getCtx s t.ctx).map fun x => (t.ctx, x) with
  | some (c, x) =>
    if x.image.isSome then s
    else
      let e := x.epoch + 1
      let s1 := setCtx (ctxTouch s c x da) c { x with epoch := e, epochs := tblSet x.epochs slot e, image := some (newImage s c x e orig da) }
      bump (after s1 (64 + Config.netExtra s1.nonce 0 % 130000) (.epochNotice c e) (.ctx c))
  | none => s

/-- What a decided slot of a control or launch accord sets off (R288, R300, R320). -/
def applySlot (s : State) (c : AccCfg) (e : SlotEntry) : State :=
  if isControl s c.acc then
    let q := c.acc % 65536 - 0xFC00
    match bitsOf e.av.toNat 63 60, psetOf s (q / 4) with
    | 1, some x => requestDusk (s.cycle / 2 ^ 60 * 2 ^ 60 + e.av.toNat % 2 ^ 60) (holdersOf s x (q % 4)) s
    | 2, _ => takeEpoch s e.slot e.ao (e.av.toNat % 2 ^ 56)
    | _, _ => s
  else match launchVd s c.acc with
    | some v => post (modVd s v fun d => noteLaunch s d e) s.cycle 0 (.launchStart v)
    | none => s

/-- Answer the waiting records that can be answered now (R142, R154, R188); the rest wait on. `c` is the member as it knows its decisions.
The third part of the answer is what the array has to be read for. -/
def answerWaits (c : AccCfg) : List LReq → State → State × List LReq × List ArrayAsk
  | [], s => (s, [], [])
  | q :: l, s =>
    match learnScan c q with
    | .done b => answerWaits c l (answerTo s q b)
    | .wait => let r := answerWaits c l s; (r.1, q :: r.2.1, r.2.2)
    | .read j => let r := answerWaits c l s; (r.1, r.2.1, .learn q j :: r.2.2)

/-- Begin the array reads of a member. -/
def readAll (g acc : Nat) : List ArrayAsk → State → State
  | [], s => s
  | a :: l, s => readAll g acc l (match findAcc s g acc with
    | some c => readArray s g c a
    | none => s)

/-- Go through a member's waiting records; `known` is a decision that it may hold nowhere. -/
def serveWaits (s : State) (g acc : Nat) (known : List SlotEntry) : State :=
  match findAcc s g acc with
  | none => s
  | some c =>
    let r := answerWaits { c with late := c.late ++ known } c.waits s
    readAll g acc r.2.2 (setAcc r.1 g { c with waits := r.2.1 })

/-- The gate tells requests that wait for its lease that their slot is decided (R151). -/
def tellQueue (e : SlotEntry) : List AMsg → State → State
  | [], s => s
  | m :: l, s =>
    tellQueue e l (if m.slot = e.slot then
      replyTo s m (.decidedReply { repTo m with ab := e.ab, av := e.av, ao := e.ao, num := 1, config := e.config }) else s)

/-- The members of quorum A on this device, and on other devices, whose frontier is not known to have passed the first slot of quorum B
(R158). -/
def behindB (s : State) (c : AccCfg) (q : Quorum) : List (Nat × Nat) :=
  c.qa.members.filter fun m => if m.1 = s.dev.id then !(match findAcc s m.2 c.acc with
    | some x => q.frm ≤ x.front
    | none => false)
  else !(dirGet s c.acc).passed.contains m

/-- Whether quorum B of an accord of this device may take over (R158). -/
def takeoverReady (s : State) (c : AccCfg) : Bool :=
  match c.qb with
  | none => false
  | some q => c.acc / 65536 == s.dev.id && (behindB s c q).isEmpty

/-- Whether the members of this device are ready for the takeover, so that those of other devices are asked (R158). -/
def takeoverDue (s : State) (c : AccCfg) : Bool :=
  match c.qb with
  | none => false
  | some q => c.acc / 65536 == s.dev.id && (behindB s c q).all fun m => m.1 != s.dev.id

/-- Move a member's frontier over its decided slots, and what follows from that: its entries are freed (R142), its waiting records answered,
quorum B takes over when all have passed its first slot (R158). -/
def moveFront (s : State) (g : Nat) (c : AccCfg) (known : List SlotEntry) : State :=
  let c1 := advanceFront (c.entries.length + c.late.length + 1) c
  let s1 := serveWaits (setAcc s g (collect { c1 with late := c1.late.filter fun x => c1.front ≤ x.slot })) g c.acc known
  if takeoverDue s1 c1 then post s1 s1.cycle 0 (.quorumTakeover c.acc) else s1

/-- The first slot of a configuration that a decision brings (R158). -/
def noteConfig (c : AccCfg) (e : SlotEntry) : AccCfg :=
  if e.config && c.qb.isNone then { c with cfgAt := some (match c.cfgAt with
    | some f => min f (e.slot + 16)
    | none => e.slot + 16) } else c

/-- DECIDED at a member (R141, R142): recorded, with an entry when the slot has one or one is free; the array entry, the frontier, the
learners, and what hangs on the slot follow. A decision for a slot that the member knows decided, or has below the truncation point, takes
no entry. The array entry of a slot is left alone once the member knows the next slot of the same entry decided, a choice of the model (log
entry 66), and a decision that stands in an entry already changes nothing: its array entry has been written. -/
def recordDecision (s : State) (g : Nat) (c : AccCfg) (d : SlotEntry) : State :=
  let fresh := !knownDecided c d.slot
  let had := slotEntry c d.slot
  if had.any (·.decided) then s
  else
    let e := match had with
      | some x => { x with ab := d.ab, av := d.av, ao := d.ao, config := d.config, decided := true }
      | none => { d with decided := true }
    let c1 := if had.isSome || (fresh && shareRoom s g c.part 1 0) then putEntry c e
      else if fresh then { c with late := c.late ++ [e] } else c
    let c2 := if fresh then noteConfig c1 e else c1
    let s1 := if c.darr ≠ 0 && knownDecided c (e.slot + 2 ^ c.llen) then setAcc s g c2 else writeArray (setAcc s g c2) g c2 e
    let s2 := moveFront s1 g ((findAcc s1 g c.acc).getD c2) [e]
    let s3 := tellQueue e c.leaseQ s2
    if fresh && nth (0, 64) (governing c.qa c.qb e.slot).members 0 = (s.dev.id, g) then applySlot s3 c e else s3

/-! ### The procedures of R141 -/

/-- `chk` of R141; `k` goes on with the slot's entry, a new one if it has none. -/
def chk (s : State) (m : AMsg) (k : AccCfg → SlotEntry → State) : State :=
  match findAcc s m.region m.acc with
  | none => nackTo s m 8 0
  | some c =>
    let frozen := match c.frozen with
      | some f => s.cycle < f.2 && f.1 != m.tid
      | none => false
    if frozen then nackTo s m 3 0
    else if m.gen ≠ c.gen || m.epoch ≠ epochFor c m.slot then nackTo s m 8 0
    else if m.slot < c.trunc then readArray s m.region c (.trunc m)
    else
      match slotEntry c m.slot with
      | some e =>
        if e.decided then
          replyTo s m (.decidedReply { repTo m with ab := e.ab, av := e.av, ao := e.ao, num := 1, config := e.config })
        else if c.front + 16 ≤ m.slot || (c.darr ≠ 0 && c.trunc + 2 ^ c.llen ≤ m.slot) then nackTo s m 7 0
        else k c e
      | none =>
        if c.front + 16 ≤ m.slot || (c.darr ≠ 0 && c.trunc + 2 ^ c.llen ≤ m.slot) then nackTo s m 7 0
        else if !shareRoom s m.region c.part 1 0 then readArray s m.region c (.full m)
        else k c { slot := m.slot }

/-- The conversation's check of an ACCEPT or PREPACC (R184): WINDOW beyond the frontier or at a member that has not taken over yet,
PROTO or OWNER for a value that is illegal in the state before the slot. -/
def convCheck (s : State) (m : AMsg) (c : AccCfg) (v : Word) (o : Nat) (config : Bool) (k : State) : State :=
  match c.proto with
  | none => k
  | some p =>
    match convAt c m.slot with
    | none => nackTo s m 7 0
    | some (conv, owner) =>
      if !c.qa.members.contains (s.dev.id, m.region) then nackTo s m 7 0
      else if config then k
      else match legalWhy p m.slot conv owner v o with
        | 0 => k
        | why => nackTo s m why 0

/-- PREPARE (R141, R152). -/
def execPrepare (m : AMsg) (s : State) : Res :=
  .next (chk s m fun c e =>
    if m.bal ≤ e.p then nackTo s m 2 e.p
    else
      let c1 := putEntry c { e with p := m.bal }
      let s1 := setAcc s m.region c1
      let free := (c1.entries.all fun x => x.slot ≤ m.slot || m.slot + 63 < x.slot) && shareRoom s1 m.region c.part 1 0
      let g := m.flag && free
      let s2 := if g then setAcc s1 m.region { c1 with runs := c1.runs ++ [⟨m.bal, m.slot, m.slot + 63⟩] } else s1
      replyTo s2 m (.promise { repTo m with ab := e.ab, av := e.av, ao := e.ao, num := b2n g, config := e.config }))

/-- ACCEPT (R141, R184). -/
def execAccept (m : AMsg) (s : State) : Res :=
  .next (chk s m fun c e =>
    convCheck s m c m.v m.orig m.config
      (let pe := max e.p (runBallot c m.slot)
       if m.flag && e.p ≠ m.bal && !(c.runs.any fun r => r.bal == m.bal && r.lo ≤ m.slot && m.slot ≤ r.hi) then
         replyTo s m (.norun (repTo m))
       else if m.bal < pe then nackTo s m 2 pe
       else
         let e1 := { e with p := m.bal, ab := m.bal, av := m.v, ao := m.orig, config := m.config }
         replyTo (setAcc s m.region (putEntry c e1)) m (.accepted (repTo m))))

/-- PREPACC (R141, R147): accepted, adopting an accepted value, and decided in one step. -/
def execPrepacc (m : AMsg) (s : State) : Res :=
  .next (chk s m fun c e =>
    let a := e.ab != 0
    let v := if a then e.av else m.v
    let o := if a then e.ao else m.orig
    let cf := if a then e.config else m.config
    convCheck s m c v o cf
      (let e1 : SlotEntry := { e with p := m.bal, ab := m.bal, av := v, ao := o, config := cf }
       let s1 := recordDecision s m.region c e1
       replyTo s1 m (.decidednow { repTo m with ab := m.bal, av := v, ao := o, num := 1, config := cf })))

/-- DECIDED (R141, R142). -/
def execDecided (m : AMsg) (s : State) : Res :=
  match findAcc s m.region m.acc with
  | none => .next s
  | some c =>
    if m.gen ≠ c.gen then .next s
    else .next (recordDecision s m.region c { slot := m.slot, p := m.bal, ab := m.bal, av := m.v, ao := m.orig, config := m.config })

/-! ### Leases (R151) -/

/-- Grant the gate's lease: the holder is told, every member is asked to freeze, the lease ends at its expiry. -/
def grantLease (s : State) (g : Nat) (c : AccCfg) (m : AMsg) : State :=
  let ex := s.cycle + 4096 * max 1 c.wsen
  let s1 := setAcc s g { c with lease := some (m, ex) }
  let s2 := replyTo s1 m (.leaseGrant m)
  let q := governing c.qa c.qb m.slot
  let s3 := toEach (regionHub g) 24 (fun i r => .freeze { m with member := i, region := r } ex) 0 q.members s2
  post s3 ex 0 (.leaseExpiry g c.acc m.tid m.op)

/-- Grant the lease to the first queued request. -/
def nextLease (s : State) (g acc : Nat) : State :=
  match findAcc s g acc with
  | some c =>
    match c.leaseQ with
    | m :: l => grantLease s g { c with leaseQ := l, lease := none } m
    | [] => s
  | none => s

/-- LEASE at the gate: granted, queued, or BUSY; the epoch is checked as for a proposal. -/
def execLease (m : AMsg) (s : State) : Res :=
  match findAcc s m.region m.acc with
  | none => .next (nackTo s m 8 0)
  | some c =>
    let taken := match c.lease with
      | some (h, ex) => s.cycle < ex && h.tid != m.tid
      | none => false
    if m.gen ≠ c.gen || m.epoch ≠ epochFor c m.slot then .next (nackTo s m 8 0)
    else if !taken then .next (grantLease s m.region c m)
    else match decidedHere c m.slot with
      | some e => .next (replyTo s m (.decidedReply { repTo m with ab := e.ab, av := e.av, ao := e.ao, num := 1, config := e.config }))
      | none =>
        if c.leaseQ.length < 15 then .next (setAcc s m.region { c with leaseQ := c.leaseQ ++ [m] })
        else .next (nackTo s m 4 0)

/-- FREEZE at a member, which reports its entry for the slot to the holder. -/
def execFreeze (m : AMsg) (expiry : Nat) (s : State) : Res :=
  match findAcc s m.region m.acc with
  | none => .next s
  | some c =>
    if m.gen ≠ c.gen then .next s
    else
      let e := (slotEntry c m.slot).getD { slot := m.slot }
      let s1 := setAcc s m.region { c with frozen := some (m.tid, expiry) }
      let s2 := replyTo s1 m (.freezeReport { repTo m with ab := e.ab, av := e.av, ao := e.ao, num := e.p, config := e.config })
      .next (post s2 expiry 0 (.leaseExpiry m.region m.acc m.tid m.op))

/-- RELEASE at the gate or a member: the lease or the queued request, and the freeze, end. -/
def execLeaseRelease (m : AMsg) (s : State) : Res :=
  match findAcc s m.region m.acc with
  | none => .next s
  | some c =>
    let held := match c.lease with
      | some (h, _) => h.tid == m.tid && h.op ≤ m.op
      | none => false
    let frozen := match c.frozen with
      | some f => if f.1 = m.tid then none else some f
      | none => none
    let c1 := { c with frozen, leaseQ := c.leaseQ.filter fun x => !(x.tid == m.tid && x.op ≤ m.op),
                       lease := if held then none else c.lease }
    let s1 := setAcc s m.region c1
    .next (if held then nextLease s1 m.region m.acc else s1)

/-- LEASE_EXPIRY: the freeze ends, and the gate grants the next request. -/
def execLeaseExpiry (region acc holder op : Nat) (s : State) : Res :=
  match findAcc s region acc with
  | none => .next s
  | some c =>
    let held := match c.lease with
      | some (h, ex) => h.tid == holder && h.op == op && ex ≤ s.cycle
      | none => false
    let frozen := match c.frozen with
      | some f => if f.1 = holder && f.2 ≤ s.cycle then none else some f
      | none => none
    let s1 := setAcc s region { c with frozen, lease := if held then none else c.lease }
    .next (if held then nextLease s1 region acc else s1)

/-! ### Learning requests (R154 to R157, R162, R188, R189) -/

/-- Whether a request comes with the member's generation and epoch (R148). -/
def sameEpoch (c : AccCfg) (q : LReq) : Bool :=
  q.gen == c.gen && q.epoch == (match q.form with
    | .learn => epochAt c.epoch c.qb q.slot
    | .poll => epochAt c.epoch c.qb q.slot
    | .learnt => epochAt c.epoch c.qb q.slot
    | .look => epochAt c.epoch c.qb q.slot
    | .ballot => epochAt c.epoch c.qb q.slot
    | _ => c.epoch)

/-- LEARN_REQUEST at a member: answered at once, from the array, or kept (R142, R154, R188, R397). -/
def execLearnRequest (q : LReq) (s : State) : Res :=
  match findAcc s q.region q.acc with
  | none => .next (answerTo s q .stale)
  | some c =>
    match q.form with
    | .cancel => .next (setAcc s q.region { c with waits := c.waits.filter fun w => !(w.tid == q.tid && w.op == q.op) })
    | form =>
      let pending := (slotEntry c q.slot).getD { slot := q.slot }
      if !sameEpoch c q then .next (answerTo s q .stale)
      else match learnScan c q, form with
        | .done b, _ => .next (answerTo s q b)
        | .read j, _ => .next (readArray s q.region c (.learn q j))
        | .wait, .poll => .next (answerTo s q (.answer 0 (statusWord pending.p 0 8) false q.slot 0 0))
        | .wait, .look => .next (answerTo s q (.answer 0 0 false q.slot 0 0))
        | .wait, .recv _ _ => .next (keepWaiting s q.region c q)
        | .wait, _ =>
          if shareRoom s q.region c.part 0 1 then .next (keepWaiting s q.region c q)
          else .next (readArray s q.region c (.learn q q.slot))

/-- Whether the management function has granted an open accord of this device to a context, of this device or another, and the grant lasts
(R145, R311). -/
def grantedAcc (s : State) (ctx acc : Nat) : Bool :=
  let r := dirGet s acc
  acc / 65536 == s.dev.id && r.isOpen && (r.vd.isSome || (getCtx s r.owner).isSome)
    && s.grants.any fun g => g.grantee == ctx && g.acc == some acc

/-- Whether a context of this device may use an accord of this device (R145, R311): one of the owner's virtual device, for a launch accord
one of its virtual device, or one to which it is granted. -/
def mayUse (s : State) (ctx acc : Nat) : Bool :=
  let r := dirGet s acc
  let vd := fun c => (getCtx s c).map (·.vd)
  (acc / 65536 == s.dev.id && r.isOpen
    && ((r.owner == ctx && ctx != 0)
        || ((getCtx s r.owner).isSome && vd r.owner == vd ctx)
        || (r.vd.isSome && r.vd == vd ctx)))
  || grantedAcc s ctx acc

/-- The directory answers a core of another device, whose context has the accord by a grant (R145, R148, R311): the record and the
descriptor that it names, which is read for it, a choice of the model (log entry 67). -/
def directoryBody (s : State) (q : LReq) : State × MBody :=
  let r := dirGet s q.acc
  if isControl s q.acc || !grantedAcc s q.slot q.acc then (s, .stale)
  else if r.poisoned then (s, .poison r.desc)
  else match accRead s r.owner q.acc r.desc 384 with
    | (s1, some bs) => (s1, .config r.gen r.epoch r.owner r.desc bs)
    | (s1, none) => (s1, .poison r.desc)

/-- MEMBER_QUERY at a member: BALLOT, STAT, NEXT, CVOP.STATE and questions for the frontier; or at a directory acceptor. -/
def execMemberQuery (q : LReq) (s : State) : Res :=
  if q.form = .directory then let r := directoryBody s q; .next (answerTo r.1 q r.2)
  else match findAcc s q.region q.acc with
  | none => .next (answerTo s q .stale)
  | some c =>
    if !sameEpoch c q then .next (answerTo s q .stale)
    else if q.form = .ballot then
      if q.slot < c.trunc then .next (answerTo s q (.answer (statusWord 0 0 4) 0 false q.slot 0 0))
      else match decidedHere c q.slot with
        | some e => .next (answerTo s q (decidedBody q q.slot e.av e.ao e.ab e.config))
        | none =>
          if (slotEntry c q.slot).isNone && (knownDecided c q.slot || !shareRoom s q.region c.part 1 0) then
            .next (readArray s q.region c (.learn q q.slot))
          else .next (answerTo s q (queryBody s c q))
    else .next (answerTo s q (queryBody s c q))

/-- KEEPALIVE (R156): while the record waits or its array read is under way. -/
def execKeepalive (q : LReq) (s : State) : Res :=
  match findAcc s q.region q.acc with
  | none => .next s
  | some c =>
    let busy := c.reads.any fun r => match r.2 with
      | .learn x _ => x == q
      | _ => false
    .next (if c.waits.contains q || busy then after (answerTo s q .keep) 262144 (.keepalive q) else s)

/-! ### Registration, closing, truncation and takeover (R158, R160, R161) -/

/-- The answer of OPEN, CLOSE and TRUNC at a member. -/
def statusTo (s : State) (m : AMsg) (code t : Nat) : State :=
  replyTo s m (.memberReply m.tid m.op m.member (.status code t))

/-- What a member's conversation carries (R184). -/
def carryOf (c : AccCfg) : Carry := ⟨c.front, c.conv, c.roles, c.hist, c.past⟩

/-- A conversation's member takes a state that is further on than its own (R184). -/
def takeCarry (c : AccCfg) (k : Carry) : AccCfg :=
  if c.proto.isNone || k.front ≤ c.front then c
  else { c with front := k.front, conv := k.conv, roles := k.roles, hist := k.hist, past := k.past,
                late := c.late.filter fun e => k.front ≤ e.slot }

/-- The most advanced of the members of an accord on this device that a list names. -/
def bestOf (s : State) (acc : Nat) : List (Nat × Nat) → Carry
  | [] => {}
  | m :: l =>
    let k := bestOf s acc l
    match if m.1 = s.dev.id then findAcc s m.2 acc else none with
    | some c => if k.front < c.front then carryOf c else k
    | none => k

/-- The configuration entry that an accord of this device would have, from its descriptor (R136, R182). -/
def descCfg (s : State) (acc : Nat) : Option AccCfg :=
  let r := dirGet s acc
  let home := fun (w : Nat) => match getCtx s r.owner with
    | some x => (match segCheck x (BitVec.ofNat 64 w) 1 1 rightR with
      | .ok da => da
      | .error _ => 0)
    | none => w
  (accRead s r.owner acc r.desc 384).2.map fun d =>
    let b2 := (d.drop 256).take 128
    { acc, gen := r.gen, epoch := r.epoch, trunc := fieldAt d 8 4, front := fieldAt d 8 4, llen := fieldAt d 24 8 % 32,
      darr := home (fieldAt d 16 8), desc := r.desc, owner := r.owner, part := partOf s r.owner, qa := parseQuorum ((d.drop 128).take 128),
      qb := if b2.all (· == 0) then none else some (parseQuorum b2), strict := bitAt (fieldAt d 0 8) 7,
      wsen := fieldAt d 0 8 / 2 ^ 20 % 16,
      proto := if fieldAt d 32 8 = 0 then none else (accRead s r.owner acc (home (fieldAt d 32 8)) 1088).2.bind parseProto }

/-- What this device knows of the configuration of an accord of its own: a member's entry, else the descriptor. -/
def accordCfg (s : State) (acc : Nat) : Option AccCfg :=
  match accordView s acc with
  | some (_, c) => some c
  | none => descCfg s acc

/-- The registration of a configuration with a member (R158, R160). -/
def registration (m : AMsg) (c : AccCfg) (qa : Quorum) (qb : Option Quorum) : Instr :=
  .accordRegister m qa qb c.llen c.darr c.proto c.owner c.strict c.wsen c.desc

/-- Send the registration of a configuration to members. -/
def registerAll (core : Nat) (m : AMsg) (c : AccCfg) (qa : Quorum) (qb : Option Quorum) : List (Nat × Nat) → State → State
  | [], s => s
  | (d, r) :: l, s =>
    registerAll core m c qa qb l (toMember s core d r 384 (registration { m with region := r, member := 0 } c qa qb))

/-- The members of two quorums. -/
def bothMembers (qa qb : Quorum) : List (Nat × Nat) := qa.members ++ qb.members.filter fun m => !qa.members.contains m

/-- The effect of a decided RESHAPE at the device of the accord (R158): block 2, the new epoch, the registrations. -/
def reshapeEffect (s : State) (core : Nat) (m : AMsg) (q : Quorum) : State :=
  match accordCfg s m.acc with
  | none => s
  | some c =>
    let ep := (dirGet s m.acc).epoch + 1
    let bs := quorumBytes q
    let s1 := accWrite s c.owner m.acc (c.desc + 256) (bs.take 64)
    let s2 := accWrite s1 c.owner m.acc (c.desc + 320) (bs.drop 64)
    let s3 := accWrite s2 c.owner m.acc (c.desc + 12) (leBytes 4 ep)
    let s4 := dirMod s3 m.acc fun r => { r with epoch := ep, passed := [] }
    registerAll core { m with gen := c.gen, epoch := ep, slot := c.trunc, orig := c.part, flag := true, v := 0, dev := s.dev.id,
                              carry := bestOf s m.acc c.qa.members } c c.qa (some q) (bothMembers c.qa q)
      (if c.qa.members.any fun x => x.1 == s.dev.id then s4 else after s4 4096 (.quorumTakeover m.acc))

/-- A member's entry with a configuration that a reshape or a takeover brings (R158, R184). -/
def withConfig (c : AccCfg) (m : AMsg) (cfg : Quorum) (next : Option Quorum) : AccCfg :=
  takeCarry { c with epoch := m.epoch, qa := cfg, qb := next, cfgAt := none } m.carry

/-- ACCORD_REGISTER: at the directory (member 255) INUSE or a new generation; at a member a configuration entry, or NOROOM. With the flag
set it brings a reshape: at the directory its effect; at old and new members the new epoch and quorum B, or, when quorum B takes over, the
new quorum A, with which a member outside it frees the accord, and which a gate on another device, with the value 1, passes on together with
its conversation (R158, R184). A new member without room is silently not registered, a choice of the model (log entry 65). -/
def execAccordRegister (m : AMsg) (cfg : Quorum) (next : Option Quorum) (size darr : Nat) (proto : Option Proto) (owner : Nat)
    (strict : Bool) (wsen desc : Nat) (s : State) : Res :=
  if m.member = 255 then
    let r := dirGet s m.acc
    if m.flag then .next (match next with
      | some q => if r.isOpen && r.gen = m.gen then reshapeEffect s (regionHub (m.acc % 64)) m q else s
      | none => s)
    else if (getRegion s (m.acc % 64)).excluded then .next (statusTo s m 3 0)
    else if r.isOpen then .next (statusTo s m 1 0)
    else
      let g := (r.gen + 1) % 65536
      .next (statusTo (dirMod s m.acc fun _ => { desc, owner, epoch := 1, gen := g, isOpen := true, vd := none }) m 0 g)
  else
    let inCfg := (bothMembers cfg (next.getD cfg)).contains (s.dev.id, m.region)
    match findAcc s m.region m.acc with
    | some c =>
      if !m.flag then .next (statusTo s m 3 0)
      else if !inCfg then .next (modRegion s m.region fun r => { r with accs := r.accs.filter fun x => x.acc != m.acc })
      else
        let s1 := if m.v = 1 then
            registerAll (regionHub m.region) { m with v := 0, carry := carryOf c } c cfg next
              ((bothMembers c.qa cfg).filter fun x => x != (s.dev.id, m.region)) s
          else s
        .next (moveFront s1 m.region (withConfig c m cfg next) [])
    | none =>
      if !inCfg then .next s
      else if !shareRoom s m.region m.orig 1 0 then .next (if m.flag then s else statusTo s m 3 0)
      else
        let front := if m.flag && proto.isNone then (next.getD cfg).frm else m.slot
        let new : AccCfg := { acc := m.acc, gen := m.gen, epoch := m.epoch, trunc := m.slot, front, llen := size, darr, desc,
                              owner, part := m.orig, qa := cfg, qb := next, strict, wsen, proto, opener := (m.tid, m.op) }
        let s1 := modRegion s m.region fun r => { r with accs := r.accs ++ [takeCarry new m.carry] }
        .next (if m.flag then s1 else statusTo s1 m 0 0)

/-- Whether an operation of a thread is a PROP, RESHAPE, LEARN or LEARNT on an accord (R161). -/
def Op.onAccord (acc : Nat) : Op → Bool
  | .prop p => p.acc == acc && (match p.outer with
    | .plain => true
    | .reshape _ => true
    | _ => false)
  | .learn l => l.acc == acc && (l.form == .learn || l.form == .learnt)
  | _ => false

/-- Whether a thread is parked in such an instruction. -/
def parkedOn (acc : Nat) (t : Thread) : Bool :=
  (match t.wait with
    | .op o => o.onAccord acc
    | _ => false) || t.kept.any fun o => o.onAccord acc

/-- Tell the threads parked on an accord that it is closed by force. -/
def tellClosed (m : AMsg) : List (Nat × Thread) → State → State
  | [], s => s
  | (tid, t) :: l, s =>
    tellClosed m l (if parkedOn m.acc t then send s (regionHub m.region) t.core 8 0 (.memberReply tid t.op 255 (.closed m.acc)) else s)

/-- ACCORD_CLOSE_AT_MEMBER (R148, R160, R161): at the directory (member 255) BUSY or closed, with the grants of the accord; at a member its
entries are freed. A generation that is not the accord's is stale. The value 1 takes back an OPEN that failed. -/
def execAccordCloseAtMember (m : AMsg) (s : State) : Res :=
  if m.member = 255 then
    let r := dirGet s m.acc
    if m.v = 1 then
      .next (statusTo (if r.gen = m.gen then dirMod s m.acc fun r => { r with isOpen := false, gen := (r.gen + 65535) % 65536 } else s) m 0 0)
    else if !r.isOpen || r.gen ≠ m.gen then .next (replyTo s m (.memberReply m.tid m.op m.member .stale))
    else if !m.flag && s.threads.any fun t => parkedOn m.acc t.2 then .next (statusTo s m 1 0)
    else
      let s1 := dirMod s m.acc fun r => { r with isOpen := false }
      let s2 := { s1 with grants := s1.grants.filter fun g => g.acc != some m.acc }
      .next (statusTo (if m.flag then tellClosed m s2.threads s2 else s2) m 0 0)
  else
    let same := fun (c : AccCfg) => c.acc == m.acc && c.gen == m.gen && (m.v != 1 || c.opener == (m.tid, m.op))
    .next (statusTo (modRegion s m.region fun r => { r with accs := r.accs.filter fun c => !same c }) m 0 0)

/-- Raise a member's truncation point (R140, R142, R161): its waiting records below it are answered from the array (R154). A conversation's
member behind it takes the state of the most advanced member of this device; where there is none, it goes on as decisions reach it. -/
def raiseTrunc (s : State) (g : Nat) (c : AccCfg) (t : Nat) : State :=
  let c1 := { c with trunc := max c.trunc t }
  let c2 := if c1.front < c1.trunc then
      (if c.proto.isSome then takeCarry c1 (bestOf s c.acc c.qa.members) else { c1 with front := c1.trunc })
    else c1
  moveFront s g c2 []

/-- ACCORD_TRUNC_AT_MEMBER (R148, R161): the gate (flag set) computes the new point, the others apply it; the directory writes it to the
descriptor. A generation that is not the accord's is stale. -/
def execAccordTruncAtMember (m : AMsg) (s : State) : Res :=
  if m.member = 255 then
    let r := dirGet s m.acc
    .next (statusTo (if r.isOpen && r.gen = m.gen then accWrite s r.owner m.acc (r.desc + 8) (leBytes 4 m.slot) else s) m 0 m.slot)
  else match (findAcc s m.region m.acc).filter fun c => c.gen == m.gen with
    | none => .next (if m.flag then replyTo s m (.memberReply m.tid m.op m.member .stale) else statusTo s m 0 m.slot)
    | some c =>
      let t := if m.flag then max c.trunc (min m.slot c.front) else m.slot
      .next (statusTo (raiseTrunc s m.region c t) m 0 t)

/-- Give every member on this device the new configuration, or free the accord at a member that is not in it. -/
def installB (m : AMsg) (q : Quorum) : List Nat → State → State
  | [], s => s
  | g :: l, s =>
    installB m q l (match findAcc s g m.acc with
      | none => s
      | some c =>
        if q.members.contains (s.dev.id, g) then moveFront s g (withConfig c m q none) []
        else modRegion s g fun r => { r with accs := r.accs.filter fun c => c.acc != m.acc })

/-- Ask the members of other devices for their frontiers (R158). -/
def askFronts (c : AccCfg) : Nat → List (Nat × Nat) → State → State
  | _, [], s => s
  | i, m :: l, s =>
    let q : LReq := ⟨m.2, i, c.acc, c.gen, c.epoch, 0, .frontier, noOrigin + c.acc, 0, regionHub (c.acc % 64), s.dev.id⟩
    askFronts c (i + 1) l (if m.1 ≠ s.dev.id && !(dirGet s c.acc).passed.contains m then emit s m.1 (.memberQuery q) else s)

/-- A member of another device reports its frontier (R158). -/
def frontReport (s : State) (acc member : Nat) (front : Nat) : State :=
  match accordCfg s acc with
  | none => s
  | some c =>
    match c.qb with
    | none => s
    | some q =>
      if front < q.frm then s
      else post (dirMod s acc fun r => { r with passed := r.passed ++ [nth (0, 0) c.qa.members member] }) s.cycle 0 (.quorumTakeover acc)

/-- QUORUM_TAKEOVER (R158, R184): block 2 becomes block 1, and the members follow, with the conversation of a member that has passed. The
frontiers of members on other devices are asked for every 4,096 cycles, a choice of the model (log entry 65). -/
def execQuorumTakeover (acc : Nat) (s : State) : Res :=
  match accordCfg s acc with
  | none => .next s
  | some c =>
    match c.qb with
    | none => .next s
    | some q =>
      if !takeoverDue s c then .next s
      else if !takeoverReady s c then
        .next (if s.pend.any fun p => p.what == .quorumTakeover acc then s
          else after (askFronts c 0 c.qa.members s) 4096 (.quorumTakeover acc))
      else
        let s1 := accWrite s c.owner acc (c.desc + 128) ((quorumBytes q).take 64)
        let s2 := accWrite s1 c.owner acc (c.desc + 192) ((quorumBytes q).drop 64)
        let s3 := accWrite s2 c.owner acc (c.desc + 256) (List.replicate 64 0)
        let s4 := accWrite s3 c.owner acc (c.desc + 320) (List.replicate 64 0)
        let here := c.qa.members.any fun m => m.1 == s.dev.id
        let m : AMsg := { region := 0, member := 0, acc, gen := c.gen, epoch := c.epoch, slot := c.trunc, bal := 0, flag := true, v := 0,
                          orig := c.part, tid := noOrigin + acc, op := 0, core := regionHub (acc % 64), dev := s.dev.id,
                          carry := bestOf s acc c.qa.members }
        let far := (bothMembers c.qa q).filter fun x => x.1 != s.dev.id
        let s5 := installB m q (s4.regions.map (·.1)) s4
        .next (if here || c.proto.isNone then registerAll m.core m c q none far s5
          else registerAll m.core { m with v := 1 } c q none (c.qa.members.take 1) s5)

end Sys2Proof.Machine
end

