-- ==== Sys2Proof/Machine/Access.lean ====
section
/-! DEFINITION. What a thread does to reach memory: the fence of R130 with the counts of R345 and R346, issuing stores and merges
(R19, R33, R114, R115, R335), loads of every class (R112, R121), and leaving a core by migration (R18, R29, R176). -/

namespace Sys2Proof.Machine

/-! ### Fences -/

/-- Class 0x8 accesses of the open intervals that are not acknowledged. -/
def remoteUnacked (t : Thread) : Nat := t.peers.foldl (fun n p => n + (p.src - p.acked)) 0

/-- The condition of R346's first two waits: every local access is acknowledged, every remote one acknowledged or settled. -/
def fenceReady (t : Thread) : Bool := t.uac ≤ remoteUnacked t && t.peers.all fun p => p.src ≤ p.acked + p.dropped

/-- Send a COUNT query to the peers from position `i` on (R346). -/
def sendCounts (s : State) (t : Thread) : List Peer → State
  | [] => s
  | p :: ps =>
    let q : Instr := .countQuery s.dev.id t.id p.iv
    let s1 := if p.dev = s.dev.id then post s (s.cycle + 1) 0 q else emit s p.dev q
    sendCounts s1 t ps

/-- Begin the comparison of counts: every peer is asked, and has 262,144 cycles to answer (R346). -/
def startCount (s : State) (t : Thread) : State :=
  let t1 := { t with wait := .count [], op := t.op + 1 }
  after (sendCounts (setThread s t1) t1 t1.peers) 262144 .fenceCountTimeout (.op t1.id t1.op)

/-- The first peer whose totals differ, with source total minus target total; a peer without an answer counts 0 (R346). -/
def firstMismatch : Nat → List Peer → List (Nat × Nat) → Option (Nat × Int)
  | _, [], _ => none
  | i, p :: ps, got =>
    let tgt := tblGet 0 got i
    if p.src = tgt then firstMismatch (i + 1) ps got else some (p.dev, (p.src : Int) - tgt)

/-- The counts are in: the interval closes, unacknowledged remote accesses are written off, the instruction goes on (R346). A mismatch of an
interval that was checked in background comes first (R345). -/
def endCount (s : State) (t : Thread) (got : List (Nat × Nat)) : State :=
  let m := match t.owed with
    | some m => some m
    | none => firstMismatch 0 t.peers got
  setThread s { t with uac := t.uac - remoteUnacked t, peers := [], interval := (t.interval + 1) % 256, counted := true,
                       mism := m, owed := none, wait := .until .always }

/-- FENCE.D before the rest of an instruction (R130, R345, R346): `k` runs once the fence is complete. -/
def fenced (s : State) (t : Thread) (k : State → Thread → State) : State :=
  if t.counted then k s t
  else if t.peers.isEmpty then
    if t.uac = 0 then (if t.owed.isSome then setThread s { t with mism := t.owed, owed := none, counted := true, wait := .until .always } else k s t)
    else wait s t (.until .uacZero)
  else if fenceReady t then startCount s t
  else
    let t1 := { t with wait := .until .uacZero, op := t.op + 1 }
    after (setThread s t1) 262144 .fenceCountTimeout (.op t1.id t1.op)

/-! ### Issuing stores and merges -/

/-! ### Intervals checked in background (R345) -/

/-- The peers of an interval of a thread. -/
def peersOf (t : Thread) (iv : Nat) : List Peer := t.peers.filter fun p => p.iv == iv

/-- Marks of the two waits of a background check among a thread's operations: for acknowledgements, and for totals. -/
def checkOp (iv : Nat) : Nat := 2 ^ 64 + iv
def totalOp (iv : Nat) : Nat := 2 ^ 65 + iv

/-- Ask the peers of a closed interval for their totals once its packets are settled, or at once when its time is up (R345, R346). -/
def askClosed (up : Bool) (s : State) (t : Thread) (iv : Nat) : State :=
  let l := peersOf t iv
  if iv = t.interval || l.isEmpty || l.any (·.asked) || !(up || l.all fun p => p.src ≤ p.acked + p.dropped) then s
  else
    let t1 := { t with peers := t.peers.map fun p => if p.iv = iv then { p with asked := true } else p }
    after (sendCounts (setThread s t1) t1 l) 262144 .fenceCountTimeout (.op t.id (totalOp iv))

/-- The first peer of a closed interval whose totals differ; one without an answer counts 0. -/
def closedMismatch : List Peer → Option (Nat × Int)
  | [] => none
  | p :: l => if p.src = p.tgt.getD 0 then closedMismatch l else some (p.dev, (p.src : Int) - p.tgt.getD 0)

/-- The check of a closed interval ends: what is unacknowledged is written off, a mismatch waits for the next fence (R345, R346). -/
def endClosed (s : State) (t : Thread) (iv : Nat) : State :=
  let l := peersOf t iv
  setThread s { t with uac := t.uac - l.foldl (fun n p => n + (p.src - p.acked)) 0, peers := t.peers.filter fun p => p.iv != iv,
                       owed := match t.owed with
                         | some m => some m
                         | none => closedMismatch l }

/-- The fence interval that a class 0x8 access closed, as a fence would check it, 262,144 cycles being its time (R345, R346). -/
def checkClosed (s : State) (tid iv : Nat) : State :=
  match getThread s tid with
  | some t => if t.interval = iv then s else askClosed false (after s 262144 .fenceCountTimeout (.op tid (checkOp iv))) t iv
  | none => s

/-- Count a class 0x8 access in the thread's interval; a ninth peer opens a new one (R345). -/
def countPeer (t : Thread) (da : Nat) : Thread :=
  if addrClass da ≠ 8 then t
  else
    let dev := da / 2 ^ 36 % 65536
    if t.peers.any fun p => p.iv == t.interval && p.dev == dev then
      { t with peers := t.peers.map fun p => if p.iv == t.interval && p.dev == dev then { p with src := p.src + 1 } else p }
    else if 8 ≤ (t.peers.filter fun p => p.iv == t.interval).length then
      let i := (t.interval + 1) % 256
      { t with interval := i, peers := t.peers ++ [{ iv := i, dev := dev, src := 1 }] }
    else { t with peers := t.peers ++ [{ iv := t.interval, dev := dev, src := 1 }] }

/-- Whether an address lies in the constant window of the thread's own partition on its own core (R19). -/
def ownWindow (s : State) (t : Thread) (da : Nat) : Bool :=
  match homeOf s t.ctx t.core t.part da with
  | .scratch c off => c == t.core && off < viewBase s t.core t.part + 0x800
  | _ => false

/-- Whether a home lies on a core, so that no packet is sent (R396). -/
def onCore (core : Nat) : Home → Bool
  | .scratch c _ => c == core
  | .istore c _ => c == core
  | _ => false

/-- Whether a further store or merge may be issued: sw.UAC below 4,095 and fewer than 255 packets to the line (R33, R335). -/
def storeRoom (s : State) (t : Thread) (da : Nat) : Bool :=
  t.uac < 4095 && (onCore t.core (homeOf s t.ctx t.core t.part da) || unackedTo (getCore s t.core) (lineOf s t.ctx da) < 255)

/-- The line of an access of this device gets its packet back from the count of its core's table (R335). -/
def clearLine (s : State) (a : Access) : State :=
  if counted a && !onCore a.core (homeOf s a.ctx a.core a.part a.da) then leaveLine s a.core (lineOf s a.ctx a.da) else s

/-- The core that a class 0x2 address names. -/
def codeTarget (da : Nat) : Nat := coreAt (da / 2 ^ 16 % 128) (da / 2 ^ 23 % 128)

def isStore : Act → Bool
  | .store _ => true
  | _ => false

/-- Issue a store or merge of `z` bytes at a device address: the window check of R19, the width rule of class 0x2 (R114), the
count limits; then it leaves, counted in sw.UAC, and `k` completes the instruction. The skid of one that will be refused begins (R312). -/
def issueWrite (s : State) (t : Thread) (da z : Nat) (act : Act) (k : State → Thread → State) : State :=
  if ownWindow s t da then fatalAt s t 0x02 da
  else if addrClass da = 2 && z < 4 then fatalAt s t 0x03 da
  else if !storeRoom s t da then wait s t (.until (.storeRoom da))
  else
    let code := addrClass da == 2 && isStore act
    let t1 := countPeer { t with uac := t.uac + 1, codeUac := t.codeUac + b2n code, op := t.op + 1, wait := .ready } da
    let id := if code then s.nonce else t1.op
    let a : Access := ⟨.thread t.id, id, t.ctx, t.part, t.core, t.pc.toNat, da, z, t1.interval, act, none, none⟩
    let t1 := t1.noteSkid (refusedNow s a)
    let s1 := if code then bump (modPart s t.core t.part fun p => { p with codeOut := p.codeOut ++ [(codeTarget da, id)] })
      else s
    checkClosed (k (sendAccess (setThread s1 t1) a) t1) t.id t.interval

/-! ### Reads of several lines -/

/-- Lines that `n` bytes from an address take, as addresses and sizes; `k` bounds their number. -/
def linesOf : Nat → Nat → Nat → List (Nat × Nat)
  | 0, _, _ => []
  | k + 1, da, n =>
    if n = 0 then []
    else
      let z := min n (64 - da % 64)
      (da, z) :: linesOf k (da + z) (n - z)

/-- Read the next line of a gathering instruction at its home, the thread parked; at the end the instruction goes on (R264, R314). Stage
16·accord + 9 reads the descriptor of an accord, in its owner's address space (R148). -/
def gatherNext (s : State) (t : Thread) (todo : List (Nat × Nat)) (got : List Byte) (stage : Nat) : State :=
  match todo with
  | [] => wait s t (.gathered got stage)
  | (da, z) :: _ =>
    let t1 := { t with op := t.op + 1, wait := .gather todo got stage }
    let own := if stage % 16 = 9 then dirGet s (stage / 16) else { owner := t.ctx }
    let ctx := if (getCtx s own.owner).isSome then own.owner else t.ctx
    sendAccess (setThread s t1) ⟨.thread t.id, t1.op, ctx, t.part, t.core, t.pc.toNat, da, z, t.interval, .load, none, none⟩

/-- Begin to read `n` bytes at a device address. -/
def gatherFrom (s : State) (t : Thread) (da n : Nat) (got : List Byte) (stage : Nat) : State :=
  gatherNext s t (linesOf (n / 64 + 2) da n) got stage

/-! ### Halt records (R319) -/

/-- The pcs of four slots from slot `n` on. -/
def haltPcs (s : State) (core p n : Nat) : Word :=
  let pc := fun i => match s.threads.find? fun x => x.2.core == core && x.2.part == p && x.2.place == .slot (n + i) with
    | some x => x.2.pc.toNat
    | none => 0
  BitVec.ofNat 64 (pc 0 + pc 1 * 2 ^ 16 + pc 2 * 2 ^ 32 + pc 3 * 2 ^ 48)

/-- The halt record of a core. -/
def haltQuads (s : State) (core p : Nat) : List Word :=
  let x := getPart s core p
  [BitVec.ofNat 64 (x.stopCycle.getD 0), BitVec.ofNat 64 (x.sent % 2 ^ 32 * 2 ^ 32 + x.rcvd % 2 ^ 32),
   BitVec.ofNat 64 (min x.discarded 65535 * 2 ^ 48 + x.liveMask * 2 ^ 32 + core * 2 ^ 18 + b2n x.faulter * 2 ^ 17), 0,
   haltPcs s core p 0, haltPcs s core p 4, haltPcs s core p 8, haltPcs s core p 12]

/-- Write a core's halt record at its place in the save area of its context. -/
def writeHalt (s : State) (core p : Nat) : State :=
  match getCtx s (getPart s core p).owner with
  | none => s
  | some x =>
    if x.save = 0 then s
    else
      let i := (coreY core - x.oy) * x.w + (coreX core - x.ox)
      { s with mem := memWrite s.mem (tierKey 0 (x.save + 64 * i)) (quadBytes (haltQuads s core p)) }

/-- A stopped partition discards a packet, which its halt record counts (R318, R319). -/
def discardAt (s : State) (core p : Nat) : State :=
  writeHalt (modPart s core p fun x => { x with discarded := x.discarded + 1 }) core p

/-- A reply, credit or notice for a thread here: a stopped partition discards it (R318), else `k` takes it. -/
def toLive (s : State) (tid : Nat) (k : State → Thread → State) : State :=
  match getThread s tid with
  | none => s
  | some t => if t.place ≠ .engine && (getPart s t.core t.part).stopCycle.isSome then discardAt s t.core t.part else k s t

/-! ### Leaving a core -/

/-- The threads of a partition of a core. -/
def partThreads (s : State) (core p : Nat) : List Thread :=
  (s.threads.filter fun x => x.2.core == core && x.2.part == p).map (·.2)

/-- The thread in a slot. -/
def slotThread (s : State) (core n : Nat) : Option Thread :=
  (s.threads.find? fun x => x.2.core == core && x.2.place == .slot n).map (·.2)

/-- The free work slot that the next thread takes: the lowest one (log entry 7). -/
def freeSlot (s : State) (core p : Nat) : Option Nat :=
  firstFree ((s.threads.filter fun x => x.2.core == core).filterMap fun x => x.2.slot?) (slotCount s core - 1) (firstSlot s core p)

/-- What happens when a slot becomes free: the handler slot takes the next message, a work slot the next arrival (R171, R176). -/
def slotFreed (s : State) (core p n : Nat) : State :=
  post s s.cycle 0 (if n = handlerSlot s core p then .handlerStart else .arrivalTaken) (.part core p)

/-- A capture of TLOOP ends early when its thread halts, leaves or waits (R202). -/
def endCapture (s : State) (t : Thread) : State :=
  match (getPart s t.core t.part).loop with
  | .capturing tid _ _ _ _ => if tid = t.id then modPart s t.core t.part fun p => { p with loop := .idle } else s
  | _ => s

/-- Keep a queue entry for the command of a thread's rewrite handler (R244). -/
def Part.keepEntry (p : Part) (tid : Nat) : Part := { p with reserved := natInsert p.reserved tid }

/-- The entry kept for a thread is used, or not needed any more. -/
def Part.dropEntry (p : Part) (tid : Nat) : Part := { p with reserved := p.reserved.filter (· != tid) }

/-- Whether a TCMD of a thread can be accepted (R192): beside the entries kept for other threads (R244). -/
def tcmdRoom (p : Part) (tid : Nat) : Bool :=
  p.queue.length + (p.dropEntry tid).reserved.length < 64 && (match p.loop with
    | .idle => true
    | .capturing t _ _ _ _ => t == tid
    | .pushing _ _ _ _ _ => false)

/-- A thread leaves the tile queue of its core: its capture ends (R202), and no entry is kept for it. -/
def leaveQueue (s : State) (t : Thread) : State := modPart (endCapture s t) t.core t.part fun p => p.dropEntry t.id

/-- The state that travels with a thread (R13, R18, R32). -/
def travelState (t : Thread) : MigState := ⟨t.regs, t.preds, t.pc, t.status, t.fpx, t.trapc, t.trapv, t.trappc⟩

/-- Send a thread away from its core (R18, R29, R176): a 96-byte packet to a core here, or to another device (R348). One that goes to this
device by a class 0x8 address arrives in the next cycle, a choice of the model (log entry 63). -/
def depart (s : State) (t : Thread) (dev : Option Nat) (dst : Nat) (load : Option (LoadK × Nat × Nat)) : State :=
  let pkt : MigPkt := ⟨t.id, t.ctx, t.part, dst, travelState t, load, t.mism, dev.map fun _ => s.dev.id⟩
  let s1 := leaveQueue s t
  let s2 := setThread s1 { t with place := if dev.isSome then .away else .flight, wait := .moving, op := t.op + 1 }
  let s3 := modPart s2 t.core t.part fun p => { p with sent := p.sent + 1 }
  let s4 := match t.place with
    | .slot n => slotFreed s3 t.core t.part n
    | _ => s3
  match dev with
  | some d =>
    if d = s.dev.id then post s4 (s4.cycle + 1) 0 (.migrationArrival pkt)
    else emit s4 d (.migrationArrival pkt)
  | none => send s4 t.core dst 96 0 (.migrationArrival pkt)

/-- Whether a thread runs in a handler slot, from which nothing may migrate (R172). -/
def inHandler (s : State) (t : Thread) : Bool := t.place == .slot (handlerSlot s t.core t.part)

/-- A migrating access: refused in a handler, fenced first (R18, R172). -/
def leave (s : State) (t : Thread) (dev : Option Nat) (dst : Nat) (load : Option (LoadK × Nat × Nat)) : State :=
  if inHandler s t then fatalAt s t 0x01 0 else fenced s t fun s t => depart s t dev dst load

/-! ### Loads -/

/-- Park a thread until the reply to its load arrives (R112). -/
def parkLoad (s : State) (t : Thread) (k : LoadK) (da z : Nat) : State :=
  let t1 := { t with op := t.op + 1, wait := .load k da }
  sendAccess (setThread s t1) ⟨.thread t.id, t1.op, t.ctx, t.part, t.core, t.pc.toNat, da, z, t.interval, .load, none, none⟩

/-- A load of `z` bytes at a device address by the class of the address (R29, R112, R274): in line, parked, or carrying the thread
to the home. `fin` goes on with bytes read in line. -/
def loadAt (fin : State → Thread → List Byte → State) (s : State) (t : Thread) (k : LoadK) (da z : Nat) : State :=
  let inline := fun key => if poisoned s key z then fatalAt s t 0x11 da else fin s t (memRead s.mem key z)
  if addrClass da = 2 && z < 4 then fatalAt s t 0x03 da
  else match homeOf s t.ctx t.core t.part da with
  | .none => fatalAt s t 0x10 da
  | .scratch c off => if c = t.core then inline (scratchKey c off) else leave s t none c (some (k, da, z))
  | .istore c off => if c = t.core then inline (istoreKey c off) else parkLoad s t k da z
  | .commons _ _ => parkLoad s t k da z
  | .port _ _ _ => parkLoad s t k da z
  | .device d _ => leave s t (some d) 0 (some (k, da, z))

/-- fp32 result of a value and a scale byte (R54, R121). -/
def widen (v : FVal) (scale : Option Nat) : Flagged Nat :=
  match scale with
  | none => fpConvert fp32 false 0 0 v
  | some 255 => ⟨fp32.canon, flagIV⟩
  | some sb =>
    match fvMul v (.fin false 1 ((sb : Nat) - 127)) with
    | some x => fpConvert fp32 false 0 0 x
    | none => ⟨fp32.canon, flagIV⟩

/-- Write the result of an LDE with its flags (R121). -/
def retireLde (s : State) (t : Thread) (d : BitVec 4) (r : Flagged Nat) : State :=
  retireReg s (t.orFpx r.flags) d (BitVec.ofNat 64 r.val)

/-- The value of an element that LDE read: its nibble for the 4-bit formats, bits [5:0] for e2m3 (R36, R121). -/
def ldeRaw (f byte : Nat) (high : Bool) : Nat :=
  if f = 7 || f = 9 then (if high then byte / 16 % 16 else byte % 16)
  else if f = 6 then byte % 64 else byte

/-- The bytes of a load that needs no further read: LD, VBTST, the scale of an LDE. -/
def finishLoad1 (k : LoadK) (s : State) (t : Thread) (bs : List Byte) : State :=
  match k with
  | .ld d w => retireReg s t d (loadExtend w bs)
  | .vbtst d b => retireReg s t d (BitVec.ofNat 64 (vbtstCount bs b))
  | .scale d f raw _ => retireLde s t d (widen (elemValue f raw) (some (ofLeBytes bs)))
  | .lde _ _ _ _ _ _ _ => retire s t

/-- The program address of an LDE scale byte: d as it was, plus the block number (R121). -/
def scaleAddr (din : Word) (e bl : Nat) : Word := tagAdd din (BitVec.ofNat 64 (e / 2 ^ bl))

/-- The bytes of a load have arrived (R111, R121, R129): an LDE with a scale goes on to read it. -/
def finishLoad (k : LoadK) (s : State) (t : Thread) (bs : List Byte) : State :=
  match k with
  | .lde d f bl e high _ din =>
    let byte := ofLeBytes bs
    if f = 8 || f = 9 then retireLde s t d ⟨wrapNat 64 (sextNat (fmtWidth f) (ldeRaw f byte high)), 0⟩
    else if f = 10 then
      let p := getPart s t.core t.part
      retireLde s t d ⟨wrapNat 64 (q4Element p.table p.esc byte high), 0⟩
    else if bl = 0 || f = 11 then retireLde s t d (widen (elemValue f (ldeRaw f byte high)) none)
    else
      match getCtx s t.ctx with
      | none => fatalAt s t 0x02 0
      | some x =>
        match segCheck x (scaleAddr din e bl) 1 1 rightR with
        | .error c => fatalAt s t c (scaleAddr din e bl).toNat
        | .ok da =>
          let k1 : LoadK := .scale d f (ldeRaw f byte high) high
          loadAt (finishLoad1 k1) s t k1 da 1
  | k => finishLoad1 k s t bs

/-- A load at a program address: the checks of R25 with right R, then R112. -/
def issueLoad (s : State) (t : Thread) (k : LoadK) (ea : Word) (z : Nat) : State :=
  match getCtx s t.ctx with
  | none => fatalAt s t 0x02 0
  | some x =>
    match segCheck x ea z z rightR with
    | .error c => fatalAt s t c ea.toNat
    | .ok da => loadAt (finishLoad k) s t k da z

end Sys2Proof.Machine
end

