-- ==== Sys2Proof/Machine/Memory.lean ====
section
/-! DEFINITION. The memory instructions: loads and stores (R111 to R121), merges (R122 to R129), fences (R130) and the hardware
barrier (R132, R133). -/

namespace Sys2Proof.Machine

/-- Loads of format M: width code `w` names size and extension (R73, R109). -/
def loadOp (s : State) (t : Thread) (d a : BitVec 4) (w : Nat) (x : BitVec 9) : State :=
  issueLoad s t (.ld d w) (effAddr (t.reg a) x (widthBytes w)) (widthBytes w)

/-- LD (R111). -/
def execLd (g : BitVec 5) (d a : BitVec 4) (w : BitVec 3) (x : BitVec 9) (s : State) : Res :=
  scalar g s fun s t => loadOp s t d a w.toNat x

/-- LDA (R119): w 0 is .w, 1 is .d; every later access of a thread follows its read in any case (R113). -/
def execLda (g : BitVec 5) (d a : BitVec 4) (w : BitVec 1) (x : BitVec 9) (s : State) : Res :=
  scalar g s fun s t => loadOp s t d a (4 + 2 * w.toNat) x

/-- A store of the low `z` bytes of a register at a program address (R114). -/
def storeOp (s : State) (t : Thread) (r a : BitVec 4) (z : Nat) (x : BitVec 9) : State :=
  match getCtx s t.ctx with
  | none => fatalAt s t 0x02 0
  | some c =>
    let ea := effAddr (t.reg a) x z
    match segCheck c ea z z rightW with
    | .error e => fatalAt s t e ea.toNat
    | .ok da => issueWrite s t da z (.store (leBytes z (t.reg r).toNat)) retire

/-- ST (R114): w names .b, .h, .w, .d. -/
def execSt (g : BitVec 5) (r a : BitVec 4) (w : BitVec 2) (x : BitVec 9) (s : State) : Res :=
  scalar g s fun s t => storeOp s t r a (2 ^ w.toNat) x

/-- STR (R120): FENCE.D, then the store. -/
def execStr (g : BitVec 5) (r a : BitVec 4) (w : BitVec 1) (x : BitVec 9) (s : State) : Res :=
  scalar g s fun s t => fenced s t fun s t => storeOp s t r a (4 * 2 ^ w.toNat) x

/-- The program address, size and element index of an LDE (R121). -/
def ldeAddr (a : Word) (x : BitVec 9) : Word × Nat × Nat :=
  let f := tagFmtOf a
  let lo := a.toNat % 2 ^ 53
  let hi := a.toNat / 2 ^ 53 * 2 ^ 53
  if f = 7 || f = 9 || f = 10 then
    let n : Int := 2 * Int.ofNat lo + x.toInt
    (BitVec.ofNat 64 (hi + wrapNat 53 (n / 2)), 1, wrapNat 54 n)
  else
    let z := fmtWidth f / 8
    let off := wrapNat 53 (Int.ofNat lo + x.toInt * Int.ofNat z)
    (BitVec.ofNat 64 (hi + off), z, off / z)
where
  /-- The format code of a pointer (R24). -/
  tagFmtOf (a : Word) : Nat := a.toNat / 2 ^ 60

/-- LDE (R121): an illegal tag is an illegal instruction; else the element, then its scale. -/
def execLde (g : BitVec 5) (d a : BitVec 4) (x : BitVec 9) (s : State) : Res :=
  scalar g s fun s t =>
    let f := (t.reg a).toNat / 2 ^ 60
    let bl := (t.reg a).toNat / 2 ^ 56 % 16
    if f = 0 || 12 ≤ f || 8 ≤ bl then fatalAt s t 0x01 0
    else
      let r := ldeAddr (t.reg a) x
      issueLoad s t (.lde d f bl r.2.2 (r.2.2 % 2 == 1 && fmtWidth f == 4) 0 (t.reg d)) r.1 r.2.1

/-! ### Merges -/

/-- A merge at a program address: the checks of R25 with its rights, then R122. -/
def mergeAt (s : State) (t : Thread) (a : Word) (z : Nat) (need : Rights) (act : Act) (k : State → Thread → State) : State :=
  match getCtx s t.ctx with
  | none => fatalAt s t 0x02 0
  | some c =>
    match segCheck c a z z need with
    | .error e => fatalAt s t e a.toNat
    | .ok da => issueWrite s t da z act k

/-- MRG (R122): retires as a store does. -/
def execMrg (g : BitVec 5) (a b : BitVec 4) (w : BitVec 1) (o : BitVec 4) (s : State) : Res :=
  scalar g s fun s t =>
    mergeAt s t (t.reg a) (4 * 2 ^ w.toNat) rightM (.merge false o.toNat (w == 1) (t.reg b)) retire

/-- The merge of an FMRG leaves, and the thread parks for the old value. -/
def fetchMerge (s : State) (t : Thread) (d b : BitVec 4) (w : BitVec 1) (o : BitVec 4) (da : Nat) (want : Option (Word × Nat)) :
    State :=
  issueWrite s t da (4 * 2 ^ w.toNat) (.merge true o.toNat (w == 1) (t.reg b)) fun s t =>
    wait s t (.fetch d o.toNat (w == 1) da want)

/-- FMRG (R122): in a replay it merges in its turn, which lasts until its reply is checked (R329). -/
def execFmrg (g : BitVec 5) (d a b : BitVec 4) (w : BitVec 1) (o : BitVec 4) (s : State) : Res :=
  scalar g s fun s t =>
    match getCtx s t.ctx with
    | none => fatalAt s t 0x02 0
    | some c =>
      match segCheck c (t.reg a) (4 * 2 ^ w.toNat) (4 * 2 ^ w.toNat) rightRM with
      | .error e => fatalAt s t e (t.reg a).toNat
      | .ok da =>
        if replaying c && storeRoom s t da then
          atTurn s t c 1 (16 * w.toNat + o.toNat) (BitVec.ofNat 64 da) fun s t i e => fetchMerge s t d b w o da (some (e.outcome, i))
        else fetchMerge s t d b w o da none

/-- VBOR (R128). -/
def execVbor (g : BitVec 5) (a b : BitVec 4) (s : State) : Res :=
  scalar g s fun s t => mergeAt s t (t.reg a) 32 rightM (.vbor (t.reg b)) retire

/-- VBTST (R129). -/
def execVbtst (g : BitVec 5) (d a b : BitVec 4) (s : State) : Res :=
  scalar g s fun s t => issueLoad s t (.vbtst d (t.reg b)) (t.reg a) 32

/-! ### Fences -/

/-- Whether a partition's tile engine is idle: its queue is empty and no loop has commands left to push (R130, R202). -/
def tileIdle (p : Part) : Bool :=
  p.queue.isEmpty && (match p.loop with
    | .pushing _ _ _ _ _ => false
    | _ => true)

/-- FENCE.D (R130). -/
def execFenceD (g : BitVec 5) (s : State) : Res := scalar g s fun s t => fenced s t retire

/-- FENCE.T (R130). -/
def execFenceT (g : BitVec 5) (s : State) : Res :=
  scalar g s fun s t => if tileIdle (getPart s t.core t.part) then retire s t else wait s t (.until .tileIdle)

/-- FENCE.A (R130): both conditions hold at once. -/
def execFenceA (g : BitVec 5) (s : State) : Res :=
  scalar g s fun s t =>
    fenced s t fun s t => if tileIdle (getPart s t.core t.part) then retire s t else wait s t (.until .allIdle)

/-- FENCE.I (R130). -/
def execFenceI (g : BitVec 5) (s : State) : Res :=
  scalar g s fun s t => if t.codeUac = 0 then retire s t else wait s t (.until .codeZero)

/-! ### The hardware barrier -/

/-- Index of a core's barrier of a kind within its region: 0 REGION, 1 ROW, 2 COL. -/
def barIndex (kind core : Nat) : Nat :=
  match kind with
  | 0 => 0
  | 1 => coreY core % 16
  | _ => coreX core % 16

/-- The cores of a barrier's scope. -/
def barScope (kind idx g : Nat) : List Nat :=
  match kind with
  | 0 => (List.range 256).map fun i => regionCore g (i % 16) (i / 16)
  | 1 => (List.range 16).map fun i => regionCore g i idx
  | _ => (List.range 16).map fun i => regionCore g idx i

def barKey (part kind idx : Nat) : Nat := 64 * part + 16 * kind + idx

def getBar (s : State) (g part kind idx : Nat) : Bar := tblGet {} (getRegion s g).bars (barKey part kind idx)

def setBar (s : State) (g part kind idx : Nat) (b : Bar) : State :=
  modRegion s g fun r => { r with bars := tblSet r.bars (barKey part kind idx) b }

/-- Conditions that hold a thread unparked (R33, R130, R198, R202, R241). -/
def Cond.holdsOnly : Cond → Bool
  | .always => true
  | .uacZero => true
  | .codeZero => true
  | .tileIdle => true
  | .allIdle => true
  | .storeRoom _ => true
  | .loopFree => true
  | .tileEntry => true
  | .handleFree _ => true
  | .bagRoom => true
  | _ => false

/-- Whether a wait parks its thread. -/
def Wait.parks : Wait → Bool
  | .ready => false
  | .until c => !c.holdsOnly
  | .gathered _ _ => false
  | .count _ => false
  | .moving => false
  | .badPc _ => false
  | .stopped => false
  | _ => true

/-- Whether a thread counts as parked for PARKSEEN: parked or queued, or with a translation fault that keeps sw.UAC above zero, or for a
full trap queue (R132, R303, R314, R316, R328). -/
def countsParked (s : State) (t : Thread) : Bool :=
  t.wait.parks || t.place == .arrivalQ || t.place == .runQ || t.place == .held || t.status.getLsbD 5
    || s.ports.any fun p => p.2.held.any fun h => h.acc.who == .thread t.id

/-- The status of R132. -/
def barStatus (phase arrived : Nat) (seen : Bool) (outcome : Nat) : Word :=
  BitVec.ofNat 64 (phase % 2 ^ 32 * 2 ^ 32 + arrived * 2 ^ 8 + b2n seen * 16 + outcome)

/-- Whether a handler start of a core is held for room in the order log, so that its thread counts as parked (R328). -/
def startHeld (s : State) (core p : Nat) : Bool :=
  let pt := getPart s core p
  let n := handlerSlot s core p
  (pt.msgs ++ tblGet [] (getRegion s (regionOf core)).spill p).any (fun m => m.dst == core)
    && !s.threads.any (fun x => x.2.core == core && x.2.place == .slot n)
    && (match getCtx s pt.owner with
      | some x => logging x && !logFits s pt.owner x (regionOf core) (handlerRec core 0 0)
      | none => false)

/-- PARKSEEN for a barrier whose missing cores are those not in `arrived`. -/
def parkSeen (s : State) (g part kind idx : Nat) (arrived : List Nat) : Bool :=
  (s.threads.any fun x => x.2.part == part && (barScope kind idx g).contains x.2.core && !arrived.contains x.2.core
    && countsParked s x.2)
  || (barScope kind idx g).any fun c => !arrived.contains c && startHeld s c part

/-- The log record of a barrier outcome (R326). -/
def barRec (t : Thread) (kind idx : Nat) (d : Word) : LogRec :=
  ⟨0x0D, kind, BitVec.ofNat 64 (t.part * 2 ^ 16 + regionOf t.core * 2 ^ 8 + kind * 2 ^ 6 + idx), d, none, none⟩

/-- End a BAR with a status, or with the recorded one in its turn (R132, R329). -/
def barEnd (s : State) (t : Thread) (kind idx : Nat) (d : BitVec 4) (v : Word) : State :=
  let t1 := { t with deadline := 0 }
  match getCtx s t.ctx with
  | none => retireReg s t1 d v
  | some x =>
    if replaying x then
      inTurn s { t1 with held := [v] } x 0x0D kind (barRec t kind idx v).obj fun s t e => retireReg s t d e.outcome
    else finish s t1 (barRec t kind idx v) { r1 := d, v1 := v }

/-- Waiters of a barrier among threads. -/
def barWaiters (g part kind idx : Nat) (l : List (Nat × Thread)) : List (Thread × BitVec 4) :=
  l.filterMap fun x => match x.2.wait with
    | .bar k i d => if x.2.part = part && k = kind && i = idx && regionOf x.2.core = g then some (x.2, d) else none
    | _ => none

/-- Withdraw the arrivals of those cores of a list whose last waiter has timed out (R133). -/
def barWithdraw (s : State) (g part kind idx : Nat) (cores : List Nat) : State :=
  let b := getBar s g part kind idx
  let l := barWaiters g part kind idx s.threads
  if b.releasing then s
  else setBar s g part kind idx { b with arrived := b.arrived.filter fun c => !cores.contains c || l.any fun w => w.1.core == c }

/-- TIMEOUT without an arrival, with the counts as they are now; an arrival that the core still has from before a dusk stop is withdrawn
when no thread of it waits (R133). -/
def barTimeout (s : State) (t : Thread) (kind idx : Nat) (d : BitVec 4) : State :=
  let g := regionOf t.core
  let b := getBar s g t.part kind idx
  barWithdraw (barEnd s t kind idx d (barStatus b.phase b.arrived.length (parkSeen s g t.part kind idx b.arrived) 1)) g t.part kind idx [t.core]

/-- Arrive and wait (R132 steps 3 and 4); the waiter's time-out is due at the end of its deadline cycle (R133). -/
def barArrive (s : State) (t : Thread) (kind idx : Nat) (d : BitVec 4) : State :=
  let g := regionOf t.core
  let b := getBar s g t.part kind idx
  let arr := natInsert b.arrived t.core
  let full := (barScope kind idx g).all arr.contains
  let s1 := setBar s g t.part kind idx { b with arrived := arr, releasing := b.releasing || full }
  let s2 := if full && !b.releasing then after s1 (if kind = 0 then 24 else 12) (.barRelease g t.part kind idx) else s1
  let t1 := { t with wait := .bar kind idx d, op := t.op + 1 }
  let s3 := setThread s2 t1
  let s4 := if t.deadline = 0 then s3 else post s3 (t.deadline + 1) 0 .barTimeout (.op t1.id t1.op)
  match getCtx s4 t.ctx with
  | some x =>
    if replaying x then after (post s4 s4.cycle 0 .replayTurn (.op t1.id t1.op)) (2 ^ 24) .replayStall (.op t1.id t1.op) else s4
  | none => s4

/-- BAR (R132, R133): SCOPE, the deadline, FENCE.D, arrival. A launch with DET or a replay has no deadline (R306, R329). -/
def barOp (kind : Nat) (s : State) (t : Thread) (d a : BitVec 4) : State :=
  let g := regionOf t.core
  let idx := barIndex kind t.core
  let b := getBar s g t.part kind idx
  match t.held with
  | v :: _ => barEnd s t kind idx d v
  | [] =>
    let dl := match getCtx s t.ctx with
      | some x => if x.det || replaying x then 0 else (t.reg a).toNat
      | none => 0
    if !(barScope kind idx g).all fun c => holds s t.ctx c t.part then
      barEnd s t kind idx d (barStatus b.phase b.arrived.length false 2)
    else if dl ≠ 0 && dl ≤ s.cycle then barTimeout s t kind idx d
    else
      let t1 := { t with deadline := dl }
      let s1 := if dl = 0 || t.deadline = dl then s else post s dl 0 .barTimeout (.thread t.id)
      fenced s1 t1 fun s t => barArrive s t kind idx d

/-- BAR.REGION (R132). -/
def execBarRegion (g : BitVec 5) (d a : BitVec 4) (s : State) : Res := scalar g s fun s t => barOp 0 s t d a

/-- BAR.ROW (R132). -/
def execBarRow (g : BitVec 5) (d a : BitVec 4) (s : State) : Res := scalar g s fun s t => barOp 1 s t d a

/-- BAR.COL (R132). -/
def execBarCol (g : BitVec 5) (d a : BitVec 4) (s : State) : Res := scalar g s fun s t => barOp 2 s t d a

end Sys2Proof.Machine
end

