-- ==== Sys2Proof/Machine/Messages.lean ====
section
/-! DEFINITION. Active messages, spawning, migration, channels (R167 to R179), the queues in which arrivals wait (R176, R303) and
the event flags of WFM (R263). -/

namespace Sys2Proof.Machine

/-- Put an internal step `n` cycles ahead unless the same one is already on its way. -/
def poll (s : State) (n : Nat) (what : Instr) (who : Focus) : State :=
  if s.pend.any fun p => p.what == what && p.who == who && s.cycle < p.due then s else after s n what who

/-- The key of bytes of the thread's own view at a program address (R77, R170): segment, rights and alignment by R25, class 0x0, inside the
view, not poisoned; else the fault code with its value. -/
def ownKey (s : State) (t : Thread) (ea : Word) (z align : Nat) : Except (Nat × Nat) Nat :=
  match getCtx s t.ctx with
  | none => .error (0x02, 0)
  | some x =>
    match segCheck x ea z align rightR with
    | .error e => .error (e, ea.toNat)
    | .ok da =>
      if addrClass da ≠ 0 then .error (0x10, da)
      else match homeOf s t.ctx t.core t.part da with
      | .scratch c off =>
        if viewBase s c t.part + viewSize s c < off + z then .error (0x10, da)
        else if poisoned s (scratchKey c off) z then .error (0x11, da)
        else .ok (scratchKey c off)
      | _ => .error (0x10, da)

/-- The bytes themselves. -/
def readOwn (s : State) (t : Thread) (ea : Word) (z align : Nat) : Except (Nat × Nat) (List Byte) :=
  match ownKey s t ea z align with
  | .ok k => .ok (memRead s.mem k z)
  | .error e => .error e

/-- The quads of a list of bytes. The fuel is a bound on their number. -/
def toQuads : Nat → List Byte → List Word
  | 0, _ => []
  | n + 1, bs => BitVec.ofNat 64 (ofLeBytes (bs.take 8)) :: toQuads n (bs.drop 8)

/-! ### Starting and placing threads -/

/-- The ids of all live threads, those of saved contexts among them (R17, R323). -/
def liveTids (s : State) : List Nat :=
  s.threads.map (·.1) ++ s.ctxs.flatMap fun c => match c.2.saved with
    | some v => v.threads.map (·.1)
    | none => []

/-- The serials of the live threads that a core created (R17). -/
def usedSerials (s : State) (core : Nat) : List Nat :=
  (liveTids s).filterMap fun x => if x / 2 ^ 10 % 2 ^ 14 = core && x / 2 ^ 24 = s.dev.id then some (x % 1024) else none

/-- The lowest serial that no live thread created by a core has (R17; which serial is taken: log entry 7). -/
def newTid (s : State) (core : Nat) : Option Nat :=
  (firstFree (usedSerials s core) (if core = 16383 then 1023 else 1024) 0).map fun n => s.dev.id * 2 ^ 24 + core * 2 ^ 10 + n

/-- Write the arrival block of a slot (R168). -/
def writeBlock (s : State) (core p n : Nat) (words : List Word) : State :=
  let k := scratchKey core (viewBase s core p + 0x800 + 128 * (n - firstSlot s core p))
  { s with mem := memWrite s.mem k (quadBytes (words ++ List.replicate (16 - words.length) 0)) }

/-- A thread enters a slot: the slot's event flag clears (R263), a queued child's arrival block is written (R168). -/
def enterSlot (s : State) (t : Thread) (n : Nat) : State :=
  let s1 := modPart s t.core t.part fun p => { p with flags := p.flags &&& (0xFFFF ^^^ 2 ^ n) }
  match t.place with
  | .arrivalQ =>
    if t.held.isEmpty then setThread s1 { t with place := .slot n }
    else setThread (writeBlock s1 t.core t.part n t.held) { t with place := .slot n, held := [] }
  | _ => setThread s1 { t with place := .slot n }

/-- Registers of a thread that starts from a message (R169): sender, word count, words 1 to 8. -/
def startRegs (sender : Nat) (w : List Word) : Regs where
  g0 := BitVec.ofNat 64 sender
  g1 := BitVec.ofNat 64 w.length
  g2 := nth 0 w 1
  g3 := nth 0 w 2
  g4 := nth 0 w 3
  g5 := nth 0 w 4
  g6 := nth 0 w 5
  g7 := nth 0 w 6
  g8 := nth 0 w 7
  g9 := nth 0 w 8

/-- A thread that starts from a message or a spawn (R169). A pc that no slice can hold faults at its first issue. -/
def startThread (op tid : Nat) (m : Msg) : Thread :=
  let pc := nth 0 m.words 0
  { id := tid, ctx := m.ctx, core := m.dst, part := m.part, place := .flight, op, regs := startRegs m.tid m.words, preds := 1,
    pc := pc.setWidth 14, wait := if pc.toNat < 2 ^ 14 then .ready else .badPc pc }

/-- Set the event flag of every work slot of a partition (R263). -/
def setFlags (s : State) (core p : Nat) : State :=
  let mask := (2 ^ (slotCount s core - 1) - 1) * 2 ^ firstSlot s core p
  modPart s core p fun x => { x with flags := x.flags ||| mask }

/-- Log the start of a thread: `none` while its record does not fit (R325, R328). -/
def logStart (s : State) (ctx core tid : Nat) (r : LogRec) : Option State :=
  match getCtx s ctx with
  | none => some s
  | some x =>
    if logging x then
      if logFits s ctx x (regionOf core) r then some (appendRec s ctx x (regionOf core) tid r) else none
    else some s

/-- The turn of a start in a replay (R329, R330): the next record of the core, when it has the type. It diverges when the segment is used
up, and when the record names one of the threads that wait to start there, `waiting`, for another operation. -/
def startTurn (s : State) (ctx core type : Nat) (waiting : List Nat) : Turned :=
  match getCtx s ctx with
  | none => .later
  | some x =>
    let g := regionOf core
    let w := replayWindow s ctx x g
    let k := logKey type (coreRefWord core)
    let n := tblGet 0 x.log.oseq k
    if w.2 = 0 then .diverged w.1
    else match findRec s ctx x g (fun e => logKey e.type e.obj == k && e.oseq == n % 2 ^ 32) w.2 w.1 with
    | some (i, e) => if e.type = type then .now i e else if waiting.contains e.tid then .diverged i else .later
    | none => .later

/-- Replay divergence at a start (R330): no thread runs yet, so the report names thread `tid` at pc 0. -/
def startDiverged (s : State) (core p tid idx : Nat) : State := raiseFatal s (getPart s core p).owner core p tid 0 0x17 idx

/-- A start of a record type waits for its turn: it looks again, and 2^24 cycles without a record consumed are a divergence (R330). -/
def startLater (s : State) (core p type tid : Nat) (again : Instr) : State :=
  let pt := getPart s core p
  let since := (tblFind pt.startWait type).getD s.cycle
  let from' := max since (match getCtx s pt.owner with
    | some x => x.log.lastTurn
    | none => 0)
  if from' + 2 ^ 24 ≤ s.cycle then
    startDiverged (modPart s core p fun x => { x with startWait := tblErase x.startWait type }) core p tid (match getCtx s pt.owner with
      | some x => tblGet 0 x.log.cursors (regionOf core)
      | none => 0)
  else poll (modPart s core p fun x => { x with startWait := tblSet x.startWait type since }) 16 again (.part core p)

/-- No start of a record type waits for its turn any more. -/
def startOver (s : State) (core p type : Nat) : State := modPart s core p fun x => { x with startWait := tblErase x.startWait type }

def useStart (s : State) (ctx core : Nat) (p : Nat × LogRead) : State :=
  match getCtx s ctx with
  | some x => consumeRec s ctx x (regionOf core) p.1 p.2
  | none => s

/-- Whether a context is being replayed. -/
def replays (s : State) (ctx : Nat) : Bool :=
  match getCtx s ctx with
  | some x => replaying x
  | none => false

/-- What meets a packet to a core before its own rules: a stopped partition discards it, a descheduled context saves it
(R318, R322). -/
def atPartition (s : State) (ctx core p : Nat) (i : Instr) (k : State → State) : State :=
  if descheduled s ctx then savePacket s ctx i
  else if (getPart s core p).stopCycle.isSome then discardAt s core p
  else k s

/-! ### Arrival queues -/

/-- Remove the first element of a list that satisfies `f`. -/
def takeFirst {α : Type} (f : α → Bool) : List α → Option (α × List α)
  | [] => none
  | a :: l => if f a then some (a, l) else (takeFirst f l).map fun r => (r.1, a :: r.2)

/-- Whether a core may take an entry of its region's run queue: one tagged with it, or one tagged with the region whose context holds the
core (R303). -/
def mayEnter (s : State) (core p : Nat) (e : Nat × Option Nat) : Bool :=
  e.2 == some core || (e.2.isNone && (match getThread s e.1 with
    | some t => holds s t.ctx core p
    | none => false))

/-- Whether anything waits for a work slot of a partition. -/
def anyArrival (s : State) (core p : Nat) : Bool :=
  !(getPart s core p).arrivals.isEmpty || (tblGet [] (getRegion s (regionOf core)).runq p).any (mayEnter s core p)

/-- Let a waiting arrival look for a slot in this cycle. -/
def callArrival (s : State) (core p : Nat) : State := post s s.cycle 0 .arrivalTaken (.part core p)

/-- Queue an arrived thread: the core's arrival queue, then the region's run queue tagged with the core; `none` when both are full
(R176, R303). -/
def queueArrival (s : State) (t : Thread) : Option State :=
  let p := getPart s t.core t.part
  if p.arrivals.length < 8 then
    some (callArrival (setPart (setThread s { t with place := .arrivalQ }) t.core t.part { p with arrivals := p.arrivals ++ [t.id] })
      t.core t.part)
  else
    let g := regionOf t.core
    let q := tblGet [] (getRegion s g).runq t.part
    if q.length < 48 then
      some (callArrival (modRegion (setThread s { t with place := .runQ }) g fun r =>
        { r with runq := tblSet r.runq t.part (q ++ [(t.id, some t.core)]) }) t.core t.part)
    else none

/-- Bring in a thread that the launch unit has started: its record is appended first (R328; `held` is its index until then), then it
takes a free work slot, or enters the queues, or waits while they are full (R301, R303). -/
def bringIn (s : State) (t : Thread) : State :=
  let i := nth 0 t.held 0
  let logged := if t.held.isEmpty then some s else logStart s t.ctx t.core t.id ⟨0x0E, 0, coreRefWord t.core, i, none, none⟩
  match logged with
  | none => askRecheck (setThread s t) t.ctx
  | some s1 =>
    let u := { t with held := [] }
    match freeSlot s1 t.core t.part with
    | some n => if anyArrival s1 t.core t.part then (queueArrival s1 u).getD (setThread s1 u) else enterSlot s1 u n
    | none => (queueArrival s1 u).getD (setThread s1 u)

/-- Bring in what waits in front of a partition's full queues, in the order of thread ids. -/
def bringInHeld (core p : Nat) : List (Nat × Thread) → State → State
  | [], s => s
  | (_, t) :: l, s =>
    bringInHeld core p l (if t.place = .held && t.held.isEmpty && t.core = core && t.part = p then bringIn s t else s)

/-- Bring in the threads of a context whose records did not fit (R328). -/
def bringInLogged (c : Nat) : List (Nat × Thread) → State → State
  | [], s => s
  | (_, t) :: l, s => bringInLogged c l (if t.place = .held && !t.held.isEmpty && t.ctx = c then bringIn s t else s)

/-- The oldest arrival that a slot of the core may take: 0 from its queue, 1 from the run queue, with the queues after it
(R303). In a replay it is the thread that the record names. -/
def nextArrival (s : State) (core p : Nat) (want : Option Nat) : Option (Nat × Nat × State) :=
  let pt := getPart s core p
  let ok := fun id => want.isNone || want == some id
  match takeFirst ok pt.arrivals with
  | some (id, l) => some (0, id, setPart s core p { pt with arrivals := l })
  | none =>
    let g := regionOf core
    let q := tblGet [] (getRegion s g).runq p
    match takeFirst (fun (e : Nat × Option Nat) => ok e.1 && mayEnter s core p e) q with
    | some (e, l) => some (1, e.1, modRegion s g fun r => { r with runq := tblSet r.runq p l })
    | none => none

/-- After an arrival has left a queue, the next ones move up. -/
def nextIn (core p : Nat) (s : State) : State := callArrival (bringInHeld core p s.threads s) core p

/-- The threads that wait for a work slot of a core. -/
def waitingArrivals (s : State) (core p : Nat) : List Nat :=
  (getPart s core p).arrivals ++ ((tblGet [] (getRegion s (regionOf core)).runq p).filter (mayEnter s core p)).map (·.1)

/-- Whether a work slot of a partition is free (R328: a replay enforces the recorded slot). -/
def slotIsFree (s : State) (core p n : Nat) : Bool :=
  firstSlot s core p ≤ n && n < firstSlot s core p + (slotCount s core - 1) && (slotThread s core n).isNone

/-- An arrival in a replay (R329, R330): the recorded thread takes the recorded slot from the recorded queue, once it is its turn and the
slot is free. -/
def replayArrival (s : State) (core p : Nat) : State :=
  let ctx := (getPart s core p).owner
  let l := waitingArrivals s core p
  if l.isEmpty then startOver s core p 0x08
  else match startTurn s ctx core 0x08 l with
  | .diverged i => startDiverged s core p (nth 0 l 0) i
  | .later => startLater s core p 0x08 (nth 0 l 0) .arrivalTaken
  | .now i e =>
    let n := e.outcome.toNat % 16
    match nextArrival s core p (some e.tid) with
    | none => startLater s core p 0x08 (nth 0 l 0) .arrivalTaken
    | some (form, id, s1) =>
      if form ≠ e.form then startDiverged s core p id i
      else if !slotIsFree s core p n then startLater s core p 0x08 id .arrivalTaken
      else match getThread s1 id with
        | none => s1
        | some t =>
          let s2 := startOver (useStart s1 ctx core (i, e)) core p 0x08
          nextIn core p (enterSlot (if t.core = core then s2 else leaveQueue s2 t) { t with core := core } n)


/-- ARRIVAL_TAKEN (R176, R303): a free work slot takes the oldest arrival; its record is appended first (R328), or enforced
(R329). -/
def execArrivalTaken (s : State) : Res :=
  match s.focus with
  | .part core p =>
    match freeSlot s core p with
    | none => .next s
    | some n =>
      if replays s (getPart s core p).owner then .next (replayArrival s core p)
      else
        match nextArrival s core p none with
        | none => .next s
        | some (form, id, s1) =>
          match getThread s1 id with
          | none => .next (callArrival s1 core p)
          | some t =>
            match logStart s1 t.ctx core id ⟨0x08, form, coreRefWord core, BitVec.ofNat 64 n, none, none⟩ with
            | some s2 =>
              let s3 := if t.core = core then s2 else leaveQueue s2 t
              .next (nextIn core p (enterSlot s3 { t with core := core } n))
            | none => .next (poll (askRecheck s t.ctx) 4096 .arrivalTaken s.focus)
  | _ => .fault .noSubject

/-! ### Messages -/

/-- The access whose acknowledgement answers a message or a channel word (R170, R178). -/
def msgAck (tid ctx part src dst iv z : Nat) (dev : Option Nat) : Access :=
  let base := match dev with
    | some d => 8 * 2 ^ 52 + d * 2 ^ 36
    | none => 2 ^ 52
  ⟨.thread tid, 0, ctx, part, src, 0, base + coreY dst * 2 ^ 23 + coreX dst * 2 ^ 16, z, iv, .store [], none, none⟩

/-- Acknowledge a message to its sender here or on the device that sent it. -/
def ackMsg (s : State) (dev : Option Nat) (dst : Nat) (a : Access) (st : AckStatus) : State :=
  match dev.filter fun d => d != s.dev.id with
  | some d => emit s d (.acknowledgement a st)
  | none =>
  let s := match a.who with
    | .thread tid => stopSoon s tid st
    | _ => s
  if dst = a.core then post s s.cycle 0 (.acknowledgement a st) else send s dst a.core 8 0 (.acknowledgement a st)

/-- Tell the issuing context that the partition which a spawn or a migration names is not its own (R30, R167, R348): the refusal settles no
access. -/
def refuseStart (s : State) (dev : Option Nat) (tid ctx part src dst : Nat) : State :=
  ackMsg s dev dst (msgAck tid ctx part src dst 256 8 (some s.dev.id)) .noHome

/-- The context here that a packet of a context of another device belongs to: the one that granted it a window (R277, R348). -/
def localCtx (s : State) (dev : Option Nat) (ctx : Nat) : Nat :=
  match dev with
  | none => ctx
  | some _ =>
    match s.grants.find? fun g => g.grantee == ctx && g.acc.isNone with
    | some g => g.owner
    | none => 0

/-- Order key of the messages of one source partition to one destination (R173). -/
def msgKey (src dst part : Nat) : Nat := 2 ^ 80 + partKey src part * 2 ^ 20 + dst

/-- The step that a message or spawn is at its destination. -/
def msgStep (m : Msg) (spawn : Bool) : Instr := if spawn then .spawnRequest m else .messageArrival m

/-- Send a message or spawn to a core here: the source router holds it behind class 0x2 stores to that core and behind earlier held
ones (R174, R395). -/
def sendMsg (s : State) (m : Msg) (spawn : Bool) : State :=
  let p := getPart s m.src m.part
  let ids := (p.codeOut.filter fun c => c.1 == m.dst).map (·.2)
  let s1 := modPart s m.src m.part fun p => { p with sent := p.sent + 1 }
  if ids.isEmpty && !p.held.any fun h => h.m.dst == m.dst then
    send s1 m.src m.dst (8 * m.words.length) (msgKey m.src m.dst m.part) (msgStep m spawn)
  else modPart s1 m.src m.part fun p => { p with held := p.held ++ [⟨m, spawn, ids⟩] }

/-- Release the held messages whose stores are all acknowledged, in order for each destination (R173, R174). `busy` lists the
destinations that must wait. -/
def releaseHeld (core part : Nat) (out : List Nat) : List HeldMsg → List Nat → State → State × List HeldMsg
  | [], _, s => (s, [])
  | h :: l, busy, s =>
    if busy.contains h.m.dst || h.after.any out.contains then
      let r := releaseHeld core part out l (h.m.dst :: busy) s
      (r.1, h :: r.2)
    else releaseHeld core part out l busy
      (send s core h.m.dst (8 * h.m.words.length) (msgKey core h.m.dst part) (msgStep h.m h.spawn))

/-- CODE_ORDER_RELEASE (R174). -/
def execCodeOrderRelease (s : State) : Res :=
  match s.focus with
  | .part core p =>
    let pt := getPart s core p
    let r := releaseHeld core p (pt.codeOut.map (·.2)) pt.held [] s
    .next (modPart r.1 core p fun x => { x with held := r.2 })
  | _ => .fault .noSubject

/-- SEND (R170): `n` is the word count less one. -/
def execSend (g : BitVec 5) (a b n : BitVec 4) (s : State) : Res :=
  scalar g s fun s t =>
    let m := n.toNat + 1
    match readOwn s t (t.reg b) (8 * m) 8 with
    | .error e => fatalAt s t e.1 e.2
    | .ok bs =>
      match coreRef s t.ctx (t.reg a) with
      | .none => fatalAt s t 0x10 (t.reg a).toNat
      | .core c sub =>
        if sub ≠ 0 || !holds s t.ctx c t.part then fatalAt s t 0x10 (t.reg a).toNat
        else if 4095 ≤ t.uac then wait s t (.until (.storeRoom (2 ^ 52 * 15)))
        else
          let t1 := { t with uac := t.uac + 1 }
          retire (sendMsg (setThread s t1) ⟨t.id, 0, t.ctx, t.part, t.core, c, t.interval, toQuads m bs, none, none⟩ false) t1
      | .device d c sub =>
        if sub ≠ 0 then fatalAt s t 0x10 (t.reg a).toNat
        else if 4095 ≤ t.uac then wait s t (.until (.storeRoom (2 ^ 52 * 15)))
        else
          let t1 := countPeer { t with uac := t.uac + 1 } (t.reg a).toNat
          let msg : Msg := ⟨t.id, 0, t.ctx, t.part, t.core, c, t1.interval, toQuads m bs, none, some s.dev.id⟩
          let s1 := modPart (setThread s t1) t.core t.part fun p => { p with sent := p.sent + 1 }
          checkClosed (retire (emit s1 d (.messageArrival msg)) t1) t.id t.interval

/-- Words of a list of messages. -/
def msgWords (l : List Msg) : Nat := l.foldl (fun n m => n + m.words.length) 0

/-- MESSAGE_ARRIVAL (R30, R170, R171, R173, R345, R346): the message buffer, when the partition's spill queue is empty, then the spill
queue, else it waits in the network, and what its source sends to the destination later waits behind it. A message of another device counts
as delivered once it is queued; one of an interval that its fence has closed is discarded without an acknowledgement. -/
def execMessageArrival (p : Msg) (s : State) : Res :=
  let ack := msgAck p.tid p.ctx p.part p.src p.dst p.iv (8 * p.words.length) (p.dev.map fun _ => s.dev.id)
  let m := { p with ctx := localCtx s p.dev p.ctx }
  let closed := match p.dev with
    | some d => (countAt s d p.tid p.iv).closed
    | none => false
  if closed then .next s
  else .next (atPartition s m.ctx m.dst m.part (.messageArrival p) fun s =>
    if !holds s m.ctx m.dst m.part then ackMsg s m.dev m.dst ack .noHome
    else
      let pt := getPart s m.dst m.part
      let g := regionOf m.dst
      let spill := tblGet [] (getRegion s g).spill m.part
      let queued := fun (s : State) =>
        let s1 := match p.dev with
          | some d => countIn s d p.tid p.iv
          | none => s
        poll (ackMsg (modPart s1 m.dst m.part fun p => { p with rcvd := p.rcvd + 1 }) m.dev m.dst ack .ok) 0 .handlerStart
          (.part m.dst m.part)
      if msgWords pt.msgs + m.words.length ≤ 32 && spill.isEmpty then
        queued (setPart s m.dst m.part { pt with msgs := pt.msgs ++ [m] })
      else if msgWords spill + m.words.length ≤ 256 then
        queued (modRegion s g fun r => { r with spill := tblSet r.spill m.part (spill ++ [m]) })
      else postFirst s 16 (msgKey m.src m.dst m.part) (.messageArrival p))

/-- The oldest message of a partition, with the state without it (R171); in a replay, the oldest one of the recorded sender. -/
def nextMessage (s : State) (core p : Nat) (want : Option Nat) : Option (Msg × State) :=
  let pt := getPart s core p
  let ok := fun (m : Msg) => m.dst == core && (want.isNone || want == some m.tid)
  match takeFirst ok pt.msgs with
  | some (m, l) => some (m, setPart s core p { pt with msgs := l })
  | none =>
    let g := regionOf core
    let q := tblGet [] (getRegion s g).spill p
    match takeFirst ok q with
    | some (m, l) => some (m, modRegion s g fun r => { r with spill := tblSet r.spill p l })
    | none => none

/-- A handler starts with a message (R168, R169, R263): its arrival block, its registers, and the flags of the partition's slots. -/
def startHandler (s : State) (core p id : Nat) (m : Msg) : State :=
  let n := handlerSlot s core p
  setFlags (enterSlot (writeBlock s core p n m.words) (startThread (startOp s) id m) n) core p

/-- Whether a message waits for the handler slot of a core. -/
def anyMessage (s : State) (core p : Nat) : Bool := (nextMessage s core p none).isSome

/-- A handler start in a replay (R329, R330): the recorded sender's message starts the recorded thread in its turn, once that thread's id is
free; another form or word count is a divergence. -/
def replayHandler (s : State) (core p : Nat) : State :=
  let ctx := (getPart s core p).owner
  if !anyMessage s core p then startOver s core p 0x0C
  else match startTurn s ctx core 0x0C [] with
  | .diverged i => startDiverged s core p 0 i
  | .later => startLater s core p 0x0C 0 .handlerStart
  | .now i e =>
    match nextMessage s core p (some (e.outcome.toNat % 2 ^ 40)) with
    | none => startLater s core p 0x0C 0 .handlerStart
    | some (m, s1) =>
      if e.form ≠ 0 || e.outcome ≠ (handlerRec core m.tid m.words.length).outcome then startDiverged s core p e.tid i
      else if (liveTids s).contains e.tid then startLater s core p 0x0C e.tid .handlerStart
      else startHandler (startOver (useStart s1 ctx core (i, e)) core p 0x0C) core p e.tid m

/-- HANDLER_START (R168, R169, R171, R173, R263): the free handler slot takes the oldest message, when the core may create a thread
(R17) and the record of the start fits (R328). -/
def execHandlerStart (s : State) : Res :=
  match s.focus with
  | .part core p =>
    let ctx := (getPart s core p).owner
    if (slotThread s core (handlerSlot s core p)).isSome then .next s
    else if replays s ctx then .next (replayHandler s core p)
    else
      match nextMessage s core p none, newTid s core with
      | none, _ => .next s
      | some _, none => .next (poll s 16 .handlerStart s.focus)
      | some (m, s1), some id =>
        match logStart s1 ctx core id (handlerRec core m.tid m.words.length) with
        | none => .next (poll (askRecheck s ctx) 4096 .handlerStart s.focus)
        | some s2 => .next (startHandler s2 core p id m)
  | _ => .fault .noSubject

/-! ### Spawning -/

/-- The record of a spawn reply (R326). -/
def spawnRec (n : Nat) (target : Word) (r : SpawnRes) : LogRec := ⟨0x07, n, target, r.word, none, r.oseq⟩

/-- Send a spawn and park for its reply (R175). -/
def spawnSend (s : State) (t : Thread) (d : BitVec 4) (n : Nat) (target : Word) (dev : Option Nat) (c : Nat) (words : List Word)
    (force : Option Nat) : State :=
  let t1 := { t with op := t.op + 1, wait := .spawn d n target }
  let m : Msg := ⟨t.id, t1.op, t.ctx, t.part, t.core, c, t.interval, words, force, dev.map fun _ => s.dev.id⟩
  let s1 := setThread s t1
  match dev with
  | some k => emit (modPart s1 t.core t.part fun p => { p with sent := p.sent + 1 }) k (.spawnRequest m)
  | none => sendMsg s1 m true

/-- SPAWN (R175): the words are read first, then FENCE.D, then the request; in a replay the recorded reply is enforced (R329). -/
def execSpawn (g : BitVec 5) (d a b n : BitVec 4) (s : State) : Res :=
  scalar g s fun s t =>
    let m := n.toNat + 1
    let start := fun (s : State) (t : Thread) (dev : Option Nat) (c : Nat) (words : List Word) =>
      let target : Word := match dev with
        | some _ => BitVec.ofNat 64 ((t.reg a).toNat % 2 ^ 56)
        | none => coreRefWord c
      fenced s { t with held := words } fun s t =>
        match getCtx s t.ctx with
        | none => fatalAt s t 0x02 0
        | some x =>
          if replaying x then
            inTurn s t x 0x07 n.toNat target fun s t e =>
              if e.outcome.getLsbD 63 then retireReg s t d e.outcome
              else spawnSend s t d n.toNat target dev c words (some (e.outcome.toNat % 2 ^ 40))
          else spawnSend s t d n.toNat target dev c words none
    let go := fun (s : State) (t : Thread) (words : List Word) =>
      match coreRef s t.ctx (t.reg a) with
      | .none => fatalAt s t 0x10 (t.reg a).toNat
      | .core c sub => if sub ≠ 0 || !holds s t.ctx c t.part then fatalAt s t 0x10 (t.reg a).toNat else start s t none c words
      | .device k c sub => if sub ≠ 0 then fatalAt s t 0x10 (t.reg a).toNat else start s t (some k) c words
    match t.held with
    | w :: ws => go s t (w :: ws)
    | [] =>
      match readOwn s t (t.reg b) (8 * m) 8 with
      | .error e => fatalAt s t e.1 e.2
      | .ok bs => go s t (toQuads m bs)

/-- Reply to a spawn: 0 with the child's id, or bit 63 with a reason (R175). The named core numbers its record in the log of a context
here (R327); that of a spawn from another device is numbered at the spawner (log entry 82). -/
def replySpawn (s : State) (m : Msg) (status : Nat) : State :=
  let w : Word := BitVec.ofNat 64 status
  match m.dev with
  | some d => emit s d (.spawnReply m.tid m.op ⟨w, none⟩)
  | none =>
    let q := takeOseq s m.ctx (logKey 0x07 (coreRefWord m.dst))
    send q.1 m.dst m.src 8 0 (.spawnReply m.tid m.op ⟨w, some q.2⟩)

/-- The status word of a bounce. -/
def bounceStatus (reason : Nat) : Nat := 2 ^ 63 + reason * 2 ^ 56

/-- SPAWN_REQUEST (R175): LIMIT, a free work slot or arrival-queue entry, or NOSLOT. A child that a replay gives its id waits for a
place instead (R329). -/
def execSpawnRequest (p : Msg) (s : State) : Res :=
  let m := { p with ctx := localCtx s p.dev p.ctx }
  .next (atPartition s m.ctx m.dst m.part (.spawnRequest p) fun s =>
    if !holds s m.ctx m.dst m.part then refuseStart s p.dev p.tid p.ctx p.part p.src p.dst
    else
      let tid := match m.force with
        | some id => if (liveTids s).contains id then none else some id
        | none => newTid s m.dst
      let again := after s 16 (.spawnRequest p)
      match tid with
      | none => if m.force.isSome then again else replySpawn s m (bounceStatus 2)
      | some id =>
        let t := startThread (startOp s) id m
        let s1 := modPart s m.dst m.part fun p => { p with rcvd := p.rcvd + 1 }
        match freeSlot s m.dst m.part with
        | some n => enterSlot (writeBlock (replySpawn s1 m id) m.dst m.part n m.words) t n
        | none =>
          if (getPart s m.dst m.part).arrivals.length < 8 then (queueArrival (replySpawn s1 m id) { t with held := m.words }).getD s
          else if m.force.isSome then again else replySpawn s m (bounceStatus 1))

/-- The context whose save area holds a thread (R323). -/
def savedCtx (s : State) (tid : Nat) : Option Nat :=
  (s.ctxs.find? fun c => match c.2.saved with
    | some v => (tblFind v.threads tid).isSome
    | none => false).map (·.1)

/-- A reply to a thread that is not here: kept for it when it is saved (R321, R322), else discarded. -/
def absent (s : State) (tid : Nat) (i : Instr) : State :=
  match savedCtx s tid with
  | some c => savePacket s c i
  | none => s

/-- SPAWN_REPLY (R175, R191): d receives the status. -/
def execSpawnReply (tid op : Nat) (status : SpawnRes) (s : State) : Res :=
  if (getThread s tid).isNone then .next (absent s tid (.spawnReply tid op status))
  else .next (toLive s tid fun s t =>
    match t.wait with
    | .spawn d n target => if t.op ≠ op then s else finish s t (spawnRec n target status) { r1 := d, v1 := status.word }
    | _ => s)

/-! ### Migration -/

/-- MIGR (R176): to the current core it only fences. -/
def execMigr (g : BitVec 5) (a : BitVec 4) (s : State) : Res :=
  scalar g s fun s t =>
    match coreRef s t.ctx (t.reg a) with
    | .none => fatalAt s t 0x10 (t.reg a).toNat
    | .core c sub =>
      if sub ≠ 0 || !holds s t.ctx c t.part then fatalAt s t 0x10 (t.reg a).toNat
      else if c = t.core then fenced s t retire
      else leave s t none c none
    | .device k c sub => if sub ≠ 0 then fatalAt s t 0x10 (t.reg a).toNat else leave s t (some k) c none

/-- The load of a migrated thread at its home (R29, R348): a scratchpad byte in line, everything else as any load there. `ctx` is the
context that issued it, to which the window is granted. -/
def arrivedLoad (s : State) (ctx : Nat) (t : Thread) (k : LoadK) (da z : Nat) : State :=
  if addrClass da = 8 then
    match windowLocal s ctx (da % 2 ^ 36) ⟨true, false, false⟩ with
    | some (owner, da') => loadAt (finishLoad k) s { t with ctx := owner } k da' z
    | none => fatalAt s t 0x10 da
  else loadAt (finishLoad k) s t k da z

/-- The core at which a thread from another device arrives, with its new context (R348). -/
def landing (s : State) (p : MigPkt) : Nat × Nat :=
  match p.load with
  | some (_, da, _) =>
    match windowLocal s p.ctx (da % 2 ^ 36) ⟨true, false, false⟩ with
    | some (owner, da') =>
      let part := match getCtx s owner with
        | some x => x.part
        | none => 0
      let h := homeOf s owner p.core part da'
      match h, getCtx s owner with
      | .scratch c _, _ => (owner, c)
      | h, some x =>
        let g := homeRegion s p.core h
        match (blockCores x).foldl (fun l c => natInsert l c) [] |>.find? fun c => regionOf c == g with
        | some c => (owner, c)
        | none => (owner, coreAt x.ox x.oy)
      | _, none => (owner, p.core)
    | none => (p.ctx, p.core)
  | none =>
    match s.grants.find? fun g => g.grantee == p.ctx && g.acc.isNone with
    | some g => (g.owner, p.core)
    | none => (p.ctx, p.core)

/-- The thread that a packet carries, as it stands at its destination (R18, R348). -/
def arrivedThread (s : State) (p : MigPkt) : Thread :=
  let base : Thread := match getThread s p.tid with
    | some t => t
    | none => { id := p.tid, ctx := p.ctx, core := p.core, part := p.part, place := .flight, op := startOp s }
  let l := if base.place = .away || (getThread s p.tid).isNone then landing s p else (p.ctx, p.core)
  { base with
    ctx := l.1, core := l.2, part := p.part, place := .flight, regs := p.st.regs, preds := p.st.preds, pc := p.st.pc,
    status := p.st.status, fpx := p.st.fpx, trapc := p.st.trapc, trapv := p.st.trapv, trappc := p.st.trappc, wait := .ready,
    counted := false, mism := p.mism }

/-- MIGRATION_ARRIVAL (R18, R29, R176, R303, R348): the thread performs its load, then takes its place in the queues; it waits in the
network while both are full. -/
def execMigrationArrival (p : MigPkt) (s : State) : Res :=
  let t := arrivedThread s p
  .next (atPartition s t.ctx t.core t.part (.migrationArrival p) fun s =>
    if (getCtx s t.ctx).isNone || !holds s t.ctx t.core t.part then
      (if p.dev.isSome then refuseStart s p.dev p.tid p.ctx p.part p.core p.core
        else if (getCtx s t.ctx).isNone then fatalLate s p.tid 0x10 0
        else fatalAt (setThread s t) t 0x10 0)
    else
      match queueArrival s t with
      | none => after s 16 (.migrationArrival p)
      | some s1 =>
        let s2 := modPart s1 t.core t.part fun p => { p with rcvd := p.rcvd + 1 }
        match getThread s2 t.id with
        | none => s2
        | some u =>
          let s3 := match p.load with
            | none => retire s2 u
            | some (k, da, z) => arrivedLoad s2 p.ctx u k da z
          match getThread s3 t.id with
          | some v =>
            if v.wait = .moving then
              let q := modPart s3 t.core t.part fun p => { p with arrivals := p.arrivals.filter (· != t.id) }
              modRegion q (regionOf t.core) fun r =>
                { r with runq := r.runq.map fun e => (e.1, e.2.filter fun x => x.1 != t.id) }
            else s3
          | none => s3)

/-! ### Channels -/

/-- How the writer table names a reader: its core, or a core of another device. -/
def chName (dev : Option Nat) (c : Nat) : Nat :=
  match dev with
  | some d => (d + 1) * 2 ^ 14 + c
  | none => c

def findWr (l : List WrChan) (dst idx : Nat) : Option WrChan := l.find? fun e => e.dst == dst && e.idx == idx

/-- Whether CHSEND may go on: a word of its channel may be sent, or an entry is free (R177, R178). -/
def chRoom (p : Part) (dst idx : Nat) : Bool :=
  match findWr p.wr dst idx with
  | some e => if e.untaken = 0 then (p.wr.filter fun e => e.untaken != 0).length < 16 else e.untaken < 16
  | none => (p.wr.filter fun e => e.untaken != 0).length < 16

/-- Count a word sent: the entry of a channel keeps its word number when all its words are taken (R177; log entry 8). -/
def noteSent (l : List WrChan) (dst idx : Nat) : List WrChan :=
  if (findWr l dst idx).isSome then
    l.map fun e => if e.dst == dst && e.idx == idx then { e with sent := e.sent + 1, untaken := e.untaken + 1 } else e
  else l ++ [⟨dst, idx, 1, 1⟩]

/-- Whether a reader's channel still holds words of another writer (R179). -/
def secondWriter (s : State) (c p idx writer : Nat) : Bool :=
  let r := tblGet {} (getPart s c p).rd idx
  r.valid ≠ 0 && r.writer ≠ some writer

/-- CHSEND (R178). -/
def execChsend (g : BitVec 5) (a b : BitVec 4) (s : State) : Res :=
  scalar g s fun s t =>
    let go := fun (dev : Option Nat) (c sub : Nat) =>
      let name := chName dev c
      if 16 ≤ sub || (dev.isNone && !holds s t.ctx c t.part) then fatalAt s t 0x10 (t.reg a).toNat
      else if !chRoom (getPart s t.core t.part) name sub then wait s t (.until (.chRoom name sub))
      else if 4095 ≤ t.uac then wait s t (.until (.storeRoom (2 ^ 52 * 15)))
      else fenced s t fun s t =>
        let p := getPart s t.core t.part
        let q := match findWr p.wr name sub with
          | some e => e.sent
          | none => 0
        let pkt : ChPkt := ⟨t.id, t.ctx, t.part, t.core, c, sub, q, t.reg b, dev.map fun _ => s.dev.id⟩
        let t1 := Thread.noteSkid { t with uac := t.uac + 1 } (dev.isNone && secondWriter s c t.part sub t.core)
        let s1 := setPart (setThread s t1) t.core t.part { p with wr := noteSent p.wr name sub }
        match dev with
        | some d => retire (emit s1 d (.channelWord pkt)) t1
        | none => retire (send s1 t.core c 8 0 (.channelWord pkt)) t1
    match coreRef s t.ctx (t.reg a) with
    | .none => fatalAt s t 0x10 (t.reg a).toNat
    | .core c sub => go none c sub
    | .device d c sub => go (some d) c sub

/-- CHANNEL_WORD (R177 to R179): the word goes into quad q mod 16, its valid bit is set, WFM flags are set (R263); the word of a second
writer is refused, which is a channel fault of its sender. -/
def execChannelWord (p : ChPkt) (s : State) : Res :=
  let ack := msgAck p.tid p.ctx p.part p.src p.dst 0 8 none
  let ctx := localCtx s p.dev p.ctx
  let writer := chName p.dev p.src
  .next (atPartition s ctx p.dst p.part (.channelWord p) fun s =>
    if !holds s ctx p.dst p.part then ackMsg s p.dev p.dst ack .noHome
    else
      let pt := getPart s p.dst p.part
      let r := tblGet {} pt.rd p.idx
      if secondWriter s p.dst p.part p.idx writer then ackMsg s p.dev p.dst ack .channel
      else
        let q := p.q % 16
        let k := scratchKey p.dst (viewBase s p.dst p.part + 0x1000 + 128 * p.idx + 8 * q)
        let s1 := { s with mem := memWrite s.mem k (leBytes 8 p.w.toNat) }
        let s2 := setPart s1 p.dst p.part { pt with rd := tblSet pt.rd p.idx { r with valid := r.valid ||| 2 ^ q, writer := some writer } }
        ackMsg (setFlags s2 p.dst p.part) p.dev p.dst ack .ok)

/-- CHRECV (R179): parks until the next word is valid, takes it and returns a credit. -/
def execChrecv (g : BitVec 5) (d a : BitVec 4) (s : State) : Res :=
  scalar g s fun s t =>
    let go := fun (dev : Option Nat) (c sub : Nat) =>
      let pt := getPart s t.core t.part
      let r := tblGet {} pt.rd sub
      let q := r.taken % 16
      let k := scratchKey t.core (viewBase s t.core t.part + 0x1000 + 128 * sub + 8 * q)
      if 16 ≤ sub || (dev.isNone && !holds s t.ctx c t.part) then fatalAt s t 0x10 (t.reg a).toNat
      else if !bitAt r.valid q then wait s t (.until (.chWord sub))
      else if r.writer ≠ some (chName dev c) then fatalAt s t 0x13 (t.reg a).toNat
      else if poisoned s k 8 then fatalAt s t 0x11 (0x1000 + 128 * sub + 8 * q)
      else
        let v : Word := BitVec.ofNat 64 (ofLeBytes (memRead s.mem k 8))
        let left := r.valid - 2 ^ q
        let s1 := setPart s t.core t.part { pt with rd := tblSet pt.rd sub { r with taken := r.taken + 1, valid := left } }
        let pkt : ChPkt := ⟨t.id, t.ctx, t.part, t.core, c, sub, r.taken, 0, dev.map fun _ => s.dev.id⟩
        match dev with
        | some k => retireReg (emit s1 k (.channelCredit pkt)) t d v
        | none => retireReg (send s1 t.core c 8 0 (.channelCredit pkt)) t d v
    match coreRef s t.ctx (t.reg a) with
    | .none => fatalAt s t 0x10 (t.reg a).toNat
    | .core c sub => go none c sub
    | .device k c sub => go (some k) c sub

/-- CHANNEL_CREDIT (R178, R179): at the writer one more word is taken; `src` is the reader's core. -/
def execChannelCredit (p : ChPkt) (s : State) : Res :=
  .next (atPartition s p.ctx p.dst p.part (.channelCredit p) fun s =>
    modPart s p.dst p.part fun pt =>
      { pt with wr := pt.wr.map fun e => if e.dst == chName p.dev p.src && e.idx == p.idx then { e with untaken := e.untaken - 1 } else e })

end Sys2Proof.Machine
end

