-- ==== Sys2Proof/Machine/TileMath.lean ====
section
/-! DEFINITION. The arithmetic of tile commands on plain data: elements of a tile (R36, R203), matrix products (R45), vector elements
(R212), accumulator conversions (R209, R210) and the format conversion of copies (R216). -/

namespace Sys2Proof.Machine

/-- Cut a list into pieces of `n` elements; the first argument bounds their number. -/
def chunks {α : Type} (n : Nat) : Nat → List α → List (List α)
  | 0, _ => []
  | k + 1, l => if l.isEmpty then [] else l.take n :: chunks n k (l.drop n)

/-- The raw elements of `w` bits in a list of bytes: 4-bit pairs low nibble first (R36). -/
def rawElems (w : Nat) (bs : List Byte) : List Nat :=
  if w = 4 then bs.flatMap fun b => [b.toNat % 16, b.toNat / 16]
  else (chunks (w / 8) bs.length bs).map ofLeBytes

/-- The bytes of raw elements of `w` bits. -/
def packElems (w : Nat) (l : List Nat) : List Byte :=
  if w = 4 then (chunks 2 l.length l).map fun p => BitVec.ofNat 8 (nth 0 p 0 % 16 + 16 * (nth 0 p 1 % 16))
  else l.flatMap (leBytes (w / 8))

/-- The exact values of the elements of a tile; q4t elements decode as pairs by the table and escape flag (R42), unscaled. -/
def tileVals (table : List Int) (esc : Bool) (code : Nat) (bs : List Byte) : List FVal :=
  if code = 10 then bs.flatMap fun b =>
    [FVal.ofInt (q4Element table esc b.toNat false), FVal.ofInt (q4Element table esc b.toNat true)]
  else (rawElems (fmtWidth code) bs).map (elemValue code)

/-- Bytes that `n` elements of a format take. -/
def tileBytes (code n : Nat) : Nat := n * fmtWidth code / 8

/-! ### Matrix products (R45) -/

/-- The running state of mma_element: exact sum and the three marks. -/
structure Dot where
  sum : Dy := ⟨0, 0⟩
  bad : Bool := false
  pinf : Bool := false
  ninf : Bool := false
  deriving DecidableEq, Repr

def dotStep (d : Dot) (a b : FVal) : Dot :=
  if a.isNan || b.isNan then { d with bad := true }
  else if a.isInf || b.isInf then
    if a.isZero || b.isZero then { d with bad := true }
    else if a.neg == b.neg then { d with pinf := true } else { d with ninf := true }
  else if a.isZero || b.isZero then d
  else { d with sum := d.sum.add (a.dy.mul b.dy) }

def dotRow : Dot → List FVal → List FVal → Dot
  | d, a :: as, b :: bs => dotRow (dotStep d a b) as bs
  | d, _, _ => d

/-- The scale of an s8 byte: `none` for NaN (R41). -/
def s8Scale (b : Nat) : Option Int := if b = 255 then none else some ((b : Int) - 127)

/-- One accumulator element of R45: the old element, the dot product, the scales, the mode and the generator bits. -/
def mmaElement (rm u : Nat) (c : Nat) (d : Dot) (sa sb : Option Int) : Flagged Nat :=
  let bad := d.bad || sa.isNone || sb.isNone || (d.pinf && d.ninf)
  let cv := fpDecode fp32 c
  if bad then ⟨fp32.canon, flagIV⟩
  else if cv.isNan then ⟨fp32.canon, 0⟩
  else if d.pinf || d.ninf || cv.isInf then
    let pos := d.pinf || (cv.isInf && !cv.neg)
    let neg := d.ninf || (cv.isInf && cv.neg)
    if pos && neg then ⟨fp32.canon, flagIV⟩ else ⟨withSign fp32 neg (infMag fp32), 0⟩
  else
    let s : Dy := ⟨d.sum.m, d.sum.e + sa.getD 0 + sb.getD 0⟩
    fpConvert fp32 false rm u ((cv.dy.add s).toVal (zeroSign rm cv.neg (decide (s.m < 0))))

/-- One row of accumulator elements: column `j` on, with `u` giving the generator bits of a column. -/
def mmaRow (rm : Nat) (u : Nat → Nat) (row : List FVal) (sa sb : Option Int) : Nat → List (List FVal) → List Nat → List (Flagged Nat)
  | j, col :: cols, c :: cs => mmaElement rm (u j) c (dotRow {} row col) sa sb :: mmaRow rm u row sa sb (j + 1) cols cs
  | _, _, _ => []

/-- The rows of accumulator elements from row `i` on (R45): rows of A with their scales, columns of B, old rows. -/
def mmaRows (rm : Nat) (u : Nat → Nat → Nat) (cols : List (List FVal)) (sb : Option Int) :
    Nat → List (List FVal) → List (Option Int) → List (List Nat) → List (Flagged Nat)
  | i, row :: rows, sa :: sas, c :: cs => mmaRow rm (u i) row sa sb 0 cols c ++ mmaRows rm u cols sb (i + 1) rows sas cs
  | _, _, _, _ => []

/-- Values and joined flags of a list of results. -/
def flaggedVals (l : List (Flagged Nat)) : List Nat := l.map (·.val)

def flaggedOr (l : List (Flagged Nat)) : Nat := l.foldl (fun f r => f ||| r.flags) 0

/-- One group of four of the dense A of MMAS from its two kept elements and its nibble (R207); `none` for bad metadata. -/
def sparseGroup (nib : Nat) (a b : FVal) : Option (List FVal) :=
  let f := nib % 4
  let s := nib / 4 % 4
  if s ≤ f then none
  else some ((List.range 4).map fun k => if k = f then a else if k = s then b else .fin false 0 0)

/-- A dense row of MMAS from the kept elements and the nibbles of its groups. -/
def sparseRow : List Nat → List FVal → Option (List FVal)
  | n :: ns, a :: b :: vs =>
    match sparseGroup n a b, sparseRow ns vs with
    | some g, some r => some (g ++ r)
    | _, _ => none
  | _, _ => some []

/-- The nibbles of row `i` in a bank: group g is in byte 16i + g/2, low nibble first (R207). -/
def sparseNibbles (bank : Nat → Nat) (i groups : Nat) : List Nat :=
  (List.range groups).map fun g => if g % 2 = 0 then bank (16 * i + g / 2) % 16 else bank (16 * i + g / 2) / 16 % 16

/-- All dense rows; `none` for bad metadata. -/
def sparseRows (bank : Nat → Nat) (groups : Nat) : Nat → List (List FVal) → Option (List (List FVal))
  | _, [] => some []
  | i, r :: rs =>
    match sparseRow (sparseNibbles bank i groups) r, sparseRows bank groups (i + 1) rs with
    | some d, some ds => some (d :: ds)
    | _, _ => none

/-! ### Accumulator conversions -/

/-- Convert a list of values at SR positions given by index (R209, R211). -/
def convertAll (code : Nat) (sat : Bool) (rm : Nat) (u : Nat → Nat) : Nat → List FVal → List (Flagged Nat)
  | _, [] => []
  | e, v :: vs => convertTo code sat rm (u e) v :: convertAll code sat rm u (e + 1) vs

/-- The largest finite value of an output format of ACSC (R38, R210). -/
def acscMax (code : Nat) : Dy :=
  match fpOfCode code with
  | some f => (fpDecode f f.maxFin).dy
  | none => if code = 8 then ⟨127, 0⟩ else ⟨7, 0⟩

/-- The largest magnitude of a row. -/
def rowMax : List FVal → Dy
  | [] => ⟨0, 0⟩
  | v :: vs =>
    let a : Dy := ⟨v.dy.m.natAbs, v.dy.e⟩
    let b := rowMax vs
    if b.lt a then a else b

/-- The smallest e from `e` on for which m ≤ F · 2^(e − 127), of at most `n` candidates (R210). -/
def acscScale (m f : Dy) : Nat → Nat → Nat
  | 0, e => e
  | n + 1, e => if (Dy.mk f.m (f.e + ((e : Int) - 127))).lt m then acscScale m f n (e + 1) else e

/-- A row of ACSC: the scale byte and the results (R210). -/
def acscRow (code : Nat) (sat : Bool) (rm : Nat) (u : Nat → Nat) (row : List FVal) : Nat × List (Flagged Nat) :=
  if row.any fun v => v.isNan || v.isInf then (255, row.map fun _ => ⟨0, flagIV⟩)
  else
    let m := rowMax row
    let e := if m.m = 0 then 127 else acscScale m (acscMax code) 254 0
    let scaled := row.map fun v => match v with
      | .fin n k x => .fin n k (x + 127 - e)
      | w => w
    (e, convertAll code sat rm u 0 scaled)

/-! ### Vector elements (R212) -/

/-- A magnitude known only up to its next bit below: the sticky bit becomes an extra low bit. -/
def withSticky (r : FVal × Bool) : FVal :=
  match r with
  | (.fin n m e, true) => .fin n (2 * m + 1) (e - 1)
  | (v, _) => v

/-- The exact result of a vector command on an element before its conversion: value and flags. An invalid operation gives NaN, whose
conversion sets IV (R52, R39). -/
def vecExact (op rm : Nat) (a b c : FVal) : Flagged FVal :=
  let nan : FVal := .nan false
  match op with
  | 0x30 => ⟨if a.isNan || b.isNan then nan else (fvAdd rm a b).getD nan, 0⟩
  | 0x31 => ⟨if a.isNan || b.isNan then nan else (fvAdd rm a b.negate).getD nan, 0⟩
  | 0x32 => ⟨if a.isNan || b.isNan then nan else (fvMul a b).getD nan, 0⟩
  | 0x33 => ⟨if a.isNan || b.isNan || c.isNan then nan else ((fvMul a b).bind fun p => fvAdd rm p c).getD nan, 0⟩
  | 0x36 => match a with
    | .nan _ => ⟨nan, 0⟩
    | .inf n => ⟨if n then .fin false 0 0 else .inf false, 0⟩
    | .fin n m e => ⟨withSticky (exp2Val n m e), 0⟩
  | 0x37 => match a with
    | .nan _ => ⟨nan, 0⟩
    | .inf n => ⟨if n then nan else .inf false, 0⟩
    | .fin n m e => if m = 0 then ⟨.inf true, flagDZ⟩ else if n then ⟨nan, 0⟩ else ⟨withSticky (log2Val m e), 0⟩
  | 0x38 => match a with
    | .nan _ => ⟨nan, 0⟩
    | .inf n => ⟨.fin n 0 0, 0⟩
    | .fin n m e => if m = 0 then ⟨.inf n, flagDZ⟩ else ⟨withSticky (rcpVal n m e), 0⟩
  | 0x39 => match a with
    | .nan _ => ⟨nan, 0⟩
    | .inf n => ⟨if n then nan else .fin false 0 0, 0⟩
    | .fin n m e => if m = 0 then ⟨.inf n, 0⟩ else if n then ⟨nan, 0⟩ else ⟨withSticky (rsqVal m e), 0⟩
  | _ => ⟨a, 0⟩

/-- VMIN, VMAX and the extrema of VRED (R212): a NaN yields the other, −0 is below +0. -/
def vecPick (isMax : Bool) (a b : FVal) : FVal :=
  if a.isNan then b else if b.isNan then a else if fvLess b a != isMax then b else a

/-- VCMP's relations: 0 EQ, 1 LT, 2 LE, 3 UN (R212). -/
def vecTest (sub : Nat) (a b : FVal) : Bool :=
  let un := a.isNan || b.isNan
  match sub with
  | 0 => !un && fvEq a b
  | 1 => !un && fvLt a b
  | 2 => !un && (fvLt a b || fvEq a b)
  | _ => un

/-- Element-wise results of the arithmetic commands from element `e` on. -/
def vecArith (op code : Nat) (sat : Bool) (rm : Nat) (u : Nat → Nat) : Nat → List FVal → List FVal → List FVal → List (Flagged Nat)
  | e, a :: as, bs, cs =>
    let r := vecExact op rm a (nth a bs 0) (nth a cs 0)
    let x := convertTo code sat rm (u e) r.val
    ⟨x.val, x.flags ||| r.flags⟩ :: vecArith op code sat rm u (e + 1) as (bs.drop 1) (cs.drop 1)
  | _, [], _, _ => []

/-- VMIN and VMAX: converted, no flag. -/
def vecExtrema (isMax : Bool) (code rm : Nat) (u : Nat → Nat) : Nat → List FVal → List FVal → List (Flagged Nat)
  | e, a :: as, b :: bs => ⟨(convertTo code false rm (u e) (vecPick isMax a b)).val, 0⟩ :: vecExtrema isMax code rm u (e + 1) as bs
  | _, _, _ => []

/-- The sum of VRED with its special values: a NaN, or infinities of both signs, give NaN. -/
def vecSum (rm : Nat) : FVal → List FVal → FVal
  | s, [] => s
  | s, v :: vs => vecSum rm (if s.isNan || v.isNan then .nan false else (fvAdd rm s v).getD (.nan false)) vs

/-- VRED (R212): one element; minimum and maximum set no flag. -/
def vecReduce (sub code rm u : Nat) (l : List FVal) : Flagged Nat :=
  match l with
  | [] => ⟨0, 0⟩
  | a :: as =>
    if sub = 0 then convertTo code false rm u (vecSum rm a as)
    else ⟨(convertTo code false rm u (as.foldl (vecPick (sub == 2)) a)).val, 0⟩

/-- VSCL: a · 2^(s − 127), with `s` the byte of the block of 2^bl elements (R212). -/
def vecScale (bl code rm : Nat) (u : Nat → Nat) (scales : List Byte) : Nat → List FVal → List (Flagged Nat)
  | e, a :: as =>
    let s := (nth 0 scales (e / 2 ^ bl)).toNat
    let v : FVal := if a.isNan || s = 255 then .nan false else (fvMul a (.fin false 1 ((s : Nat) - 127))).getD (.nan false)
    convertTo code false rm (u e) v :: vecScale bl code rm u scales (e + 1) as
  | _, [] => []

/-- Bytewise and bitwise commands on raw elements: 0x3D AND, 0x3E OR, else XOR. -/
def vecBits (op a b : Nat) : Nat :=
  match op with
  | 0x3D => a &&& b
  | 0x3E => a ||| b
  | _ => a ^^^ b

/-- Bytes of element e of a packed list of raw elements, and the element-wise selection of VSEL: `w` bytes an element. -/
def vecSelect (w : Nat) : List Byte → List Byte → List Byte → List Byte
  | m :: ms, as, bs => (if m != 0 then as.take w else bs.take w) ++ vecSelect w ms (as.drop w) (bs.drop w)
  | [], _, _ => []

/-- Transposition of a 32 × 32 image of raw elements. -/
def transpose32 (l : List Nat) : List Nat :=
  (List.range 1024).map fun k => nth 0 l (32 * (k % 32) + k / 32)

/-- Moved bytes of a format as they are written: bits [7:6] of an e2m3 byte are zero (R36). -/
def cleanBytes (code : Nat) (bs : List Byte) : List Byte := if code = 6 then bs.map (· &&& 0x3F) else bs

/-! ### Copies (R216) -/

/-- The bytes that a copy writes for source bytes: moved when the formats agree, else converted element by element. -/
def copyConvert (table : List Int) (esc : Bool) (fa fo rm : Nat) (sat : Bool) (bs : List Byte) : List Byte × Nat :=
  if fa = fo then (cleanBytes fo bs, 0)
  else
    let r := convertAll fo sat rm (fun _ => 0) 0 (tileVals table esc fa bs)
    (packElems (fmtWidth fo) (flaggedVals r), flaggedOr r)

end Sys2Proof.Machine
end

