-- ==== Sys2Proof/Machine/TileQueue.lean ====
section
/-! DEFINITION. The tile command queue (R192 to R202, R222 to R229): which handles, accumulators and unit a command uses, acceptance with
its promise, loops of commands, and the thread instructions TCMD, TLOOP, ADV, TWAIT, WAITT, TSTAT and HDEF. -/

namespace Sys2Proof.Machine

/-! ### What a command uses -/

/-- Opcode of a tile command word (R78). -/
def tileOpcode (w : BitVec 256) : Nat := (w.extractLsb' 56 8).toNat

def isCopyOp (op : Nat) : Bool := 0x50 ≤ op && op ≤ 0x55

/-- The unit of a command (R196): 1 matrix array, 2 vector unit, 3 copy engine, 0 none. -/
def tileUnit (op : Nat) : Nat :=
  if 0x10 ≤ op && op ≤ 0x23 then 1 else if 0x30 ≤ op && op ≤ 0x43 then 2 else if isCopyOp op then 3 else 0

/-- hC of the control quad (R82). -/
def handleC (c : Tcw) : Nat := c.q1.toNat % 32

/-- Vector commands that use hB (R79). -/
def usesB (op : Nat) : Bool := (0x10 ≤ op && op ≤ 0x12) || (0x30 ≤ op && op ≤ 0x35) || (0x3B ≤ op && op ≤ 0x3F)

def usesC (op : Nat) : Bool := op == 0x33 || op == 0x3C

/-- Families whose hA and dst only wait (R79). -/
def waitsOnly (op : Nat) : Bool := op == 1 || isCopyOp op

def usesA (op : Nat) (c : Tcw) : Bool :=
  if waitsOnly op then c.win != 0 else (0x10 ≤ op && op ≤ 0x18) || op == 0x21 || tileUnit op == 2

def usesD (op : Nat) (c : Tcw) : Bool :=
  if waitsOnly op then c.wout != 0 else op == 0x22 || op == 0x23 || tileUnit op == 2

/-- The input handles of a command, each once (R199, log entry 10). -/
def tileIns (op : Nat) (c : Tcw) : List Nat :=
  ((if usesA op c then [c.hA.toNat] else []) ++ (if usesB op then [c.hB.toNat] else [])
    ++ (if usesC op then [handleC c] else [])).eraseDups

def tileOut (op : Nat) (c : Tcw) : Option Nat := if usesD op c then some c.dst.toNat else none

def tileHandles (op : Nat) (c : Tcw) : List Nat := tileIns op c ++ (tileOut op c).toList

/-- The accumulators that a command names (R194, R210). -/
def tileAccs (op : Nat) (c : Tcw) : List Nat :=
  if (0x10 ≤ op && op ≤ 0x12) || (0x20 ≤ op && op ≤ 0x22) then [c.acc.toNat]
  else if op = 0x23 then (if c.count = 4 then [0, 1, 2, 3] else [c.acc.toNat]) else []

/-- Whether two commands conflict (R194). -/
def conflicts (v w : BitVec 256) : Bool :=
  let a := tileOpcode v
  let b := tileOpcode w
  let side := fun o => o == 0x11 || o == 0x18
  (tileHandles a (tcwOf v)).any (tileHandles b (tcwOf w)).contains || (tileAccs a (tcwOf v)).any (tileAccs b (tcwOf w)).contains
    || (side a && side b)

/-- The commands accepted before a sequence number and not complete: the queue is in acceptance order. -/
def earlier (l : List QEntry) (seq : Nat) : List QEntry :=
  match l with
  | [] => []
  | e :: t => if e.seq = seq then [] else e :: earlier t seq

/-- Whether an earlier conflicting command is incomplete (R194). -/
def blocked (l : List QEntry) (e : QEntry) : Bool := (earlier l e.seq).any fun f => conflicts f.word e.word

/-! ### Faults -/

/-- Whether command `a` was accepted before command `b`: their numbers count modulo 2^32 (R192). -/
def acceptedBefore (a b : Nat) : Bool := a != b && (b + 2 ^ 32 - a) % 2 ^ 32 < 2 ^ 31

/-- A tile command fault (R84, R229): neither the command nor a later one of the queue starts; the record names the TCMD. -/
def tileFault (s : State) (core p tid pc seq : Nat) : State :=
  let s1 := modPart s core p fun x => { x with dead := match x.dead with
    | some d => if acceptedBefore seq d then some seq else some d
    | none => some seq }
  raiseFatal s1 (getPart s core p).owner core p tid pc 0x20 seq

/-- The fault of a command that executes: it never completes. -/
def entryFault (s : State) (core p : Nat) (e : QEntry) : State :=
  tileFault (modEntry s core p e.seq fun x => { x with allRead := false }) core p e.tid e.pc e.seq

/-! ### Geometry of copies (R217, R218) -/

/-- Q3 of a copy form (untyped elements of an adding or comparing COPYR are 8 bytes, R220): elements per row, source and destination pitch,
rows, bytes of a source and of a destination row. -/
structure CopyGeom where
  n : Nat
  sstr : Nat
  dstr : Nat
  rows : Nat
  sbytes : Nat
  dbytes : Nat
  deriving DecidableEq, Repr

/-- Bytes of `n` elements; untyped elements are bytes. -/
def copyBytes (code n : Nat) : Nat := if code = 0 then n else tileBytes code n

def copyGeom (op : Nat) (c : Tcw) : CopyGeom :=
  let q := c.q3.toNat
  let n := if op = 0x54 then bitsOf q 47 24 else bitsOf q 60 42
  let quads := op == 0x51 && q / 2 ^ 61 ≤ 2 && c.fmtA == 0
  let sb := if quads then 8 * n else copyBytes c.fmtA.toNat n
  let db := if quads then 8 * n else copyBytes c.fmtOut.toNat n
  let st := bitsOf q 41 21
  match op with
  | 0x52 => ⟨n, st, db, c.count.toNat + 1, sb, db⟩
  | 0x53 => ⟨n, sb, st, c.count.toNat + 1, sb, db⟩
  | 0x54 => ⟨n, 0, 0, 1, sb, db⟩
  | _ => ⟨n, st, bitsOf q 20 0, c.count.toNat + 1, sb, db⟩

/-- Lines that `n` bytes from an address touch. -/
def lineCount (a n : Nat) : Nat := if n = 0 then 0 else (a + n - 1) / 64 - a / 64 + 1

/-- Device address of a quad before any check: the segment's base and the offset, or the quad itself (R81). -/
def rawAddr (s : State) (ctx : Nat) (dev : Bool) (q : Word) : Nat :=
  if dev then q.toNat % 2 ^ 56
  else match getCtx s ctx with
    | some x => ((segOf x q).base + q.toNat % 2 ^ 53) % 2 ^ 56
    | none => 0

/-- base and c of the memory of core `c` as seen from a core (R222). -/
def coreCost (core c : Nat) : Nat × Nat := if c = core then (32, 1) else if dieOf c = dieOf core then (96, 1) else (192, 1)

/-- The slower of two homes. -/
def slower (a b : Nat × Nat) : Nat × Nat := if a.1 < b.1 then b else a

/-- base and c of a home by its class (R222). -/
def homeCost (s : State) (ctx core da : Nat) : Nat × Nat :=
  let near := coreCost core
  match addrClass da with
  | 1 => near (coreAt (da / 2 ^ 16 % 128) (da / 2 ^ 23 % 128))
  | 2 => near (coreAt (da / 2 ^ 16 % 128) (da / 2 ^ 23 % 128))
  | 3 => (192, 1)
  | 4 => (1024, 2)
  | 5 => (1536, 4)
  | 6 => (8192, 8)
  | 7 => match getCtx s ctx with
    | some x => near (blockCore x (da / 2 ^ 16 % 128) (da / 2 ^ 23 % 128))
    | none => (32, 1)
  | 8 => (16384, 4)
  | _ => (32, 1)

/-- The cores that an MCAST names with its destination address (R219): `none` when a class 0x1 rectangle leaves the array. -/
def mcastTargets (s : State) (ctx da wx wy : Nat) : Option (List Nat) :=
  let x := da / 2 ^ 16 % 128
  let y := da / 2 ^ 23 % 128
  let grid := fun (f : Nat → Nat → Nat) => ((List.range (wx * wy)).map fun k => f (x + k % wx) (y + k / wx)).eraseDups
  match addrClass da with
  | 1 => if 128 < x + wx || 128 < y + wy then none else some (grid coreAt)
  | 7 => (getCtx s ctx).map fun c => grid (blockCore c)
  | _ => none

/-- The lines that a command of the copy family writes (R222). SCAT's rows are counted as if each began at its destination address
(log entry 11). -/
def copyLines (s : State) (ctx op : Nat) (c : Tcw) : Nat :=
  let g := copyGeom op c
  let da := rawAddr s ctx (q2dev c) c.q2
  if op = 0x54 then
    let n := match mcastTargets s ctx da (bitsOf c.q3.toNat 63 56) (bitsOf c.q3.toNat 55 48) with
      | some l => l.length
      | none => 0
    lineCount da g.dbytes * ceilDiv n 16
  else if op = 0x53 then g.rows * lineCount da g.dbytes
  else (List.range g.rows).foldl (fun n r => n + lineCount (da + r * g.dstr) g.dbytes) 0

/-- base and c of the destination of a copy: the slowest target of an MCAST (R222). -/
def destCost (s : State) (ctx core op : Nat) (c : Tcw) : Nat × Nat :=
  let da := rawAddr s ctx (q2dev c) c.q2
  match if op = 0x54 then mcastTargets s ctx da (bitsOf c.q3.toNat 63 56) (bitsOf c.q3.toNat 55 48) else none with
  | some l => l.foldl (fun m t => slower m (coreCost core t)) (32, 1)
  | none => homeCost s ctx core da

/-- base and c of a copy: the slower of its homes, c doubled for COPYR (R222). -/
def copyCost (s : State) (ctx core op : Nat) (c : Tcw) : Nat × Nat :=
  let d := destCost s ctx core op c
  let m := if op = 0x55 then d else slower d (homeCost s ctx core (rawAddr s ctx (q1dev c) c.q1))
  (m.1, if op = 0x51 then 2 * m.2 else m.2)

/-! ### Acceptance -/

/-- The field rules of R84 and R193 that need the machine beside those of the decoder: handles of the slice (R80), the matrix holder
(R10), COPYR in a deterministic launch (R306). -/
def tileLegal (s : State) (core p : Nat) (w : BitVec 256) : Bool :=
  let op := tileOpcode w
  let c := tcwOf w
  (match decodeTcw w with
    | .ok _ => true
    | .error _ => false)
  && (tileHandles op c).all (inHandles s core p)
  && (tileUnit op != 1 || p == matrixHolder s core)
  && !(op == 0x51 && 1 ≤ c.fmtA.toNat && c.fmtA.toNat ≤ 7 && (match getCtx s (getPart s core p).owner with
      | some x => x.det
      | none => false))

/-- The ticket or promise word of a command (R192). -/
def commandWord (op seq vt : Nat) : Word :=
  if isCopyOp op then BitVec.ofNat 64 (seq % 128 * 2 ^ 56 + vt % 2 ^ 56) else BitVec.ofNat 64 (2 ^ 63 + seq % 2 ^ 32)

/-- The promise of a copy accepted now (R222). -/
def promiseOf (s : State) (core p op : Nat) (c : Tcw) (lines : Nat) : Nat :=
  let pt := getPart s core p
  let v := match getCtx s pt.owner with
    | some x => vtimeOf s x
    | none => 0
  let prev := match pt.prev with
    | some (sq, vt) => if pt.queue.any fun e => e.seq == sq then vt else 0
    | none => 0
  let k := copyCost s pt.owner core op c
  max v prev + k.1 + lines * k.2

/-- The queue takes a command (R84, R192, R193, R222): its number, key and write count, its promise; an illegal one is numbered and
faults. Answers the word for d. -/
def acceptTile (s : State) (core p tid pc : Nat) (w : BitVec 256) : State × Word :=
  let pt := getPart s core p
  let op := tileOpcode w
  let c := tcwOf w
  let seq := pt.seqCtr
  let s1 := setPart s core p { pt with seqCtr := (seq + 1) % 2 ^ 32 }
  if !tileLegal s core p w then (tileFault s1 core p tid pc seq, commandWord op seq 0)
  else
    let sr := c.rm == 5
    let lines := if isCopyOp op then copyLines s pt.owner op c else 0
    let vt := if isCopyOp op then promiseOf s core p op c lines else 0
    let e : QEntry := { seq := seq, tid := tid, pc := pc, word := w, key := pt.key, wc := pt.wcount, vt := vt, lines := lines }
    let pt1 := { pt with
      seqCtr := (seq + 1) % 2 ^ 32, queue := pt.queue ++ [e],
      key := if op = 0x61 then c.q1.toNat else pt.key,
      wcount := if op = 0x61 then 0 else if sr then (pt.wcount + 1) % 65536 else pt.wcount,
      prev := if isCopyOp op then some (seq, vt) else pt.prev }
    (setPart s core p pt1, commandWord op seq vt)

/-- The capture of TLOOP takes an accepted command; after the last one the repeats are pushed (R202). -/
def captureTile (s : State) (core p tid pc : Nat) (w : BitVec 256) : State :=
  match (getPart s core p).loop with
  | .capturing t left m strides cmds =>
    if t ≠ tid then s
    else
      let cmds1 := cmds ++ [{ seq := 0, tid := tid, pc := pc, word := w }]
      if 1 < left then modPart s core p fun x => { x with loop := .capturing t (left - 1) m strides cmds1 }
      else if m ≤ 1 then modPart s core p fun x => { x with loop := .idle }
      else post (modPart s core p fun x => { x with loop := .pushing m strides 1 0 cmds1 }) s.cycle 0 .tloopPush (.part core p)
  | _ => s

/-- The 256 bits of four quads, Q0 lowest (R77). -/
def tcwBits (q : List Word) : BitVec 256 := (nth 0 q 3 ++ nth 0 q 2 ++ nth 0 q 1 ++ nth 0 q 0 : BitVec (64 + 64 + 64 + 64))

/-- Offer a command whose quads are read; it parks until the queue can take it (R192). -/
def offerTile (s : State) (t : Thread) (d : BitVec 4) (q : List Word) : State :=
  if !tcmdRoom (getPart s t.core t.part) t.id then wait s { t with held := q } (.until .queueFree)
  else
    let w := tcwBits q
    let r := acceptTile (modPart s t.core t.part fun p => p.dropEntry t.id) t.core t.part t.id t.pc.toNat w
    retireReg (captureTile r.1 t.core t.part t.id t.pc.toNat w) t d r.2

/-- The read of TCMD at its issue (R77, R387): `q1` replaces Q1; what is delivered to the word in that cycle does not count. -/
def tcmdOp (s : State) (t : Thread) (d a : BitVec 4) (q1 : Option Word) : State :=
  match t.held with
  | w :: ws => offerTile s t d (w :: ws)
  | [] =>
    match ownKey s t (t.reg a) 32 32 with
    | .error e => fatalAt s t e.1 e.2
    | .ok k =>
      let q := toQuads 4 (readBefore s k 32)
      offerTile s t d (match q1 with
        | some v => setNth q 1 v
        | none => q)

/-- TCMD (R77, R192). -/
def execTcmd (g : BitVec 5) (d a : BitVec 4) (s : State) : Res := scalar g s fun s t => tcmdOp s t d a none

/-- TCMD.Q1 (R77, R192): Q1 is replaced by the value of b. -/
def execTcmdQ1 (g : BitVec 5) (d a b : BitVec 4) (s : State) : Res := scalar g s fun s t => tcmdOp s t d a (some (t.reg b))

/-! ### Loops (R202) -/

/-- TLOOP (R202): held while a loop pushes, or while another thread captures or has a queue entry kept for it (R244, log entry 77). -/
def execTloop (g : BitVec 5) (a b : BitVec 4) (s : State) : Res :=
  scalar g s fun s t =>
    let x := (t.reg a).toNat
    let y := (t.reg b).toNat
    let m := bitsOf x 31 16
    if x / 2 ^ 32 ≠ 0 || bitsOf x 15 3 ≠ 0 || y / 2 ^ 22 ≠ 0 || m = 0 then fatalAt s t 0x0A x
    else
      let p := getPart s t.core t.part
      let start := retire (setPart s t.core t.part { p with loop := .capturing t.id (x % 8 + 1) m y [] }) t
      match p.loop with
      | .idle => if (p.reserved.erase t.id).isEmpty then start else wait s t (.until .loopFree)
      | .capturing tid _ _ _ _ => if tid = t.id then start else wait s t (.until .loopFree)
      | .pushing _ _ _ _ _ => wait s t (.until .loopFree)

/-- A handle number moved by a stride within the slice (R202). -/
def strideHandle (b0 l h i st : Nat) : Nat := if l = 0 then h else b0 + (h - b0 + i * st) % l

/-- The word of a captured command in iteration `i`. -/
def loopWord (s : State) (core p : Nat) (w : BitVec 256) (strides i : Nat) : BitVec 256 :=
  let op := tileOpcode w
  let c := tcwOf w
  let l := handleCount s core
  let mv := fun (used : Bool) (h : BitVec 5) (k : Nat) =>
    if used then BitVec.ofNat 5 (strideHandle (l * p) l h.toNat i (bitsOf strides (5 * k + 4) (5 * k))) else h
  let hc := mv (usesC op) (BitVec.ofNat 5 (handleC c)) 3
  packTcw (w.extractLsb' 56 8) { c with
    hA := mv (usesA op c) c.hA 0, hB := mv (usesB op) c.hB 1, dst := mv (usesD op c) c.dst 2,
    acc := if tileAccs op c = [] then c.acc else BitVec.ofNat 2 (c.acc.toNat + i * bitsOf strides 21 20),
    q1 := if usesC op then BitVec.ofNat 64 (c.q1.toNat / 32 * 32 + hc.toNat) else c.q1 }

/-- Push one iteration, each command accepted as a TCMD would be. -/
def pushAll (core p strides i : Nat) : List QEntry → State → State
  | [], s => s
  | e :: l, s => pushAll core p strides i l (acceptTile s core p e.tid e.pc (loopWord s core p e.word strides i)).1

/-- TLOOP_PUSH (R202): one whole iteration, when the queue has room for it. -/
def execTloopPush (s : State) : Res :=
  match s.focus with
  | .part core p =>
    match (getPart s core p).loop with
    | .pushing m strides iter pos cmds =>
      if 64 < (getPart s core p).queue.length + (getPart s core p).reserved.length + cmds.length then .next s
      else
        let s1 := pushAll core p strides iter cmds s
        if iter + 1 < m then
          .next (post (modPart s1 core p fun x => { x with loop := .pushing m strides (iter + 1) pos cmds }) (s.cycle + 1) 0 .tloopPush
            s.focus)
        else .next (modPart s1 core p fun x => { x with loop := .idle })
    | _ => .next s
  | _ => .fault .noSubject

/-! ### Handles (R197 to R201) -/

/-- Difference of two counts modulo 2^16. -/
def countDiff (a b : Nat) : Nat := (a + 65536 - b % 65536) % 65536

/-- filled, claimable and free (R197). -/
def Handle.filled (h : Handle) : Nat := countDiff h.p h.c

def Handle.claimable (h : Handle) : Nat := countDiff h.p h.ce

def Handle.free (h : Handle) : Nat := h.n - countDiff h.pe h.c

def getHandle (p : Part) (h : Nat) : Handle := tblGet {} p.handles h

def setHandle (s : State) (core p h : Nat) (x : Handle) : State :=
  modPart s core p fun q => { q with handles := tblSet q.handles h x }

/-- An advance applied to a handle (R200): `none` when it would pass its limit or the handle is undefined. -/
def advance (h : Handle) (consume : Bool) (b : Nat) : Option Handle :=
  if h.n = 0 then none
  else if consume then
    if 0 < sextNat 16 (h.ce + b + 65536 - h.p) then none
    else some { h with c := (h.c + b) % 65536, ce := (h.ce + b) % 65536 }
  else if h.n < countDiff (h.pe + b) h.c then none
  else some { h with p := (h.p + b) % 65536, pe := (h.pe + b) % 65536 }

/-- The operand a of ADV and TWAIT: handle and side; `none` for a reserved bit, a handle outside the slice or an undefined one. -/
def handleOperand (s : State) (t : Thread) (a : Word) : Option (Nat × Bool × Handle) :=
  let h := a.toNat % 32
  let x := getHandle (getPart s t.core t.part) h
  if a.toNat / 512 ≠ 0 || bitsOf a.toNat 7 5 ≠ 0 || !inHandles s t.core t.part h || x.n = 0 then none else some (h, bitAt a.toNat 8, x)

/-- ADV (R200): the producing side is a release. -/
def execAdv (g : BitVec 5) (a b : BitVec 4) (s : State) : Res :=
  scalar g s fun s t =>
    let n := (t.reg b).toNat
    match handleOperand s t (t.reg a) with
    | none => fatalAt s t 0x0A (t.reg a).toNat
    | some (h, consume, _) =>
      let go := fun (s : State) (t : Thread) =>
        match advance (getHandle (getPart s t.core t.part) h) consume n with
        | none => fatalAt s t 0x0A (t.reg a).toNat
        | some y => retire (setHandle s t.core t.part h y) t
      if 16 < n then fatalAt s t 0x0A n
      else if consume then go s t else fenced s t go

/-- TWAIT (R201). -/
def execTwait (g : BitVec 5) (a b : BitVec 4) (s : State) : Res :=
  scalar g s fun s t =>
    let n := (t.reg b).toNat
    match handleOperand s t (t.reg a) with
    | none => fatalAt s t 0x0A (t.reg a).toNat
    | some (h, side, x) =>
      if x.n < n then fatalAt s t 0x0A n
      else if side then (if n ≤ x.free then retire s t else wait s t (.until (.room h n)))
      else if n ≤ x.filled then retire s t else wait s t (.until (.filled h n))

/-- Whether HDEF may redefine a handle: no unfinished command names it and no loop has commands to push (R198). -/
def handleFree (p : Part) (h : Nat) : Bool :=
  (match p.loop with
    | .pushing _ _ _ _ _ => false
    | _ => true) && p.queue.all fun e => !(tileHandles (tileOpcode e.word) (tcwOf e.word)).contains h

/-- HDEF (R198). -/
def execHdef (g : BitVec 5) (a b : BitVec 4) (s : State) : Res :=
  scalar g s fun s t =>
    let h := (t.reg a).toNat
    let y := (t.reg b).toNat
    let n := bitsOf y 36 32
    let size := bitsOf y 31 16
    let base := bitsOf y 15 0
    if 32 ≤ h || y / 2 ^ 37 ≠ 0 || !inHandles s t.core t.part h || base % 32 ≠ 0 || base < 0x800 || size % 32 ≠ 0 || size = 0
        || n = 0 || 16 < n || viewSize s t.core < base + size * n then fatalAt s t 0x0A y
    else if !handleFree (getPart s t.core t.part) h then wait s t (.until (.handleFree h))
    else retire (setHandle s t.core t.part h ⟨base, size, n, 0, 0, 0, 0⟩) t

/-! ### Promises, tickets and status -/

/-- The unfinished command that a word names among the 128 most recently accepted (R223). -/
def namedCommand (p : Part) (a : Word) : Option QEntry :=
  p.queue.find? fun e => (p.seqCtr + 2 ^ 32 - 1 - e.seq) % 2 ^ 32 < 128
    && (if a.getLsbD 63 then e.seq == a.toNat % 2 ^ 32 else e.seq % 128 == a.toNat / 2 ^ 56)

/-- Bytes of a row already converted when `n` source bytes of it were. -/
def convertedOff (c : Tcw) (n : Nat) : Nat :=
  if c.fmtA = c.fmtOut then n else n * 8 / fmtWidth c.fmtA.toNat * fmtWidth c.fmtOut.toNat / 8

/-- The number of lines that a copy has not yet written (R224): those from its cursor on, and those before it with an unacknowledged write,
an MCAST's lines counted as for its promise. -/
def linesLeft (s : State) (ctx op : Nat) (c : Tcw) (e : QEntry) : Nat :=
  if !e.started then e.lines
  else
    let g := copyGeom op c
    let row := e.next / 2 ^ 24
    let at' := fun r => rawAddr s ctx (q2dev c) c.q2 + (if op = 0x53 then nth 0 e.idx r else r) * g.dstr
    let done := convertedOff c (e.next % 2 ^ 24 - e.carry.length)
    let rest := ((List.range g.rows).drop (row + 1)).foldl (fun n r => n + lineCount (at' r) g.dbytes)
      (if row < g.rows then lineCount (at' row + done) (g.dbytes - done) else 0)
    let first := row * 2 ^ 24 + ((at' row + done) / 64 - at' row / 64)
    (rest + (e.lineAcks.eraseDups.filter (· < first)).length) * (if op = 0x54 then ceilDiv e.idx.length 16 else 1)

/-- The revised promise word (R224). -/
def revisedPromise (s : State) (t : Thread) (e : QEntry) (v : Nat) : Word :=
  let k := copyCost s t.ctx t.core (tileOpcode e.word) (tcwOf e.word)
  let left := linesLeft s t.ctx (tileOpcode e.word) (tcwOf e.word) e
  BitVec.ofNat 64 (e.seq % 128 * 2 ^ 56 + (v + k.1 + left * k.2) % 2 ^ 56)

/-- Take the promise-missed trap at a VTIME. -/
def missPromise (s : State) (t : Thread) (e : QEntry) (v : Nat) : State :=
  takeTrap s t 2 (revisedPromise s t e v) (BitVec.ofNat 14 (t.pc.toNat + 4))

/-- WAITT (R223, R224): it ends a capture (R202); in a trap (R259) and in a deterministic launch (R306) it only waits. -/
def execWaitt (g : BitVec 5) (a : BitVec 4) (s : State) : Res :=
  scalar g s fun s t =>
    let w := t.reg a
    let s := endCapture s t
    match namedCommand (getPart s t.core t.part) w, getCtx s t.ctx with
    | some e, some x =>
      let vt := w.toNat % 2 ^ 56
      let v := vtimeOf s x
      if w.getLsbD 63 || t.inTrap || x.det then wait s t (.until (.cmdDone e.seq none))
      else if vt < v then missPromise s t e v
      else
        let t1 := { t with op := t.op + 1 }
        post (wait s t1 (.until (.cmdDone e.seq (some vt)))) (s.cycle + (vt + 1 - v)) 0 .promiseMissed (.op t1.id t1.op)
    | _, _ => retire s t

/-- PROMISE_MISSED (R223, R224): due in the cycle after the one in which VTIME reaches vt, so that a completion in that one wins. -/
def execPromiseMissed (s : State) : Res :=
  match s.focus with
  | .op tid op =>
    match getThread s tid with
    | none => .next s
    | some t =>
      match t.wait, getCtx s t.ctx with
      | .until (.cmdDone seq (some vt)), some x =>
        match (getPart s t.core t.part).queue.find? fun e => e.seq == seq with
        | none => .next s
        | some e =>
          let v := vtimeOf s x
          if t.op ≠ op then .next s
          else if v ≤ vt then .next (post s (s.cycle + (vt + 1 - v)) 0 .promiseMissed s.focus)
          else .next (missPromise s t e (v - 1))
      | _, _ => .next s
  | _ => .fault .noSubject

/-- Whether a write of a command is held at a port (R225). -/
def heldWrite (s : State) (core p seq : Nat) : Bool := s.ports.any fun x => x.2.held.any fun h => h.acc.who == .cmd core p seq

/-- Whether a command is parked at a read or waits for a held write (R225). -/
def stalled (s : State) (core p : Nat) (e : QEntry) : Bool := e.parked || heldWrite s core p e.seq

/-- Whether a command of a partition is parked at a read or has a write held at a port (R225). -/
def tileParked (s : State) (core p : Nat) : Bool := (getPart s core p).queue.any (stalled s core p)

/-- sw.TSTAT (R228). -/
def tstatWord (s : State) (core p : Nat) : Word :=
  let pt := getPart s core p
  BitVec.ofNat 64 (pt.queue.length * 2 ^ 24 + b2n (pt.loop != .idle) * 2 ^ 23 + b2n (tileParked s core p) * 2 ^ 22
    + b2n (getRegion s (regionOf core)).narrow * 2 ^ 16 + pt.sticky)

/-- OR flags into the sticky flags of a partition (R56, R228). -/
def orSticky (s : State) (core p f : Nat) : State :=
  modPart s core p fun x => { x with
    sticky := x.sticky ||| f, newFlags := (if x.newAt = s.cycle then x.newFlags else 0) ||| f, newAt := s.cycle }

/-- TSTAT (R228): a flag set in the same cycle stays for the next read. -/
def execTstat (g : BitVec 5) (d : BitVec 4) (s : State) : Res :=
  scalar g s fun s t =>
    let pt := getPart s t.core t.part
    let v := BitVec.ofNat 64 (pt.mark.toNat % 2 ^ 32 * 2 ^ 32 + (tstatWord s t.core t.part).toNat % 2 ^ 32)
    let keep := if pt.newAt = s.cycle then pt.newFlags else 0
    retireReg (setPart s t.core t.part { pt with sticky := keep }) t d v

end Sys2Proof.Machine
end

