-- ==== Sys2Proof/Machine/TileExec.lean ====
section
/-! DEFINITION. What a tile command does when it starts and when it completes (R194 to R215, R226 to R229). A started command reads its
inputs at once and reserves its unit, one that reads an accumulator or the side memory as soon as the earlier commands that conflict with
it are complete; its results are applied when it completes. -/

namespace Sys2Proof.Machine

/-! ### Accumulators and side memory -/

/-- `n` values from key `i` on of a sparse table whose keys below `i` are gone. -/
def tblRun : Nat → Nat → List (Nat × Nat) → List Nat
  | 0, _, _ => []
  | n + 1, i, [] => 0 :: tblRun n (i + 1) []
  | n + 1, i, (k, v) :: t => if k = i then v :: tblRun n (i + 1) t else 0 :: tblRun n (i + 1) ((k, v) :: t)

/-- `n` values from key `i` on; an unlisted one is 0. -/
def tblSlice (l : List (Nat × Nat)) (i n : Nat) : List Nat := tblRun n i (l.dropWhile fun p => p.1 < i)

/-- The nonzero values of a list as entries from key `i` on. -/
def numbered : Nat → List Nat → List (Nat × Nat)
  | _, [] => []
  | i, v :: vs => if v = 0 then numbered (i + 1) vs else (i, v) :: numbered (i + 1) vs

/-- Replace the values from key `i` on by those of a list. -/
def tblPaste (l : List (Nat × Nat)) (i : Nat) (vs : List Nat) : List (Nat × Nat) :=
  (l.filter fun p => p.1 < i) ++ numbered i vs ++ l.filter fun p => i + vs.length ≤ p.1

/-- The 1,024 elements of an accumulator of a core (R7). -/
def accOf (s : State) (core a : Nat) : List Nat := tblSlice (getCore s core).acc (1024 * a) 1024

/-- The 512 bytes of a bank of a core's side memory (R207). -/
def sideOf (s : State) (core b : Nat) : List Nat := tblSlice (getCore s core).side (512 * b) 512

/-! ### Starting -/

/-- The view offset of the slot of a handle that a count names (R197). -/
def slotAt (h : Handle) (k : Nat) : Nat := if h.n = 0 then 0 else h.base + h.size * (k % h.n)

/-- Claim the slots of a starting command (R199). -/
def claimSlots (s : State) (core p : Nat) (e : QEntry) (op : Nat) (c : Tcw) : State × QEntry :=
  let pt := getPart s core p
  let h := getHandle pt
  let e1 := { e with
    started := true, slotA := slotAt (h c.hA.toNat) (h c.hA.toNat).ce, slotB := slotAt (h c.hB.toNat) (h c.hB.toNat).ce,
    slotC := slotAt (h (handleC c)) (h (handleC c)).ce, slotD := slotAt (h c.dst.toNat) (h c.dst.toNat).pe }
  let t1 := (tileIns op c).foldl (fun t i =>
    let x := tblGet {} t i
    tblSet t i { x with ce := (x.ce + c.win.toNat) % 65536 }) pt.handles
  let t2 := (tileOut op c).toList.foldl (fun t i =>
    let x := tblGet {} t i
    tblSet t i { x with pe := (x.pe + c.wout.toNat) % 65536 }) t1
  (setPart s core p { pt with handles := t2, queue := pt.queue.map fun x => if x.seq = e.seq then e1 else x }, e1)

/-- Set the partition whose turn is next on a unit (R196). -/
def passTurn (s : State) (core p unit : Nat) : State :=
  modCore s core fun x => { x with turns := tblSet x.turns unit ((p + 1) % max 1 (partCount s core)) }

/-- The frame of a tile command: it starts the head of the queue in focus. An undefined handle is a fault (R199). -/
def tile (op : Nat) (c : Tcw) (s : State) (body : State → Nat → Nat → QEntry → State) : Res :=
  match s.focus with
  | .part core p =>
    match (getPart s core p).queue.find? fun e => !e.started with
    | some e =>
      let s0 := passTurn s core p (tileUnit op)
      if (tileHandles op c).any fun h => (getHandle (getPart s core p) h).n == 0 then
        .next (entryFault (modEntry s0 core p e.seq fun x => { x with started := true }) core p e)
      else
        let r := claimSlots s0 core p e op c
        .next (body r.1 core p r.2)
    | none => .fault .noSubject
  | _ => .fault .noSubject

/-- Cycles of the device that `n` cycles of the tile engine take in the region of a core (R360). -/
def stretch (s : State) (core n : Nat) : Nat := ceilDiv (n * 1300) (max 1 (getRegion s (regionOf core)).clock)

/-- The unit is reserved for a cost and the command completes after a further drain (R208, R209, R213), both in cycles at the full clock. -/
def finishAt (s : State) (core p seq unit n d : Nat) : State :=
  let cost := stretch s core n
  let f := s.cycle + cost + stretch s core d
  let s1 := modEntry s core p seq fun e => { e with finish := some f, cost := 0 }
  let s2 := if cost = 0 then s1 else modCore s1 core fun x =>
    if unit = 1 then { x with matrixBusy := s.cycle + cost }
    else if unit = 2 then { x with vectorBusy := s.cycle + cost } else x
  post (countCycles s2 (regionOf core) (getPart s core p).owner cost) f 0 .tileCommandComplete (.cmd core p seq)

/-- Double a figure of R208's table under narrow mode. -/
def narrowCost (s : State) (core n : Nat) : Nat := if (getRegion s (regionOf core)).narrow then 2 * n else n

/-- The bytes of a tile at a view offset of a core (R203): `none` when it does not fit its slot, when the partition there is not the
context's, or for a poisoned word. -/
def tileAt (s : State) (core' core p h off n : Nat) : Option (List Byte) :=
  let k := scratchKey core' (viewBase s core' p + off)
  if (getHandle (getPart s core p) h).size < n || !holds s (getPart s core p).owner core' p || poisoned s k n then none
  else some (memRead s.mem k n)

/-- The remote core of a matrix command (R206). -/
def remoteCore (core : Nat) (c : Tcw) : Nat := regionCore (regionOf core) (bitsOf c.q1.toNat 11 8) (bitsOf c.q1.toNat 15 12)

/-- Bytes that a tile command reads in its own view through a program address checked by R25 with right R; class 0x0 only (R205, R212).
-/
def ownBytes (s : State) (core p : Nat) (q : Word) (z : Nat) : Option (List Byte) :=
  let ctx := (getPart s core p).owner
  match getCtx s ctx with
  | none => none
  | some x =>
    match segCheck x q z (max 1 z) rightR with
    | .error _ => none
    | .ok da =>
      if addrClass da ≠ 0 then none
      else match homeOf s ctx core p da with
        | .scratch k off =>
          if viewBase s k p + viewSize s k < off + z || poisoned s (scratchKey k off) z then none
          else some (memRead s.mem (scratchKey k off) z)
        | _ => none

/-- Generator bits at a position of a command (R51), with its origin. -/
def tileBits (e : QEntry) (c : Tcw) (row col : Nat) : Nat :=
  if c.rm = 5 then srBits e.key (row + bitsOf c.q1.toNat 63 40) (col + bitsOf c.q1.toNat 39 16) e.wc else 0

/-- Cycles per quarter of K (R208). -/
def quarterCost (fa fb : Nat) : Nat :=
  let w := max (fmtWidth fa) (fmtWidth fb)
  if w = 4 then 16 else if w = 8 then 32 else if w = 16 then 64 else 512

/-- Record the results of a command that completion applies. -/
def withResults (s : State) (core p seq : Nat) (acc : List (Nat × List Nat)) (bytes : List (Nat × List Byte)) (f : Nat) : State :=
  modEntry s core p seq fun e => { e with outAcc := acc, outBytes := bytes, flags := f }

/-! ### Work that may wait for earlier commands (R194) -/

/-- The product of a matrix command (R45, R203 to R208): `sparse` expands the kept elements, `zero` begins at +0.0; its scale bytes were
read when it started. -/
def matrixWork (sparse zero : Bool) (s : State) (core p : Nat) (e : QEntry) : State :=
  let c := tcwOf e.word
  let pt := getPart s core p
  let kq := c.count.toNat
  let k := 32 * kq
  let fa := c.fmtA.toNat
  let fb := c.fmtB.toNat
  let ca := if c.flags.getLsbD 0 then remoteCore core c else core
  let cb := if c.flags.getLsbD 1 then remoteCore core c else core
  let ka := if sparse then k / 2 else k
  match tileAt s ca core p c.hA.toNat e.slotA (tileBytes fa (32 * ka)), tileAt s cb core p c.hB.toNat e.slotB (tileBytes fb (32 * k)) with
  | some a, some b =>
    let kept := chunks ka 32 (tileVals pt.table pt.esc fa a)
    match (if sparse then sparseRows (nth 0 (sideOf s core c.acc.toNat)) (8 * kq) 0 kept else some kept) with
    | none => entryFault s core p e
    | some rows =>
      let cols := chunks k 32 (tileVals pt.table pt.esc fb b)
      let old := if zero then List.replicate 1024 0 else accOf s core c.acc.toNat
      let r := mmaRows c.rm.toNat (tileBits e c) cols (s8Scale (nth 127 e.idx 32)) 0 rows ((e.idx.take 32).map s8Scale) (chunks 32 32 old)
      let cost := narrowCost s core (quarterCost fa fb * kq / (if sparse then 2 else 1))
      finishAt (withResults s core p e.seq [(c.acc.toNat, flaggedVals r)] [] (flaggedOr r)) core p e.seq 1 cost 24
  | _, _ => entryFault s core p e

/-- Whether the output tile of a command fits dst's slot (R203). -/
def fitsOut (s : State) (core p : Nat) (c : Tcw) (n : Nat) : Bool := n ≤ (getHandle (getPart s core p) c.dst.toNat).size

/-- The conversion of ACST (R209). -/
def acstWork (s : State) (core p : Nat) (e : QEntry) : State :=
  let c := tcwOf e.word
  let f := c.fmtOut.toNat
  if !fitsOut s core p c (tileBytes f 1024) then entryFault s core p e
  else
    let vals := (accOf s core c.acc.toNat).map (fpDecode fp32)
    let r := convertAll f (c.flags.getLsbD 0) c.rm.toNat (fun k => tileBits e c (k / 32) (k % 32)) 0 vals
    finishAt (withResults s core p e.seq [] [(e.slotD, packElems (fmtWidth f) (flaggedVals r))] (flaggedOr r)) core p e.seq 1 64 0

/-- The rows of a span of accumulators: 32 elements of each of them in turn (R210). -/
def spanRow (accs : List (List Nat)) (i : Nat) : List FVal := accs.flatMap fun a => ((a.drop (32 * i)).take 32).map (fpDecode fp32)

/-- Split a write at the lines of its address; `n` bounds their number. -/
def splitLines : Nat → Nat → List Byte → List (Nat × List Byte)
  | 0, _, _ => []
  | n + 1, da, bs =>
    if bs.isEmpty then []
    else
      let z := 64 - da % 64
      (da, bs.take z) :: splitLines n (da + z) (bs.drop z)

/-- The conversion of ACSC (R210): results for dst's slot, the 32 scale bytes for the address in Q2. -/
def acscWork (s : State) (core p : Nat) (e : QEntry) : State :=
  let c := tcwOf e.word
  let f := c.fmtOut.toNat
  let n := c.count.toNat
  let accs := (tileAccs 0x23 c).map (accOf s core)
  match (getCtx s (getPart s core p).owner).map fun x => segCheck x c.q2 32 32 rightW with
  | some (.ok da) =>
    if !fitsOut s core p c (tileBytes f (1024 * n)) || homeOf s (getPart s core p).owner core p da = .none then entryFault s core p e
    else
      let rows := (List.range 32).map fun i =>
        acscRow f (c.flags.getLsbD 0) c.rm.toNat (fun k => tileBits e c i k) (spanRow accs i)
      let vals := rows.flatMap (·.2)
      let s1 := withResults s core p e.seq [] [(e.slotD, packElems (fmtWidth f) (flaggedVals vals))] (flaggedOr vals)
      let s2 := modEntry s1 core p e.seq fun x => { x with outDev := splitLines 2 da (rows.map fun r => BitVec.ofNat 8 r.1) }
      finishAt s2 core p e.seq 1 (64 * n + 16) 0
  | _ => entryFault s core p e

/-- What a command that reads an accumulator or the side memory does once it may (R194). -/
def readerWork (s : State) (core p : Nat) (e : QEntry) : State :=
  match tileOpcode e.word with
  | 0x11 => matrixWork true false s core p e
  | 0x22 => acstWork s core p e
  | 0x23 => acscWork s core p e
  | _ => matrixWork false false s core p e

/-- A command that reads an accumulator or the side memory does so once every earlier conflicting command is complete; until then it holds
its unit (R194). -/
def startReader (s : State) (core p : Nat) (e : QEntry) : State :=
  if blocked (getPart s core p).queue e then modEntry s core p e.seq fun x => { x with cost := 1 } else readerWork s core p e

/-! ### Matrix commands -/

/-- MMA, MMAS and MMAZ: the scale bytes are read at the start (R205); MMAZ reads no accumulator. -/
def matrixOp (op : Nat) (zero : Bool) (c : Tcw) (s : State) : Res :=
  tile op c s fun s core p e =>
    let sa := if c.q2 = 0 then some (List.replicate 32 (127 : Byte)) else ownBytes s core p c.q2 32
    let sb := if c.q3 = 0 then some [(127 : Byte)] else ownBytes s core p c.q3 1
    match sa, sb with
    | some sa, some sb =>
      let e1 := { e with idx := (sa ++ sb).map (·.toNat) }
      let s1 := modEntry s core p e.seq fun x => { x with idx := e1.idx }
      if zero then matrixWork false true s1 core p e1 else startReader s1 core p e1
    | _, _ => entryFault s core p e

/-- MMA (R204). -/
def execMma (c : Tcw) (s : State) : Res := matrixOp 0x10 false c s

/-- MMAS (R204, R207). -/
def execMmas (c : Tcw) (s : State) : Res := matrixOp 0x11 false c s

/-- MMAZ (R204). -/
def execMmaz (c : Tcw) (s : State) : Res := matrixOp 0x12 true c s

/-- SPLD (R207): its time in the array is not stated (Config.unitTime). -/
def execSpld (c : Tcw) (s : State) : Res :=
  tile 0x18 c s fun s core p e =>
    match tileAt s core core p c.hA.toNat e.slotA 512 with
    | none => entryFault s core p e
    | some bs =>
      let s1 := modEntry s core p e.seq fun x => { x with outSide := [(c.count.toNat % 4, bs.map (·.toNat))] }
      finishAt (bump s1) core p e.seq 1 (1 + Config.unitTime s.nonce % 512) 0

/-! ### Accumulator commands -/

/-- ACLR (R209). -/
def execAclr (c : Tcw) (s : State) : Res :=
  tile 0x20 c s fun s core p e =>
    finishAt (withResults s core p e.seq [(c.acc.toNat, List.replicate 1024 0)] [] 0) core p e.seq 1 16 0

/-- ACLD (R209, R54): widened exactly; a NaN becomes the canonical one and sets IV. -/
def execAcld (c : Tcw) (s : State) : Res :=
  tile 0x21 c s fun s core p e =>
    let f := c.fmtA.toNat
    match tileAt s core core p c.hA.toNat e.slotA (tileBytes f 1024) with
    | none => entryFault s core p e
    | some bs =>
      let r := (tileVals [] false f bs).map fun v => fpConvert fp32 false 0 0 v
      finishAt (withResults s core p e.seq [(c.acc.toNat, flaggedVals r)] [] (flaggedOr r)) core p e.seq 1 64 0

/-- ACST (R209). -/
def execAcst (c : Tcw) (s : State) : Res := tile 0x22 c s startReader

/-- ACSC (R210). -/
def execAcsc (c : Tcw) (s : State) : Res := tile 0x23 c s startReader

/-! ### Vector commands (R211 to R213) -/

/-- Elements of a vector command. -/
def vecLen (c : Tcw) : Nat := 64 * (c.count.toNat % 64)

/-- Generator bits of output element k of a vector command. -/
def vecBitsAt (e : QEntry) (c : Tcw) (k : Nat) : Nat := tileBits e c (k / 64) (k % 64)

/-- A vector command whose output bytes and flags are `out` of its input tiles; `nb` and `nc` are the bytes of b and c. -/
def vectorOp (op : Nat) (c : Tcw) (s : State) (nout nb nc cost : Nat)
    (out : Part → QEntry → List Byte → List Byte → List Byte → List Byte × Nat) : Res :=
  tile op c s fun s core p e =>
    let a := tileAt s core core p c.hA.toNat e.slotA (tileBytes c.fmtA.toNat (vecLen c))
    let b := if nb = 0 then some [] else tileAt s core core p c.hB.toNat e.slotB nb
    let d := if nc = 0 then some [] else tileAt s core core p (handleC c) e.slotC nc
    match a, b, d with
    | some a, some b, some d =>
      if !fitsOut s core p c nout then entryFault s core p e
      else
        let r := out (getPart s core p) e a b d
        finishAt (withResults s core p e.seq [] [(e.slotD, r.1)] r.2) core p e.seq 2 cost 12
    | _, _, _ => entryFault s core p e

/-- Bytes of n elements of a format. -/
def vecBytes (f : BitVec 4) (c : Tcw) : Nat := tileBytes f.toNat (vecLen c)

/-- Results packed in the output format. -/
def packed (f : BitVec 4) (r : List (Flagged Nat)) : List Byte × Nat := (packElems (fmtWidth f.toNat) (flaggedVals r), flaggedOr r)

/-- An arithmetic command on one, two or three inputs; `tm` is its cost per 64 elements. -/
def vectorArith (op tm : Nat) (bin tri sat : Bool) (c : Tcw) (s : State) : Res :=
  vectorOp op c s (vecBytes c.fmtOut c) (if bin then vecBytes c.fmtB c else 0) (if tri then vecBytes c.fmtOut c else 0)
    (tm * (c.count.toNat % 64)) fun pt e a b d =>
      packed c.fmtOut (vecArith op c.fmtOut.toNat sat c.rm.toNat (vecBitsAt e c) 0 (tileVals pt.table pt.esc c.fmtA.toNat a)
        (tileVals pt.table pt.esc c.fmtB.toNat b) (tileVals pt.table pt.esc c.fmtOut.toNat d))

/-- VADD (R212). -/
def execVadd (c : Tcw) (s : State) : Res := vectorArith 0x30 1 true false false c s

/-- VSUB (R212). -/
def execVsub (c : Tcw) (s : State) : Res := vectorArith 0x31 1 true false false c s

/-- VMUL (R212). -/
def execVmul (c : Tcw) (s : State) : Res := vectorArith 0x32 1 true false false c s

/-- VFMA (R212): the addend is in fmtOut. -/
def execVfma (c : Tcw) (s : State) : Res := vectorArith 0x33 1 true true false c s

/-- VMIN and VMAX (R212). -/
def vectorExtrema (op : Nat) (isMax : Bool) (c : Tcw) (s : State) : Res :=
  vectorOp op c s (vecBytes c.fmtOut c) (vecBytes c.fmtB c) 0 (c.count.toNat % 64) fun pt e a b _ =>
    packed c.fmtOut (vecExtrema isMax c.fmtOut.toNat c.rm.toNat (vecBitsAt e c) 0 (tileVals pt.table pt.esc c.fmtA.toNat a)
      (tileVals pt.table pt.esc c.fmtB.toNat b))

/-- VMIN (R212). -/
def execVmin (c : Tcw) (s : State) : Res := vectorExtrema 0x34 false c s

/-- VMAX (R212). -/
def execVmax (c : Tcw) (s : State) : Res := vectorExtrema 0x35 true c s

/-- VEXP2 (R212). -/
def execVexp2 (c : Tcw) (s : State) : Res := vectorArith 0x36 4 false false false c s

/-- VLOG2 (R212). -/
def execVlog2 (c : Tcw) (s : State) : Res := vectorArith 0x37 4 false false false c s

/-- VRCP (R212). -/
def execVrcp (c : Tcw) (s : State) : Res := vectorArith 0x38 4 false false false c s

/-- VRSQ (R212). -/
def execVrsq (c : Tcw) (s : State) : Res := vectorArith 0x39 4 false false false c s

/-- VCVT (R212): the one vector command with SAT. -/
def execVcvt (c : Tcw) (s : State) : Res := vectorArith 0x3A 1 false false (c.flags.getLsbD 0) c s

/-- VCMP (R212): count[7:6] names the relation. -/
def execVcmp (c : Tcw) (s : State) : Res :=
  vectorOp 0x3B c s (vecLen c) (vecBytes c.fmtB c) 0 (c.count.toNat % 64) fun pt _ a b _ =>
    ((List.zipWith (vecTest (c.count.toNat / 64)) (tileVals pt.table pt.esc c.fmtA.toNat a) (tileVals pt.table pt.esc c.fmtB.toNat b)).map
      fun r => if r then 1 else 0, 0)

/-- VSEL (R212): 4-bit operands a byte at a time, each with its mask byte. -/
def execVsel (c : Tcw) (s : State) : Res :=
  let w := fmtWidth c.fmtA.toNat
  vectorOp 0x3C c s (vecBytes c.fmtOut c) (vecBytes c.fmtB c) (if w = 4 then vecLen c / 2 else vecLen c) (c.count.toNat % 64)
    fun _ _ a b m => (cleanBytes c.fmtOut.toNat (vecSelect (max 1 (w / 8)) m a b), 0)

/-- VAND, VOR, VXOR on the storage bits (R212). -/
def vectorBits (op : Nat) (c : Tcw) (s : State) : Res :=
  vectorOp op c s (vecBytes c.fmtOut c) (vecBytes c.fmtB c) 0 (c.count.toNat % 64) fun _ _ a b _ =>
    (cleanBytes c.fmtOut.toNat (List.zipWith (fun x y => BitVec.ofNat 8 (vecBits op x.toNat y.toNat)) a b), 0)

/-- VAND (R212). -/
def execVand (c : Tcw) (s : State) : Res := vectorBits 0x3D c s

/-- VOR (R212). -/
def execVor (c : Tcw) (s : State) : Res := vectorBits 0x3E c s

/-- VXOR (R212). -/
def execVxor (c : Tcw) (s : State) : Res := vectorBits 0x3F c s

/-- VRED (R212): one element at offset 0 of the slot; a 4-bit one keeps its byte's high nibble. -/
def execVred (c : Tcw) (s : State) : Res :=
  let w := fmtWidth c.fmtOut.toNat
  tile 0x40 c s fun s core p e =>
    let pt := getPart s core p
    match tileAt s core core p c.hA.toNat e.slotA (vecBytes c.fmtA c) with
    | none => entryFault s core p e
    | some a =>
      let r := vecReduce (c.count.toNat / 64) c.fmtOut.toNat c.rm.toNat (vecBitsAt e c 0) (tileVals pt.table pt.esc c.fmtA.toNat a)
      let old := memByte s.mem (scratchKey core (viewBase s core p + e.slotD))
      let bs := if w = 4 then [BitVec.ofNat 8 (old.toNat / 16 * 16 + r.val % 16)] else leBytes (w / 8) r.val
      finishAt (withResults s core p e.seq [] [(e.slotD, bs)] r.flags) core p e.seq 2 (c.count.toNat % 64 + 8) 12

/-- VTRN (R212). -/
def execVtrn (c : Tcw) (s : State) : Res :=
  let w := fmtWidth c.fmtA.toNat
  vectorOp 0x41 c s (vecBytes c.fmtOut c) 0 0 32 fun _ _ a _ _ => (cleanBytes c.fmtOut.toNat (packElems w (transpose32 (rawElems w a))), 0)

/-- VBCAST (R212). -/
def execVbcast (c : Tcw) (s : State) : Res :=
  let w := fmtWidth c.fmtA.toNat
  vectorOp 0x42 c s (vecBytes c.fmtOut c) 0 0 (c.count.toNat % 64) fun _ _ a _ _ =>
    (cleanBytes c.fmtOut.toNat (packElems w (List.replicate (vecLen c) (nth 0 (rawElems w a) 0))), 0)

/-- VSCL (R212): the scale tile at Q2. -/
def execVscl (c : Tcw) (s : State) : Res :=
  let bl := tagBlog c.q2
  let z := ceilDiv (vecLen c) (2 ^ bl)
  tile 0x43 c s fun s core p e =>
    let pt := getPart s core p
    match tileAt s core core p c.hA.toNat e.slotA (vecBytes c.fmtA c), ownBytes s core p c.q2 z with
    | some a, some sc =>
      if !fitsOut s core p c (vecBytes c.fmtOut c) then entryFault s core p e
      else
        let r := packed c.fmtOut (vecScale bl c.fmtOut.toNat c.rm.toNat (vecBitsAt e c) sc 0 (tileVals pt.table pt.esc c.fmtA.toNat a))
        finishAt (withResults s core p e.seq [] [(e.slotD, r.1)] r.2) core p e.seq 2 (c.count.toNat % 64) 12
    | _, _ => entryFault s core p e

/-! ### No-op, key and mark -/

/-- TNOP (R79, R199): it only waits, consumes and produces. -/
def execTnop (c : Tcw) (s : State) : Res := tile 0x01 c s fun s core p e => finishAt s core p e.seq 0 0 0

/-- RNGK (R195, R215): its work was done at acceptance. -/
def execRngk (c : Tcw) (s : State) : Res := tile 0x61 c s fun s core p e => finishAt s core p e.seq 0 0 0

/-- TMARK (R227). -/
def execTmark (c : Tcw) (s : State) : Res :=
  tile 0x71 c s fun s core p e => finishAt (modPart s core p fun x => { x with mark := c.q1 }) core p e.seq 0 0 0

/-! ### Completion -/

/-- Write the slot results of a command. -/
def putResults (core p : Nat) : List (Nat × List Byte) → State → State
  | [], s => s
  | (off, bs) :: l, s => putResults core p l (putBytes s (scratchKey core (viewBase s core p + off)) bs)

/-- Advance C and P of the handles of a command (R199). -/
def advanceHandles (op : Nat) (c : Tcw) (t : List (Nat × Handle)) : List (Nat × Handle) :=
  let t1 := (tileIns op c).foldl (fun t i =>
    let x := tblGet {} t i
    tblSet t i { x with c := (x.c + c.win.toNat) % 65536 }) t
  (tileOut op c).toList.foldl (fun t i =>
    let x := tblGet {} t i
    tblSet t i { x with p := (x.p + c.wout.toNat) % 65536 }) t1

/-- Start the work of a command that waited for earlier conflicting ones, and complete those that only waited for one of them. -/
def wakeBlocked (core p : Nat) : List QEntry → State → State
  | [], s => s
  | e :: l, s =>
    wakeBlocked core p l (
      if e.cost ≠ 0 && !blocked (getPart s core p).queue e then
        readerWork (modEntry s core p e.seq fun x => { x with cost := 0 }) core p e
      else if e.started then post s s.cycle 0 .tileCommandComplete (.cmd core p e.seq) else s)

/-- The access of a tile command to a device address. -/
def cmdAccess (s : State) (core p : Nat) (e : QEntry) (op da z : Nat) (act : Act) : Access :=
  ⟨.cmd core p e.seq, op, (getPart s core p).owner, p, core, e.pc, da, z, 0, act, none, none⟩

/-- Whether a core may send one more packet to the line of an address (R335). -/
def writeRoom (s : State) (core ctx da : Nat) : Bool := unackedTo (getCore s core) (lineOf s ctx da) < 255

/-- Send device address writes of a command, each awaiting its acknowledgement. -/
def sendWrites (core p : Nat) (e : QEntry) : List (Nat × List Byte) → State → State
  | [], s => s
  | (da, bs) :: l, s =>
    let s1 := modEntry s core p e.seq fun x => { x with unacked := x.unacked + 1 }
    sendWrites core p e l (sendAccess s1 (cmdAccess s core p e 0 da bs.length (.store bs)))

/-- Apply the results of a command and free its entry (R194, R199, R228). -/
def completeTile (s : State) (core p : Nat) (e : QEntry) : State :=
  let op := tileOpcode e.word
  let s1 := putResults core p e.outBytes s
  let s2 := modCore s1 core fun x => { x with
    acc := e.outAcc.foldl (fun t a => tblPaste t (1024 * a.1) a.2) x.acc
    side := e.outSide.foldl (fun t a => tblPaste t (512 * a.1) a.2) x.side
    copies := if isCopyOp op then x.copies - 1 else x.copies }
  let s3 := if e.flags = 0 then s2 else orSticky s2 core p e.flags
  let s4 := modPart s3 core p fun x => { x with
    handles := advanceHandles op (tcwOf e.word) x.handles, queue := x.queue.filter fun f => f.seq != e.seq }
  let s5 := wakeBlocked core p (getPart s4 core p).queue s4
  match (getPart s5 core p).loop with
  | .pushing _ _ _ _ _ => post s5 s5.cycle 0 .tloopPush (.part core p)
  | _ => s5

/-- TILE_COMMAND_COMPLETE (R194, R199, R221, R228): only a started command whose unit is done, whose reads are made and whose writes are
all acknowledged completes, and only after every earlier conflicting one. -/
def execTileCommandComplete (s : State) : Res :=
  match s.focus with
  | .cmd core p seq =>
    match (getPart s core p).queue.find? fun e => e.seq == seq with
    | none => .next s
    | some e =>
      let done := match e.finish with
        | some f => f ≤ s.cycle
        | none => e.cost == 0
      if !e.started || !done || !e.allRead || (getPart s core p).stopCycle.isSome then .next s
      else if !e.outDev.isEmpty then
        if e.outDev.any fun w => !writeRoom s core (getPart s core p).owner w.1 then .next (after s 16 .tileCommandComplete s.focus)
        else .next (sendWrites core p e e.outDev (modEntry s core p seq fun x => { x with outDev := [] }))
      else if e.unacked ≠ 0 || blocked (getPart s core p).queue e then .next s
      else .next (completeTile s core p e)
  | _ => .fault .noSubject

end Sys2Proof.Machine
end

