-- ==== Sys2Proof/Machine/Copy.lean ====
section
/-! DEFINITION. The copy family (R131, R216 to R221, R225), QTLD (R214) and TSIG with its remote advance (R226). A copy takes one source
line at a time; the line writes and reads behind a port are packets of their own. -/

namespace Sys2Proof.Machine

/-! ### Addresses of a row -/

/-- The device address of `n` bytes at `off` from an address quad (R81, R216): a program address is checked by R25 with the rights
given, a device address by R27 alone; both ends have a home (R27, R30). -/
def tileAddr (s : State) (core p : Nat) (dev : Bool) (q : Word) (off n align : Nat) (need : Rights) : Option Nat :=
  let ctx := (getPart s core p).owner
  let home := fun da => if homeOf s ctx core p da = .none || homeOf s ctx core p (da + (n - 1)) = .none then none else some da
  if dev then
    let da := q.toNat + off
    if 2 ^ 56 ≤ da || da % align ≠ 0 then none else home da
  else match getCtx s ctx with
    | none => none
    | some x =>
      match segCheck x (tagAdd q (BitVec.ofNat 64 off)) n align need with
      | .error _ => none
      | .ok da => home da

/-- Whether a device address names a constant window (R19). -/
def inWindow (s : State) (core p da : Nat) : Bool :=
  match homeOf s (getPart s core p).owner core p da with
  | .scratch c off => off < viewBase s c p + 0x800
  | _ => false

/-- Element sizes in bytes for the alignment of rows (R216); 4-bit rows are bytes. -/
def copyAlign (op : Nat) (c : Tcw) (f : BitVec 4) : Nat :=
  if f = 0 then (if op = 0x51 && c.q3.toNat / 2 ^ 61 ≤ 2 then 8 else 1) else max 1 (fmtWidth f.toNat / 8)

/-- Offset of row r on the source and on the destination side (R218). -/
def srcOff (op : Nat) (g : CopyGeom) (e : QEntry) (r : Nat) : Nat := if op = 0x52 then nth 0 e.idx r * g.sstr else r * g.sstr

def dstOff (op : Nat) (g : CopyGeom) (e : QEntry) (r : Nat) : Nat := if op = 0x53 then nth 0 e.idx r * g.dstr else r * g.dstr

def srcRow (s : State) (core p op : Nat) (c : Tcw) (e : QEntry) (r : Nat) : Option Nat :=
  let g := copyGeom op c
  tileAddr s core p (q1dev c) c.q1 (srcOff op g e r) g.sbytes (copyAlign op c c.fmtA) rightR

/-- The destinations of row r: one, or one per target of an MCAST; no window may be written (R19, R219). -/
def dstRow (s : State) (core p op : Nat) (c : Tcw) (e : QEntry) (r : Nat) : Option (List Nat) :=
  let g := copyGeom op c
  match tileAddr s core p (q2dev c) c.q2 (dstOff op g e r) g.dbytes (copyAlign op c c.fmtOut) (if op = 0x51 then rightM else rightW) with
  | none => none
  | some da =>
    let l := if op = 0x54 then e.idx.map fun t => 2 ^ 52 + coreY t * 2 ^ 23 + coreX t * 2 ^ 16 + da % 65536 else [da]
    let ctx := (getPart s core p).owner
    if l.any fun d => inWindow s core p d || homeOf s ctx core p d = .none || homeOf s ctx core p (d + (g.dbytes - 1)) = .none
      then none else some l

/-! ### Shadow comparators (R131) -/

/-- The scratchpad bytes that a copy has still to read on a core: least and past-the-greatest absolute offset. -/
def unreadRange (s : State) (core p op : Nat) (c : Tcw) (e : QEntry) (home row off : Nat) : Option (Nat × Nat) :=
  let g := copyGeom op c
  ((List.range g.rows).drop row).foldl (fun acc r =>
    match (srcRow s core p op c e r).map (homeOf s (getPart s core p).owner core p) with
    | some (.scratch k a) =>
      if k ≠ home then acc
      else
        let lo := a + (if r = row then off else 0)
        match acc with
        | none => some (lo, a + g.sbytes)
        | some (l, h) => some (min l lo, max h (a + g.sbytes))
    | _ => acc) none

/-- Whether a form holds a comparator: COPY, COPYR, GATH and MCAST. -/
def shadowForm (op : Nat) : Bool := op == 0x50 || op == 0x51 || op == 0x52 || op == 0x54

/-- The core whose comparator a copy needs: that of its first source row, when it is a scratchpad. -/
def shadowCore (s : State) (core p op : Nat) (c : Tcw) (e : QEntry) : Option Nat :=
  if !shadowForm op then none
  else match (srcRow s core p op c e 0).map (homeOf s (getPart s core p).owner core p) with
    | some (.scratch k _) => some k
    | _ => none

/-- Deliver accesses that a comparator held, in order. -/
def releaseAll (c : Nat) : List (Nat × Access) → State → State
  | [], s => s
  | (off, a) :: l, s => releaseAll c l (scratchAccess s c off a)

/-- Move a comparator up to what is still unread, or free it (`none`), and present again, in order, what it held: an access that no
comparator holds any more is delivered. -/
def moveShadow (s : State) (home core p seq : Nat) (range : Option (Nat × Nat)) : State :=
  let k := getCore s home
  match k.shadows.find? fun x => x.src == core && x.part == p && x.seq == seq with
  | none => s
  | some sh =>
    let rest := k.shadows.filter fun x => x != sh
    match range with
    | none => releaseAll home sh.held (setCore s home { k with shadows := rest })
    | some (lo, hi) =>
      releaseAll home sh.held (setCore s home { k with shadows := rest ++ [{ sh with lo := lo, hi := hi, held := [] }] })

/-! ### Lines -/

/-- Next event of a running copy. The pace of the engine is a free value (Config.unitTime). -/
def nextLine (s : State) (core p seq : Nat) : State :=
  let n := 1 + Config.unitTime s.nonce % 16
  bump (post (countCycles s (regionOf core) (getPart s core p).owner n) (s.cycle + n) 0 .copyShadowRelease (.cmd core p seq))

/-- The act of a line write: a store, or the elements of a COPYR (R220). -/
def lineAct (op : Nat) (c : Tcw) (bs : List Byte) : Act :=
  if op = 0x51 then .copyr (c.q3.toNat / 2 ^ 61) c.fmtA.toNat c.rm.toNat bs else .store bs

/-- Send the line writes of converted bytes to each destination, each marked with the line of its row (R224). -/
def sendLines (core p op : Nat) (c : Tcw) (e : QEntry) (bs : List Byte) (off : Nat) : List Nat → State → State
  | [], s => s
  | da :: l, s =>
    let parts := splitLines (bs.length + 1) (da + off) bs
    let mark := fun a => e.next / 2 ^ 24 * 2 ^ 24 + (a / 64 - da / 64)
    let s1 := modEntry s core p e.seq fun x => { x with unacked := x.unacked + parts.length, lineAcks := x.lineAcks ++ parts.map fun w => mark w.1 }
    sendLines core p op c e bs off l
      (parts.foldl (fun s w => sendAccess s (cmdAccess s core p e (mark w.1) w.1 w.2.length (lineAct op c w.2))) s1)

/-- How many of `n` source bytes can be converted now: an odd element that would fill half a byte waits for the next line. -/
def wholeBytes (c : Tcw) (n : Nat) : Nat :=
  let wa := fmtWidth c.fmtA.toNat
  if c.fmtA ≠ c.fmtOut && fmtWidth c.fmtOut.toNat = 4 && 8 ≤ wa then n / (2 * (wa / 8)) * (2 * (wa / 8)) else n

/-- A source line has been read: its bytes are converted and written, the comparator moves on, and the copy goes to its next line or
has read all (R131, R221). -/
def lineRead (s : State) (core p op : Nat) (c : Tcw) (e : QEntry) (dst : List Nat) (bs : List Byte) : State :=
  let g := copyGeom op c
  let pt := getPart s core p
  let row := e.next / 2 ^ 24
  let off := e.next % 2 ^ 24
  let data := e.carry ++ bs
  let k := wholeBytes c data.length
  let cv := copyConvert pt.table pt.esc c.fmtA.toNat c.fmtOut.toNat c.rm.toNat (c.flags.getLsbD 0) (data.take k)
  let next := if off + bs.length < g.sbytes then e.next + bs.length else (row + 1) * 2 ^ 24
  let done := g.rows ≤ next / 2 ^ 24
  let home := shadowCore s core p op c e
  let s1 := modEntry s core p e.seq fun x => { x with
    next := next, carry := data.drop k, reading := false, allRead := done, flags := x.flags ||| cv.2 }
  let s2 := sendLines core p op c e cv.1 (convertedOff c (off - e.carry.length)) dst s1
  let s3 := match home with
    | some k => moveShadow s2 k core p e.seq (if done then none else unreadRange s2 core p op c e k (next / 2 ^ 24) (next % 2 ^ 24))
    | none => s2
  if done then post s3 s3.cycle 0 .tileCommandComplete (.cmd core p e.seq) else nextLine s3 core p e.seq

/-- One line of ZERO: nothing is read (R218). -/
def zeroLine (s : State) (core p : Nat) (c : Tcw) (e : QEntry) (da : Nat) : State :=
  let g := copyGeom 0x55 c
  let off := e.next % 2 ^ 24
  let z := min (g.dbytes - off) (64 - (da + off) % 64)
  let next := if off + z < g.dbytes then e.next + z else (e.next / 2 ^ 24 + 1) * 2 ^ 24
  let done := g.rows ≤ next / 2 ^ 24
  let s1 := modEntry s core p e.seq fun x => { x with next := next, allRead := done }
  let s2 := sendLines core p 0x55 c e (List.replicate z 0) off [da] s1
  if done then s2 else nextLine s2 core p e.seq

/-- The next line of a running copy (R221): its row's addresses are checked (R218), then the line is read at its home. It waits while a line
that it would write has 255 packets of this core unacknowledged (R335). -/
def copyLine (s : State) (core p op : Nat) (c : Tcw) (e : QEntry) : State :=
  let g := copyGeom op c
  let row := e.next / 2 ^ 24
  let off := e.next % 2 ^ 24
  match dstRow s core p op c e row with
  | none => entryFault s core p e
  | some dst =>
    let out := convertedOff c (off - e.carry.length)
    if dst.any fun d => !writeRoom s core (getPart s core p).owner (d + out) || !writeRoom s core (getPart s core p).owner (d + out + 64)
      then nextLine s core p e.seq
    else if op = 0x55 then zeroLine s core p c e (nth 0 dst 0)
    else match srcRow s core p op c e row with
      | none => entryFault s core p e
      | some src =>
        let da := src + off
        let z := min (g.sbytes - off) (64 - da % 64)
        let here := fun key => if poisoned s key z then entryFault s core p e
          else lineRead s core p op c e dst (memRead s.mem key z)
        match homeOf s (getPart s core p).owner core p da with
        | .scratch k o => here (scratchKey k o)
        | .istore k o => here (istoreKey k o)
        | .commons r o => here (commonsKey r o)
        | .none => entryFault s core p e
        | _ => sendAccess (modEntry s core p e.seq fun x => { x with reading := true }) (cmdAccess s core p e e.next da z .load)

/-- Whether the dusk cycle of a context has come (R230). -/
def duskDue (s : State) (ctx : Nat) : Bool := ((getCtx s ctx).bind (·.dusk)).any fun d => d ≤ s.cycle

/-- COPY_SHADOW_RELEASE (R131, R221, R230): a running copy takes its next line, which frees what its comparator held before it; from the
dusk cycle on it takes none. -/
def execCopyShadowRelease (s : State) : Res :=
  match s.focus with
  | .cmd core p seq =>
    match (getPart s core p).queue.find? fun e => e.seq == seq with
    | none => .next s
    | some e =>
      if !e.started || e.allRead || e.reading || e.parked || (getPart s core p).stopCycle.isSome || duskDue s (getPart s core p).owner
        then .next s
      else .next (copyLine s core p (tileOpcode e.word) (tcwOf e.word) e)
  | _ => .fault .noSubject

/-! ### Starting a copy -/

/-- The fields of Q3 that R217 wants (a bad one is a fault at execution): a nonzero N, no reserved bits, an even 4-bit row. -/
def copyFieldsOk (op : Nat) (c : Tcw) : Bool :=
  let q := c.q3.toNat
  let n := (copyGeom op c).n
  let four := fun (f : BitVec 4) => fmtWidth f.toNat == 4
  n ≠ 0 && (n % 2 == 0 || !(four c.fmtA || four c.fmtOut)) && (match op with
    | 0x51 => q / 2 ^ 61 ≤ 5
    | 0x54 => q % 2 ^ 24 == 0 && bitsOf q 63 56 ≠ 0 && bitsOf q 55 48 ≠ 0 && bitsOf q 63 56 ≤ 128 && bitsOf q 55 48 ≤ 128
    | 0x55 => q / 2 ^ 61 == 0 && bitsOf q 41 21 == 0
    | _ => q / 2 ^ 61 == 0)

/-- The index list of GATH and SCAT, read in line in the own view (R218). -/
def indexList (s : State) (core p : Nat) (off n : Nat) : Option (List Nat) :=
  let k := scratchKey core (viewBase s core p + off)
  if off % 4 ≠ 0 || viewSize s core < off + 4 * n || poisoned s k (4 * n) then none
  else some ((chunks 4 n (memRead s.mem k (4 * n))).map ofLeBytes)

/-- What a form keeps in its index list: indices, or the targets of an MCAST (R219). -/
def copyIndex (s : State) (core p op : Nat) (c : Tcw) : Option (List Nat) :=
  let ctx := (getPart s core p).owner
  match op with
  | 0x52 => indexList s core p (bitsOf c.q3.toNat 20 0) (c.count.toNat + 1)
  | 0x53 => indexList s core p (bitsOf c.q3.toNat 20 0) (c.count.toNat + 1)
  | 0x54 =>
    match tileAddr s core p (q2dev c) c.q2 0 (copyGeom op c).dbytes (copyAlign op c c.fmtOut) rightW with
    | none => none
    | some da => mcastTargets s ctx da (bitsOf c.q3.toNat 63 56) (bitsOf c.q3.toNat 55 48)
  | _ => some []

/-- Start a command of the copy family: fields, index list, comparator; its first line follows. -/
def copyOp (op : Nat) (c : Tcw) (s : State) : Res :=
  tile op c s fun s core p e =>
    match copyIndex s core p op c with
    | none => entryFault s core p e
    | some idx =>
      if !copyFieldsOk op c then entryFault s core p e
      else
        let e1 := { e with idx := idx, allRead := false }
        let s1 := modCore (modEntry s core p e.seq fun x => { x with idx := idx, allRead := false }) core fun x =>
          { x with copies := x.copies + 1 }
        let s2 := match shadowCore s1 core p op c e1 with
          | some k =>
            match unreadRange s1 core p op c e1 k 0 0 with
            | some (lo, hi) => modCore s1 k fun x => { x with shadows := x.shadows ++ [⟨core, p, e.seq, lo, hi, []⟩] }
            | none => s1
          | none => s1
        post s2 s2.cycle 0 .copyShadowRelease (.cmd core p e.seq)

/-- COPY (R217, R218). -/
def execCopy (c : Tcw) (s : State) : Res := copyOp 0x50 c s

/-- COPYR (R217, R220). -/
def execCopyr (c : Tcw) (s : State) : Res := copyOp 0x51 c s

/-- GATH (R217, R218). -/
def execGath (c : Tcw) (s : State) : Res := copyOp 0x52 c s

/-- SCAT (R217, R218). -/
def execScat (c : Tcw) (s : State) : Res := copyOp 0x53 c s

/-- MCAST (R217 to R219). -/
def execMcast (c : Tcw) (s : State) : Res := copyOp 0x54 c s

/-- ZERO (R217, R218). -/
def execZero (c : Tcw) (s : State) : Res := copyOp 0x55 c s

/-! ### QTLD -/

/-- The table and the escape flag are set and the command is done (R214). -/
def qtldLoad (s : State) (core p : Nat) (c : Tcw) (e : QEntry) (bs : List Byte) : State :=
  let s1 := modPart s core p fun x => { x with table := bs.map (·.toInt), esc := c.flags.getLsbD 0 }
  let s2 := modEntry s1 core p e.seq fun x => { x with reading := false, allRead := true }
  post s2 s2.cycle 0 .tileCommandComplete (.cmd core p e.seq)

/-- The read of QTLD (R214), made again after a wake (R225). -/
def qtldRead (s : State) (core p : Nat) (c : Tcw) (e : QEntry) : State :=
  match tileAddr s core p (q1dev c) c.q1 0 16 16 rightR with
  | none => entryFault s core p e
  | some da =>
    let here := fun key => if poisoned s key 16 then entryFault s core p e else qtldLoad s core p c e (memRead s.mem key 16)
    match homeOf s (getPart s core p).owner core p da with
    | .scratch k o => here (scratchKey k o)
    | .istore k o => here (istoreKey k o)
    | .commons r o => here (commonsKey r o)
    | .none => entryFault s core p e
    | _ => sendAccess (modEntry s core p e.seq fun x => { x with reading := true, allRead := false })
        (cmdAccess s core p e 0 da 16 .load)

/-- QTLD (R195, R214). -/
def execQtld (c : Tcw) (s : State) : Res := tile 0x60 c s fun s core p e => qtldRead s core p c e

/-- A reply to a read of a tile command (R221, R225, R229). -/
def cmdReply (s : State) (core p seq op : Nat) (r : LoadRes) : State :=
  match (getPart s core p).queue.find? fun e => e.seq == seq with
  | none => s
  | some e =>
    let o := tileOpcode e.word
    let c := tcwOf e.word
    if !e.reading then s
    else match r with
      | .data bs =>
        if o = 0x60 then qtldLoad s core p c e bs
        else if op ≠ e.next then s
        else match dstRow s core p o c e (e.next / 2 ^ 24) with
          | none => entryFault s core p e
          | some dst => lineRead s core p o c e dst bs
      | _ => entryFault s core p e

/-- Take up the read at which a command is parked (R225). -/
def resumeCmd (s : State) (core p seq : Nat) : State :=
  match (getPart s core p).queue.find? fun e => e.seq == seq with
  | none => s
  | some e =>
    let s1 := modEntry s core p seq fun x => { x with parked := false }
    if tileOpcode e.word = 0x60 then qtldRead s1 core p (tcwOf e.word) { e with parked := false }
    else copyLine s1 core p (tileOpcode e.word) (tcwOf e.word) { e with parked := false }

/-! ### TSIG -/

/-- Apply a remote advance to a handle of a partition (R200, R226) and set the event flags of WFM (R263). -/
def applyAdvance (s : State) (core p h : Nat) (consume : Bool) (n : Nat) : Option State :=
  if !inHandles s core p h then none
  else (advance (getHandle (getPart s core p) h) consume n).map fun x => setFlags (setHandle s core p h x) core p

/-- A remote advance to a core here or on another device. -/
def sendAdvance (s : State) (core p : Nat) (e : QEntry) (dev : Option Nat) (dst h : Nat) (consume : Bool) (n : Nat) : State :=
  let pkt : AdvPkt := ⟨core, p, e.seq, (getPart s core p).owner, dst, h, consume, n, dev.map fun _ => s.dev.id⟩
  let s1 := modEntry s core p e.seq fun x => { x with unacked := x.unacked + 1 }
  match dev with
  | some d => emit s1 d (.remoteAdvance pkt)
  | none => send s1 core dst 8 0 (.remoteAdvance pkt)

/-- The advance of a TSIG (R226): a device address laid out as a core reference, bits [4:0] and [8] of its offset. -/
def tsigAdvance (s : State) (core p : Nat) (c : Tcw) (e : QEntry) : State :=
  let da := c.q1.toNat
  let sub := da % 65536
  let h := sub % 32
  let consume := bitAt sub 8
  let n := c.q2.toNat
  let ctx := (getPart s core p).owner
  let go := fun dst =>
    if !holds s ctx dst p then entryFault s core p e
    else if dst = core then
      match applyAdvance s core p h consume n with
      | none => entryFault s core p e
      | some s1 => finishAt s1 core p e.seq 0 0 0
    else sendAdvance s core p e none dst h consume n
  if sub / 512 ≠ 0 || bitsOf sub 7 5 ≠ 0 then entryFault s core p e
  else if da / 2 ^ 16 = 0 then go core
  else match coreRef s ctx (BitVec.ofNat 64 (da - sub)) with
    | .core k _ => go k
    | .device d k _ => sendAdvance s core p e (some d) k h consume n
    | .none => entryFault s core p e

/-- TSIG (R195, R226). -/
def execTsig (c : Tcw) (s : State) : Res :=
  tile 0x70 c s fun s core p e =>
    if c.flags.getLsbD 0 then tsigAdvance s core p c e
    else match tileAddr s core p (q1dev c) c.q1 0 8 8 rightW with
      | none => entryFault s core p e
      | some da =>
        if inWindow s core p da then entryFault s core p e
        else
          let s1 := modEntry s core p e.seq fun x => { x with unacked := 1 }
          sendAccess s1 (cmdAccess s core p e 0 da 8 (.store (leBytes 8 c.q2.toNat)))

/-- REMOTE_ADVANCE (R226, R263): applied as ADV applies it, without a fence; refused whole when it cannot be. -/
def execRemoteAdvance (p : AdvPkt) (s : State) : Res :=
  let ctx := localCtx s p.dev p.ctx
  let a : Access := ⟨.cmd p.src p.part p.seq, 0, p.ctx, p.part, p.src, 0, 2 ^ 52, 8, 0, .store [], none, none⟩
  let ack := fun (s : State) (st : AckStatus) =>
    match p.dev with
    | some d => emit s d (.acknowledgement a st)
    | none => send s p.dst p.src 8 0 (.acknowledgement a st) (.cmd p.src p.part p.seq)
  .next (atPartition s ctx p.dst p.part (.remoteAdvance p) fun s =>
    if !holds s ctx p.dst p.part then ack s .noHome
    else match applyAdvance s p.dst p.part p.h p.consume p.n with
      | some s1 => ack s1 .ok
      | none => ack s .badAdvance)

/-! ### Which command starts (R194 to R196) -/

/-- The head of a queue, when nothing of its own queue holds it: the queue runs, no command before it faulted (R84, R229), a QTLD before it
is complete, and QTLD, TSIG and TMARK are the oldest (R195). -/
def queueHead (x : Part) : Option QEntry :=
  if x.stopCycle.isSome then none
  else match x.queue with
    | [] => none
    | f :: _ =>
      if f.started && tileOpcode f.word = 0x60 then none
      else match x.queue.find? fun e => !e.started with
        | none => none
        | some e =>
          let op := tileOpcode e.word
          if (op = 0x60 || op = 0x70 || op = 0x71) && f.seq ≠ e.seq then none
          else if x.dead.any fun d => !acceptedBefore e.seq d then none
          else some e

/-- Whether the unit of a command is free (R196). -/
def unitFree (s : State) (core p op : Nat) (c : Tcw) (e : QEntry) : Bool :=
  let k := getCore s core
  match tileUnit op with
  | 1 => k.matrixBusy ≤ s.cycle && (getPart s core p).queue.all fun x => !x.started || x.cost == 0
  | 2 => k.vectorBusy ≤ s.cycle
  | 3 => k.copies < 4 && (match shadowCore s core p op c (match copyIndex s core p op c with
      | some i => { e with idx := i }
      | none => e) with
    | some h => (getCore s h).shadows.length < 4
    | none => true)
  | _ => true

/-- Whether the handle counts let a command start (R80); an undefined handle lets it start, and fault. -/
def countsAllow (s : State) (core p op : Nat) (c : Tcw) : Bool :=
  let h := getHandle (getPart s core p)
  (tileHandles op c).any (fun i => (h i).n == 0)
    || ((tileIns op c).all (fun i => c.win.toNat ≤ (h i).claimable) && (tileOut op c).all fun i => c.wout.toNat ≤ (h i).free)

/-- Whether the line of a TSIG's store has room for a packet (R335). -/
def signalRoom (s : State) (core p op : Nat) (c : Tcw) : Bool :=
  op != 0x70 || c.flags.getLsbD 0 || writeRoom s core (getPart s core p).owner (rawAddr s (getPart s core p).owner (q1dev c) c.q1)

/-- Whether a command conflicts with an earlier one that a translation fault stalls (R225). -/
def behindStalled (s : State) (core p : Nat) (e : QEntry) : Bool :=
  (earlier (getPart s core p).queue e.seq).any fun f => stalled s core p f && conflicts f.word e.word

/-- The command that a partition's queue could start now. -/
def canStart (s : State) (core p : Nat) : Option QEntry :=
  match queueHead (getPart s core p) with
  | none => none
  | some e =>
    let op := tileOpcode e.word
    let c := tcwOf e.word
    if unitFree s core p op c e && countsAllow s core p op c && signalRoom s core p op c && !behindStalled s core p e then some e else none

/-- Whether it is a partition's turn on the unit that its head needs (R196). -/
def hasTurn (s : State) (core p : Nat) (e : QEntry) : Bool :=
  let u := tileUnit (tileOpcode e.word)
  let n := max 1 (partCount s core)
  let first := tblGet 0 (getCore s core).turns u
  let rank := fun q => (q + n - first % n) % n
  (List.range n).all fun q => q == p || rank p < rank q || (match canStart s core q with
    | some f => tileUnit (tileOpcode f.word) != u
    | none => true)

end Sys2Proof.Machine
end

