-- ==== Sys2Proof/Machine/Graph.lean ====
section
/-! DEFINITION. Graph rewriting (R231 to R250): nodes, pools, pair bags with their spills, RULES, NALLOC, NFREE, BAGINS, BAGPOP, REWRITE
and LINK with its exchanges. -/

namespace Sys2Proof.Machine

/-! ### Nodes -/

/-- Device address of the node that a wire word names (R232). -/
def nodeAddr (w : Word) : Nat := w.toNat % 2 ^ 56 / 32 * 32

def wireR (w : Word) : Bool := w.getLsbD 2

def wirePort (w : Word) : Nat := w.toNat % 4

/-- BUSY (R232). -/
def busyWord : Word := 4

/-- Bytes of an arena in one region (R233). -/
def arenaSize (g : GraphSt) : Nat := 2 ^ (13 + g.cl)

/-- Whether a node lies in the arena (R233). -/
def inArena (s : State) (ctx : Nat) (g : GraphSt) (n : Nat) : Bool :=
  let o := n % 2 ^ 23
  addrClass n == 3 && n / 2 ^ 29 % 2 ^ 23 == 0 && holdsRegion s ctx (n / 2 ^ 23 % 64) && g.abase ≤ o && o < g.abase + arenaSize g

/-- Whether a node lies where R233 allows. -/
def nodeOk (s : State) (ctx part : Nat) (g : GraphSt) (n : Nat) : Bool :=
  inArena s ctx g n
    || (addrClass n == 1 && (match homeOf s ctx 0 part n with
      | .scratch c off =>
        let v := off - viewBase s c part
        0x1800 ≤ v && v + 32 ≤ viewSize s c - 4096
      | _ => false))

/-- The home core of a node (R233). -/
def nodeCore (g : GraphSt) (n : Nat) : Nat :=
  if addrClass n = 3 then
    let r := n / 2 ^ 23 % 64
    let i := (n % 2 ^ 23 - g.abase) / 2 ^ (5 + g.cl)
    coreAt (r % 8 * 16 + i % 16) (r / 8 * 16 + i / 16)
  else coreAt (n / 2 ^ 16 % 128) (n / 2 ^ 23 % 128)

/-- Device address of node `k` of a core's chunk of the arena. -/
def chunkNode (g : GraphSt) (core k : Nat) : Nat :=
  let i := coreY core % 16 * 16 + coreX core % 16
  3 * 2 ^ 52 + regionOf core * 2 ^ 23 + g.abase + i * 2 ^ (5 + g.cl) + 32 * k

/-- The graph state of a thread's partition; not set is a graph fault (R234). -/
def withGraph (s : State) (t : Thread) (k : GraphSt → State) : State :=
  match (getPart s t.core t.part).graph with
  | some g => k g
  | none => fatalAt s t 0x09 0

/-! ### Bags (R239, R240) -/

/-- Memory key of a bag entry. -/
def bagKey (s : State) (core p i : Nat) : Nat := scratchKey core (viewBase s core p + viewSize s core - 4096 + 16 * i)

/-- Memory key of a block of the region bag (R240; the layout is the model's). -/
def blockKey (g : GraphSt) (region i : Nat) : Nat := commonsKey region (g.boff + 4096 + 1024 * i)

/-- Move bytes with their poison. -/
def moveBytes (s : State) (src dst n : Nat) : State :=
  let bad := (s.poison.filter fun w => src ≤ w && w < src + n).map fun w => w - src + dst
  addPoison (clearPoison { s with mem := memWrite s.mem dst (memRead s.mem src n) } dst n) bad

/-- Spill the 64 oldest entries as a block, when the region bag has room (R240). Bags of one partition index at different offsets of the
commons are different bags (log entry 74). -/
def spillBag (s : State) (core p : Nat) : State :=
  match (getPart s core p).graph with
  | none => s
  | some g =>
    let r := regionOf core
    let bs := tblGet [] (getRegion s r).bags p
    match firstFree ((bs.filter fun b => b.boff == g.boff).map (·.index)) g.bsz 0 with
    | none => s
    | some i =>
      let n := (getPart s core p).bag
      let s1 := moveBytes s (bagKey s core p 0) (blockKey g r i) 1024
      let s2 := moveBytes s1 (bagKey s core p 64) (bagKey s core p 0) (16 * (n - 64))
      let s3 := modPart s2 core p fun x => { x with bag := x.bag - 64 }
      modRegion s3 r fun x => { x with bags := tblSet x.bags p (bs ++ [⟨core, i, 64, g.boff⟩]) }

/-- Push an entry; `none` when the bag is full. A push that leaves 193 entries spills (R240). -/
def bagPush (s : State) (core p : Nat) (a b : Word) : Option State :=
  let n := (getPart s core p).bag
  if 256 ≤ n then none
  else
    let s1 := modPart (putBytes s (bagKey s core p n) (quadBytes [a, b])) core p fun x => { x with bag := n + 1 }
    some (if n + 1 = 193 then spillBag s1 core p else s1)

/-- The acknowledgement that answers a graph packet. An NFREE names the line of its node (R335), a pair push names none. -/
def graphAck (g : GraphPkt) (line : Bool) : Access :=
  ⟨.thread g.tid, g.op, g.ctx, g.part, g.src, 0, g.da, 8, 0, if line then .merge false 10 true 0 else .store [], none, none⟩

/-- Send an acknowledgement of a graph packet to the thread that sent it. -/
def ackGraph (s : State) (core : Nat) (g : GraphPkt) (st : AckStatus) (line : Bool := false) : State :=
  let a := graphAck g line
  let s := stopSoon s g.tid st
  if core = g.src then post s s.cycle 0 (.acknowledgement a st) else send s core g.src 8 0 (.acknowledgement a st)

/-- Let pushes that wait at the router enter the bag (R240). -/
def retryBounced (core p : Nat) : List GraphPkt → State → State
  | [], s => s
  | g :: l, s =>
    match bagPush s core p g.w g.w2 with
    | some s1 => retryBounced core p l (ackGraph (modPart s1 core p fun x => { x with bounced := l }) core g .ok)
    | none => s

/-- Remove the top entry (R242); pushes that waited take the place. -/
def bagDrop (s : State) (core p : Nat) : State :=
  let s1 := modPart s core p fun x => { x with bag := x.bag - 1 }
  retryBounced core p (getPart s1 core p).bounced s1

/-- An entry of a bag; `none` for a poisoned one. -/
def bagEntry (s : State) (core p i : Nat) : Option (Word × Word) :=
  let k := bagKey s core p i
  if poisoned s k 16 then none
  else some (BitVec.ofNat 64 (ofLeBytes (memRead s.mem k 8)), BitVec.ofNat 64 (ofLeBytes (memRead s.mem (k + 8) 8)))

/-- PAIR_PUSH (R240, R246): at the home core of the lower node, or a continuation at the issuing core; it waits while the bag is full. -/
def execPairPush (g : GraphPkt) (s : State) : Res :=
  let core := if wireR g.w then g.src else match (getPart s g.src g.part).graph with
    | some gs => nodeCore gs g.da
    | none => g.src
  .next (atPartition s g.ctx core g.part (.pairPush g) fun s =>
    let pt := getPart s core g.part
    match if pt.bounced.isEmpty then bagPush s core g.part g.w g.w2 else none with
    | some s1 => ackGraph s1 core g .ok
    | none => setPart s core g.part { pt with bounced := pt.bounced ++ [g] })

/-! ### RULES -/

/-- The commons quota of a context: first offset and length (R308). -/
def quotaOf (s : State) (x : Ctx) (g : Nat) : Nat × Nat :=
  match (psetOf s g).bind fun y => y.entries.find? fun e => e.p == x.part && e.vd == x.vd with
  | some e => (e.qbase * 65536, e.qlen * 65536)
  | none => (0, 0)

/-- The checks of R234 on a graph descriptor. -/
def rulesOk (s : State) (x : Ctx) (bs : List Byte) : Bool :=
  let q1 := fieldAt bs 8 8
  let q2 := fieldAt bs 16 8
  let cl := q1 / 2 ^ 24 % 16
  let abase := q1 % 2 ^ 23
  let bsz := q2 / 2 ^ 32 % 2 ^ 16
  let boff := q2 % 2 ^ 23
  let asz := 2 ^ (13 + cl)
  let bsize := 1024 * bsz + 4096
  let inside := fun (lo n : Nat) => (blockRegions x).all fun g =>
    let q := quotaOf s x g
    q.1 ≤ lo && lo + n ≤ q.1 + q.2
  q1 / 2 ^ 28 == 0 && q1 / 2 ^ 23 % 2 == 0 && q2 / 2 ^ 48 == 0 && q2 / 2 ^ 23 % 2 ^ 9 == 0 && fieldAt bs 24 8 == 0
    && 4 ≤ cl && cl ≤ 9 && abase % 32 == 0 && 1 ≤ bsz && bsz ≤ 4096 && boff % 4096 == 0
    && inside abase asz && inside boff bsize && (abase + asz ≤ boff || boff + bsize ≤ abase)
    && (match segCheck x (BitVec.ofNat 64 (fieldAt bs 0 8)) 262144 4096 rightR with
      | .ok da => addrClass da == 3 || addrClass da == 4
      | .error _ => false)

/-- The descriptor has been read (R234): the first RULES sets everything and empties pool and bag, a later one may change rtab. -/
def rulesWith (bs : List Byte) (s : State) (t : Thread) (x : Ctx) : State :=
  let q1 := fieldAt bs 8 8
  let q2 := fieldAt bs 16 8
  let g : GraphSt := ⟨BitVec.ofNat 64 (fieldAt bs 0 8), q1 / 2 ^ 24 % 16, q1 % 2 ^ 23, q2 / 2 ^ 32 % 2 ^ 16, q2 % 2 ^ 23⟩
  if !rulesOk s x bs then fatalAt s t 0x09 (t.pc.toNat)
  else match (getPart s t.core t.part).graph with
    | some o =>
      if { o with rtab := g.rtab } = g then retire (modPart s t.core t.part fun p => { p with graph := some g }) t
      else fatalAt s t 0x09 (t.pc.toNat)
    | none =>
      retire (modPart s t.core t.part fun p => { p with graph := some g, bag := 0, bump := 0, free := [], quarantine := [] }) t

/-- RULES (R234). -/
def execRules (g : BitVec 5) (a : BitVec 4) (s : State) : Res :=
  scalar g s fun s t =>
    match getCtx s t.ctx, t.wait with
    | none, _ => fatalAt s t 0x02 0
    | some x, .gathered bs _ => rulesWith bs s t x
    | some x, _ =>
      match segCheck x (t.reg a) 64 64 rightR with
      | .error c => fatalAt s t c (t.reg a).toNat
      | .ok da =>
        match homeOf s t.ctx t.core t.part da with
        | .scratch c off =>
          if c ≠ t.core then gatherFrom s t da 64 [] 1
          else if poisoned s (scratchKey c off) 64 then fatalAt s t 0x11 da
          else rulesWith (memRead s.mem (scratchKey c off) 64) s t x
        | _ => gatherFrom s t da 64 [] 1

/-! ### NALLOC and NFREE -/

/-- Issue stores of quads at consecutive addresses, then go on. -/
def storeQuads : List Word → Nat → (State → Thread → State) → State → Thread → State
  | [], _, k, s, t => k s t
  | w :: ws, da, k, s, t => issueWrite s t da 8 (.store (leBytes 8 w.toNat)) (storeQuads ws (da + 8) k)

/-- NALLOC (R237): a node of the own pool, free list first. It is held until its four stores can be issued. -/
def execNalloc (g : BitVec 5) (d a : BitVec 4) (s : State) : Res :=
  scalar g s fun s t => withGraph s t fun gs =>
    let w := t.reg a
    if w.toNat / 2 ^ 56 = 0 || w.toNat / 2 ^ 54 % 4 = 3 then fatalAt s t 0x09 w.toNat
    else
      let p := getPart s t.core t.part
      let pick := match p.free with
        | n :: l => some (n, { p with free := l })
        | [] => if p.bump < 2 ^ gs.cl then some (chunkNode gs t.core p.bump, { p with bump := p.bump + 1 }) else none
      match pick with
      | none => retireReg s t d 0
      | some (n, p1) =>
        if 4091 < t.uac || 251 < unackedTo (getCore s t.core) (lineOf s t.ctx n) then wait s t (.until (.cycle (s.cycle + 1)))
        else storeQuads [w, 0, 0, 0] n (fun s t => retireReg s t d (BitVec.ofNat 64 n)) (setPart s t.core t.part p1) t

/-- NFREE (R238): to the node's home core. -/
def execNfree (g : BitVec 5) (a : BitVec 4) (s : State) : Res :=
  scalar g s fun s t => withGraph s t fun gs =>
    let n := nodeAddr (t.reg a)
    if !inArena s t.ctx gs n then fatalAt s t 0x09 n
    else if !storeRoom s t n then wait s t (.until (.storeRoom n))
    else
      let k := commonsKey (n / 2 ^ 23 % 64) (n % 2 ^ 23)
      let t1 := Thread.noteSkid { t with uac := t.uac + 1 } (poisoned s k 8 || memByte s.mem (k + 7) == 0)
      let pkt : GraphPkt := ⟨t.id, t.op, t.ctx, t.part, t.core, n, 0, 0⟩
      let c := nodeCore gs n
      let s1 := setThread s t1
      let key := lineKey s t.ctx t.core n
      let line := lineOf s t.ctx n
      let s2 := enterLine s1 t.core line
      retire (if c = t.core then post s1 s1.cycle key (.nfreeAtHome pkt)
        else sendOn (lineRoute s2 t.core line) s2 0 t.core c 8 key (.nfreeAtHome pkt)) t1

/-- NFREE_AT_HOME (R236, R238): kind 0 again is a fault, else the node is marked free and quarantined. -/
def execNfreeAtHome (g : GraphPkt) (s : State) : Res :=
  let core := match (getPart s g.src g.part).graph with
    | some gs => nodeCore gs g.da
    | none => g.src
  let k := commonsKey (g.da / 2 ^ 23 % 64) (g.da % 2 ^ 23)
  .next (atPartition s g.ctx core g.part (.nfreeAtHome g) fun s =>
    if poisoned s k 8 then ackGraph s core g .poison (core != g.src)
    else if memByte s.mem (k + 7) = 0 then ackGraph s core g .graph (core != g.src)
    else
      let vt := match getCtx s g.ctx with
        | some x => vtimeOf s x
        | none => 0
      let s1 := { s with mem := memWrite s.mem k (leBytes 8 0) }
      let s2 := modPart s1 core g.part fun p => { p with quarantine := p.quarantine ++ [(g.da, vt)] }
      ackGraph (after s2 4194304 (.quarantineExpiry core g.part g.da)) core g .ok (core != g.src))

/-- QUARANTINE_EXPIRY (R236): after 4,194,304 cycles of sw.VTIME the node joins the free list. -/
def execQuarantineExpiry (core part node : Nat) (s : State) : Res :=
  let p := getPart s core part
  match p.quarantine.find? fun q => q.1 == node, getCtx s p.owner with
  | some q, some x =>
    let left := q.2 + 4194304 - vtimeOf s x
    if 0 < left then .next (after s left (.quarantineExpiry core part node))
    else .next (setPart s core part { p with quarantine := p.quarantine.filter fun r => r.1 != node, free := p.free ++ [node] })
  | _, _ => .next s

/-! ### BAGINS and BAGPOP -/

/-- BAGINS (R241). -/
def execBagins (g : BitVec 5) (a b : BitVec 4) (s : State) : Res :=
  scalar g s fun s t => withGraph s t fun _ =>
    match bagPush s t.core t.part (t.reg a) (t.reg b) with
    | some s1 => retire s1 t
    | none => wait s t (.until .bagRoom)

/-- The record of a BAGPOP (R326). -/
def bagRec (t : Thread) (a b : Word) (status : Nat) : LogRec :=
  ⟨0x09, 0, coreRefWord t.core, a, some (b, BitVec.ofNat 64 status), none⟩

/-- BAGPOP ends with an entry and a status (R242). -/
def bagEnd (s : State) (t : Thread) (d : BitVec 4) (a b : Word) (status : Nat) : State :=
  finish s ((t.setReg 8 a).setReg 9 b) (bagRec t a b status) { r1 := d, v1 := BitVec.ofNat 64 status }

/-- Pop the top entry with the status that its source gives: CONT for a continuation. A poisoned one is a fault at its device address. -/
def bagTake (s : State) (t : Thread) (d : BitVec 4) (status : Nat) : State :=
  let n := (getPart s t.core t.part).bag
  match bagEntry s t.core t.part (n - 1) with
  | none => fatalAt s t 0x11 ((coreRefWord t.core).toNat + viewSize s t.core - 4096 + 16 * (n - 1))
  | some (a, b) => bagEnd (bagDrop s t.core t.part) t d a b (if wireR a then 3 else status)

/-- The regions that BAGPOP searches: its own, then +x, +y, −x, −y where the launch holds cores (R242). -/
def bagRegions (s : State) (t : Thread) (x : Ctx) : List Nat :=
  let g := regionOf t.core
  let gx := g % 8
  let gy := g / 8
  let l := (if gx < 7 then [g + 1] else []) ++ (if gy < 7 then [g + 8] else []) ++ (if 0 < gx then [g - 1] else [])
    ++ (if 0 < gy then [g - 8] else [])
  g :: (if x.det then [] else l.filter fun r => holdsRegion s t.ctx r)

/-- The most recently spilled block of a region's bag that the search may take. -/
def lastBlock (det : Bool) (core boff : Nat) (l : List BagBlock) : Option BagBlock :=
  (l.filter fun b => b.boff == boff && (!det || b.core == core)).getLast?

/-- Move a block into the own bag, on top of what it holds. -/
def pullBlock (s : State) (t : Thread) (gs : GraphSt) (r : Nat) (b : BagBlock) : State :=
  let n := (getPart s t.core t.part).bag
  let s1 := moveBytes s (blockKey gs r b.index) (bagKey s t.core t.part n) (16 * b.count)
  let s2 := modPart s1 t.core t.part fun p => { p with bag := n + b.count }
  modRegion s2 r fun x => { x with bags := tblSet x.bags t.part ((tblGet [] x.bags t.part).filter (· != b)) }

/-- One step of the search: the region has been asked; the next one, or EMPTY (R242). -/
def bagSearch (s : State) (t : Thread) (x : Ctx) (gs : GraphSt) (d : BitVec 4) (i : Nat) : State :=
  let l := bagRegions s t x
  match l[i]? with
  | none => bagEnd s t d 0 0 4
  | some r =>
    match lastBlock x.det t.core gs.boff (tblGet [] (getRegion s r).bags t.part) with
    | some b => bagTake (pullBlock s t gs r b) t d (if i = 0 then 1 else 2)
    | none =>
      match l[i + 1]? with
      | some r2 => wait s t (.search (i + 1) (s.cycle + latency t.core (regionHub r2) 8 + latency (regionHub r2) t.core 64))
      | none => bagEnd s t d 0 0 4

/-- Remove entry `i` of a bag, keeping the order of the others. -/
def bagRemove (s : State) (core p i : Nat) : State :=
  let n := (getPart s core p).bag
  bagDrop (moveBytes s (bagKey s core p (i + 1)) (bagKey s core p i) (16 * (n - i - 1))) core p

/-- Position of an entry in a bag; the fuel counts entries from the top. -/
def bagFind (s : State) (core p : Nat) (a b : Word) : Nat → Option Nat
  | 0 => none
  | n + 1 => if bagEntry s core p n = some (a, b) then some n else bagFind s core p a b n

/-- Position of an entry among the entries of a block. -/
def blockHas (s : State) (k : Nat) (a b : Word) : Nat → Bool
  | 0 => false
  | n + 1 => memRead s.mem (k + 16 * n) 16 == quadBytes [a, b] || blockHas s k a b n

/-- The recorded entry of a BAGPOP, taken out of whichever bag in reach holds it (R249, R329). -/
def bagRecorded (s : State) (t : Thread) (x : Ctx) (gs : GraphSt) (a b : Word) : Option State :=
  let n := (getPart s t.core t.part).bag
  match bagFind s t.core t.part a b n with
  | some i => some (bagRemove s t.core t.part i)
  | none =>
    let found := (bagRegions s t x).findSome? fun r =>
      ((tblGet [] (getRegion s r).bags t.part).find? fun k => k.boff == gs.boff && blockHas s (blockKey gs r k.index) a b k.count).map fun k => (r, k)
    match found with
    | some (r, k) =>
      if 256 < n + k.count then none
      else
        let s1 := pullBlock s t gs r k
        (bagFind s1 t.core t.part a b (n + k.count)).map fun i => bagRemove s1 t.core t.part i
    | none => none

/-- BAGPOP (R242, R249, R329). -/
def execBagpop (g : BitVec 5) (d : BitVec 4) (s : State) : Res :=
  scalar g s fun s t => withGraph s t fun gs =>
    match getCtx s t.ctx with
    | none => fatalAt s t 0x02 0
    | some x =>
      if replaying x then
        match turnOf s t.ctx x (regionOf t.core) t.id 0x09 0 (coreRefWord t.core) with
        | .now i e =>
          let b := (e.ext.getD (0, 0)).1
          let st := (e.ext.getD (0, 0)).2
          let s1 := if st = 4 then some s else bagRecorded s t x gs e.outcome b
          match s1 with
          | some s1 => retireReg (consumeRec s1 t.ctx x (regionOf t.core) i e) ((t.setReg 8 e.outcome).setReg 9 b) d st
          | none => wait s t (.until (.cycle (s.cycle + 16)))
        | _ => inTurn s t x 0x09 0 (coreRefWord t.core) fun s _ _ => s
      else match t.wait with
        | .search i _ => if 0 < (getPart s t.core t.part).bag then bagTake s t d 0 else bagSearch s t x gs d i
        | _ =>
          if 0 < (getPart s t.core t.part).bag then bagTake s t d 0
          else
            let hub := regionHub (regionOf t.core)
            wait s t (.search 0 (s.cycle + latency t.core hub 8 + latency hub t.core 64))

/-! ### REWRITE -/

/-- Word `i` of the nodes that REWRITE read. -/
def nodeWord (bs : List Byte) (i : Nat) : Word := BitVec.ofNat 64 (fieldAt bs (8 * i) 8)

/-- Both nodes and the rule entry are read: `q` holds the eight words and the entry (R243). With TP the thread waits for a queue entry,
which is kept for the command of its handler (R244). -/
def rewriteEnd (q : List Word) (s : State) (t : Thread) : State :=
  let e := (nth 0 q 8).toNat
  let hi := 0xF0 ≤ (nth 0 q 0).toNat / 2 ^ 56 || 0xF0 ≤ (nth 0 q 4).toNat / 2 ^ 56
  let p := getPart s t.core t.part
  if !bitAt e 31 || (hi && !bitAt e 30) then fatalAt s t 0x15 (nodeAddr t.regs.g8)
  else if bitAt e 30 && !tcmdRoom p t.id then wait s { t with held := q } (.until .tileEntry)
  else
    let r : Regs := { t.regs with g0 := nth 0 q 0, g1 := nth 0 q 1, g2 := nth 0 q 2, g3 := nth 0 q 3, g4 := nth 0 q 4, g5 := nth 0 q 5,
                                  g6 := nth 0 q 6, g7 := nth 0 q 7 }
    setThread (setPart s t.core t.part (if bitAt e 30 then p.keepEntry t.id else p.dropEntry t.id))
      { t with regs := r, pc := BitVec.ofNat 14 e, wait := .ready, held := [], kept := [], counted := false }

/-- The nodes are read: stale or malformed pairs fault, the lower kind comes first, the rule entry is read (R243). -/
def rewriteNodes (bs : List Byte) (gs : GraphSt) (s : State) (t : Thread) (x : Ctx) : State :=
  let k := fun i => (nodeWord bs i).toNat / 2 ^ 56
  let a := t.regs.g8
  let b := t.regs.g9
  if k 0 = 0 || k 4 = 0 || nodeWord bs 1 ≠ b || nodeWord bs 5 ≠ a then fatalAt s t 0x15 (nodeAddr a)
  else
    let swap := k 4 < k 0
    let t1 := if swap then { t with regs := { t.regs with g8 := b, g9 := a } } else t
    let bs1 := if swap then (bs.drop 32).take 32 ++ bs.take 32 else bs
    let ea := gs.rtab + BitVec.ofNat 64 (4 * (min (k 0) (k 4) * 256 + max (k 0) (k 4)))
    match segCheck x ea 4 4 rightR with
    | .error c => fatalAt s t c ea.toNat
    | .ok da => gatherFrom s t1 da 4 bs1 3

/-- REWRITE (R243): two nodes as eight reads, then the rule. -/
def execRewrite (g : BitVec 5) (s : State) : Res :=
  scalar g s fun s t => withGraph s t fun gs =>
    match getCtx s t.ctx, t.wait, t.held with
    | none, _, _ => fatalAt s t 0x02 0
    | some _, .until _, w :: ws => rewriteEnd (w :: ws) s t
    | some x, .gathered bs 2, _ => rewriteNodes bs gs s t x
    | some _, .gathered bs 3, _ => rewriteEnd (toQuads 8 (bs.take 64) ++ [BitVec.ofNat 64 (fieldAt bs 64 4)]) s t
    | some _, _, _ =>
      let a := t.regs.g8
      let b := t.regs.g9
      let n := nodeAddr a
      let m := nodeAddr b
      if wireR a || wireR b || wirePort a ≠ 0 || wirePort b ≠ 0 || !nodeOk s t.ctx t.part gs n || !nodeOk s t.ctx t.part gs m then
        fatalAt s t 0x09 n
      else gatherNext s t ((List.range 4).map (fun i => (n + 8 * i, 8)) ++ (List.range 4).map fun i => (m + 8 * i, 8)) [] 2

/-! ### LINK -/

/-- Device address of the slot that a wire word names. -/
def slotAddr (w : Word) : Nat := nodeAddr w + 8 + 8 * wirePort w

/-- The words that an access to a slot names again in its fault. -/
def redirect (w : Word) : Word := w ||| 4

def clearR (w : Word) : Word := w &&& ~~~(4 : Word)

/-- Send an exchange to the home of a slot: counted in sw.UAC, and the thread parks (R245). A node outside R233 is a graph fault. -/
def sendXchg (s : State) (t : Thread) (gs : GraphSt) (w v : Word) (l : LinkOp) : State :=
  if !nodeOk s t.ctx t.part gs (nodeAddr w) || wirePort w = 3 then fatalAt s t 0x15 (nodeAddr w)
  else
    let da := slotAddr w
    let t1 := { t with op := t.op + 1, uac := t.uac + 1, wait := .link { l with steps := l.steps + 1 } }
    let pkt : GraphPkt := ⟨t.id, t1.op, t.ctx, t.part, t.core, da, v, 0⟩
    let h := homeOf s t.ctx t.core t.part da
    let s1 := setThread s t1
    if onCore t.core h then post s1 s1.cycle (lineKey s t.ctx t.core da) (.linkExchange pkt)
    else
      let s2 := enterLine s1 t.core (lineOf s t.ctx da)
      sendOn (lineRoute s2 t.core (lineOf s t.ctx da)) s2 0 t.core (homeCore s t.core h) 8 (lineKey s t.ctx t.core da) (.linkExchange pkt)

/-- LINK_EXCHANGE (R245): the slot takes the new word, the old one goes back. -/
def execLinkExchange (g : GraphPkt) (s : State) : Res :=
  let a : Access := ⟨.thread g.tid, g.op, g.ctx, g.part, g.src, 0, g.da, 8, 0, .merge true 10 true g.w, none, none⟩
  let reply := fun (home : ServedAt) (r : Served) => backTo r.st home a 8 (.fetchMergeReply a r.old 0 r.status 0)
  if coreClass g.da && descheduled s g.ctx then .next (savePacket s g.ctx (.linkExchange g))
  else match homeOf s g.ctx g.src g.part g.da with
    | .scratch c off =>
      if (getCore s c).shadows.any fun x => coveredBy x off 8 then .next (after s 16 (.linkExchange g))
      else .next (reply (atCore c) (applyAt s (scratchKey c off) (regionOf c) a 8))
    | .commons r off => .next (reply (atRouter (regionHub r) 0) (applyAt s (commonsKey r off) r a 8))
    | _ => .next (refuse s (atCore g.src) a .noHome)

/-- Send the pushes of a LINK and wait for their acknowledgements; without any the LINK returns (R246). -/
def sendPushes (gs : GraphSt) (t : Thread) : List (Word × Word) → State → State
  | [], s => s
  | (a, b) :: l, s =>
    let pkt : GraphPkt := ⟨t.id, t.op, t.ctx, t.part, t.core, nodeAddr a, a, b⟩
    let c := if wireR a then t.core else nodeCore gs (nodeAddr a)
    sendPushes gs t l (if c = t.core then post s s.cycle 0 (.pairPush pkt) else send s t.core c 16 0 (.pairPush pkt))

/-- Every exchange is done. -/
def linkFinish (s : State) (t : Thread) (gs : GraphSt) (l : LinkOp) : State :=
  if l.pushes.isEmpty then retire s { t with op := t.op + 1 }
  else
    let t1 := { t with op := t.op + 1, uac := t.uac + l.pushes.length, wait := .link { l with stage := .push } }
    sendPushes gs t1 l.pushes (setThread s t1)

/-- A push of a LINK is acknowledged. -/
def linkPushed (s : State) (tid op : Nat) : State :=
  match getThread s tid with
  | some t =>
    match t.wait with
    | .link l =>
      if t.op ≠ op || l.stage ≠ .push then s
      else if l.pushes.length ≤ 1 then retire s t
      else wait s t (.link { l with pushes := l.pushes.drop 1 })
    | _ => s
  | none => s

/-- Begin the next join, of the sides in `l` or of an end handed over; with eight steps taken it becomes a continuation (R246). The fuel
bounds the ends handed over. -/
def joinFrom (gs : GraphSt) : Nat → State → Thread → LinkOp → State
  | 0, s, t, l => linkFinish s t gs l
  | n + 1, s, t, l =>
    if 8 ≤ l.steps then
      let l1 := { l with pushes := l.pushes ++ [(redirect l.x, redirect l.y)] }
      match l.extra with
      | [] => linkFinish s t gs l1
      | (u, v) :: r => joinFrom gs n s t { l1 with x := u, y := v, extra := r }
    else sendXchg s t gs l.x l.y { l with stage := .joinX }

/-- A join has ended: the next end handed over, or the pushes. -/
def joinNext (s : State) (t : Thread) (gs : GraphSt) (l : LinkOp) : State :=
  match l.extra with
  | [] => linkFinish s t gs l
  | (u, v) :: r => joinFrom gs (r.length + 1) s t { l with x := u, y := v, extra := r }

/-- Whether a side is a port that this LINK claimed as fresh (R246). -/
def freshSide (l : LinkOp) (w : Word) : Bool := (l.fa && w == l.a) || (l.fb && w == l.b)

/-- The redirect exchanges after both claims, then the joins (R245). -/
def linkRedir (s : State) (t : Thread) (gs : GraphSt) (l : LinkOp) : State :=
  match l.stage with
  | .redirA =>
    if l.fa then
      if l.fb then joinFrom gs (l.extra.length + 1) s t l else sendXchg s t gs l.b (redirect l.x) { l with stage := .redirB }
    else sendXchg s t gs l.a (redirect l.y) l
  | _ => if l.fb then joinFrom gs (l.extra.length + 1) s t l else sendXchg s t gs l.b (redirect l.x) l

/-- The old word of an exchange has come back (R245, R246). -/
def linkReply (s : State) (t : Thread) (l : LinkOp) (o : Word) : State :=
  withGraph s t fun gs =>
    match l.stage with
    | .claimA => sendXchg s t gs l.b busyWord { l with x := if o = 0 then l.a else o, fa := o == 0, stage := .claimB }
    | .claimB => linkRedir s t gs { l with y := if o = 0 then l.b else o, fb := o == 0, stage := .redirA }
    | .redirA =>
      let l1 := if o ≠ busyWord then { l with extra := l.extra ++ [(o, l.y)] } else l
      linkRedir s t gs { l1 with stage := .redirB }
    | .redirB =>
      let l1 := if o ≠ busyWord then { l with extra := l.extra ++ [(o, l.x)] } else l
      joinFrom gs (l1.extra.length + 1) s t l1
    | .joinX =>
      if o = busyWord && !freshSide l l.x then joinNext s t gs l
      else if wireR o && o ≠ busyWord then joinFrom gs (l.extra.length + 1) s t { l with x := clearR o }
      else if 8 ≤ l.steps then
        joinNext s t gs { l with pushes := l.pushes ++ [(redirect l.x, redirect l.y)] }
      else sendXchg s t gs l.y l.x { l with lastX := o, stage := .joinY }
    | .joinY =>
      if o = busyWord && !freshSide l l.y then joinNext s t gs l
      else if wireR o && o ≠ busyWord then joinFrom gs (l.extra.length + 1) s t { l with y := clearR o }
      else
        let low := l.x.toNat ≤ l.y.toNat
        let changed := if low then l.lastX != l.y else o != l.x
        if wirePort l.x = 0 && wirePort l.y = 0 && changed then
          joinNext s t gs { l with pushes := l.pushes ++ [if low then (l.x, l.y) else (l.y, l.x)] }
        else joinNext s t gs l
    | .push => s

/-- LINK (R245): FENCE.D, then two claims, or a continuation's join. -/
def execLink (g : BitVec 5) (a b : BitVec 4) (s : State) : Res :=
  scalar g s fun s t => withGraph s t fun gs =>
    let x := t.reg a
    let y := t.reg b
    if wireR x != wireR y || wirePort x = 3 || wirePort y = 3 || !nodeOk s t.ctx t.part gs (nodeAddr x)
        || !nodeOk s t.ctx t.part gs (nodeAddr y) then fatalAt s t 0x09 (nodeAddr x)
    else fenced s t fun s t =>
      if wireR x then joinFrom gs 1 s t { a := x, b := y, x := clearR x, y := clearR y, stage := .joinX }
      else sendXchg s t gs x busyWord { a := x, b := y, x := x, y := y, stage := .claimA }

end Sys2Proof.Machine
end

