-- ==== Sys2Proof/Machine/Delivery.lean ====
section
/-! DEFINITION. Packets that reach a home or come back from it: deliveries, acknowledgements, replies (R112, R115, R122, R127), counts of
other devices (R345, R346), barrier releases and time-outs (R132, R133), the order log's waiting outcomes and turns (R328 to R330). -/

namespace Sys2Proof.Machine

/-! ### At the home -/

/-- STORE_DELIVERY (R115). -/
def execStoreDelivery (a : Access) (s : State) : Res := .next (deliver s a)

/-- MERGE_APPLY (R122 to R128, R220). -/
def execMergeApply (a : Access) (s : State) : Res := .next (deliver s a)

/-- LOAD_REQUEST (R112). -/
def execLoadRequest (a : Access) (s : State) : Res := .next (deliver s a)

/-! ### Replies -/

/-- LOAD_REPLY (R112, R121, R127, R225): the reply of a thread's operation in progress, or of the tile command in focus. -/
def execLoadReply (tid op : Nat) (r : LoadRes) (s : State) : Res :=
  match s.focus with
  | .cmd core p seq =>
    .next (if (getPart s core p).owner ≠ tid then s
      else if (getPart s core p).stopCycle.isSome then discardAt s core p else cmdReply s core p seq op r)
  | .member g acc => .next (arrayRead s g acc op r)
  | _ =>
    .next (toLive s tid fun s t =>
      if t.op ≠ op then s
      else match t.wait, r with
        | .load k _, .data bs => finishLoad k s t bs
        | .gather todo got stage, .data bs => gatherNext s t (todo.drop 1) (got ++ bs) stage
        | .load _ da, .poison => fatalAt s t 0x11 da
        | .gather todo _ _, .poison => fatalAt s t 0x11 (nth (0, 0) todo 0).1
        | .load _ da, .noHome => fatalAt s t 0x10 da
        | .gather todo _ _, .noHome => fatalAt s t 0x10 (nth (0, 0) todo 0).1
        | _, _ => s)

/-- A thread's access is acknowledged: sw.UAC falls by one, except for a class 0x8 access of an interval that is closed and written off
(R33, R115, R346). -/
def settle (s : State) (tid : Nat) (a : Access) : State :=
  let s1 := clearLine s a
  match getThread s1 tid with
  | none => s1
  | some t =>
    let dev := a.da / 2 ^ 36 % 65536
    if addrClass a.da ≠ 8 then setThread s1 { t with uac := t.uac - 1 }
    else if t.peers.any fun p => p.iv == a.iv && p.dev == dev then
      let t1 := { t with uac := t.uac - 1, peers := t.peers.map fun p =>
        if p.iv == a.iv && p.dev == dev then { p with acked := p.acked + 1 } else p }
      askClosed false (setThread s1 t1) t1 a.iv
    else s1

/-- A class 0x2 store is acknowledged: FENCE.I and the messages held for it (R130, R174). -/
def settleCode (s : State) (tid : Nat) (a : Access) : State :=
  if addrClass a.da = 2 && isStore a.act && (getPart s a.core a.part).codeOut.any fun c => c.2 == a.op then
    let s1 := modPart s a.core a.part fun p => { p with codeOut := p.codeOut.filter fun c => c.2 != a.op }
    let s2 := modThread s1 tid fun t => { t with codeUac := t.codeUac - 1 }
    if (getPart s2 a.core a.part).held.isEmpty then s2 else post s2 s2.cycle 0 .codeOrderRelease (.part a.core a.part)
  else s

/-- The acknowledgement of a write of a tile command (R221, R224, R225, R229): `line` is the mark of a copy's line. -/
def settleCmd (s : State) (core p seq line : Nat) (st : AckStatus) : State :=
  match (getPart s core p).queue.find? fun e => e.seq == seq with
  | none => s
  | some e =>
    let s1 := modEntry s core p seq fun x => { x with unacked := x.unacked - 1, lineAcks := x.lineAcks.erase line }
    if st ≠ .ok then entryFault s1 core p e
    else if e.unacked ≤ 1 then post s1 s1.cycle 0 .tileCommandComplete (.cmd core p seq) else s1

/-- ACKNOWLEDGEMENT (R33, R115, R127, R142, R174, R225). -/
def execAcknowledgement (a : Access) (st : AckStatus) (s : State) : Res :=
  match a.who with
  | .thread tid =>
    if (getThread s tid).isNone && (savedCtx s tid).isSome then .next (absent s tid (.acknowledgement a st)) else
    let s1 := settleCode (settle s tid a) tid a
    match ackFault st with
    | none => .next (linkPushed s1 tid a.op)
    | some c => .next (fatalLate s1 tid c a.da)
  | .cmd core p seq =>
    let s := clearLine s a
    if descheduled s a.ctx then .next (savePacket s a.ctx (.acknowledgement a st))
    else .next (if (getPart s core p).owner ≠ a.ctx then s
      else if (getPart s core p).stopCycle.isSome then discardAt s core p else settleCmd s core p seq a.op st)
  | .acceptor g acc slot => .next (arrayAcked s g acc slot a.op)
  | .remote _ _ => .next s
  | .unit => .next s

/-- What FMRG writes: the old value, a .w one zero-extended (R122). -/
def fetchValue (wide : Bool) (old : Word) : Word := if wide then old else BitVec.ofNat 64 (old.toNat % 2 ^ 32)

/-- The fetch reply of an FMRG that a replay enforces: its record, which is consumed now, must name the value; the value of a skip wake is
delivered as it is (R317, R329). -/
def replayedFetch (s : State) (t : Thread) (d : BitVec 4) (v : Word) (flags : Nat) (skipped : Bool) (want : Word) (idx : Nat) : State :=
  if !skipped && v ≠ want then fatalAt s t 0x17 idx
  else
    let s1 := match getCtx s t.ctx with
      | some x => consumeRec s t.ctx x (regionOf t.core) idx (readRec s t.ctx x (regionOf t.core) idx)
      | none => s
    retire s1 (t.apply { r1 := d, v1 := v, flags := flags })

/-- FETCH_MERGE_REPLY (R122, R125, R245, R325, R329): the acknowledgement and the old value, for an FMRG or an exchange of a LINK; in a
replay the value of an FMRG must be the recorded one. -/
def execFetchMergeReply (a : Access) (old : Word) (flags : Nat) (st : AckStatus) (oseq : Nat) (s : State) : Res :=
  match a.who with
  | .thread tid =>
    if (getThread s tid).isNone then .next (absent s tid (.fetchMergeReply a old flags st oseq)) else
    .next (toLive (settle s tid a) tid fun s t =>
      if t.op ≠ a.op then s
      else match t.wait with
      | .fetch d o wide da want =>
        let v := if st = .discarded then old else fetchValue wide old
        match ackFault st, want with
        | some c, _ => fatalAt s t c da
        | none, some (w, idx) => replayedFetch s t d v flags (st == .discarded) w idx
        | none, none => finish s t ⟨1, 16 * b2n wide + o, BitVec.ofNat 64 da, v, none, some oseq⟩ { r1 := d, v1 := v, flags := flags }
      | .link l =>
        match ackFault st with
        | some c => fatalAt s t c a.da
        | none => linkReply s t l old
      | _ => s)
  | _ => .next s

/-! ### Counts of other devices (R345, R346) -/

/-- COUNT_QUERY at the target device: its total, and the interval is closed. -/
def execCountQuery (dev tid iv : Nat) (s : State) : Res :=
  let c := countAt s dev tid iv
  let s1 := setCount s { c with closed := true }
  let reply : Instr := .countReply tid iv s.dev.id c.total
  .next (if dev = s.dev.id then post s1 (s1.cycle + 1) 0 reply else emit s1 dev reply)

/-- Positions of the peers of an interval and device. -/
def peerIndex (iv dev : Nat) : Nat → List Peer → Option Nat
  | _, [] => none
  | i, p :: ps => if p.iv = iv && p.dev = dev then some i else peerIndex iv dev (i + 1) ps

/-- COUNT_REPLY: the comparison ends when every peer has answered, that of a fence or that of a closed interval in background. -/
def execCountReply (tid iv dev total : Nat) (s : State) : Res :=
  .next (toLive s tid fun s t =>
    match t.wait, peerIndex iv dev 0 t.peers with
    | .count got, some i =>
      let got1 := tblSet got i total
      if t.peers.length ≤ got1.length then endCount s t got1 else wait s t (.count got1)
    | _, some _ =>
      let t1 := { t with peers := t.peers.map fun p => if p.iv == iv && p.dev == dev && p.asked then { p with tgt := some total } else p }
      if iv ≠ t.interval && (peersOf t1 iv).all fun p => p.tgt.isSome then endClosed s t1 iv else setThread s t1
    | _, none => s)

/-- FENCE_COUNT_TIMEOUT: 262,144 cycles after the fence began the peers are asked in any case, once the local accesses are acknowledged;
262,144 cycles after that a missing total is 0. The same two times bound the check of a closed interval (R345). -/
def execFenceCountTimeout (s : State) : Res :=
  match s.focus with
  | .op tid op =>
    match getThread s tid with
    | none => .next s
    | some t =>
      if totalOp 0 ≤ op then .next (if (peersOf t (op - totalOp 0)).any (·.asked) then endClosed s t (op - totalOp 0) else s)
      else if checkOp 0 ≤ op then .next (askClosed true s t (op - checkOp 0))
      else if t.op ≠ op then .next s
      else match t.wait with
        | .until .uacZero =>
          if t.uac ≤ remoteUnacked t then .next (startCount s t) else .next (after s 16 .fenceCountTimeout s.focus)
        | .count got => .next (endCount s t got)
        | _ => .next s
  | _ => .fault .noSubject

/-- DROP_NOTICE (R344): it settles the count of a dropped packet and never touches sw.UAC. -/
def execDropNotice (tid dev iv : Nat) (s : State) : Res :=
  match getThread s tid with
  | none => .next (absent s tid (.dropNotice tid dev iv))
  | some t =>
    let t1 := { t with peers := t.peers.map fun p => if p.iv == iv && p.dev == dev then { p with dropped := p.dropped + 1 } else p }
    .next (askClosed false (setThread s t1) t1 iv)

/-! ### Barriers -/

/-- Give every waiter the same status. -/
def barGive (kind idx : Nat) (v : Word) : List (Thread × BitVec 4) → State → State
  | [], s => s
  | (t, d) :: l, s => barGive kind idx v l (barEnd s t kind idx d v)

/-- BAR_RELEASE (R132): every waiter is released in one cycle, and the next phase begins. -/
def execBarRelease (g part kind idx : Nat) (s : State) : Res :=
  let b := getBar s g part kind idx
  let v := barStatus b.phase (barScope kind idx g).length false 0
  .next (barGive kind idx v (barWaiters g part kind idx s.threads)
    (setBar s g part kind idx { phase := b.phase + 1, arrived := [], releasing := false }))

/-- BAR_TIMEOUT (R133): a fence that is not complete by the deadline ends it; waiters whose deadline has passed time out together, unless
the phase is bound to release. -/
def execBarTimeout (s : State) : Res :=
  match s.focus with
  | .thread tid =>
    match getThread s tid with
    | none => .next s
    | some t =>
      if t.deadline = 0 || s.cycle < t.deadline then .next s
      else match t.wait with
        | .until .uacZero => .next (wait s t (.until .always))
        | .count _ => .next (wait s t (.until .always))
        | _ => .next s
  | .op tid op =>
    match getThread s tid with
    | none => .next s
    | some t =>
      match t.wait with
      | .bar kind idx _ =>
        let g := regionOf t.core
        let b := getBar s g t.part kind idx
        if t.op ≠ op || b.releasing then .next s
        else
          let late := (barWaiters g t.part kind idx s.threads).filter fun w => w.1.deadline ≠ 0 && w.1.deadline < s.cycle
          let v := barStatus b.phase b.arrived.length (parkSeen s g t.part kind idx b.arrived) 1
          .next (barWithdraw (barGive kind idx v late s) g t.part kind idx (late.map fun w => w.1.core))
      | _ => .next s
  | _ => .fault .noSubject

/-! ### Order log and replay -/

/-- OLOG_HEAD_RECHECK (R328): the heads are read again, outcomes that fit are delivered, and the next reading is asked for while any
thread waits. -/
def execOlogHeadRecheck (s : State) : Res :=
  match s.focus with
  | .ctx c =>
    match getCtx s c with
    | none => .next s
    | some x =>
      let s1 := touchHeads c x (blockRegions x) s
      let s2 := bringInLogged c s1.threads (retryRing c s1.threads s1)
      .next (if s2.threads.any fun t => t.2.ctx == c && ringWaits t.2 then askRecheck s2 c else s2)
  | _ => .fault .noSubject

/-- REPLAY_TURN (R329): a thread looks for its turn again; a BAR with a recorded time-out takes it without a release. -/
def execReplayTurn (s : State) : Res :=
  match s.focus with
  | .op tid op =>
    match getThread s tid with
    | none => .next s
    | some t =>
      match getCtx s t.ctx, t.wait with
      | some x, .turn type form obj _ =>
        if t.op ≠ op then .next s
        else match turnOf s t.ctx x (regionOf t.core) tid type form obj with
          | .later => .next s
          | _ => .next (wait s t (.until .always))
      | some x, .bar kind idx d =>
        let g := regionOf t.core
        match turnOf s t.ctx x g tid 0x0D kind (barRec t kind idx 0).obj with
        | .now i e =>
          if t.op ≠ op || e.outcome.toNat % 16 ≠ 1 then .next s
          else
            let s1 := retireReg (consumeRec s t.ctx x g i e) { t with deadline := 0 } d e.outcome
            .next (barWithdraw s1 g t.part kind idx [t.core])
        | .diverged i => .next (fatalAt s t 0x17 i)
        | .later => .next s
      | _, _ => .next s
  | _ => .fault .noSubject

/-- REPLAY_STALL (R330): 2^24 cycles without a record consumed end the wait of a thread for its turn. A BAR whose turn has come waits for
the release of its barrier, and for no turn. -/
def execReplayStall (s : State) : Res :=
  match s.focus with
  | .op tid op =>
    match getThread s tid with
    | none => .next s
    | some t =>
      match getCtx s t.ctx with
      | none => .next s
      | some x =>
        let g := regionOf t.core
        let stall := fun (since : Nat) =>
          let from' := max since x.log.lastTurn
          if from' + 2 ^ 24 ≤ s.cycle then fatalAt s t 0x17 (tblGet 0 x.log.cursors g)
          else post s (from' + 2 ^ 24) 0 .replayStall s.focus
        if t.op ≠ op then .next s
        else match t.wait with
          | .turn _ _ _ since => .next (stall since)
          | .bar kind idx _ =>
            match turnOf s t.ctx x g tid 0x0D kind (barRec t kind idx 0).obj with
            | .now _ _ => .next s
            | _ => .next (stall (s.cycle - 2 ^ 24))
          | _ => .next s
  | _ => .fault .noSubject

end Sys2Proof.Machine
end

