-- ==== Sys2Proof/Machine/Agreement.lean ====
section
/-! DEFINITION. Agreement at a thread's core: the accord table (R148), proposals with their phases, back-off, run and senior paths
(R143 to R153), learning forms (R154 to R156), RESHAPE (R158), and what CVSEND, LNCH and SNAP do with the outcome of a proposal (R187,
R264, R269). -/

namespace Sys2Proof.Machine

/-! ### The accord table -/

/-- Whether a thread may use an accord of this device (R145, R311); the submission engine checks the launch accord itself (R354). -/
def usable (s : State) (t : Thread) (acc : Nat) : Bool :=
  if t.place = .engine then acc / 65536 == s.dev.id && (dirGet s acc).isOpen else mayUse s t.ctx acc

/-- A table entry from what a member holds. -/
def tabOf (c : AccCfg) : AccTab := ⟨c.acc, c.gen, c.epoch, c.qa, c.qb, c.llen, c.desc, c.proto.isSome, c.strict, c.owner⟩

/-- A table entry from a descriptor's blocks 0 to 2 (R136, R148). -/
def tabFrom (acc desc owner gen epoch : Nat) (d : List Byte) : AccTab :=
  let b2 := (d.drop 256).take 128
  ⟨acc, gen, epoch, parseQuorum ((d.drop 128).take 128), if b2.all (· == 0) then none else some (parseQuorum b2),
   fieldAt d 24 8 % 32, desc, fieldAt d 32 8 != 0, bitAt (fieldAt d 0 8) 7, owner⟩

/-- Put an entry in front; the one used least recently leaves (R148). -/
def putTab (s : State) (t : Thread) (e : AccTab) : State :=
  modPart s t.core t.part fun p => { p with accTab := (e :: p.accTab.filter fun x => x.acc != e.acc).take 16 }

def dropTab (s : State) (t : Thread) (acc : Nat) : State :=
  modPart s t.core t.part fun p => { p with accTab := p.accTab.filter fun x => x.acc != acc }

/-- The gather stage of a fill. -/
def fillStage (acc : Nat) : Nat := acc * 16 + 9

/-- Whether another thread of the partition on this core is filling an entry (R148). -/
def filledBy (t : Thread) (acc : Nat) (u : Thread) : Bool :=
  u.core == t.core && u.part == t.part && u.id != t.id && (match u.wait with
    | .op (.fill a) => a == acc
    | .gather _ _ st => st == fillStage acc
    | .gathered _ st => st == fillStage acc
    | _ => false)

def Op.isSnap : Op → Bool
  | .prop p => p.outer == .snap
  | _ => false

/-- Go on with the configuration of an accord: from the table, or after a fill with `keep` kept (R148). The control accord of a SNAP and
the submission engine need no table. -/
def withEntry (s : State) (t : Thread) (acc : Nat) (keep : List Op) (k : State → Thread → AccTab → State) : State :=
  if t.place = .engine || keep.any Op.isSnap then
    match accordView s acc with
    | some (_, c) => k s t (tabOf c)
    | none => fatalAt s t 0x10 acc
  else match (getPart s t.core t.part).accTab.find? fun e => e.acc == acc with
    | some e => k (putTab s t e) t e
    | none =>
      if s.threads.any fun u => filledBy t acc u.2 then wait s { t with kept := keep } (.until (.sharedFill acc))
      else
        let t1 := { t with kept := keep, op := t.op + 1, wait := .op (.fill acc) }
        let hub := regionHub (acc % 64)
        if acc / 65536 = s.dev.id then
          sendAfter (setThread s t1) (legTime s t.core hub 8) hub t.core 24 0 .accordTableFill (.op t1.id t1.op)
        else if inFabric s (acc / 65536) then
          emit (setThread s t1) (acc / 65536)
            (.memberQuery ⟨acc % 64, 255, acc, 0, 0, t.ctx, .directory, t.id, t1.op, t.core, s.dev.id⟩)
        else fatalAt s t 0x10 acc

/-- ACCORD_TABLE_FILL (R145, R148): the directory record of an accord of this device has come; the descriptor is read at its home. An accord
without an owning context is filled from its members, or from its descriptor where none is here. -/
def execAccordTableFill (s : State) : Res :=
  match s.focus with
  | .op tid op =>
    match getThread s tid with
    | none => .next s
    | some t =>
      match t.wait with
      | .op (.fill acc) =>
        let go := fun e => .next (wait (putTab s t e) t (.until .always))
        let r := dirGet s acc
        if t.op ≠ op then .next s
        else if isControl s acc || !usable s t acc then .next (fatalAt s t 0x10 acc)
        else if r.poisoned then .next (fatalAt s t 0x11 r.desc)
        else
          if r.owner = 0 then
            match accordCfg s acc with
            | some c => go (tabOf c)
            | none => .next (fatalAt s t 0x11 r.desc)
          else .next (gatherFrom s t r.desc 384 (leBytes 8 r.gen ++ leBytes 8 r.epoch) (fillStage acc))
      | _ => .next s
  | _ => .fault .noSubject

/-- The descriptor of a fill has been read. -/
def fillIn (s : State) (t : Thread) (acc : Nat) (bs : List Byte) : State :=
  let r := dirGet s acc
  putTab s t (tabFrom acc r.desc r.owner (fieldAt bs 0 8) (fieldAt bs 8 8) (bs.drop 16))

/-! ### Members -/

/-- Insert an index by its distance. -/
def insertBy (key : Nat → Nat) (i : Nat) : List Nat → List Nat
  | [] => [i]
  | j :: l => if key i < key j then i :: j :: l else j :: insertBy key i l

/-- Member indices by nearness to a core (R137). -/
def nearOrder (s : State) (core : Nat) (q : Quorum) : List Nat :=
  let key := fun i =>
    let m := nth (0, 0) q.members i
    (if m.1 = s.dev.id then hops core (regionHub m.2) else 2 ^ 20) * 16 + i
  (List.range q.members.length).foldl (fun l i => insertBy key i l) []

/-- Whether a form asks about one slot, so that the epoch is that of the slot's configuration. -/
def LForm.slotForm : LForm → Bool
  | .learn => true
  | .poll => true
  | .learnt => true
  | .look => true
  | .ballot => true
  | _ => false

/-- The step that a request is at a member. -/
def reqStep (q : LReq) : Instr :=
  match q.form with
  | .ballot => .memberQuery q
  | .stat _ => .memberQuery q
  | .next => .memberQuery q
  | .cvstate _ => .memberQuery q
  | .frontier => .memberQuery q
  | _ => .learnRequest q

/-- The request of a learning operation to its present member. -/
def requestOf (s : State) (t : Thread) (l : LearnOp) (e : AccTab) (form : LForm) : LReq × Nat :=
  let q := governing e.qa e.qb l.slot
  let i := nth 0 (nearOrder s t.core q) l.tried
  let m := nth (0, 0) q.members i
  (⟨m.2, i, l.acc, e.gen, if form.slotForm then epochAt e.epoch e.qb l.slot else e.epoch, l.slot, form, t.id, t.op, t.core, s.dev.id⟩, m.1)

/-- Ask a member and park (R154, R156, R157). -/
def askMember (s : State) (t : Thread) (l : LearnOp) : State :=
  withEntry s t l.acc (.learn l :: t.kept) fun s t e =>
    let t1 := { t with op := t.op + 1 }
    let r := requestOf s t1 l e (if l.poll then .poll else l.form)
    let l1 := { l with heard := s.cycle, asked := some r, n := (governing e.qa e.qb l.slot).members.length }
    after (toMember (setThread s { t1 with wait := .op (.learn l1) }) t.core r.2 r.1.region 16 (reqStep r.1)) 524288 .learnerFailover
      (.op t1.id t1.op)

/-- Tell the present member that the thread no longer waits (R155, R156). -/
def cancelAsk (s : State) (t : Thread) (l : LearnOp) : State :=
  match l.asked with
  | some r => toMember s t.core r.2 r.1.region 16 (.learnRequest { r.1 with form := .cancel })
  | none => s

/-! ### Sending a proposal -/

/-- The proposal that a thread is in, with its fence or fill. -/
def propIn (t : Thread) : Option PropOp :=
  match t.wait, t.kept with
  | .op (.prop p), _ => some p
  | .op (.learn _), _ => none
  | _, .prop p :: _ => some p
  | _, _ => none

/-- Keep a proposal where the thread has it. -/
def parkProp (s : State) (t : Thread) (p : PropOp) : State :=
  match t.wait with
  | .op (.prop _) => wait s t (.op (.prop p))
  | _ => setThread s { t with kept := .prop p :: t.kept.drop 1 }

/-- The message of a proposal to a member. -/
def propMsg (s : State) (t : Thread) (p : PropOp) (flag : Bool) (i region : Nat) : AMsg :=
  { region, member := i, acc := p.acc, gen := p.gen, epoch := p.epoch, slot := p.slot, bal := p.bal, flag, v := p.v, orig := p.orig,
    tid := t.id, op := t.op, core := t.core, dev := s.dev.id, config := p.config }

/-- Send a phase to every member and park; it has 262,144 cycles (R149). -/
def startPhase (s : State) (t : Thread) (p : PropOp) (ph : Phase) (flag : Bool) (mk : AMsg → Instr) : State :=
  let p1 := { p with phase := ph, grants := [], refusals := [], lastHigh := 0, lastOther := 0, other := false, cur := t.op + 1,
                     sop := if p.sop = 0 then t.op + 1 else p.sop }
  let t1 := { t with op := t.op + 1, kept := [], wait := .op (.prop p1) }
  let s1 := toEach t.core 32 (fun i r => mk (propMsg s t1 p1 flag i r)) 0 p.q.members (setThread s t1)
  after s1 262144 (.phaseTimeout t1.id t1.op p1.bal)

/-- FENCE.D inside a proposal, which is kept meanwhile (R163). -/
def fencedProp (s : State) (t : Thread) (p : PropOp) (k : State → Thread → State) : State :=
  fenced s { t with kept := [.prop p] } fun s t => k s { t with kept := [] }

/-- The round of choose(h), or of a fallen-back run path (R146, R152). -/
def chooseRound (p : PropOp) : Nat :=
  let h := p.hint.toNat
  if p.fall || h % 16 = 2 then h / 2 ^ 40 + 1 else 1

/-- Whether a hint opens the run path (R152). -/
def runPath (t : Thread) (p : PropOp) : Bool :=
  let h := p.hint.toNat
  !p.fall && h % 256 == 0x10 && h / 256 % 2 ^ 32 == t.id / 256

/-- Phase 1 with a round: one past 2^24 − 1 is a fatal fault (R145). -/
def sendPrepare (s : State) (t : Thread) (p : PropOp) (round : Nat) : State :=
  if 2 ^ 24 ≤ round then fatalAt s t 0x12 round
  else startPhase s t { p with bal := round * 2 ^ 40 + t.id, best := 0, runs := 0, viaRun := false } .prep p.run .prepare

/-- Phase 2 (R147), or the run path's ACCEPT (R152). -/
def sendAccept (s : State) (t : Thread) (p : PropOp) : State := startPhase s t p .acc p.viaRun .accept

/-- Ask the gate for the lease (R151). -/
def sendLease (s : State) (t : Thread) (p : PropOp) : State :=
  let p1 := { p with phase := .lease, senior := true, reports := [], topRound := 0, bal := 0, cur := t.op + 1, sop := t.op + 1 }
  let t1 := { t with op := t.op + 1, kept := [], wait := .op (.prop p1) }
  let m := nth (0, 0) p.q.members 0
  toMember (setThread s t1) t.core m.1 m.2 24 (.lease (propMsg s t1 p1 false 0 m.2))

/-- RELEASE to the gate and the members (R151 step 6). -/
def sendRelease (s : State) (t : Thread) (p : PropOp) : State :=
  toEach t.core 24 (fun i r => .leaseRelease (propMsg s t p false i r)) 0 p.q.members s

/-! ### Outcomes -/

/-- The defeat count after an outcome: cleared by a decision (R150). -/
def defeatAfter (out : Nat) : Option Nat := if out ≤ 1 then some 0 else none

/-- The extension of a PROP, RESHAPE or LEARN record (R326). -/
def decisionExt (known : Bool) (orig bal : Nat) (status : Word) : Word × Word :=
  (if known then BitVec.ofNat 64 (orig % 2 ^ 40 + bal % 256 * 2 ^ 40) else 0, status)

/-- Return from PROP or RESHAPE (R143, R144, R166). -/
def returnProp (s : State) (t : Thread) (p : PropOp) (type out why : Nat) (gd : Word) (bal orig : Nat) (defeat : Option Nat) : State :=
  let st := statusWord bal why out
  let known := out ≤ 1 || (out == 4 && why == 9)
  finish s t ⟨type, p.form, BitVec.ofNat 64 (p.acc * 2 ^ 32 + p.slot), gd, some (decisionExt known orig bal st), none⟩
    { r1 := BitVec.ofNat 4 p.d, v1 := gd, r2 := BitVec.ofNat 4 (p.d + 1), v2 := st, defeat }

/-- What CVSEND and CVOP leave in d (R187, R191); with STRICT a refusal by the protocol is then also a fatal fault (R186). -/
def returnConv (s : State) (t : Thread) (p : PropOp) (out why : Nat) (defeat : Option Nat) : State :=
  let d : Word := BitVec.ofNat 64 (p.slot * 256 + why * 16 + out)
  finish s t ⟨0x0A, p.form, BitVec.ofNat 64 (p.acc * 2 ^ 32 + p.slot), d, none, none⟩
    { r1 := BitVec.ofNat 4 p.d, v1 := d, defeat, after := if p.strict && out = 5 then 3 else 0 }

/-- The result of LNCH (R264), or of a host submission, whose ring entry the engine then writes (R354). -/
def returnLnch (s : State) (t : Thread) (p : PropOp) (d : Word) (defeat : Option Nat) : State :=
  if t.place = .engine then wait s { t with held := [d], kept := [] } (.until .always)
  else finish s t ⟨0x13, 0, BitVec.ofNat 64 (p.acc * 2 ^ 32 + p.slot), d, none, none⟩ { r1 := BitVec.ofNat 4 p.d, v1 := d, defeat }

/-- A refusal of LNCH (R264). -/
def lnchRefused (reason : Nat) : Word := BitVec.ofNat 64 (2 ^ 63 + reason * 2 ^ 56)

/-- The result of SNAP (R269): outcome and the epoch that the slot fixed. -/
def returnSnap (s : State) (t : Thread) (p : PropOp) (out : Nat) : State :=
  let e := match getCtx s t.ctx with
    | some x => tblFind x.epochs p.slot
    | none => none
  let d : Word := match out, e with
    | 4, _ => 4
    | o, some e => BitVec.ofNat 64 (e * 2 ^ 32 + o)
    | _, none => 3
  finish s t ⟨0x14, 0, BitVec.ofNat 64 (p.acc * 2 ^ 32 + p.slot), d, none, none⟩ { r1 := BitVec.ofNat 4 p.d, v1 := d }

/-- The effect of a decided RESHAPE (R158), at once on the device of the accord, else told to its directory acceptor. -/
def applyReshape (s : State) (t : Thread) (p : PropOp) (q : Quorum) : State :=
  let q1 := { q with frm := p.slot + 16 }
  let m : AMsg := propMsg s t p true 255 (p.acc % 64)
  dropTab (if p.acc / 65536 = s.dev.id then reshapeEffect s t.core m q1
    else emit s (p.acc / 65536) (.accordRegister m q (some q1) 0 0 none 0 false 0 0)) t p.acc

/-! ### The course of a proposal -/

/-- Choose a path with the configuration known (R147, R151, R152, R186, R187). -/
def propBegin (s : State) (t : Thread) (p0 : PropOp) (e : AccTab) : State :=
  let q := governing e.qa e.qb p0.slot
  let p : PropOp := { p0 with phase := .begin, gen := e.gen, epoch := epochAt e.epoch e.qb p0.slot, q, v := p0.v0, orig := t.id,
                              config := match p0.outer with
                                | .reshape _ => true
                                | _ => false
                              strict := e.strict, senior := false, leased := false, viaRun := false, high := 0,
                              sop := if p0.fall then p0.sop else 0 }
  if e.conv && p.outer = .plain then returnProp s t p 2 5 11 0 0 0 none
  else if q.members.length = 1 then
    fencedProp s t p fun s t => startPhase s t { p with bal := 2 ^ 40 + t.id } .pre false .prepacc
  else if 3 ≤ t.defeat then fencedProp s t p fun s t => sendLease s t p
  else if runPath t p then
    fencedProp s t p fun s t => sendAccept s t { p with bal := p.hint.toNat / 2 ^ 40 * 2 ^ 40 + t.id, viaRun := true }
  else sendPrepare s t p (chooseRound p)

/-- Write the PENDING value of a conversation send (R187). -/
def markPending (t : Thread) (p : PropOp) : Thread :=
  if p.outer = .conv then t.setReg (BitVec.ofNat 4 p.d) (BitVec.ofNat 64 (p.slot * 256 + 8)) else t

/-- A question that a proposal asks the nearest member. -/
def propAsk (s : State) (t : Thread) (p : PropOp) (form : LForm) (slot : Nat) : State :=
  askMember s { t with kept := [.prop p] } { form, d := p.d, acc := p.acc, slot }

/-- Carry a proposal on from where it stands. -/
def propGo (s : State) (t : Thread) (p : PropOp) : State :=
  match p.phase with
  | .begin => withEntry s t p.acc [.prop p] fun s t e => propBegin s (markPending t p) p e
  | .fence => fencedProp s t p fun s t => sendAccept s t p
  | .first =>
    withEntry s t p.acc [.prop p] fun s t e =>
      if p.outer = .conv && !e.conv then returnConv s t { p with slot := 0, strict := false } 5 11 none
      else propAsk s t p .frontier 0
  | .looking =>
    withEntry s t p.acc [.prop p] fun s t e =>
      if p.outer = .conv && !e.conv then returnConv s t { p with slot := 0, strict := false } 5 11 none
      else propAsk s (markPending t p) p .look p.slot
  | .window => propAsk s t p .learn (p.slot - 1)
  | _ => s

/-- The next slot of CVSEND, LNCH or SNAP. -/
def nextSlot (s : State) (t : Thread) (p : PropOp) : State :=
  propGo s t { p with slot := p.slot + 1, hint := 0, fall := false, phase := .begin }

/-- The value of the outcome is a SNAP request (R269, R320). -/
def isSnapValue (v : Word) : Bool := bitsOf v.toNat 63 60 == 2

/-- Whether the SNAP that won a slot is one of a thread's own context (R269): its proposer is, or the slot fixed an epoch of the context. -/
def ownSnap (s : State) (t : Thread) (slot orig : Nat) : Bool :=
  (match getThread s orig with
    | some u => u.ctx == t.ctx
    | none => false) || (match getCtx s t.ctx with
    | some x => (tblFind x.epochs slot).isSome
    | none => false)

/-- An attempt has ended with an outcome other than LOST (R144, R158, R187, R264, R269). -/
def outerEnd (s : State) (t : Thread) (p : PropOp) (out why : Nat) (gd : Word) (bal orig : Nat) : State :=
  let t1 := { t with kept := [] }
  match p.outer with
  | .plain => returnProp s t1 p 2 out why gd bal orig (defeatAfter out)
  | .reshape q =>
    if out = 0 then returnProp (applyReshape s t1 p q) t1 p 3 0 15 (BitVec.ofNat 64 (p.slot + 16)) bal orig (some 0)
    else returnProp s t1 p 3 out why gd bal orig (defeatAfter out)
  | .conv =>
    match out with
    | 0 => returnConv s t1 p 0 0 (some 0)
    | 1 => nextSlot s (t1.setDefeat 0) p
    | 4 => nextSlot s t1 p
    | o => if o = 3 && why = 256 then propGo s t1 { p with phase := .window } else returnConv s t1 p o why none
  | .lnch =>
    match out with
    | 0 => returnLnch s t1 p (BitVec.ofNat 64 p.slot) (some 0)
    | 1 => nextSlot s (t1.setDefeat 0) p
    | 4 => nextSlot s t1 p
    | _ =>
      if why = 5 then returnLnch s t1 p (lnchRefused 4) none
      else if why = 6 || why = 13 then returnLnch s t1 p (lnchRefused 5) none
      else propGo s t1 { p with phase := .window }
  | .snap =>
    match out with
    | 0 => returnSnap s t1 p 0
    | 1 => if isSnapValue gd && ownSnap s t p.slot orig then returnSnap s t1 p 1 else nextSlot s t1 p
    | 4 => nextSlot s t1 p
    | 6 => propGo s t1 { p with phase := .begin }
    | _ => if why = 5 then returnSnap s t1 p 4 else propGo s t1 { p with phase := .first }

/-- The hold of a LOST attempt (R150). -/
def holdCycles (tid defeat : Nat) : Nat :=
  64 * 2 ^ min defeat 6 + tid * 0x9E3779B97F4A7C15 % 2 ^ 64 / 2 ^ 58

/-- Whether an outcome is made again after the back-off (R150, R187, R264): LOST; RESHAPED of CVSEND, CVOP and LNCH, which leaves DEFEAT as
it is (log entry 68). -/
def holdsAfter (p : PropOp) (out : Nat) : Bool := out = 2 || (out = 6 && (p.outer = .conv || p.outer = .lnch))

/-- End an attempt (R149 to R151): RELEASE after a senior one, the hold after a lost one. -/
def endProp (s : State) (t : Thread) (p : PropOp) (out why : Nat) (gd : Word) (bal orig : Nat) : State :=
  let s1 := if p.senior then sendRelease s t p else s
  let p1 := { p with senior := false, sop := 0 }
  if holdsAfter p out then
    let t1 := { t with op := t.op + 1, kept := [], counted := false, wait := .op (.prop { p1 with phase := .hold, why }) }
    after (setThread s1 t1) (holdCycles t.id (if out = 2 then min 15 (t.defeat + 1) else t.defeat)) .backoffEnd (.op t1.id t1.op)
  else outerEnd s1 { t with op := t.op + 1, kept := [], counted := false } p1 out why gd bal orig

/-- BACKOFF_END (R150): PROP and RESHAPE return LOST; CVSEND, CVOP and LNCH propose again at the slot, also after RESHAPED (reason EPOCH).
-/
def execBackoffEnd (s : State) : Res :=
  match s.focus with
  | .op tid op =>
    match getThread s tid with
    | none => .next s
    | some t =>
      match t.wait with
      | .op (.prop p) =>
        let n := min 15 (t.defeat + 1)
        if t.op ≠ op || p.phase ≠ .hold then .next s
        else match p.outer with
          | .plain => .next (returnProp s t p 2 2 p.why 0 p.high 0 (some n))
          | .reshape _ => .next (returnProp s t p 3 2 p.why 0 p.high 0 (some n))
          | _ => .next (propGo s (if p.why = 8 then t else t.setDefeat n)
              { p with phase := .begin, fall := false, hint := if p.why = 8 then p.hint else statusWord p.high p.why 2 })
      | _ => .next s
  | _ => .fault .noSubject

/-! ### Replies to a proposer -/

/-- The reply that a step carries. -/
def repOf : Instr → Option ARep
  | .promise r => some r
  | .accepted r => some r
  | .nack r => some r
  | .norun r => some r
  | .decidednow r => some r
  | .decidedReply r => some r
  | .truncReply r => some r
  | .freezeReport r => some r
  | _ => none

/-- Whether a reply of a lower member index reaches the same core in this cycle (R149). -/
def lowerFirst (s : State) (r : ARep) : Bool :=
  s.pend.any fun p => p.due ≤ s.cycle && (match repOf p.what with
    | some x => x.tid == r.tid && x.member < r.member
    | none => false)

/-- A reply acts on the attempt in progress that asked for it, in whichever of its phases or fences the thread is; one that comes after the
attempt has ended is discarded (R149). -/
def onProp (s : State) (r : ARep) (i : Instr) (k : State → Thread → PropOp → State) : Res :=
  .next (toLive s r.tid fun s t =>
    match propIn t with
    | some p =>
      if p.sop = 0 || r.op < p.sop || t.op < r.op then s
      else if lowerFirst s r then post s s.cycle 0 i
      else k s t p
    | none => s)

/-- Whether a reply answers the messages of the phase in progress. -/
def answersPhase (p : PropOp) (r : ARep) : Bool := r.op == p.cur && (p.phase == .prep || p.phase == .acc || p.phase == .pre)

/-- A member counts as not granting (R149, R151, R152, R187): the attempt ends when the others cannot make up the quorum. -/
def refused (s : State) (t : Thread) (p : PropOp) (member need : Nat) : State :=
  let p1 := { p with refusals := natInsert p.refusals member }
  if need ≤ p.q.members.length - p1.refusals.length then parkProp s t p1
  else if p1.lastOther = 256 then
    if p1.senior then endProp s t p1 3 0 0 0 0
    else propGo s { t with op := t.op + 1 } { p1 with phase := .begin, fall := true }
  else if p1.lastOther = 0 then endProp s t p1 2 p1.lastHigh 0 p1.high 0
  else if p1.lastOther = 7 && !p1.other && p1.outer = .conv then endProp s t p1 3 256 0 0 0
  else endProp s t p1 3 p1.lastOther 0 0 0

/-- The quorum of the phase in progress. -/
def phaseNeed (p : PropOp) : Nat :=
  match p.phase with
  | .prep => p.q.q1
  | .acc => p.q.q2
  | _ => 1

/-- Reason of a decision: CONFIG for a configuration, else as given (R144). -/
def decidedWhy (tid orig : Nat) (config : Bool) (why : Nat) : Nat := if config && orig != tid then 15 else why

/-- PROMISE (R147, R152): with q1 of them the value of the highest accepted ballot is adopted and phase 2 begins after its fence. One that
comes later still tells whether its member granted a run record. -/
def execPromise (r : ARep) (s : State) : Res :=
  onProp s r (.promise r) fun s t p =>
    if p.bal ≠ r.bal then s
    else if p.phase ≠ .prep then parkProp s t { p with runs := p.runs + r.num }
    else
      let p1 := { p with grants := natInsert p.grants r.member, runs := p.runs + r.num }
      let p2 := if p.best < r.ab then { p1 with best := r.ab, v := r.av, orig := r.ao, config := r.config } else p1
      if p2.grants.length < p.q.q1 then parkProp s t p2
      else if p.senior then sendAccept s t p2
      else propGo s { t with op := t.op + 1 } { p2 with phase := .fence }

/-- ACCEPTED (R147, R152, R165): with q2 of them the members are told, and the PROP ends; an adopted value of the thread's own is that of an
attempt that a stop abandoned. -/
def execAccepted (r : ARep) (s : State) : Res :=
  onProp s r (.accepted r) fun s t p =>
    if p.phase ≠ .acc || !answersPhase p r then s
    else
      let p1 := { p with grants := natInsert p.grants r.member }
      if p1.grants.length < p.q.q2 then parkProp s t p1
      else
        let s1 := toEach t.core 40 (fun i g => .decided (propMsg s t p1 p.config i g)) 0 p.q.members s
        if p.orig ≠ t.id then endProp s1 t p1 1 (decidedWhy t.id p.orig p.config 10) p.v p.bal p.orig
        else endProp s1 t p1 0 (if p.best ≠ 0 then 10 else if p.viaRun || (p.run && p.q.q1 ≤ p.runs) then 1 else 0) p.v p.bal p.orig

/-- NACK (R149, R151): EPOCH, and without the lease HIGHER and SENIOR, end the attempt at once, as do BUSY, PROTO and OWNER. The highest
ballot reported is that of the NACKs, a choice of the model (log entry 64). -/
def execNack (r : ARep) (s : State) : Res :=
  onProp s r (.nack r) fun s t p =>
    let p1 := { p with high := max p.high r.ab }
    let refuse := fun (p : PropOp) => if answersPhase p r then refused s t p r.member (phaseNeed p) else parkProp s t p1
    match r.num with
    | 8 => endProp (dropTab s t p.acc) t p1 6 8 0 0 0
    | 2 => if p.senior then refuse { p1 with lastHigh := 2, other := true } else endProp s t p1 2 2 0 p1.high 0
    | 3 => if p.senior then refuse { p1 with lastHigh := 3, other := true } else endProp s t p1 2 3 0 p1.high 0
    | 4 => endProp s t { p1 with senior := false } 2 4 0 p1.high 0
    | 5 => refuse { p1 with lastOther := 5, other := true }
    | 7 => refuse { p1 with lastOther := 7 }
    | w => endProp s t p1 5 w 0 0 0

/-- NORUN (R152). -/
def execNorun (r : ARep) (s : State) : Res :=
  onProp s r (.norun r) fun s t p =>
    if answersPhase p r then refused s t { p with lastOther := 256, other := true } r.member (phaseNeed p) else s

/-- DECIDEDNOW (R147). -/
def execDecidednow (r : ARep) (s : State) : Res :=
  onProp s r (.decidednow r) fun s t p =>
    if r.ao = t.id then endProp s t p 0 0 r.av r.ab r.ao
    else endProp s t p 1 (decidedWhy t.id r.ao r.config 10) r.av r.ab r.ao

/-- DECIDED_REPLY (R149): the slot was decided before. -/
def execDecidedReply (r : ARep) (s : State) : Res :=
  onProp s r (.decidedReply r) fun s t p =>
    endProp s t p (mineOrOther r.ao t.id) (decidedWhy t.id r.ao r.config 9) r.av r.ab r.ao

/-- TRUNC_REPLY (R144, R149). -/
def execTruncReply (r : ARep) (s : State) : Res :=
  onProp s r (.truncReply r) fun s t p =>
    if r.num = 1 then endProp s t p 4 9 r.av r.ab r.ao else endProp s t p 4 0 0 0 0

/-- PHASE_TIMEOUT (R149). -/
def execPhaseTimeout (tid op bal : Nat) (s : State) : Res :=
  match getThread s tid with
  | none => .next s
  | some t =>
    match t.wait with
    | .op (.prop p) =>
      if t.op = op && p.bal = bal && (p.phase = .prep || p.phase = .acc || p.phase = .pre) then .next (endProp s t p 3 6 0 0 0)
      else .next s
    | _ => .next s

/-! ### The senior path at the holder (R151) -/

/-- All reports are in, or waited for long enough: phase 1. -/
def seniorPrepare (s : State) (t : Thread) (p : PropOp) : State := sendPrepare s t p (max (chooseRound p) (p.topRound + 1))

/-- LEASE_GRANT: reports are awaited; a grant for an instruction that has ended is returned at once. -/
def execLeaseGrant (m : AMsg) (s : State) : Res :=
  if (getThread s m.tid).isNone then .next (giveBack m s)
  else .next (toLive s m.tid fun s t =>
    match t.wait with
    | .op (.prop p) =>
      if t.op = m.op && p.phase = .lease then
        let p1 := { p with leased := true, phase := .reports }
        if p.q.members.length ≤ p.reports.length then seniorPrepare s t p1
        else after (parkProp s t p1) 262144 .seniorReportTimeout (.op t.id t.op)
      else giveBack m s
    | _ => giveBack m s)
where
  /-- RELEASE to the gate and the members, which the gate's region knows. -/
  giveBack (m : AMsg) (s : State) : State :=
    let l := match findAcc s m.region m.acc with
      | some c => (governing c.qa c.qb m.slot).members
      | none => [(s.dev.id, m.region)]
    toEach m.core 24 (fun i r => .leaseRelease { m with member := i, region := r }) 0 l s

/-- FREEZE_REPORT. -/
def execFreezeReport (r : ARep) (s : State) : Res :=
  onProp s r (.freezeReport r) fun s t p =>
    if p.phase ≠ .lease && p.phase ≠ .reports then s
    else
      let p1 := { p with reports := natInsert p.reports r.member, topRound := max p.topRound (r.num / 2 ^ 40) }
      if p.phase = .reports && p.q.members.length ≤ p1.reports.length then seniorPrepare s t p1 else parkProp s t p1

/-- SENIOR_REPORT_TIMEOUT. -/
def execSeniorReportTimeout (s : State) : Res :=
  match s.focus with
  | .op tid op =>
    match getThread s tid with
    | none => .next s
    | some t =>
      match t.wait with
      | .op (.prop p) => .next (if t.op = op && p.phase = .reports then seniorPrepare s t p else s)
      | _ => .next s
  | _ => .fault .noSubject

/-! ### Answers to learning operations -/

/-- A question of a proposal is answered (R187, R264). -/
def propAnswer (s : State) (t : Thread) (p : PropOp) (v1 : Word) (decided : Bool) (orig : Nat) : State :=
  match p.phase with
  | .first => propGo s t { p with slot := v1.toNat, hint := 0, phase := .begin }
  | .looking =>
    if !decided then propGo s t { p with phase := .begin }
    else if orig = t.id && v1 = p.v0 then returnConv s t p 0 9 none
    else propGo s t { p with slot := p.slot + 1 }
  | .window => propGo s t { p with phase := if p.outer = .conv then .begin else .first, fall := false }
  | _ => s

/-- Return from a learning form, BALLOT, STAT, NEXT, CVRECV or CVOP.STATE with its two words (R154 to R157, R162, R166, R188, R189). -/
def returnLearn (s : State) (t0 : Thread) (l : LearnOp) (v1 v2 : Word) (decided : Bool) (slot orig bal : Nat) : State :=
  let t := { t0 with deadline := 0, op := t0.op + 1 }
  let r1 := BitVec.ofNat 4 l.d
  let r2 := BitVec.ofNat 4 (l.d + 1)
  let ref := BitVec.ofNat 64 (l.acc * 2 ^ 32 + l.slot)
  let learned := fun (form : Nat) (v1 v2 : Word) =>
    let out := v2.toNat % 16
    let c : Completion := { r1, v1, r2, v2, defeat := defeatAfter out }
    if out ≤ 1 || out = 7 || out = 8 then finish s t ⟨4, form, ref, v1, some (decisionExt decided orig bal v2), none⟩ c
    else retire s (t.apply c)
  match l.form with
  | .learn => learned 0 v1 v2
  | .poll => learned 1 v1 v2
  | .learnt => if v2.toNat % 16 = 8 then learned 2 0 7 else learned 2 v1 v2
  | .recv _ _ =>
    let obj : Word := BitVec.ofNat 64 (l.acc * 2 ^ 32 + slot)
    finish s t ⟨0x0B, 0, obj, v1, some (obj, v2), none⟩ { r1, v1, r2, v2 }
  | .ballot => finish s t ⟨5, 0, ref, v1, none, none⟩ { r1, v1 }
  | .stat _ => finish s t ⟨6, 3, BitVec.ofNat 64 (l.acc * 2 ^ 32), v1, none, none⟩ { r1, v1 }
  | .next => finish s t ⟨6, 4, BitVec.ofNat 64 (l.acc * 2 ^ 32), v1, none, none⟩ { r1, v1 }
  | .cvstate _ => finish s t ⟨0x0A, 4, BitVec.ofNat 64 (l.acc * 2 ^ 32), v1, none, none⟩ { r1, v1 }
  | _ => s

/-- A learning operation is answered: by itself, or for the proposal that asked. -/
def learnEnd (s : State) (t : Thread) (l : LearnOp) (v1 v2 : Word) (decided : Bool) (slot orig bal : Nat) : State :=
  match t.kept with
  | .prop p :: _ => propAnswer s { t with kept := [], op := t.op + 1 } p v1 decided orig
  | _ => returnLearn s t l v1 v2 decided slot orig bal

/-- A learning operation ends without an answer: NOQUORUM with a reason (R156, R161). -/
def learnFail (s : State) (t : Thread) (l : LearnOp) (why : Nat) : State :=
  match t.kept with
  | .prop p :: _ => outerEnd s { t with op := t.op + 1 } p 3 why 0 0 0
  | _ =>
    match l.form with
    | .recv _ low => returnLearn s t l 0 (cursorWord l.acc l.slot low 3) false l.slot 0 0
    | .learn => returnLearn s t l 0 (statusWord 0 why 3) false l.slot 0 0
    | .poll => returnLearn s t l 0 (statusWord 0 why 3) false l.slot 0 0
    | .learnt => returnLearn s t l 0 (statusWord 0 why 3) false l.slot 0 0
    | _ => returnLearn s t l (statusWord 0 why 3) 0 false l.slot 0 0

/-- LEARNER_FAILOVER (R156): after 524,288 silent cycles the next member is asked and the old record cancelled. -/
def execLearnerFailover (s : State) : Res :=
  match s.focus with
  | .op tid op =>
    match getThread s tid with
    | none => .next s
    | some t =>
      match t.wait with
      | .op (.learn l) =>
        if t.op ≠ op then .next s
        else if s.cycle < l.heard + 524288 then .next (post s (l.heard + 524288) 0 .learnerFailover s.focus)
        else
          let s1 := cancelAsk s t l
          if l.n ≤ l.tried + 1 then .next (learnFail s1 t l 6) else .next (askMember s1 t { l with tried := l.tried + 1 })
      | _ => .next s
  | _ => .fault .noSubject

/-- The learning operation that a thread is in, asking or filling its table. -/
def learnOf (t : Thread) : Option LearnOp :=
  match t.wait, t.kept with
  | .op (.learn l), _ => some l
  | _, .learn l :: _ => some l
  | _, _ => none

/-- LEARNT_DEADLINE (R155): the decision has not come by the end of the deadline cycle. -/
def execLearntDeadline (s : State) : Res :=
  match s.focus with
  | .thread tid =>
    match getThread s tid with
    | none => .next s
    | some t =>
      match learnOf t with
      | some l =>
        if t.deadline = 0 || s.cycle ≤ t.deadline || l.form ≠ .learnt then .next s
        else .next (returnLearn (cancelAsk s t l) { t with kept := [] } l 0 7 false l.slot 0 0)
      | none => .next s
  | _ => .fault .noSubject

end Sys2Proof.Machine
end

