-- ==== Sys2Proof/Machine/Accord.lean ====
section
/-! DEFINITION. The agreement instructions (R143 to R162), opening, closing and truncating accords (R159 to R161), the members' answers,
and the conversation instructions (R187 to R189). -/

namespace Sys2Proof.Machine

/-! ### OPEN, CLOSE and TRUNC -/

/-- Return from OPEN, CLOSE or TRUNC; OPENL goes on at its ring entry (R353). -/
def returnAcc (s : State) (t : Thread) (a : AccOp) (d : Nat) : State :=
  if t.place = .engine then wait s { t with op := t.op + 1, held := [BitVec.ofNat 64 d], kept := [.acc a] } (.until .always)
  else retireReg s { t with op := t.op + 1 } (BitVec.ofNat 4 a.d) (BitVec.ofNat 64 d)

/-- A message of OPEN, CLOSE or TRUNC. -/
def accMsg (s : State) (t : Thread) (a : AccOp) (member region slot : Nat) (v : Word) : AMsg :=
  { region, member, acc := a.acc, gen := a.gen, epoch := 1, slot, bal := 0, flag := a.flag, v, orig := t.part, tid := t.id, op := t.op,
    core := t.core, dev := s.dev.id }

def parkAcc (s : State) (t : Thread) (a : AccOp) : State := wait s t (.op (.acc a))

/-- Quorum A of the descriptor that OPEN read. -/
def openQuorum (a : AccOp) : Quorum := parseQuorum ((a.cfg.drop 128).take 128)

/-- Device address of the descriptor: OPEN keeps it behind the bytes that it read. -/
def openDesc (a : AccOp) : Nat := fieldAt (a.cfg.drop 1472) 0 8

/-- The registration message of OPEN (R160): directory or member. For OPENL, which has no context, darr is a device address (R353). -/
def openMsg (s : State) (t : Thread) (a : AccOp) (member region : Nat) : Instr :=
  let q0 := fieldAt a.cfg 0 8
  let proto := if fieldAt a.cfg 32 8 = 0 then none else parseProto (a.cfg.drop 384)
  let darr := match (getCtx s t.ctx).map fun x => segCheck x (BitVec.ofNat 64 (fieldAt a.cfg 16 8)) 32 32 rightARW with
    | some (.ok da) => da
    | some (.error _) => 0
    | none => fieldAt a.cfg 16 8
  .accordRegister (accMsg s t a member region (fieldAt a.cfg 8 8 % 2 ^ 32) 0) (openQuorum a) none (fieldAt a.cfg 24 8 % 32) darr proto
    t.ctx (bitAt q0 7) (q0 / 2 ^ 20 % 16) (openDesc a)

/-- Order key of what one core sends for an accord to a region: a message that takes a registration back does not pass it (R160). -/
def openKey (core acc region : Nat) : Nat := 2 ^ 100 + (core * 2 ^ 32 + acc) * 64 + region

/-- Send a message of OPEN to a member or the directory. -/
def toOpen (s : State) (core acc dev region payload : Nat) (i : Instr) : State :=
  if dev = s.dev.id then send s core (regionHub region) payload (openKey core acc region) i else emit s dev i

/-- Send a message of OPEN to each member. -/
def toOpenAll (core acc payload : Nat) (mk : Nat → Nat → Instr) : Nat → List (Nat × Nat) → State → State
  | _, [], s => s
  | i, m :: l, s => toOpenAll core acc payload mk (i + 1) l (toOpen s core acc m.1 m.2 payload (mk i m.2))

/-- Take back a failed OPEN everywhere (R160). It returns once the directory and every member that has registered it have answered. -/
def openUndo (s : State) (t : Thread) (a : AccOp) : State :=
  let mk := fun i r => Instr.accordCloseAtMember (accMsg s t a i r 0 1)
  let s1 := toOpen (toOpenAll t.core a.acc 16 mk 0 (openQuorum a).members s) t.core a.acc s.dev.id (a.acc % 64) 16 (mk 255 (a.acc % 64))
  parkAcc s1 t { a with undo := true, waiting := 255 :: a.inAt }

/-- Every member has answered OPEN (R160 steps 2 to 4): id and epoch are written, or everything is taken back. -/
def openDone (s : State) (t : Thread) (a : AccOp) : State :=
  if a.code = 0 && t.place = .engine then returnAcc s t a a.acc
  else if a.code = 0 then
    let d := openDesc a
    let s1 := accWrite s t.ctx a.acc (d + 4) (leBytes 4 a.acc)
    let s2 := accWrite s1 t.ctx a.acc (d + 12) (leBytes 4 1)
    returnAcc s2 t a a.acc
  else openUndo s t a

/-- The members of every configuration of an accord (R161). -/
def allMembers (e : AccTab) : List (Nat × Nat) :=
  match e.qb with
  | some q => bothMembers e.qa q
  | none => e.qa.members

/-- Begin OPEN, CLOSE or TRUNC, with the configuration known where there is one. -/
def accGo (s : State) (t : Thread) (a : AccOp) : State :=
  match a.form with
  | 0 =>
    let t1 := { t with op := t.op + 1, wait := .op (.acc a) }
    let s1 := toOpen (setThread s t1) t.core a.acc s.dev.id (a.acc % 64) 64 (openMsg s t1 a 255 (a.acc % 64))
    after s1 262144 .openTimeout (.op t1.id t1.op)
  | 1 =>
    withEntry s t a.acc [.acc a] fun s t e =>
      if e.owner ≠ t.ctx || a.acc / 65536 ≠ s.dev.id then fatalAt s t 0x10 a.acc
      else if a.code = 2 then returnAcc s t a (2 * 2 ^ 32)
      else
        let a1 := { a with gen := e.gen, members := allMembers e }
        let t1 := { t with op := t.op + 1, wait := .op (.acc a1), kept := [] }
        toMember (setThread s t1) t.core (a.acc / 65536) (a.acc % 64) 16 (.accordCloseAtMember (accMsg s t1 a1 255 (a.acc % 64) 0 0))
  | _ =>
    withEntry s t a.acc [.acc a] fun s t e =>
      let a1 := { a with gen := e.gen, members := allMembers e }
      let t1 := { t with op := t.op + 1, wait := .op (.acc a1), kept := [] }
      let m := nth (0, 0) e.qa.members 0
      toMember (setThread s t1) t.core m.1 m.2 16 (.accordTruncAtMember (accMsg s t1 { a1 with flag := true } 0 m.2 a.t 0))

/-- The directory, or for TRUNC the gate, has answered: the members are told. -/
def accSecond (s : State) (t : Thread) (a : AccOp) : State :=
  match a.form with
  | 0 =>
    let q := openQuorum a
    parkAcc (toOpenAll t.core a.acc 256 (fun i r => openMsg s t a i r) 0 q.members s) t { a with waiting := List.range q.members.length }
  | 1 =>
    parkAcc (dropTab (toEach t.core 16 (fun i r => .accordCloseAtMember (accMsg s t a i r 0 0)) 0 a.members s) t a.acc) t
      { a with waiting := List.range a.members.length }
  | _ =>
    let mk := fun i r => Instr.accordTruncAtMember (accMsg s t a i r a.t 0)
    let s1 := toEach t.core 16 mk 1 (a.members.drop 1) s
    let s2 := toMember s1 t.core (a.acc / 65536) (a.acc % 64) 16 (mk 255 (a.acc % 64))
    parkAcc s2 t { a with waiting := (List.range a.members.length).drop 1 ++ [255] }

/-- A status of OPEN, CLOSE or TRUNC arrives (R160, R161). -/
def accStatus (s : State) (t : Thread) (a : AccOp) (member code v : Nat) : State :=
  if a.first then
    if code ≠ 0 then returnAcc s t a (code * 2 ^ 32)
    else accSecond s t (match a.form with
      | 0 => { a with first := false, gen := v }
      | 1 => { a with first := false }
      | _ => { a with first := false, t := v })
  else
    let a1 := { a with waiting := a.waiting.filter (· != member), code := if a.undo then a.code else max a.code code,
                       inAt := if a.form = 0 && !a.undo && code = 0 then natInsert a.inAt member else a.inAt }
    if !a1.waiting.isEmpty then parkAcc s t a1
    else if a.undo then returnAcc s t a1 (a.code * 2 ^ 32)
    else match a.form with
      | 0 => openDone s t a1
      | 1 => returnAcc s t a1 0
      | _ => returnAcc s t a1 a1.t

/-- OPEN_TIMEOUT (R160): UNREACH, once what answered is taken back. -/
def execOpenTimeout (s : State) : Res :=
  match s.focus with
  | .op tid op =>
    match getThread s tid with
    | none => .next s
    | some t =>
      match t.wait with
      | .op (.acc a) => if t.op ≠ op || a.undo then .next s else .next (openUndo s t { a with first := false, code := 4 })
      | _ => .next s
  | _ => .fault .noSubject

/-! ### Answers -/

/-- CLOSE by force reaches a thread that is parked in an instruction on the accord, wherever in it (R161): NOQUORUM with reason CLOSED. -/
def closeAt (s : State) (t : Thread) (acc : Nat) : State :=
  if !parkedOn acc t then s
  else match t.wait, t.kept with
    | .op (.prop p), _ => endProp s t p 3 13 0 0 0
    | .op (.learn l), _ => learnFail s t l 13
    | _, .learn l :: k => learnFail s { t with kept := k } l 13
    | _, .prop p :: _ => endProp s t p 3 13 0 0 0
    | _, _ => s

/-- MEMBER_REPLY (R148, R154 to R162, R188, R397). A reply to the device itself reports a frontier for a takeover (R158). -/
def execMemberReply (tid op member : Nat) (b : MBody) (s : State) : Res :=
  if noOrigin ≤ tid then .next (match b with
    | .answer v1 _ _ _ _ _ => frontReport s (tid - noOrigin) member v1.toNat
    | _ => s)
  else if (getThread s tid).isNone then .next s
  else .next (toLive s tid fun s t =>
    match t.wait, b with
    | _, .closed acc => closeAt s t acc
    | w, b =>
      if t.op ≠ op then s
      else match w, b with
      | .op (.learn l), .ack => wait s t (.op (.learn { l with heard := s.cycle }))
      | .op (.learn l), .keep => wait s t (.op (.learn { l with heard := s.cycle }))
      | .op (.learn l), .stale => askMember (dropTab s t l.acc) t l
      | .op (.learn l), .answer v1 v2 d slot orig bal => learnEnd s t l v1 v2 d slot orig bal
      | .op (.fill acc), .config gen epoch owner desc bs =>
        wait (putTab s t (tabFrom acc desc owner gen epoch bs)) t (.until .always)
      | .op (.fill acc), .stale => fatalAt s t 0x10 acc
      | .op (.acc a), .status code v => accStatus s t a member code v
      | .op (.acc a), .stale => accGo (dropTab s t a.acc) t { a with first := true }
      | .op _, .poison da => fatalAt s t 0x11 da
      | _, _ => s)

/-! ### The frame of an agreement instruction -/

/-- Go on with what an instruction has kept. -/
def goOp (s : State) (t : Thread) : Op → State
  | .prop p => propGo s t p
  | .learn l => askMember s t l
  | .acc a => accGo s t a
  | .fill _ => s

/-- Begin an agreement instruction, or carry it on after its fill or fence. -/
def agree (s : State) (t : Thread) (start : State → Thread → State) : State :=
  let s1 := match t.wait with
    | .gathered bs st => if st % 16 = 9 then fillIn s t (st / 16) bs else s
    | _ => s
  match t.kept with
  | [] => start s1 t
  | o :: l => goOp s1 { t with kept := l } o

/-- Live, or the recorded result in its turn (R166, R329). -/
def liveOr (s : State) (t : Thread) (type form : Nat) (obj : Word) (live : State → Thread → State)
    (old : State → Thread → LogRead → State) : State :=
  match getCtx s t.ctx with
  | none => fatalAt s t 0x02 0
  | some x => if replaying x then inTurn s t x type form obj old else live s t

/-- Status, origin and ballot of a record's extension (R326). -/
def extOf (e : LogRead) : Word × Nat × Nat :=
  match e.ext with
  | some x => (x.2, x.1.toNat % 2 ^ 40, x.2.toNat / 256 * 256 + x.1.toNat / 2 ^ 40 % 256)
  | none => (0, 0, 0)

/-- Deliver a recorded PROP or RESHAPE (R329, R330): a decision is told to the members again, DEFEAT follows, nothing is held. The value of
a RESHAPE that took effect is the address of block 2 (R158); a reason CONFIG says that the value is a configuration (R144). -/
def oldProp (d : BitVec 3) (b : Word) (plain : Bool) (acc slot : Nat) (s : State) (t : Thread) (e : LogRead) : State :=
  let x := extOf e
  let out := x.1.toNat % 16
  if plain && out = 0 && e.outcome ≠ b then fatalAt s t 0x17 e.idx
  else
    let config := (!plain && out = 0) || (out = 1 && x.1.toNat / 16 % 16 = 15)
    let s1 := match accordView s acc with
      | some (_, c) =>
        let v : Word := if !plain && out = 0 then BitVec.ofNat 64 (c.desc + 256) else e.outcome
        if out ≤ 1 then
          let m : AMsg := { region := 0, member := 0, acc, gen := c.gen, epoch := epochAt c.epoch c.qb slot, slot, bal := x.2.2,
                            flag := false, v, config, orig := x.2.1, tid := t.id, op := 0, core := t.core, dev := s.dev.id }
          toEach t.core 40 (fun i g => .decided { m with member := i, region := g }) 0 (governing c.qa c.qb slot).members s
        else s
      | none => s
    let t1 := if out ≤ 1 then t.setDefeat 0 else if out = 2 then t.setDefeat (min 15 (t.defeat + 1)) else t
    retire s1 ((t1.setReg (pairLo d) e.outcome).setReg (pairHi d) x.1)

/-- PROP with its hint in the odd register (R143, R146). -/
def propOp (form : Nat) (g : BitVec 5) (d : BitVec 3) (a b : BitVec 4) (s : State) : Res :=
  scalar g s fun s t => agree s t fun s t =>
    let ref := t.reg a
    let acc := ref.toNat / 2 ^ 32
    let slot := ref.toNat % 2 ^ 32
    liveOr s t 2 form ref
      (fun s t => propGo s t { outer := .plain, form, d := (pairLo d).toNat, acc, slot, v0 := t.reg b, hint := t.reg (pairHi d),
                               run := form == 1 })
      (oldProp d (t.reg b) true acc slot)

/-- PROP (R143). -/
def execProp (g : BitVec 5) (d : BitVec 3) (a b : BitVec 4) (s : State) : Res := propOp 0 g d a b s

/-- PROP.RUN (R143, R152). -/
def execPropRun (g : BitVec 5) (d : BitVec 3) (a b : BitVec 4) (s : State) : Res := propOp 1 g d a b s

/-- Deliver a recorded learning form or CVRECV. -/
def oldLearn (d : BitVec 3) (clr : Bool) (s : State) (t : Thread) (e : LogRead) : State :=
  let st := (extOf e).1
  let t1 := if clr && st.toNat % 16 ≤ 1 then t.setDefeat 0 else t
  retire s ((t1.setReg (pairLo d) e.outcome).setReg (pairHi d) st)

/-- The learning forms (R154, R155): a LEARNT at or past its deadline polls once. -/
def learnOp (f : LForm) (num : Nat) (dl : Thread → Word) (g : BitVec 5) (d : BitVec 3) (a : BitVec 4) (s : State) : Res :=
  scalar g s fun s t => agree s t fun s t =>
    let ref := t.reg a
    liveOr s t 4 num ref
      (fun s t =>
        let b := (dl t).toNat
        let l : LearnOp := { form := f, d := (pairLo d).toNat, acc := ref.toNat / 2 ^ 32, slot := ref.toNat % 2 ^ 32,
                             poll := b ≠ 0 && b ≤ s.cycle }
        if b = 0 || b ≤ s.cycle then askMember s t l
        else askMember (post s (b + 1) 0 .learntDeadline (.thread t.id)) { t with deadline := b } l)
      (oldLearn d true)

/-- LEARN (R154). -/
def execLearn (g : BitVec 5) (d : BitVec 3) (a : BitVec 4) (s : State) : Res := learnOp .learn 0 (fun _ => 0) g d a s

/-- LEARN.POLL (R154). -/
def execLearnPoll (g : BitVec 5) (d : BitVec 3) (a : BitVec 4) (s : State) : Res := learnOp .poll 1 (fun _ => 0) g d a s

/-- LEARNT (R154, R155). -/
def execLearnt (g : BitVec 5) (d : BitVec 3) (a b : BitVec 4) (s : State) : Res := learnOp .learnt 2 (fun t => t.reg b) g d a s

/-- A question to the nearest member with one result register (R157, R162, R189). -/
def askOp (type num : Nat) (obj : Word → Word) (f : Word → LForm) (sl : Word → Word → Nat) (acc : Word → Nat) (g : BitVec 5)
    (d a b : BitVec 4) (s : State) : Res :=
  scalar g s fun s t => agree s t fun s t =>
    liveOr s t type num (obj (t.reg a))
      (fun s t => askMember s t { form := f (t.reg b), d := d.toNat, acc := acc (t.reg a), slot := sl (t.reg a) (t.reg b) })
      (fun s t e => retireReg s t d e.outcome)

/-- The accord id of a slot reference. -/
def refAcc (a : Word) : Nat := a.toNat / 2 ^ 32

/-- The accord id in the low half of a register (R159). -/
def lowAcc (a : Word) : Nat := a.toNat % 2 ^ 32

/-- An accord id in [63:32]. -/
def accObj (a : Word) : Word := a <<< 32

/-- BALLOT (R157). -/
def execBallot (g : BitVec 5) (d a : BitVec 4) (s : State) : Res :=
  askOp 5 0 id (fun _ => .ballot) (fun a _ => a.toNat % 2 ^ 32) refAcc g d a 10 s

/-- ACCORD.STAT (R162). -/
def execAccordStat (g : BitVec 5) (d a b : BitVec 4) (s : State) : Res := askOp 6 3 accObj .stat (fun _ _ => 0) lowAcc g d a b s

/-- ACCORD.NEXT (R159). -/
def execAccordNext (g : BitVec 5) (d a b : BitVec 4) (s : State) : Res :=
  askOp 6 4 accObj (fun _ => .next) (fun _ b => b.toNat % 2 ^ 32) lowAcc g d a b s

/-- CVOP.STATE (R189). -/
def execCvopState (g : BitVec 5) (d a b : BitVec 4) (s : State) : Res :=
  askOp 0x0A 4 (fun a => a &&& 0xFFFFFFFF00000000) .cvstate (fun _ _ => 0) refAcc g d a b s

/-! ### RESHAPE -/

/-- RESHAPE with the new quorum's bytes read (R158): REFUSED for an invalid one, BUSY while another waits, else a proposal of block 2's
device address. -/
def reshapeWith (bs : List Byte) (d : BitVec 3) (ref : Word) (s : State) (t : Thread) : State :=
  let acc := refAcc ref
  let p : PropOp := { outer := .plain, form := 0, d := (pairLo d).toNat, acc, slot := ref.toNat % 2 ^ 32, v0 := 0, hint := t.reg (pairHi d) }
  if !validQuorum bs then returnProp s t p 3 5 15 0 0 0 none
  else withEntry s { t with held := toQuads 16 bs } acc [] fun s t e =>
    let pending := e.qb.isSome || (match accordView s acc with
      | some (_, c) => c.qb.isSome
      | none => false)
    if pending then returnProp s t p 3 3 4 0 0 0 none
    else propGo s t { p with outer := .reshape { parseQuorum bs with frm := 0 }, v0 := BitVec.ofNat 64 (e.desc + 256) }

/-- RESHAPE (R158): the descriptor at b is read as a load. -/
def execReshape (g : BitVec 5) (d : BitVec 3) (a b : BitVec 4) (s : State) : Res :=
  scalar g s fun s t => agree s t fun s t =>
    liveOr s t 3 0 (t.reg a)
      (fun s t =>
        match t.wait, t.held with
        | .gathered bs 1, _ => reshapeWith bs d (t.reg a) s t
        | _, w :: ws => reshapeWith (quadBytes (w :: ws)) d (t.reg a) s t
        | _, [] =>
          match getCtx s t.ctx with
          | none => fatalAt s t 0x02 0
          | some x =>
            match segCheck x (t.reg b) 128 128 rightR with
            | .error c => fatalAt s t c (t.reg b).toNat
            | .ok da => gatherFrom s t da 128 [] 1)
      (oldProp d 0 false (refAcc (t.reg a)) ((t.reg a).toNat % 2 ^ 32))

/-! ### The ACCORD forms -/

/-- The checks of OPEN on the descriptor alone (R136, R160). -/
def openCheck (s : State) (x : Ctx) (bs : List Byte) : Bool :=
  let q := fun i => fieldAt bs (8 * i) 8
  let llen := q 3 % 32
  let quorum := (bs.drop 128).take 128
  q 0 / 2 ^ 24 == 0 && q 0 / 2 ^ 16 % 16 == 0 && q 0 / 256 % 256 == 16 && q 0 % 128 == 0 && q 1 / 2 ^ 32 == 0 && q 3 / 32 == 0
    && 6 ≤ llen && llen ≤ 20 && ((bs.take 128).drop 40).all (· == 0) && ((bs.drop 256).take 128).all (· == 0)
    && validQuorum quorum && fieldAt quorum 4 4 == 0
    && ((parseQuorum quorum).members.all fun m => !(m.1 == s.dev.id && (getRegion s m.2).excluded))
    && (match segCheck x (BitVec.ofNat 64 (q 2)) (32 * 2 ^ llen) 32 rightARW with
      | .ok da => addrClass da == 3 || addrClass da == 4
      | .error _ => false)

/-- OPEN with everything read (R160): BADDESC, NOROOM, or the registrations begin. The bytes are the descriptor, the protocol table or
zeros, and the descriptor's device address. The index of a control accord is no program's (R320), and a descriptor in a constant window
cannot be written (R19). -/
def openWith (d : BitVec 4) (idx : Word) (x : Ctx) (desc : Nat) (bs : List Byte) (s : State) (t : Thread) : State :=
  let acc := s.dev.id * 65536 + idx.toNat % 65536
  let a : AccOp := { form := 0, d := d.toNat, acc }
  let badProto := fieldAt bs 32 8 ≠ 0 && (parseProto (bs.drop 384)).isNone
  if idx.toNat / 65536 ≠ 0 || !openCheck s x bs || badProto then returnAcc s t a (2 * 2 ^ 32)
  else if (getRegion s (acc % 64)).excluded then returnAcc s t a (3 * 2 ^ 32)
  else if isControl s acc then fatalAt s t 0x10 acc
  else if ownWindow s t desc then fatalAt s t 0x02 desc
  else if inWindow s t.core t.part desc then fatalAt s t 0x10 desc
  else accGo s t { a with cfg := bs ++ List.replicate (1472 - bs.length) 0 ++ leBytes 8 desc }

/-- ACCORD.OPEN (R159, R160): the descriptor, then the protocol table, are read as loads. -/
def execAccordOpen (g : BitVec 5) (d a b : BitVec 4) (s : State) : Res :=
  scalar g s fun s t =>
    match getCtx s t.ctx with
    | none => fatalAt s t 0x02 0
    | some x =>
      match segCheck x (t.reg a) 384 128 rightARW with
      | .error c => fatalAt s t c (t.reg a).toNat
      | .ok da =>
        match t.wait with
        | .gathered bs 1 =>
          if fieldAt bs 32 8 = 0 then openWith d (t.reg b) x da bs s t
          else match segCheck x (BitVec.ofNat 64 (fieldAt bs 32 8)) 1088 64 rightR with
            | .error _ => returnAcc s t { form := 0, d := d.toNat, acc := 0 } (2 * 2 ^ 32)
            | .ok pa => gatherFrom s t pa 1088 bs 2
        | .gathered bs _ => openWith d (t.reg b) x da bs s t
        | _ => gatherFrom s t da 384 [] 1

/-- ACCORD.CLOSE (R159, R161). -/
def execAccordClose (g : BitVec 5) (d a b : BitVec 4) (s : State) : Res :=
  scalar g s fun s t => agree s t fun s t =>
    accGo s t { form := 1, d := d.toNat, acc := lowAcc (t.reg a), flag := (t.reg b).getLsbD 0,
                code := if (t.reg b).toNat / 2 = 0 then 0 else 2 }

/-- ACCORD.TRUNC (R159, R161). -/
def execAccordTrunc (g : BitVec 5) (d a b : BitVec 4) (s : State) : Res :=
  scalar g s fun s t => agree s t fun s t =>
    accGo s t { form := 2, d := d.toNat, acc := lowAcc (t.reg a), t := (t.reg b).toNat % 2 ^ 32 }

/-! ### Conversations -/

/-- Send a value into a conversation (R187): a PENDING hint is searched for first. -/
def convSend (form : Nat) (d : BitVec 4) (acc : Nat) (v : Word) (s : State) (t : Thread) : State :=
  liveOr s t 0x0A form 0
    (fun s t =>
      let h := (t.reg d).toNat
      let p : PropOp := { outer := .conv, form, d := d.toNat, acc, slot := 0, v0 := v }
      if h % 16 = 8 then propGo s t { p with slot := h / 256 % 2 ^ 32, phase := .looking } else propGo s t { p with phase := .first })
    (fun s t e => retireReg s t d e.outcome)

/-- CVSEND (R187). -/
def execCvsend (g : BitVec 5) (d a b : BitVec 4) (r : BitVec 3) (k : BitVec 4) (s : State) : Res :=
  scalar g s fun s t => agree s t fun s t =>
    let v : Word := BitVec.ofNat 64 (k.toNat * 2 ^ 60 + r.toNat * 2 ^ 57 + (t.reg b).toNat % 2 ^ 56)
    convSend (r.toNat * 16 + k.toNat) d (refAcc (t.reg a)) v s t

/-- CVRECV (R188). -/
def execCvrecv (g : BitVec 5) (d : BitVec 3) (a : BitVec 4) (s : State) : Res :=
  scalar g s fun s t => agree s t fun s t =>
    let c := (t.reg a).toNat
    liveOr s t 0x0B 0 0
      (fun s t => askMember s t { form := .recv (c / 32 % 8) (c % 256), d := (pairLo d).toNat, acc := c / 2 ^ 32,
                                  slot := c / 256 % 2 ^ 24 })
      (oldLearn d false)

/-- The value of a role-control message (R181, R189). -/
def controlValue (op role payload : Nat) : Word := BitVec.ofNat 64 (15 * 2 ^ 60 + role * 2 ^ 57 + op * 2 ^ 54 + payload)

/-- CVOP.JOIN (R189). -/
def execCvopJoin (g : BitVec 5) (d a : BitVec 4) (s : State) : Res :=
  scalar g s fun s t => agree s t fun s t => convSend 0 d (refAcc (t.reg a)) (controlValue 1 ((t.reg a).toNat % 8) 0) s t

/-- CVOP.DLG (R189). -/
def execCvopDlg (g : BitVec 5) (d a b : BitVec 4) (s : State) : Res :=
  scalar g s fun s t => agree s t fun s t =>
    convSend 2 d (refAcc (t.reg a)) (controlValue 0 ((t.reg a).toNat % 8) ((t.reg b).toNat % 2 ^ 40)) s t

/-- CVOP.LEAVE (R189). -/
def execCvopLeave (g : BitVec 5) (d a : BitVec 4) (s : State) : Res :=
  scalar g s fun s t => agree s t fun s t => convSend 3 d (refAcc (t.reg a)) (controlValue 2 ((t.reg a).toNat % 8) 0) s t

end Sys2Proof.Machine
end

