-- ==== Sys2Proof/Machine/Wake.lean ====
section
/-! DEFINITION. Waking what a translation fault has parked or held (R314 to R317): sw.WAKE, the WAKE and TQHEAD registers, and the
insertion of waiting trap-queue records. -/

namespace Sys2Proof.Machine

/-- Whether a trap queue belongs to a configured partition set (R317). -/
def isTrapQueue (s : State) (q : Nat) : Bool := s.sets.any fun x => q / 4 == x.ry * 8 + x.rx && q % 4 < x.n

/-- Let the trap-queue records that wait look for room (R316). -/
def askInsert (s : State) (q : Nat) : State := post s s.cycle 0 (.trapRecordInsert q)

/-- Set the consumer index of a trap queue (R252, R351). -/
def setHead (s : State) (q v : Nat) : State := askInsert (setTrapQ s q { getTrapQ s q with head := v % 65536 }) q

/-- Present accesses to their homes again, in order (R284, R287, R289, R314): a class 0x8 one where its window led (R277). -/
def serveAgain (s : State) : List Access → State
  | [] => s
  | a :: l => serveAgain (match a.via with
      | some (owner, da) => deliverHome s a owner (partOf s owner) (homeOf s owner a.core (partOf s owner) da)
      | none => deliverHome s a a.ctx a.part (homeOf s a.ctx a.core a.part a.da)) l

/-- The port that holds the access of a record, with that access. -/
def heldBy (s : State) (uid : Nat) : Option (Nat × Access) :=
  s.ports.findSome? fun p => (p.2.held.find? fun h => h.trap == some uid).map fun h => (p.1, h.acc)

/-- Whether a held access stands behind another of its thread and line (R117). -/
def standsBehind (a : Access) (h : HeldAcc) : Bool :=
  h.behind && sameLine h.acc a

/-- Wake a held access: it is presented again, or discarded with an acknowledgement; those behind it follow (R314, R317). -/
def wakeHeld (s : State) (uid : Nat) (skip : Bool) (old : Word) : State :=
  match heldBy s uid with
  | none => s
  | some (p, a) =>
    let rest := ((getPort s p).held.filter (standsBehind a)).map (·.acc)
    let s1 := modPort s p fun x => { x with held := x.held.filter fun h => !(h.trap == some uid || standsBehind a h) }
    if skip then
      let s2 := match a.act with
        | .merge true _ _ _ =>
          let q := takeOseq s1 a.ctx (1 * 2 ^ 64 + a.da)
          backTo q.1 (atRouter (portCore p) 0) a 8 (.fetchMergeReply a old 0 .discarded q.2)
        | _ => ackTo s1 (atRouter (portCore p) 0) a .discarded
      serveAgain s2 rest
    else serveAgain s1 (a :: rest)

/-- Wake what a record of each type parks: a thread or a member's answer, a held access, a tile command, the image writer. -/
def wakeParked (s : State) (r : TrapRec) (skip : Bool) (old : Word) : State :=
  match r.type with
  | 1 =>
    if r.kind = 2 then wakeHeld s r.uid skip old
    else match s.dev.parked.find? fun x => x.1 == r.uid with
      | some (_, .loadRequest a) =>
        sendAccess { s with dev := { s.dev with parked := s.dev.parked.filter fun x => x.1 != r.uid } } a
      | _ => modThread s r.tid fun t => if t.wait = .xfault then { t with wait := .ready, held := [], kept := [] } else t
  | 2 => wakeHeld s r.uid skip old
  | 3 =>
    if descheduled s r.ctx then
      let k := partKey r.core r.part
      let go := fun (p : Part) => { p with queue := p.queue.map fun e => if e.seq = r.more then { e with parked := false } else e }
      modCtx s r.ctx fun x => { x with saved := x.saved.map fun v =>
        { v with parts := match tblFind v.parts k with
          | some p => tblSet v.parts k (go p)
          | none => v.parts } }
    else resumeCmd s r.core r.part r.more
  | _ => post (modCtx s r.ctx fun x => { x with image := x.image.map fun j => { j with parked := false } }) s.cycle 0 .imagePageWrite
      (.ctx r.ctx)

/-- A wake (R317): ignored unless it names the entry of a parked access by queue, index and thread id; SKIP counts only where the record
allows it. -/
def wakeRec (s : State) (v old : Word) : State :=
  let n := v.toNat
  let q := bitsOf n 55 48
  let i := bitsOf n 47 40
  let tq := getTrapQ s q
  match tblFind tq.recs i with
  | none => s
  | some r =>
    if bitsOf n 62 56 ≠ 0 || !isTrapQueue s q || !r.live || r.tid % 2 ^ 40 ≠ n % 2 ^ 40 then s
    else
      let s1 := setTrapQ s q { tq with recs := tblSet tq.recs i { r with live := false } }
      askInsert (wakeParked s1 r (bitAt n 63 && r.skipOk) old) q

/-- Before READY only ID, STATE, EXCL and the SPDM mailbox answer (R350). -/
def ready (s : State) : Bool := s.dev.state == 5

/-- WAKE (R351): the register's write wakes with WAKEV. -/
def execWake (v : Word) (s : State) : Res := .next (if ready s then wakeRec s v s.dev.wakev else s)

/-- TQHEAD (R351): register of queue `q`, of which bits [15:0] count. -/
def execTqhead (q : Nat) (v : Word) (s : State) : Res := .next (if ready s then setHead s (q % 256) v.toNat else s)

/-- TRAP_RECORD_INSERT (R316). -/
def execTrapRecordInsert (q : Nat) (s : State) : Res := .next (retryRecs s q)

end Sys2Proof.Machine
end

