-- ==== Sys2Proof/Machine/System.lean ====
section
/-! DEFINITION. System instructions: traps and state words (R251 to R260), HALT, YIELD and WFM (R261 to R263), checkpoints (R265, R266),
the order log's forms (R267), SNAP (R268, R269), the energy budget (R305), and the word that no form has (R61). -/

namespace Sys2Proof.Machine

/-! ### Traps -/

/-- TRAP (R257). From the last word of a 16 KiB slice the saved pc is 0, which is pc + 4 in 14 bits, and the trap comes before any fault of
R65 (log entry 73). -/
def execTrap (g : BitVec 5) (c : BitVec 12) (s : State) : Res :=
  scalar g s fun s t =>
    if t.inTrap then fatalAt s t 0x05 0 else takeTrap s t 1 (c.setWidth 64) (BitVec.ofNat 14 (t.pc.toNat + 4))

/-- ERET (R258). -/
def execEret (g : BitVec 5) (s : State) : Res := scalar g s returnFromTrap

/-- ILLEGAL_INSTRUCTION (R61, R65, R68, R76, R306): `w` is the word that the thread in focus would have issued. -/
def execIllegalInstruction (_w : BitVec 32) (s : State) : Res := scalar 0 s fun s t => fatalAt s t 0x01 0

/-! ### State words -/

/-- sw.ENERGY of a context (R252, R305). -/
def energyWord (x : Ctx) : Word := if x.budget = 0 then BitVec.allOnes 64 else BitVec.ofNat 64 (x.budget - x.energy)

/-- Free records of the segment of a region, by its tail and head (R254, R327, R328). -/
def logSpace (s : State) (c : Nat) (x : Ctx) (g : Nat) : Nat := 2 ^ x.log.lseg - (logTail s c x g - logHead s c x g)

/-- sw.OLOG as a core of region `g` reads it (R254). -/
def ologWord (s : State) (c : Nat) (x : Ctx) (g : Nat) : Word :=
  let full := s.threads.any fun t => t.2.ctx == c && regionOf t.2.core == g && ringWaits t.2
  BitVec.ofNat 64 (b2n x.log.on * 2 ^ 31 + b2n x.log.paused * 2 ^ 30 + b2n x.log.rpl * 2 ^ 29 + b2n full * 2 ^ 28
    + (if x.log.on then min (logSpace s c x g) 0xFFFFFF else 0))

/-- The value of a state word (R252). -/
def stateWord (s : State) (t : Thread) (x : Ctx) (sel : Nat) : Word :=
  match sel with
  | 0x000 => cycleWord s
  | 0x001 => BitVec.ofNat 64 (vtimeOf s x)
  | 0x002 => BitVec.ofNat 64 (t.uac % 2 ^ 12)
  | 0x003 => t.fpx.setWidth 64
  | 0x004 => t.trapc.setWidth 64
  | 0x005 => t.trapv
  | 0x006 => t.trappc.setWidth 64
  | 0x007 => BitVec.ofNat 64 ((tstatWord s t.core t.part).toNat % 2 ^ 32)
  | 0x008 => ologWord s t.ctx x (regionOf t.core)
  | 0x009 => energyWord x
  | 0x00A => BitVec.ofNat 64 x.prio
  | 0x100 => let q := t.tq.getD (trapQueueOf s t.core t.part); BitVec.ofNat 64 (q * 2 ^ 16 + (getTrapQ s q).head)
  | 0x102 => BitVec.ofNat 64 (matrixHolder s t.core * 2 ^ 4 + partCount s t.core)
  | 0x103 => BitVec.ofNat 64 (getRegion s (regionOf t.core)).clock
  | 0x104 => t.wakev
  | _ => 0

/-- Whether a context may name a selector (R251). -/
def mayName (x : Ctx) (sel : Nat) : Bool := x.sys || sel < 0x100

/-- RDSW (R252, R253): it completes in line; a privileged selector in an ordinary context is a fatal privilege fault. -/
def execRdsw (g : BitVec 5) (d : BitVec 4) (sel : BitVec 12) (s : State) : Res :=
  scalar g s fun s t =>
    match getCtx s t.ctx with
    | none => fatalAt s t 0x02 0
    | some x => if mayName x sel.toNat then retireReg s t d (stateWord s t x sel.toNat) else fatalAt s t 0x04 0

/-- WRSW (R252, R253): the low bits that the word's width covers. -/
def execWrsw (g : BitVec 5) (a : BitVec 4) (sel : BitVec 12) (s : State) : Res :=
  scalar g s fun s t =>
    let v := t.reg a
    match getCtx s t.ctx with
    | none => fatalAt s t 0x02 0
    | some x =>
      if !mayName x sel.toNat then fatalAt s t 0x04 0
      else match sel.toNat with
        | 0x003 => retire s { t with fpx := v.setWidth 5 }
        | 0x004 => retire s { t with trapc := v.setWidth 8 }
        | 0x005 => retire s { t with trapv := v }
        | 0x006 => retire s { t with trappc := v.setWidth 14 }
        | 0x100 => let q := v.toNat / 2 ^ 16 % 256; setHead (retire s { t with tq := some q }) q v.toNat
        | 0x101 => wakeRec (retire s t) v t.wakev
        | 0x104 => retire s { t with wakev := v }
        | _ => retire s t

/-! ### Ending, yielding and waiting -/

/-- The end of a thread: its slot and its id become free, and the launch may be complete (R17, R261, R302). -/
def endThread (s : State) (t : Thread) : State :=
  let s1 := dropThread (leaveQueue s t) t.id
  let s2 := match t.place with
    | .slot n => slotFreed s1 t.core t.part n
    | _ => s1
  poll s2 1 .launchComplete (.ctx t.ctx)

/-- HALT (R261, R346): after the fence the thread ends; a count mismatch is trapped instead. -/
def execHalt (g : BitVec 5) (s : State) : Res :=
  scalar g s fun s t => fenced s t fun s t => if t.mism.isSome then retire s t else endThread s t

/-- Whether YIELD gives its slot away (R262). -/
def yields (s : State) (t : Thread) : Bool :=
  !inHandler s t && (freeSlot s t.core t.part).isNone
    && (!(getPart s t.core t.part).arrivals.isEmpty || !(tblGet [] (getRegion s (regionOf t.core)).runq t.part).isEmpty)

/-- Put a yielding thread, whose instruction is complete, at the tail of the arrival queue, or of the run queue with the region's tag;
when both are full, of the arrival queue that its slot is about to empty by one (R262, R303). -/
def requeue (s : State) (t : Thread) : State :=
  let p := getPart s t.core t.part
  let g := regionOf t.core
  let q := tblGet [] (getRegion s g).runq t.part
  let s2 := match t.place with
    | .slot n => slotFreed s t.core t.part n
    | _ => s
  if p.arrivals.length < 8 || 48 ≤ q.length then
    modPart (setThread s2 { t with place := .arrivalQ }) t.core t.part fun x => { x with arrivals := x.arrivals ++ [t.id] }
  else modRegion (setThread s2 { t with place := .runQ }) g fun r => { r with runq := tblSet r.runq t.part (q ++ [(t.id, none)]) }

/-- YIELD (R262). -/
def execYield (g : BitVec 5) (s : State) : Res :=
  scalar g s fun s t =>
    if !yields s t then retire s t
    else fenced s t fun s t =>
      let s1 := retire s t
      match getThread s1 t.id with
      | some u => if u.wait = .stopped then s1 else requeue s1 u
      | none => s1

/-- The event flag of a thread's slot (R263). -/
def eventFlag (s : State) (t : Thread) : Bool :=
  match t.place with
  | .slot n => bitAt (getPart s t.core t.part).flags n
  | _ => false

/-- WFM (R263). -/
def execWfm (g : BitVec 5) (s : State) : Res :=
  scalar g s fun s t =>
    if inHandler s t then fatalAt s t 0x01 0
    else if eventFlag s t then
      retire (match t.place with
        | .slot n => modPart s t.core t.part fun p => { p with flags := p.flags &&& (0xFFFF ^^^ 2 ^ n) }
        | _ => s) t
    else wait s t (.until .flag)

/-! ### Checkpoints -/

/-- Whether quad i of a live-range table is good for a view (R265). -/
def rangeOk (view : Nat) (w : Word) : Bool :=
  let n := w.toNat
  n / 2 ^ 32 == 0 && 1 ≤ n / 2 ^ 16 && n / 2 ^ 16 ≤ 1024 && n % 64 == 0 && n % 2 ^ 16 + 64 * (n / 2 ^ 16) ≤ view

/-- Whether the quads of a live-range table are good (R265). -/
def tableOk (view : Nat) (l : List Word) : Bool :=
  let q := (nth 0 l 0).toNat
  q / 2 ^ 24 == 0 && q / 2 ^ 11 % 2 ^ 5 == 0 && q / 2 ^ 16 ≤ 31 && (l.drop 1).all (rangeOk view)

/-- The fault of a read of the table: an address of another class, or outside the view, is a broken table (R265). -/
def tableFault (e : Nat × Nat) : Nat := if e.1 = 0x10 then 0x08 else e.1

/-- The live-range table at a program address (R265). -/
def readTable (s : State) (t : Thread) (a : Word) : Except (Nat × Nat) (List Word) :=
  match readOwn s t a 8 8 with
  | .error e => .error (tableFault e, e.2)
  | .ok b =>
    let n := ofLeBytes b / 2 ^ 16 % 256
    if 31 < n then .error (0x08, 0)
    else match readOwn s t a (8 * (n + 1)) 8 with
      | .error e => .error (tableFault e, e.2)
      | .ok bs =>
        let l := toQuads (n + 1) bs
        if tableOk (viewSize s t.core) l then .ok l else .error (0x08, 0)

/-- The log record of a CKPT that takes a request (R326). -/
def ckptRec (s : State) (t : Thread) (trigger : Nat) : LogRec :=
  ⟨0x15, 0, BitVec.ofNat 64 (controlAcc s (trapQueueOf s t.core t.part) * 2 ^ 32 + t.core), BitVec.ofNat 64 trigger, none, none⟩

/-- Take the pending checkpoint request (R266, R292): trigger 1 for the period, 2 for the step count; in a replay the recorded one. -/
def takeRequest (s : State) (t : Thread) (x : Ctx) : State :=
  let p := getPart s t.core t.part
  let trigger := if p.ckptTimer then 1 else 2
  let clear := fun s => modPart s t.core t.part fun p => { p with ckptTimer := false, ckptStep := false }
  if replaying x then
    inTurn s t x 0x15 0 (ckptRec s t trigger).obj fun s t e => takeTrap (clear s) t 4 e.outcome t.pc
  else finish (clear s) t (ckptRec s t trigger) { v1 := BitVec.ofNat 64 trigger, after := 1 }

/-- Whether a dusk stop is requested whose cycle has not passed (R266). -/
def duskAhead (s : State) (x : Ctx) : Bool :=
  match x.dusk with
  | some d => s.cycle ≤ d
  | none => false

/-- CKPT (R266): a request, a halt for a dusk stop, or a completion that the step count counts (R292). -/
def execCkpt (g : BitVec 5) (a : BitVec 4) (s : State) : Res :=
  scalar g s fun s t =>
    match readTable s t (t.reg a), getCtx s t.ctx with
    | .error e, _ => fatalAt s t e.1 e.2
    | _, none => fatalAt s t 0x02 0
    | .ok l, some x =>
      let p := getPart s t.core t.part
      if (p.ckptTimer || p.ckptStep) && !t.inTrap then takeRequest s t x
      else if duskAhead s x then
        fenced s t fun s t =>
          let s1 := retire s t
          match t.mism, getThread s1 t.id with
          | none, some u => if u.wait = .stopped then s1 else wait s1 u (.ckpt l)
          | _, _ => s1
      else
        let n := p.ckptCount + 1
        let s1 := setPart s t.core t.part { p with ckptCount := n }
        retire (if x.steps ≠ 0 && n % x.steps = 0 then post s1 s1.cycle 0 .ckptStepTrigger (.part t.core t.part) else s1) t

/-- CKPT_STEP_TRIGGER (R292). -/
def execCkptStepTrigger (s : State) : Res :=
  match s.focus with
  | .part core p => .next (modPart s core p fun x => { x with ckptStep := true })
  | _ => .fault .noSubject

/-- Change a partition index on every core of a context's block. -/
def onBlock (f : Part → Part) (p : Nat) : List Nat → State → State
  | [], s => s
  | c :: l, s => onBlock f p l (modPart s c p f)

/-- CKPT_PERIOD_TRIGGER (R292): at each multiple of the period of sw.VTIME every core sets its request. It is due again at the next
multiple, as long as sw.VTIME advances. -/
def execCkptPeriodTrigger (s : State) : Res :=
  match s.focus with
  | .ctx c =>
    match getCtx s c with
    | none => .next s
    | some x =>
      if x.period = 0 || x.life ≠ .running || x.vtSince.isNone then .next s
      else
        let v := vtimeOf s x
        let s1 := if v % x.period = 0 && v ≠ 0 then onBlock (fun p => { p with ckptTimer := true }) x.part (blockCores x) s else s
        .next (poll s1 (x.period - v % x.period) .ckptPeriodTrigger (.ctx c))
  | _ => .fault .noSubject

/-! ### The order log -/

/-- Act on the order log of a thread's context; without one the form only completes (R267). -/
def ologOp (g : BitVec 5) (s : State) (k : State → Thread → Ctx → State) : Res :=
  scalar g s fun s t =>
    match getCtx s t.ctx with
    | none => fatalAt s t 0x02 0
    | some x => if x.log.on then k s t x else retire s t

/-- OLOG.MARK (R267): in a replay its operand must be the recorded one. -/
def execOlogMark (g : BitVec 5) (a : BitVec 4) (s : State) : Res :=
  ologOp g s fun s t x =>
    if replaying x then
      inTurn s t x 0x10 0 (t.reg a) fun s t e => if e.obj = t.reg a then retire s t else fatalAt s t 0x17 e.idx
    else if logging x then finish s t ⟨0x10, 0, t.reg a, 0, none, none⟩ {}
    else retire s t

/-- OLOG.PAUSE (R267): the record, then every core pauses and acknowledges. -/
def execOlogPause (g : BitVec 5) (s : State) : Res :=
  ologOp g s fun s t x =>
    if !t.held.isEmpty || x.log.paused then retire s t
    else if x.log.rpl then inTurn s t x 0x11 0 0 fun s t _ => complete s t { after := 2 }
    else finish s t ⟨0x11, 0, 0, 0, none, none⟩ { after := 2 }

/-- Clear PAUSED and wait for the cores' acknowledgements. -/
def resumeLog (s : State) (t : Thread) : State :=
  let s1 := modCtx s t.ctx fun x => { x with log := { x.log with paused := false } }
  bump (setThread s1 { t with held := [1], wait := .until (.cycle (s.cycle + Config.netExtra s.nonce 0 % 65)) })

/-- OLOG.RESUME (R267): every core resumes and acknowledges, then the record; a replay waits for its turn first. -/
def execOlogResume (g : BitVec 5) (s : State) : Res :=
  ologOp g s fun s t x =>
    if !t.held.isEmpty then (if x.log.rpl then retire s t else finish s t ⟨0x12, 0, 0, 0, none, none⟩ {})
    else if !x.log.paused then retire s t
    else if x.log.rpl then inTurn s t x 0x12 0 0 fun s t _ => resumeLog s t
    else resumeLog s t

/-- The operations of a context that are resolved and whose records wait for room, by thread and operation number. -/
def unwritten (ctx : Nat) (l : List (Nat × Thread)) : List Word :=
  l.flatMap fun e => if e.2.ctx = ctx && ringWaits e.2 then [BitVec.ofNat 64 e.1, BitVec.ofNat 64 e.2.op] else []

/-- Whether each operation of a list has its record and is delivered (R267). -/
def logDone (s : State) : List Word → Bool
  | i :: o :: l => (match getThread s i.toNat with
    | some t => !(ringWaits t && BitVec.ofNat 64 t.op == o)
    | none => true) && logDone s l
  | _ => true

/-- OLOG.FLUSH (R267): it waits for the operations that were resolved and had no record when it issued. -/
def execOlogFlush (g : BitVec 5) (s : State) : Res :=
  ologOp g s fun s t _ =>
    let l := if t.wait.resumes then t.held else unwritten t.ctx s.threads
    if logDone s l then retire s t else wait s { t with held := l } (.until .logDone)

/-! ### Snapshots -/

/-- Whether a SNAP request is good (R268). With nmask 0 the narrowing fields name nothing. -/
def snapOk (x : Ctx) (bs : List Byte) : Bool :=
  let q := fieldAt bs 0 8
  let smask := q % 256
  let nmask := q / 256 % 256
  let nfrom := q / 2 ^ 16 % 16
  let nto := q / 2 ^ 20 % 16
  q / 2 ^ 27 == 0 && q / 2 ^ 24 ≤ 1 && smask != 0 && smask ||| nmask == smask
    && (if nmask = 0 then nfrom == 0 && (nto == 0 || nto == 2 || nto == 3) else nfrom == 1 && (nto == 2 || nto == 3))
    && ((bs.take 64).drop 24).all (· == 0)
    && (match segCheck x (BitVec.ofNat 64 (fieldAt bs 8 8)) 4096 1 rightW with
      | .ok da => addrClass da == 4 || addrClass da == 5
      | .error _ => false)

/-- A SNAP that proposes nothing (R269). -/
def snapRefused (s : State) (t : Thread) (d : BitVec 4) (acc code : Nat) : State :=
  finish s { t with kept := [] } ⟨0x14, 0, BitVec.ofNat 64 (acc * 2 ^ 32), BitVec.ofNat 64 code, none, none⟩
    { r1 := d, v1 := BitVec.ofNat 64 code }

/-- SNAP (R268, R269): the fence, the block, then a proposal into the next slot of the partition's control accord. -/
def execSnap (g : BitVec 5) (d a : BitVec 4) (s : State) : Res :=
  scalar g s fun s t => agree s t fun s t => fenced s t fun s t =>
    liveOr s t 0x14 0 0
      (fun s t =>
        match getCtx s t.ctx with
        | none => fatalAt s t 0x02 0
        | some x =>
          match segCheck x (t.reg a) 64 64 rightR with
          | .error c => fatalAt s t c (t.reg a).toNat
          | .ok da =>
            match t.wait with
            | .gathered bs _ =>
              let acc := controlAcc s (trapQueueOf s t.core t.part)
              if !snapOk x bs then snapRefused s t d acc 2
              else if x.image.isSome then snapRefused s t d acc 3
              else propGo s t { outer := .snap, form := 0, d := d.toNat, acc, slot := 0, v0 := BitVec.ofNat 64 (2 * 2 ^ 60 + da),
                                phase := .first }
            | _ => gatherFrom s t da 64 [] 1)
      (fun s t e => retireReg s t d e.outcome)

/-! ### The energy budget -/

/-- BUDGET_EXHAUSTED (R259, R305): the class becomes 0, and the trap is due once on each core, after its resumption when the context is off
its cores. -/
def execBudgetExhausted (s : State) : Res :=
  match s.focus with
  | .ctx c =>
    match getCtx s c with
    | none => .next s
    | some x =>
      let f := fun (p : Part) => { p with budgetTrap := true }
      .next (match x.saved with
        | some v => setCtx s c { x with exhausted := true, prio := 0, saved := some { v with parts := v.parts.map fun p => (p.1, f p.2) } }
        | none => onBlock f x.part (blockCores x) (setCtx s c { x with exhausted := true, prio := 0 }))
  | _ => .fault .noSubject

/-- BUDGET_TRAP (R255, R259): the thread in focus, which would issue the word at its pc, takes the trap instead. -/
def execBudgetTrap (s : State) : Res :=
  match s.focus with
  | .thread tid =>
    match getThread s tid with
    | none => .fault .noIssuer
    | some t =>
      let v := match getCtx s t.ctx with
        | some x => energyWord x
        | none => 0
      .next (takeTrap (modPart s t.core t.part fun p => { p with budgetTrap := false }) t 5 v t.pc)
  | _ => .fault .noIssuer

/-- What the meter of a region charges a context: of the energy that it measured, the share of the context's issue cycles and tile-engine
cycles among those of all contexts there (R305, log entry 76). -/
def regionCharge (s : State) (c g : Nat) : Nat :=
  let l := (getRegion s g).used
  let all := (l.map (·.2)).sum
  if all = 0 then 0 else Config.regionPower s.nonce g * tblGet 0 l c / all

/-- What all meters charge a context. -/
def chargeOf (s : State) (c : Nat) : Nat := ((List.range 64).map (regionCharge s c)).sum

/-- Charge the contexts for one interval (R305); those whose budget is used up drop to class 0. -/
def chargeAll : List (Nat × Ctx) → State → State
  | [], s => s
  | (c, x) :: l, s =>
    let e := x.energy + chargeOf s c
    let s1 := setCtx s c { x with energy := e }
    chargeAll l (if x.budget ≠ 0 && x.budget ≤ e && !x.exhausted then post s1 s1.cycle 0 .budgetExhausted (.ctx c) else s1)

/-- ENERGY_METER (R305), every 1,300 cycles. -/
def execEnergyMeter (s : State) : Res :=
  let s1 := chargeAll s.ctxs s
  .next (bump (after { s1 with regions := s1.regions.map fun (r : Nat × Region) => (r.1, { r.2 with used := [] }) } 1300 .energyMeter))

end Sys2Proof.Machine
end

