-- ==== Sys2Proof/Machine/Launch.lean ====
section
/-! DEFINITION. Launches: the record and its checks (R295 to R298), LNCH (R264), assignment (R299), the start (R300, R301), the
completion (R302), and what becomes of a context's resources afterwards (R293, R311). -/

namespace Sys2Proof.Machine

/-! ### The launch record -/

/-- Quad i of a record. -/
def recQ (bs : List Byte) (i : Nat) : Nat := fieldAt bs (8 * i) 8

/-- A decomposition level (R297). -/
structure Level where
  domain : Nat
  tr : Nat
  tc : Nat
  deriving DecidableEq, Repr

def recLevel (bs : List Byte) (i : Nat) : Level :=
  let q := recQ bs (32 + i)
  ⟨q / 2 ^ 56, q / 2 ^ 32 % 2 ^ 24, q / 2 ^ 8 % 2 ^ 24⟩

def recNlev (bs : List Byte) : Nat := bitsOf (recQ bs 0) 51 48

def recNk (bs : List Byte) : Nat := bitsOf (recQ bs 0) 47 40

def recAccord (bs : List Byte) : Nat := recQ bs 0 % 2 ^ 32

def recSys (bs : List Byte) : Bool := bitAt (recQ bs 0) 63

def recLevels (bs : List Byte) : List Level := (List.range (recNlev bs)).map (recLevel bs)

/-- Length of a record with `nk` constants (R295). -/
def recLen (nk : Nat) : Nat := 320 + 8 * nk

def recW (bs : List Byte) : Nat := 2 ^ bitsOf (recQ bs 3) 18 16

def recH (bs : List Byte) : Nat := 2 ^ bitsOf (recQ bs 3) 22 20

def recOx (bs : List Byte) : Nat := bitsOf (recQ bs 3) 6 0

def recOy (bs : List Byte) : Nat := bitsOf (recQ bs 3) 14 8

/-- Cores of the block, row by row, with their block coordinates. -/
def recCores (bs : List Byte) : List (Nat × Nat × Nat) :=
  (List.range (recW bs * recH bs)).map fun i =>
    (coreAt (recOx bs + i % recW bs) (recOy bs + i / recW bs), i % recW bs, i / recW bs)

/-- A segment descriptor of a record (R22). -/
def recSeg (bs : List Byte) (i : Nat) : Seg :=
  let q := recQ bs (17 + 2 * i)
  { base := recQ bs (16 + 2 * i) % 2 ^ 56, limit := q % 2 ^ 53, r := bitAt q 63, w := bitAt q 62, x := bitAt q 61, m := bitAt q 60,
    a := bitAt q 59 }

/-- Whether a segment passes R22. -/
def segOk (bs : List Byte) (i : Nat) : Bool :=
  let b := recQ bs (16 + 2 * i)
  let g := recSeg bs i
  b / 2 ^ 56 == 0 && bitsOf (recQ bs (17 + 2 * i)) 58 53 == 0 && (g.limit == 0 || (b + g.limit - 1) / 2 ^ 52 == b / 2 ^ 52)

/-- Whether a quad is a device address of class 0x3, 0x4 or 0x5 with an alignment. -/
def homeAddrOk (q align : Nat) : Bool := (q / 2 ^ 52 == 3 || q / 2 ^ 52 == 4 || q / 2 ^ 52 == 5) && q % align == 0

/-- Whether the levels are in range, in order, and nothing follows them (R297). -/
def levelsOk (bs : List Byte) : Bool :=
  let l := recLevels bs
  1 ≤ recNlev bs && recNlev bs ≤ 8
    && (l.all fun v => v.domain ≤ 5 && 1 ≤ v.tr && 1 ≤ v.tc)
    && ((List.range 8).all fun i => if i < recNlev bs then recQ bs (32 + i) % 2 ^ 8 == 0 else recQ bs (32 + i) == 0)
    && ((List.range (recNlev bs - 1)).all fun i => (recLevel bs (i + 1)).domain ≤ (recLevel bs i).domain)

/-! ### Assignment (R299) -/

/-- A tile of the tensor. -/
structure Extent where
  row : Nat
  col : Nat
  rows : Nat
  cols : Nat
  deriving DecidableEq, Repr

/-- The procedure cut of R299. -/
def cut (e : Extent) (tr tc u : Nat) : Extent :=
  let nr := ceilDiv e.rows tr
  let nc := ceilDiv e.cols tc
  if nr * nc ≤ u then ⟨e.row, e.col, 0, 0⟩
  else
    let r := u / nc
    let c := u % nc
    ⟨e.row + r * tr, e.col + c * tc, min tr (e.rows - r * tr), min tc (e.cols - c * tc)⟩

/-- The unit index of a domain for the core at block coordinates (bx, y). -/
def unitOf (dev : Nat) (bs : List Byte) (domain bx y : Nat) : Nat :=
  match domain with
  | 1 => y * recW bs + bx
  | 3 =>
    let gx := fun i => (recOx bs + i) / 16
    let gy := fun i => (recOy bs + i) / 16
    (gy y - gy 0) * (gx (recW bs - 1) - gx 0 + 1) + (gx bx - gx 0)
  | 4 => dev % 32
  | 5 => dev / 32
  | _ => 0

/-- The tile of a core: every level before the first slot level cuts it. -/
def coreExtent (dev : Nat) (bs : List Byte) (bx y : Nat) : Extent :=
  ((recLevels bs).takeWhile fun l => l.domain != 0).foldl (fun e l => cut e l.tr l.tc (unitOf dev bs l.domain bx y))
    ⟨0, 0, recQ bs 9 % 2 ^ 32, recQ bs 9 / 2 ^ 32⟩

def slotLevels (bs : List Byte) : List Level := (recLevels bs).filter fun l => l.domain == 0

/-- How many threads a core starts. -/
def threadCount (bs : List Byte) (e : Extent) : Nat :=
  match slotLevels bs with
  | [] => 1
  | l :: _ => max 1 (ceilDiv e.rows l.tr * ceilDiv e.cols l.tc)

/-- The sub-tile of thread i. -/
def subExtent (bs : List Byte) (e : Extent) (i : Nat) : Extent := (slotLevels bs).foldl (fun u l => cut u l.tr l.tc i) e

/-! ### Checks (R298) -/

/-- The partition index of every schedule entry that a set gives a virtual device; `none` where it gives it none, or several indices. -/
def setPart? (x : PSet) (vd : Nat) : Option Nat :=
  match x.entries.filter fun e => e.vd == vd with
  | [] => none
  | e :: l => if l.all fun f => f.p == e.p then some e.p else none

/-- The partition index at which the regions of a block give a virtual device its schedule entries; `none` where one gives it none, or
they differ (R298, R395). -/
def blockPart (s : State) (vd : Nat) (bs : List Byte) : Option Nat :=
  let idx := fun c => (psetOf s (regionOf c)).bind fun x => setPart? x vd
  match recCores bs with
  | [] => none
  | (c, _) :: l =>
    match idx c with
    | some p => if l.all fun k => idx k.1 == some p then some p else none
    | none => none

/-- Size of the smallest slice among the cores of a block; of the whole store where a core has no partition. -/
def recSlice (s : State) (bs : List Byte) : Nat :=
  (recCores bs).foldl (fun m c => if sliceSize s c.1 = 0 then m else min m (sliceSize s c.1)) 16384

/-- Whether a record passes every check that is refused as BADREC (R296 to R298). `da` is its own device address. -/
def recordOk (s : State) (da : Nat) (bs : List Byte) : Bool :=
  let q := recQ bs
  let log := bitAt (q 0) 61
  let len := bitsOf (q 2) 47 32
  let entry := q 2 % 2 ^ 16
  let tvec := bitsOf (q 2) 31 16
  let lseg := q 8
  bitsOf (q 0) 58 52 == 0 && bitsOf (q 0) 39 32 == 0 && recNk bs ≤ 240 && (!bitAt (q 0) 59 || log)
    && homeAddrOk (q 1) 4
    && q 2 / 2 ^ 48 == 0 && len % 4 == 0 && 4 ≤ len && len ≤ recSlice s bs && entry % 4 == 0 && entry < len
    && (tvec == 0xFFFF || (tvec % 4 == 0 && tvec < len))
    && q 3 / 2 ^ 26 == 0 && !bitAt (q 3) 23 && !bitAt (q 3) 19 && !bitAt (q 3) 15 && !bitAt (q 3) 7
    && recOy bs % recH bs == 0 && recOx bs % recW bs == 0
    && q 5 / 2 ^ 48 == 0 && q 6 / 2 ^ 32 == 0
    && (if log then q 7 / 2 ^ 52 == 4 && q 7 % 4096 == 0 && 6 ≤ lseg && lseg ≤ 20 else q 7 == 0 && lseg == 0)
    && (q 10 == 0 || homeAddrOk (q 10) 8)
    && ((List.range 5).all fun i => q (11 + i) == 0)
    && ((List.range 8).all (segOk bs)) && levelsOk bs
    && da / 2 ^ 56 == 0 && (addrClass da == 1 || addrClass da == 3 || addrClass da == 4 || addrClass da == 5)
    && ((recCores bs).all fun c => threadCount bs (coreExtent s.dev.id bs c.2.1 c.2.2) ≤ 64)

/-- Why a record is refused for a virtual device: 1 BADREC, 6 CONFIG, 0 when it is good. -/
def recordWhy (s : State) (vd da : Nat) (bs : List Byte) : Nat :=
  if !recordOk s da bs then 1 else if (blockPart s vd bs).isNone then 6 else 0

/-! ### LNCH -/

/-- LNCH with its record read (R264): BADREC, NOGRANT, PRIV or CONFIG refuse it, else its address is proposed; in a replay the recorded
result comes in its turn (R270). -/
def lnchWith (s : State) (t : Thread) (d : BitVec 4) (da : Nat) (bs : List Byte) : State :=
  let acc := recAccord bs
  let rec' := dirGet s acc
  let refusal := if !recordOk s da bs then 1
    else match rec'.vd with
      | none => 2
      | some v => if !usable s t acc then 2 else if recSys bs then 3 else recordWhy s v da bs
  liveOr s t 0x13 0 0
    (fun s t =>
      let p : PropOp := { outer := .lnch, form := 0, d := d.toNat, acc, slot := 0, v0 := BitVec.ofNat 64 da, phase := .first }
      if refusal ≠ 0 then returnLnch s { t with kept := [] } p (lnchRefused refusal) none else propGo s t p)
    (fun s t e => retireReg s t d e.outcome)

/-- LNCH (R264, R295): the fence, the first line of the record, then the rest of it. -/
def execLnch (g : BitVec 5) (d a : BitVec 4) (s : State) : Res :=
  scalar g s fun s t => agree s t fun s t => fenced s t fun s t =>
    match getCtx s t.ctx with
    | none => fatalAt s t 0x02 0
    | some x =>
      match segCheck x (t.reg a) 320 64 rightR with
      | .error c => fatalAt s t c (t.reg a).toNat
      | .ok da =>
        match t.wait with
        | .gathered bs 1 =>
          let n := recLen (recNk bs)
          match segCheck x (t.reg a) n 64 rightR with
          | .error c => fatalAt s t c (t.reg a).toNat
          | .ok da => gatherFrom s t (da + 64) (n - 64) bs 2
        | .gathered bs _ => lnchWith s t d da bs
        | _ => gatherFrom s t da 64 [] 1

/-! ### What becomes of resources (R293) -/

/-- Zero what a partition of a core owns: its banks, its slice, and for the matrix holder the accumulators and the side memory. -/
def zeroCore (s : State) (p core : Nat) : State :=
  let k := scratchKey core (viewBase s core p)
  let i := istoreKey core (sliceBase s core p)
  let m := memZero (memZero s.mem k (viewSize s core)) i (sliceSize s core)
  let s1 := clearPoison (clearPoison { s with mem := m } k (viewSize s core)) i (sliceSize s core)
  modCore s1 core fun x =>
    let y := { x with shadows := x.shadows.filter fun h => h.part != p,
                      copies := x.copies - ((getPart s core p).queue.filter fun e => e.started && isCopyOp (tileOpcode e.word)).length }
    if matrixHolder s core = p then { y with acc := [], side := [] } else y

def zeroCores (p : Nat) : List Nat → State → State
  | [], s => s
  | c :: l, s => zeroCores p l (zeroCore s p c)

/-- Zero the merge-exception word of regions whose set of contexts changes (R273). -/
def zeroExceptions : List Nat → State → State
  | [], s => s
  | g :: l, s => let k := commonsKey g 0x7FFFC0; zeroExceptions l (clearPoison { s with mem := memZero s.mem k 8 } k 8)

/-- The graph states of a context's partitions, live or saved. -/
def graphsOf (s : State) (x : Ctx) : List GraphSt :=
  let parts : List Part := match x.saved with
    | some v => v.parts.map fun p => p.2
    | none => (blockCores x).map fun k => getPart s k x.part
  (parts.filterMap (·.graph)).foldl (fun l g => if l.contains g then l else l ++ [g]) []

/-- The ranges of a region's commons that the graph states of a context name: arenas and region bags (R233, R234). -/
def graphRanges (s : State) (x : Ctx) : List (Nat × Nat) :=
  (graphsOf s x).flatMap fun g => [(g.abase, arenaSize g), (g.boff, 1024 * g.bsz + 4096)]

/-- The ranges of a region that pass from a context to none when it ends: those that no other context there names (R236, R293). -/
def leftRanges (s : State) (c : Nat) (x : Ctx) (g : Nat) : List (Nat × Nat) :=
  let others := s.ctxs.flatMap fun y => if y.1 = c || !(blockRegions y.2).contains g then [] else graphRanges s y.2
  (graphRanges s x).filter fun r => others.all fun o => !(r.1 < o.1 + o.2 && o.1 < r.1 + r.2)

/-- Zero ranges of a region's commons. -/
def zeroRanges (g : Nat) : List (Nat × Nat) → State → State
  | [], s => s
  | (o, n) :: l, s => let k := commonsKey g o; zeroRanges g l (clearPoison { s with mem := memZero s.mem k n } k n)

/-- Zero the ranges that a context leaves in each of its regions. -/
def zeroArenas (ranges : Nat → List (Nat × Nat)) : List Nat → State → State
  | [], s => s
  | g :: l, s => zeroArenas ranges l (zeroRanges g (ranges g) s)

/-- Cycles in which ranges are zeroed: 8,192 for each MiB of a bank of 512 KiB, all banks at once (R293). -/
def rangeTime (l : List (Nat × Nat)) : Nat :=
  (List.range 16).foldl (fun n b =>
    max n (ceilDiv ((l.map fun r => min (r.1 + r.2) ((b + 1) * 2 ^ 19) - max r.1 (b * 2 ^ 19)).sum) 128)) 0

/-- Whether a barrier of a region is a context's: its whole scope lies in the block (R132). -/
def ownBar (x : Ctx) (g k : Nat) : Bool := k / 64 == x.part && (barScope (k / 16 % 4) (k % 16) g).all (inBlock x)

/-- Close a context's accords in a region, and their directory records (R311). -/
def closeAccords (c : Nat) (r : Region) : Region :=
  { r with accs := r.accs.filter fun a => a.owner != c,
           dir := r.dir.map fun d => if d.2.isOpen && d.2.owner == c then (d.1, { d.2 with isOpen := false }) else d }

/-- Drop from region `g` the barriers, waiting threads, messages and bag blocks of a context that ends on its cores. -/
def clearQueues (s : State) (c : Nat) (x : Ctx) (g : Nat) (r : Region) : Region :=
  let keeps := fun (e : Nat × Option Nat) => match getThread s e.1 with
    | some t => t.ctx != c
    | none => true
  { r with bars := r.bars.filter fun b => !ownBar x g b.1,
           runq := r.runq.map fun q => (q.1, q.2.filter keeps),
           spill := r.spill.map fun q => (q.1, q.2.filter fun m => m.ctx != c),
           bags := r.bags.map fun q => (q.1, if q.1 = x.part then q.2.filter fun b => !inBlock x b.core else q.2) }

/-- The events of a context's partitions and tile commands. -/
def ofBlock (x : Ctx) : Focus → Bool
  | .part c p => p == x.part && inBlock x c
  | .cmd c p _ => p == x.part && inBlock x c
  | _ => false

/-- Give every core of a block to an owner, its partition as new. -/
def ownCores (p c : Nat) : List Nat → State → State
  | [], s => s
  | k :: l, s => ownCores p c l (setPart s k p { owner := c })

/-- The grants that outlive a context: those of a launch accord to others, and those between others (R311). -/
def grantStays (s : State) (c : Nat) (g : Grant) : Bool :=
  g.grantee != c && (match g.acc with
    | some a => (dirGet s a).vd.isSome || (g.owner != c && (dirGet s a).owner != c)
    | none => g.owner != c)

/-- Free the cores of a context: its threads, packets to itself, accords and grants go, its image fails (R290), what it owned is zeroed, its
arenas and region bags included; its cores are given away when the zeroing ends (R293, R302, R311, R353). One that is off its cores leaves
them and the merge-exception words as they are (R273). -/
def freeCtx (s : State) (c : Nat) (x : Ctx) : State :=
  let cores := blockCores x
  let s1 := { s with regions := s.regions.map fun (r : Nat × Region) => (r.1, closeAccords c r.2) }
  let s2 := if x.saved.isSome then s1
    else
      let r1 := { s1 with regions := s1.regions.map fun (r : Nat × Region) => (r.1, clearQueues s c x r.1 r.2),
                          pend := s1.pend.filter fun p => !ofBlock x p.who }
      ownCores x.part c cores (zeroCores x.part cores r1)
  let s3 := { s2 with threads := s2.threads.filter fun t => t.2.ctx != c, grants := s2.grants.filter (grantStays s c) }
  let regs := blockRegions x
  let time := regs.foldl (fun n g => max n (rangeTime (leftRanges s c x g))) 256
  let s4 := zeroArenas (leftRanges s c x) regs (if x.saved.isSome then s3 else zeroExceptions regs s3)
  let image := x.image.map fun j => { j with failed := true, todo := [], parked := false }
  let s5 := setCtx s4 c { x with zeroing := true, saved := none, image, done := 0 }
  after (if image.isSome then post s5 s5.cycle 0 .imageComplete (.ctx c) else s5) time .zeroingEnd (.ctx c)

/-- Let every launch unit look at its next slot. -/
def askLaunches : List (Nat × Vd) → State → State
  | [], s => s
  | (v, d) :: l, s => askLaunches l (if d.decided.isEmpty then s else poll s 0 (.launchStart v) .idle)

/-- Give the cores of a context that is gone to nobody. -/
def disownCores (p c : Nat) : List Nat → State → State
  | [], s => s
  | k :: l, s => disownCores p c l (if (getPart s k p).owner = c then { s with parts := tblErase s.parts (partKey k p) } else s)

/-- ZEROING_END (R293, R301): the resources pass on, and waiting launches may go on. Without a context in focus it is the zeroing of a
partition set's quotas that has ended. -/
def execZeroingEnd (s : State) : Res :=
  match s.focus with
  | .ctx c =>
    match getCtx s c with
    | none => .next s
    | some x =>
      if !x.zeroing then .next s
      else
        let s1 := disownCores x.part c (blockCores x) s
        .next (askLaunches s1.vds { s1 with ctxs := tblErase s1.ctxs c })
  | _ => .next (askLaunches s.vds s)

/-! ### Start (R300, R301) -/

/-- Read what the launch unit reads at a device address: class 0x1 in the partition of the context that holds the core, class 0x4 and 0x5
with the roots of the virtual device (R300). -/
def launchUnit (s : State) (v da n : Nat) : State × Option (List Byte) :=
  let d := getVd s v
  let core := coreAt (da / 2 ^ 16 % 128) (da / 2 ^ 23 % 128)
  let hold := (List.range 4).find? fun p => match getCtx s (getPart s core p).owner with
    | some x => x.vd == v
    | none => false
  let p := hold.getD 0
  let own := if addrClass da = 1 then (getPart s core p).owner else 0
  unitRead s own core p d.root4 d.root5 d.root6 (n / 64 + 2) da n

/-- The bytes alone. -/
def launchRead (s : State) (v da n : Nat) : Option (List Byte) := (launchUnit s v da n).2

/-- The state after the launch unit has read: A is set in the entries that its walks used (R280). -/
def launchTouch (s : State) (v da n : Nat) : State := (launchUnit s v da n).1

/-- The record of a decided slot, read whole. -/
def readRecord (s : State) (v da : Nat) : Option (List Byte) :=
  match launchRead s v da 64 with
  | none => none
  | some b => launchRead s v da (recLen (recNk b))

/-- The image of a record. -/
def readImage (s : State) (v : Nat) (bs : List Byte) : Option (List Byte) := launchRead s v (recQ bs 1) (bitsOf (recQ bs 2) 47 32)

/-- The schedule entry in turn of a partition index of a set. -/
def turnEntry (x : PSet) (p : Nat) : Option Sched :=
  let l := x.entries.filter fun e => e.p == p
  l[(tblGet {} x.turns p).idx]?

/-- Whether a virtual device has its quantum now in every region of a block (R300, R309). -/
def inQuantum (s : State) (v p : Nat) (cores : List Nat) : Bool :=
  cores.all fun c => match psetOf s (regionOf c) with
    | none => false
    | some x => !(tblGet {} x.turns p).switching && (match turnEntry x p with
      | some e => e.vd == v
      | none => false)

/-- The context whose delivery a packet awaits. -/
def packetCtx : Instr → Option Nat
  | .storeDelivery a => some a.ctx
  | .mergeApply a => some a.ctx
  | .loadRequest a => some a.ctx
  | .messageArrival m => some m.ctx
  | .spawnRequest m => some m.ctx
  | .migrationArrival p => some p.ctx
  | .channelWord p => some p.ctx
  | .remoteAdvance p => some p.ctx
  | .linkExchange p => some p.ctx
  | .nfreeAtHome p => some p.ctx
  | .pairPush p => some p.ctx
  | _ => none

/-- Whether an access of a context waits at a port (R284, R287, R289, R314). -/
def waitsAtPort (s : State) (c : Nat) : Bool :=
  (s.ports.any fun p => p.2.held.any fun h => h.acc.ctx == c)
    || ((s.dev.zeroing ++ s.dev.migrating).any fun j => j.waiting.any fun a => a.ctx == c)
    || (match (getCtx s c).bind (·.image) with
      | some j => j.held.any fun a => a.ctx == c
      | none => false)

/-- Whether packets or held accesses of a context are still on their way. -/
def inTransit (s : State) (c : Nat) : Bool := s.pend.any (fun p => packetCtx p.what == some c) || waitsAtPort s c

/-- Whether a context has not completed: a stopped one has when nothing that it sent is on its way and its completion word is written
(R302). -/
def incomplete (s : State) (c : Nat) (x : Ctx) : Bool := !x.zeroing && (match x.life with
  | .stopped _ => x.done != 0 || inTransit s c
  | _ => true)

/-- The identity words and the constants of a core (R19, R20). -/
def windowWords (s : State) (bs : List Byte) (ctx slot core bx y : Nat) (e : Extent) : List Word :=
  [BitVec.ofNat 64 (y * 2 ^ 16 + bx), BitVec.ofNat 64 (recH bs * 2 ^ 16 + recW bs), BitVec.ofNat 64 (e.cols * 2 ^ 32 + e.rows),
   BitVec.ofNat 64 slot, BitVec.ofNat 64 ctx, BitVec.ofNat 64 s.dev.id, BitVec.ofNat 64 (regionOf core),
   BitVec.ofNat 64 (recOy bs * 2 ^ 16 + recOx bs)] ++ List.replicate 8 0
  ++ (List.range (recNk bs)).map fun i => BitVec.ofNat 64 (recQ bs (40 + i))

/-- Set up the cores of a block: owner, code, constant window. -/
def setUp (bs img : List Byte) (p c slot : Nat) : List (Nat × Nat × Nat) → State → State
  | [], s => s
  | (core, bx, y) :: l, s =>
    let e := coreExtent s.dev.id bs bx y
    let s1 := setPart s core p { owner := c }
    let m1 := memWrite s1.mem (istoreKey core (sliceBase s core p)) img
    let m2 := memWrite m1 (scratchKey core (viewBase s core p)) (quadBytes (windowWords s bs c slot core bx y e))
    setUp bs img p c slot l { s1 with mem := m2 }

/-- Registers of a started thread (R299). -/
def launchRegs (i : Nat) (u : Extent) : Regs :=
  { g1 := BitVec.ofNat 64 i, g2 := BitVec.ofNat 64 u.row, g3 := BitVec.ofNat 64 u.col, g4 := BitVec.ofNat 64 u.rows,
    g5 := BitVec.ofNat 64 u.cols }

/-- Start thread i of a core (R299, R301): its id and its record come first; in a replay they are those of the core's next record
(R329). -/
def startOne (s : State) (bs : List Byte) (p c core i : Nat) (e : Extent) : State :=
  let turn := if replays s c then (match startTurn s c core 0x0E [] with
    | .now i e => some (i, e)
    | _ => none) else none
  let j := match turn with
    | some r => r.2.outcome.toNat
    | none => i
  let tid := match turn with
    | some r => some r.2.tid
    | none => newTid s core
  match tid with
  | none => s
  | some id =>
    if replays s c && turn.isNone then raiseFatal s c core p 0 0 0x17 (match getCtx s c with
      | some x => (replayWindow s c x (regionOf core)).1
      | none => 0)
    else
      let t : Thread := { id, ctx := c, core, part := p, place := .held, op := startOp s, regs := launchRegs j (subExtent bs e j),
                          pc := BitVec.ofNat 14 (sliceBase s core p + recQ bs 2 % 2 ^ 16), held := [BitVec.ofNat 64 j] }
      match turn with
      | some r => bringIn (useStart s c core r) { t with held := [] }
      | none => bringIn s t

def startThreads (bs : List Byte) (p c core : Nat) (e : Extent) : List Nat → State → State
  | [], s => s
  | i :: l, s => startThreads bs p c core e l (startOne s bs p c core i e)

/-- Start the threads of every core of a block. -/
def startCores (bs : List Byte) (p c : Nat) : List (Nat × Nat × Nat) → State → State
  | [], s => s
  | (core, bx, y) :: l, s =>
    let e := coreExtent s.dev.id bs bx y
    startCores bs p c l (startThreads bs p c core e (List.range (threadCount bs e)) s)

/-- The context of a launch (R21, R296): a system context when the management function submitted it (R251, log entry 75). -/
def newCtx (s : State) (v p slot da : Nat) (bs : List Byte) : Ctx :=
  let q := recQ bs
  let d := getVd s v
  let tvec := bitsOf (q 2) 31 16
  { vd := v, part := p, ox := recOx bs, oy := recOy bs, w := recW bs, h := recH bs, acc := recAccord bs, slot,
    segs := (List.range 8).map (recSeg bs),
    tvec := if tvec = 0xFFFF then none else some tvec,
    sys := recSys bs && d.sysSlots.contains slot, det := bitAt (q 0) 62, barr := bitAt (q 0) 60,
    log := { ring := q 7, lseg := q 8, on := bitAt (q 0) 61, rpl := bitAt (q 0) 59, start := s.cycle },
    vtSince := some s.cycle, budget := q 4, prio := bitsOf (q 3) 25 24, period := q 5, steps := q 6, root4 := d.root4,
    root5 := d.root5, root6 := d.root6, save := d.save, done := q 10, record := da }

/-- Whether a thread id that a recording gives to a thread of the start is still live on its core (R329: the creation waits). -/
def replayClash (s : State) (v p : Nat) (bs : List Byte) : Bool :=
  let c := (firstFree (s.ctxs.map (·.1)) 65535 1).getD 0
  let x := newCtx s v p 0 0 bs
  (blockCores x).any fun k =>
    let w := replayWindow s c x (regionOf k)
    (findRec s c x (regionOf k) (fun e => e.type == 0x0E && e.obj == coreRefWord k && (liveTids s).contains e.tid) w.2 w.1).isSome

/-- Whether a good record of a virtual device must still wait (R300): BARR, cores that are held or being zeroed, quotas being zeroed, no
quantum, a core at its limit of live created threads (R17), or thread ids of a recording that are still live (R329). -/
def mustWait (s : State) (v p : Nat) (bs : List Byte) : Bool :=
  let cores := (recCores bs).map (·.1)
  (bitAt (recQ bs 0) 60 && s.ctxs.any fun c => c.2.vd == v && incomplete s c.1 c.2)
    || cores.any (fun c => (getPart s c p).owner != 0 || s.cycle < (getPart s c p).zeroUntil)
    || cores.any (fun c => match psetOf s (regionOf c) with
        | some x => s.cycle < x.readyAt
        | none => false)
    || !inQuantum s v p cores
    || ((recCores bs).any fun c =>
        (if c.1 = 16383 then 1023 else 1024) < threadCount bs (coreExtent s.dev.id bs c.2.1 c.2.2)
          + (usedSerials s c.1).length)
    || (bitAt (recQ bs 0) 59 && replayClash s v p bs)

/-- Initialise the headers of an order-log ring (R327). -/
def initRing (c : Nat) (x : Ctx) : List Nat → State → State
  | [], s => s
  | g :: l, s =>
    initRing c x l (if x.log.rpl then ctxWrite s c x (logHeadAddr x g 1) (List.replicate 8 0)
      else ctxWrite s c x (logHeadAddr x g 0) (List.replicate 64 0))

/-- Assign the trap-queue window that AREAS named for future contexts (R353). -/
def setWindow (s : State) (v p core : Nat) : State :=
  let w := (getVd s v).window
  let q := trapQueueOf s core p
  if w = 0 then s else setTrapQ s q { getTrapQ s q with window := w }

/-- A slot has started, or has been ended at its start. -/
def Vd.pass (d : Vd) (slot : Nat) : Vd :=
  { d with next := slot + 1, decided := tblErase d.decided slot, sysSlots := d.sysSlots.erase slot }

/-- Start a launch whose record and image are read (R301). -/
def startLaunch (s : State) (v p slot da : Nat) (bs img : List Byte) : State :=
  match firstFree (s.ctxs.map (·.1)) 65535 1 with
  | none => after s 16 (.launchStart v)
  | some c =>
    let cores := recCores bs
    let x := newCtx s v p slot da bs
    let s1 := setCtx (modVd s v fun d => d.pass slot) c x
    let s2 := setUp bs img p c slot cores s1
    let s3 := if x.log.on then initRing c x (List.range 64) s2 else s2
    let s4 := setWindow (zeroExceptions (blockRegions x) s3) v p (coreAt x.ox x.oy)
    let s5 := startCores bs p c cores s4
    let s6 := if x.period = 0 then s5 else after s5 x.period .ckptPeriodTrigger (.ctx c)
    post s6 s6.cycle 0 (.launchStart v)

/-- End a launch at its start: its completion word reports BADREC when the record names one (R300, R302). -/
def endAtStart (s : State) (v slot : Nat) (bs : Option (List Byte)) : State :=
  let d := getVd s v
  let s1 := match bs with
    | some b => if recQ b 10 ≠ 0 && homeAddrOk (recQ b 10) 8 then
        unitWrite s 0 0 0 d.root4 d.root5 d.root6 (recQ b 10) (leBytes 8 (slot * 2 ^ 32 + 2))
      else s
    | none => s
  post (modVd s1 v fun d => d.pass slot) s1.cycle 0 (.launchStart v)

/-- LAUNCH_START (R300, R301): the launch unit takes the next decided slot of its virtual device, if it may start. -/
def execLaunchStart (v : Nat) (s : State) : Res :=
  let d := getVd s v
  match tblFind d.decided d.next with
  | none => .next s
  | some w =>
    let da := w.toNat
    match readRecord s v da with
    | none => .next (endAtStart s v d.next none)
    | some bs =>
      if recordWhy s v da bs ≠ 0 then .next (endAtStart s v d.next (some bs))
      else match blockPart s v bs with
        | none => .next (endAtStart s v d.next (some bs))
        | some p =>
          if mustWait s v p bs then .next (poll s 16 (.launchStart v) .idle)
          else match readImage s v bs with
            | none => .next (endAtStart s v d.next (some bs))
            | some img =>
              let s1 := launchTouch (launchTouch s v da (recLen (recNk bs))) v (recQ bs 1) (bitsOf (recQ bs 2) 47 32)
              .next (startLaunch s1 v p d.next da bs img)

/-! ### Completion (R302) -/

/-- Whether a partition of a core still has work. -/
def partBusy (p : Part) : Bool :=
  !p.queue.isEmpty || !p.msgs.isEmpty || !p.held.isEmpty || !p.bounced.isEmpty || (match p.loop with
    | .pushing _ _ _ _ _ => true
    | _ => false)

/-- Whether anything of a launch is still to be done, apart from its threads. -/
def launchBusy (s : State) (c : Nat) (x : Ctx) : Bool :=
  (blockCores x).any (fun k => partBusy (getPart s k x.part))
    || (blockRegions x).any (fun g => (tblGet [] (getRegion s g).spill x.part).any fun m => m.ctx == c)
    || inTransit s c

/-- Write the completion word as a store of the launch unit (R302). -/
def writeDone (s : State) (c : Nat) (x : Ctx) (status : Nat) : State :=
  if x.done = 0 then s
  else
    let a : Access := ⟨.unit, 0, c, x.part, coreAt x.ox x.oy, 0, x.done, 8, 0, .store (leBytes 8 (x.slot * 2 ^ 32 + status)), none, none⟩
    deliver (setCtx s c { x with done := 0 }) a

/-- LAUNCH_COMPLETE (R302): once nothing of the launch is left the completion word is written, and once that is delivered the cores are
freed. The word of a stopped launch reports FAULT or KILLED, once nothing that it sent is on its way; its cores stay held. -/
def execLaunchComplete (s : State) : Res :=
  match s.focus with
  | .ctx c =>
    match getCtx s c with
    | none => .next s
    | some x =>
      match x.life with
      | .stopped killed =>
        if x.zeroing || x.done = 0 then .next s
        else if inTransit s c then .next (poll s 16 .launchComplete (.ctx c))
        else .next (writeDone s c x (if killed then 3 else 1))
      | .descheduled => .next s
      | .running =>
        if x.fault.isSome || x.zeroing || s.threads.any (fun t => t.2.ctx == c) then .next s
        else if launchBusy s c x then .next (poll s 16 .launchComplete (.ctx c))
        else if x.done ≠ 0 then .next (poll (writeDone s c x 0) 1 .launchComplete (.ctx c))
        else .next (freeCtx s c x)
  | _ => .fault .noSubject

end Sys2Proof.Machine
end

