-- ==== Sys2Proof/Machine/Stops.lean ====
section
/-! DEFINITION. Stops of a context: the gang stop (R318, R319), the dusk stop with its save and its restoration (R230, R249, R270, R320
to R324), and the quanta that ask for it (R309). -/

namespace Sys2Proof.Machine

/-! ### Gang stop (R318, R319) -/

/-- Every thread of a context stops where it stands; replies to it are late. -/
def stopThreads (c : Nat) (l : List (Nat × Thread)) : List (Nat × Thread) :=
  l.map fun e => if e.2.ctx = c then (e.1, { e.2 with wait := .stopped, op := e.2.op + 1 }) else e

/-- Bit s for each slot s of a partition that holds a thread. -/
def liveSlots (s : State) (core p : Nat) : Nat :=
  (partThreads s core p).foldl (fun n t => match t.slot? with
    | some i => n ||| 2 ^ i
    | none => n) 0

/-- Free comparators at a core, and deliver what they hold. -/
def dropShadows (home : Nat) : List Shadow → State → State
  | [], s => s
  | h :: l, s => dropShadows home l (moveShadow s home h.src h.part h.seq none)

/-- Free the comparators of a partition index on the cores of a block: its copies are stopped. -/
def dropAllShadows (p : Nat) : List Nat → State → State
  | [], s => s
  | c :: l, s => dropAllShadows p l (dropShadows c ((getCore s c).shadows.filter fun h => h.part == p) s)

/-- The halt tree reaches the cores: each stops and writes its halt record. -/
def haltCores (p : Nat) : List Nat → State → State
  | [], s => s
  | c :: l, s =>
    haltCores p l (writeHalt (modPart s c p fun x => { x with stopCycle := some s.cycle, liveMask := liveSlots s c p }) c p)

/-- The end of a context's life at a stop: its image fails (R290), and its completion word, which reports FAULT or KILLED, is due (R302). -/
def endLife (s : State) (c : Nat) (x : Ctx) : State :=
  let x1 := { x with life := .stopped x.fault.isNone, dusk := none, vtAcc := vtimeOf s x, vtSince := none,
                     image := x.image.map fun j => { j with failed := true, todo := [], parked := false } }
  let s1 := setCtx s c x1
  let s2 := if x.image.isSome then post s1 s1.cycle 0 .imageComplete (.ctx c) else s1
  let s3 := poll s2 1 .launchComplete (.ctx c)
  askLaunches s3.vds s3

/-- GANG_STOP (R318, R319): the context in focus ends. One that is off its cores only ends. -/
def execGangStop (s : State) : Res :=
  match s.focus with
  | .ctx c =>
    match getCtx s c with
    | none => .next s
    | some x =>
      if x.zeroing then .next s
      else match x.life with
        | .stopped _ => .next s
        | .descheduled => .next (endLife s c x)
        | .running =>
          let s1 := { s with threads := stopThreads c s.threads, pend := s.pend.filter fun p => !ofBlock x p.who }
          .next (endLife (haltCores x.part (blockCores x) (dropAllShadows x.part (blockCores x) s1)) c x)
  | _ => .fault .noSubject

/-! ### What completes before a dusk stop -/

/-- Whether a thread is inside a LINK, the fence before its exchanges included (R249). -/
def inLink (t : Thread) : Bool :=
  let fence := match decodeScalar t.word with
    | .ok (.link _ _ _) => true
    | _ => false
  match t.wait with
  | .link _ => true
  | .until .uacZero => fence
  | .count _ => fence
  | _ => false

/-- Whether a context must still run at its dusk cycle: a LINK runs to its end (R249), a barrier that is bound to release releases, an ACSC
that has converted completes (R230) unless a translation fault holds a write of it (R225). -/
def busyAtDusk (s : State) (c : Nat) (x : Ctx) : Bool :=
  s.threads.any fun e => e.2.ctx == c && (inLink e.2 || match e.2.wait with
    | .bar kind idx _ => (getBar s (regionOf e.2.core) x.part kind idx).releasing
    | _ => false)
  || (blockCores x).any fun k => (getPart s k x.part).queue.any fun e =>
    tileOpcode e.word == 0x23 && e.started && (!e.outDev.isEmpty || e.unacked != 0) && !heldWrite s k x.part e.seq

/-- Whether a running command of a queue completes at the stop: one of the matrix array, the vector unit or the accumulators (R230). -/
def settles (l : List QEntry) (e : QEntry) : Bool :=
  let op := tileOpcode e.word
  e.started && e.cost == 0 && !blocked l e && e.outDev.isEmpty && e.unacked == 0 && !isCopyOp op && op != 0x60

/-- Complete the running commands of a queue, in order; the fuel is the length of the queue. -/
def settleTiles (core p : Nat) : Nat → State → State
  | 0, s => s
  | n + 1, s =>
    match (getPart s core p).queue.find? (settles (getPart s core p).queue) with
    | none => s
    | some e => settleTiles core p n (completeTile s core p e)

def settleCores (p : Nat) : List Nat → State → State
  | [], s => s
  | c :: l, s => settleCores p l (settleTiles c p (getPart s c p).queue.length s)

/-! ### The fate of each thread (R321) -/

/-- What a thread halted at CKPT keeps: the registers and predicates that its table names (R265, R266). -/
def keepLive (t : Thread) (l : List Word) : Thread :=
  let q := (nth 0 l 0).toNat
  let r := fun i v => if bitAt q i then v else 0
  { t with
          regs := ⟨r 0 t.regs.g0, r 1 t.regs.g1, r 2 t.regs.g2, r 3 t.regs.g3, r 4 t.regs.g4, r 5 t.regs.g5, r 6 t.regs.g6, r 7 t.regs.g7,
             r 8 t.regs.g8, r 9 t.regs.g9⟩
          preds := if bitAt q 10 then t.preds else 1
          wait := .ready }

/-- An instruction that is abandoned, or saved as not executed: it is issued whole at the resumption. The words of a thread in a queue
stay its own. -/
def abandon (t : Thread) : Thread :=
  { t with wait := .ready, op := t.op + 1, kept := [], held := if t.slot?.isSome then [] else t.held, counted := false, deadline := 0 }

/-- The state in which a thread is saved. -/
def savedThread (t : Thread) : Thread :=
  match t.wait with
  | .ready => t
  | .fetch _ _ _ _ _ => t
  | .spawn _ _ _ => t
  | .ring r _ => if keptOutcome r then t else abandon t
  | .turn 0x0D _ _ _ => t
  | .moving => t
  | .badPc _ => t
  | .stopped => t
  | .ckpt l => keepLive t l
  | _ => abandon t

/-- Whether a thread is saved: one in flight or at another device arrives at the resumption. -/
def isSaved (c : Nat) (t : Thread) : Bool := t.ctx == c && t.place != .flight && t.place != .away

/-! ### Voiding records (R324) -/

/-- A record of type 1 whose thread is abandoned. -/
def voidable (c : Nat) (r : TrapRec) : Bool := r.type == 1 && r.kind != 2 && r.ctx == c

def voidQueue (c : Nat) (q : TrapQ) : TrapQ :=
  { q with
          recs := q.recs.map fun e => if voidable c e.2 then (e.1, { e.2 with live := false }) else e
          waiting := q.waiting.filter fun r => !voidable c r }

/-- The uids of the voidable records. -/
def voidUids (c : Nat) (l : List (Nat × TrapQ)) : List Nat :=
  l.flatMap fun q => ((q.2.recs.map (·.2) ++ q.2.waiting).filter fun r => r.live && voidable c r).map (·.uid)

def askInserts : List (Nat × TrapQ) → State → State
  | [], s => s
  | (q, _) :: l, s => askInserts l (askInsert s q)

def voidRecs (s : State) (c : Nat) : State :=
  let u := voidUids c s.trapqs
  let s1 := { s with trapqs := s.trapqs.map fun q => (q.1, voidQueue c q.2),
                     dev := { s.dev with parked := s.dev.parked.filter fun a => !u.contains a.1 } }
  askInserts s1.trapqs s1

/-! ### Save (R230, R322, R323) -/

/-- The view ranges that the save of a core must cover, or all of it (`none`): R266 bounds it when every thread there has halted at a
CKPT. -/
def savedRanges (s : State) (core p : Nat) : Option (List (Nat × Nat)) :=
  let l := partThreads s core p
  let tables := l.filterMap fun t => match t.wait with
    | .ckpt w => some w
    | _ => none
  if l.isEmpty || tables.length ≠ l.length then none
  else
    let bag := if (getPart s core p).graph.isSome then [(viewSize s core - 4096, 4096)] else []
    some ((0, 0x1800) :: bag ++ tables.flatMap fun w =>
      (w.drop 1).map fun r => (r.toNat % 2 ^ 16, 64 * (r.toNat / 2 ^ 16 % 2 ^ 16)))

def inRanges (l : List (Nat × Nat)) (a : Nat) : Bool := l.any fun r => r.1 ≤ a && a < r.1 + r.2

/-- Whether the save of a core holds a memory key: a saved byte of its view, or its instruction-store slice. -/
def savesKey (s : State) (core p k : Nat) : Bool :=
  let v := scratchKey core (viewBase s core p)
  let i := istoreKey core (sliceBase s core p)
  (v ≤ k && k < v + viewSize s core && (match savedRanges s core p with
    | none => true
    | some l => inRanges l (k - v)))
    || (i ≤ k && k < i + sliceSize s core)

/-- What of a core the save of a partition holds. -/
def savedCore (s : State) (core p : Nat) : CoreSt :=
  let k := getCore s core
  let mine := matrixHolder s core == p
  { acc := if mine then k.acc else [], side := if mine then k.side else [], shadows := k.shadows.filter fun h => h.part == p,
    copies := ((getPart s core p).queue.filter fun e => e.started && isCopyOp (tileOpcode e.word)).length }

/-- A partition as saved: its running copies stop at a line boundary. -/
def savedPart (x : Part) : Part := { x with queue := x.queue.map fun e => { e with reading := false }, startWait := [] }

/-- Extent of the save area behind the halt records (R323: its layout is the device's own). -/
def saveBytes (x : Ctx) : Nat := x.w * x.h * 131072

/-- What the save area of a context holds in HBM. -/
def areaCells (s : State) (x : Ctx) : List Host.Cell :=
  if x.save = 0 then [] else memCells s.mem (tierKey 0 (x.save + 64 * x.w * x.h)) (saveBytes x)

/-- The barriers of a context in a region. -/
def ctxBars (s : State) (x : Ctx) (g : Nat) : List (Nat × Bar) := (getRegion s g).bars.filter fun b => ownBar x g b.1

/-- The entries of a region's queues that belong to a context. -/
def ctxRunq (s : State) (c p g : Nat) : List (Nat × Option Nat) :=
  (tblGet [] (getRegion s g).runq p).filter fun e => match getThread s e.1 with
    | some t => t.ctx == c
    | none => false

def ctxSpill (s : State) (c p g : Nat) : List Msg := (tblGet [] (getRegion s g).spill p).filter fun m => m.ctx == c

def ctxBags (s : State) (x : Ctx) (g : Nat) : List BagBlock :=
  (tblGet [] (getRegion s g).bags x.part).filter fun b => inBlock x b.core

/-- Everything that the save of a context holds (R323). -/
def saveOf (s : State) (c : Nat) (x : Ctx) : Saved :=
  let cores := blockCores x
  let regs := blockRegions x
  { threads := (s.threads.filter fun e => isSaved c e.2).map fun e => (e.1, savedThread e.2)
    parts := cores.foldl (fun l k => tblSet l (partKey k x.part) (savedPart (getPart s k x.part))) []
    cores := cores.foldl (fun l k => tblSet l k (savedCore s k x.part)) []
    bars := regs.map fun g => (g, ctxBars s x g)
    runq := regs.map fun g => (g, ctxRunq s c x.part g)
    spill := regs.map fun g => (g, ctxSpill s c x.part g)
    bags := regs.map fun g => (g, ctxBags s x g)
    bytes := s.mem.filter fun m => cores.any fun k => savesKey s k x.part m.1
    poison := s.poison.filter fun m => cores.any fun k => savesKey s k x.part m
    packets := []
    area := areaCells s x }

/-- Take a context's entries out of a region. -/
def clearRegion (s : State) (c : Nat) (x : Ctx) (g : Nat) : State :=
  let keep := (tblGet [] (getRegion s g).runq x.part).filter fun e => match getThread s e.1 with
    | some t => t.ctx != c
    | none => true
  modRegion s g fun r => { r with
                                 bars := r.bars.filter fun b => !ownBar x g b.1
                                 runq := tblSet r.runq x.part keep
                                 spill := tblSet r.spill x.part ((tblGet [] r.spill x.part).filter fun m => m.ctx != c)
                                 bags := tblSet r.bags x.part ((tblGet [] r.bags x.part).filter fun b => !inBlock x b.core) }

def clearRegions (c : Nat) (x : Ctx) : List Nat → State → State
  | [], s => s
  | g :: l, s => clearRegions c x l (clearRegion s c x g)

/-- Give the partition index on the cores of a block to nobody; its zeroing takes 256 cycles (R293). -/
def leaveParts (p : Nat) : List Nat → State → State
  | [], s => s
  | k :: l, s => leaveParts p l (setPart s k p { zeroUntil := s.cycle + 256 })

/-- Take a context off its cores: all of it is saved, and what it leaves is zeroed (R293, R321 to R323). -/
def saveCtx (s : State) (c : Nat) (x : Ctx) : State :=
  let cores := blockCores x
  let s1 := settleCores x.part cores s
  let v := saveOf s1 c x
  let s2 := clearRegions c x (blockRegions x) (voidRecs s1 c)
  let s3 := { s2 with threads := s2.threads.filter fun e => !isSaved c e.2, pend := s2.pend.filter fun p => !ofBlock x p.who }
  let s4 := leaveParts x.part cores (zeroCores x.part cores s3)
  setCtx (zeroExceptions (blockRegions x) s4) c
    { x with life := .descheduled, dusk := none, vtAcc := vtimeOf s x, vtSince := none, saved := some v }

/-- Whether a gang stop of a context has begun (R318): by a fault, or by KILL. -/
def stopping (s : State) (c : Nat) (x : Ctx) : Bool :=
  x.fault.isSome || s.pend.any fun p => p.what == .gangStop && p.who == .ctx c

/-- DUSK_STOP (R321): void after a gang stop has begun (R318); a LINK and a bound release end first. -/
def execDuskStop (s : State) : Res :=
  match s.focus with
  | .ctx c =>
    match getCtx s c with
    | none => .next s
    | some x =>
      match x.dusk with
      | none => .next s
      | some d =>
        if x.life ≠ .running || stopping s c x || x.zeroing || s.cycle < d then .next s
        else if busyAtDusk s c x then .next (after s 16 .duskStop (.ctx c))
        else .next (saveCtx s c x)
  | _ => .fault .noSubject

/-! ### Restoration (R322, R323) -/

/-- Whether a trap-queue record of a thread waits to be inserted (R316). -/
def recWaits (s : State) (tid : Nat) : Bool := s.trapqs.any fun q => q.2.waiting.any fun r => r.type != 5 && r.tid == tid

/-- Put threads back; RECPEND says whether a record of the thread waits now (R316). -/
def putThreads : List (Nat × Thread) → State → State
  | [], s => s
  | (_, t) :: l, s => putThreads l (setThread s (t.setRecPend (recWaits s t.id)))

def putParts : List (Nat × Part) → State → State
  | [], s => s
  | (k, x) :: l, s => putParts l { s with parts := tblSet s.parts k x }

/-- Accumulators, side memory, comparators and running copies come back beside what other partitions hold. -/
def putCores : List (Nat × CoreSt) → State → State
  | [], s => s
  | (k, v) :: l, s =>
    putCores l (modCore s k fun x => { x with
                                             acc := if v.acc.isEmpty then x.acc else v.acc, side := if v.side.isEmpty then x.side else v.side,
                                             shadows := x.shadows ++ v.shadows, copies := x.copies + v.copies })

def putBars : List (Nat × List (Nat × Bar)) → State → State
  | [], s => s
  | (g, b) :: l, s => putBars l (modRegion s g fun r => { r with bars := b.foldl (fun t e => tblSet t e.1 e.2) r.bars })

def putRunq (p : Nat) : List (Nat × List (Nat × Option Nat)) → State → State
  | [], s => s
  | (g, q) :: l, s => putRunq p l (modRegion s g fun r => { r with runq := tblSet r.runq p (tblGet [] r.runq p ++ q) })

def putSpill (p : Nat) : List (Nat × List Msg) → State → State
  | [], s => s
  | (g, q) :: l, s => putSpill p l (modRegion s g fun r => { r with spill := tblSet r.spill p (tblGet [] r.spill p ++ q) })

def putBags (p : Nat) : List (Nat × List BagBlock) → State → State
  | [], s => s
  | (g, q) :: l, s => putBags p l (modRegion s g fun r => { r with bags := tblSet r.bags p (tblGet [] r.bags p ++ q) })

/-- Let a started command of a restored queue go on (R230): a copy at its next unread line, a QTLD with its read, any other with its
completion. One parked at a read waits for its wake. -/
def goOnCmd (core p : Nat) (e : QEntry) (s : State) : State :=
  let op := tileOpcode e.word
  if !e.started || e.parked then s
  else if !e.allRead then (if op = 0x60 then resumeCmd s core p e.seq else nextLine s core p e.seq)
  else match e.finish with
    | some f => post s (max f s.cycle) 0 .tileCommandComplete (.cmd core p e.seq)
    | none => post s s.cycle 0 .tileCommandComplete (.cmd core p e.seq)

def goOnCmds (core p : Nat) : List QEntry → State → State
  | [], s => s
  | e :: l, s => goOnCmds core p l (goOnCmd core p e s)

/-- Free nodes in quarantine have their time in sw.VTIME still to run (R236). -/
def goOnNodes (core p now : Nat) : List (Nat × Nat) → State → State
  | [], s => s
  | (n, vt) :: l, s => goOnNodes core p now l (after s (vt + 4194304 - now) (.quarantineExpiry core p n))

/-- Let what waits in the partition index of each core of a block go on. -/
def goOn (p now : Nat) : List Nat → State → State
  | [], s => s
  | k :: l, s =>
    let x := getPart s k p
    let s1 := goOnNodes k p now x.quarantine (goOnCmds k p x.queue s)
    let s2 := post (post s1 s1.cycle 0 .handlerStart (.part k p)) s1.cycle 0 .arrivalTaken (.part k p)
    let s3 := if x.held.isEmpty then s2 else post s2 s2.cycle 0 .codeOrderRelease (.part k p)
    goOn p now l (match x.loop with
      | .pushing _ _ _ _ _ => post s3 s3.cycle 0 .tloopPush (.part k p)
      | _ => s3)

/-- Deliver the saved packets in their order, before any thread issues. -/
def deliverSaved : List Instr → State → State
  | [], s => s
  | i :: l, s => deliverSaved l (post s s.cycle 0 i)

/-- Put a saved context back on its cores. An altered save area is a fatal fault of code 0x30. -/
def restoreCtx (s : State) (c : Nat) (x : Ctx) (v : Saved) : State :=
  let cores := blockCores x
  if areaCells s x ≠ v.area then raiseFatal s c (coreAt x.ox x.oy) x.part 0 0 0x30 x.save
  else
    let s1 := zeroExceptions (blockRegions x) (zeroCores x.part cores s)
    let s2 := { s1 with mem := memPutAll s1.mem 0 v.bytes, poison := v.poison.foldl natInsert s1.poison }
    let s3 := putCores v.cores (putParts v.parts s2)
    let s4 := putBags x.part v.bags (putSpill x.part v.spill (putRunq x.part v.runq (putBars v.bars s3)))
    let x1 := { x with life := .running, saved := none, vtSince := some s.cycle }
    let s5 := setCtx (putThreads v.threads s4) c x1
    let s5 := wakeTurns c s5.threads s5
    let s6 := deliverSaved v.packets (goOn x.part x.vtAcc cores s5)
    let s7 := if x.period = 0 then s6 else poll s6 (x.period - x.vtAcc % x.period) .ckptPeriodTrigger (.ctx c)
    let s8 := if s7.threads.any fun t => t.2.ctx == c && ringWaits t.2 then askRecheck s7 c else s7
    poll s8 16 .launchComplete (.ctx c)

/-! ### Quanta (R309) -/

/-- A partition set is named by its first region. -/
def setOf (s : State) (g : Nat) : Option PSet := s.sets.find? fun x => x.ry * 8 + x.rx == g

/-- The schedule entries of a partition index. -/
def entriesOf (x : PSet) (p : Nat) : List Sched := x.entries.filter fun e => e.p == p

def setTurn (s : State) (g p : Nat) (t : Turn) : State :=
  { s with sets := s.sets.map fun x => if x.ry * 8 + x.rx = g then { x with turns := tblSet x.turns p t } else x }

/-- The worst-case full save of a partition, in cycles (R310). -/
def saveBound (n : Nat) : Nat := if n = 4 then 156000 else if n = 2 then 312000 else 624000

/-- Begin a turn: its dusk cycle is proposed 4,096 cycles before its quanta end; a single entry never stops. -/
def beginTurn (s : State) (x : PSet) (p idx : Nat) : State :=
  let g := x.ry * 8 + x.rx
  match (entriesOf x p)[idx]? with
  | none => s
  | some e =>
    let s1 := setTurn s g p { idx := idx, left := e.weight, start := s.cycle, switching := false }
    let s2 := if (entriesOf x p).length < 2 then s1
      else post s1 (s1.cycle + (e.weight * e.quantum * 1024 - 4096)) 0 (.quantumDuskProposal g p)
    askLaunches s2.vds s2

/-- QUANTUM_DUSK_PROPOSAL (R309, R320): the dusk cycle is decided in the next slot of the control accord, and the switch is due then. -/
def execQuantumDuskProposal (g p : Nat) (s : State) : Res :=
  match setOf s g with
  | none => .next s
  | some x =>
    if (entriesOf x p).length < 2 || (tblGet {} x.turns p).switching then .next s
    else
      let d := s.cycle + 4096
      let s1 := match findAcc s g (controlAcc s (4 * g + p)) with
        | some c => recordDecision s g c { slot := c.front, av := BitVec.ofNat 64 (2 ^ 60 + d % 2 ^ 60) }
        | none => s
      .next (post s1 d 0 (.quantumRestore g p))

/-- The contexts of a virtual device in a partition index of a set, wholly or in part. -/
def tenants (s : State) (x : PSet) (p vd : Nat) : List (Nat × Ctx) :=
  s.ctxs.filter fun c => c.2.part == p && c.2.vd == vd && !c.2.zeroing && covers x c.2

/-- Stop the contexts of the outgoing virtual device that no valid DUSK value names. -/
def stopLeft : List (Nat × Ctx) → State → State
  | [], s => s
  | (c, x) :: l, s =>
    stopLeft l (if x.life = .running && x.dusk.isNone && !stopping s c x then
      post (setCtx s c { x with dusk := some s.cycle }) s.cycle 0 .duskStop (.ctx c)
    else s)

/-- Whether a saved context finds its cores free and zeroed (R293). -/
def coresFree (s : State) (x : Ctx) : Bool :=
  (blockCores x).all fun k => (getPart s k x.part).owner == 0 && (getPart s k x.part).zeroUntil ≤ s.cycle

def restoreAll : List (Nat × Ctx) → State → State
  | [], s => s
  | (c, x) :: l, s =>
    restoreAll l (match x.life, x.saved with
      | .descheduled, some v => restoreCtx s c x v
      | _, _ => s)

/-- QUANTUM_RESTORE (R309, R322, R323): first the outgoing contexts stop and are saved, within S(n); then the next entry's contexts are
restored once their cores are free, and its quantum begins. A context that covers other sets too is restored once its virtual device has its
quantum in all of them. `left` is 0 in the second part. -/
def execQuantumRestore (g p : Nat) (s : State) : Res :=
  match setOf s g with
  | none => .next s
  | some x =>
    let t := tblGet {} x.turns p
    let l := entriesOf x p
    match l[t.idx]? with
    | none => .next s
    | some e =>
      let out := tenants s x p e.vd
      if !t.switching then .next (after (stopLeft out (setTurn s g p { t with switching := true })) 16 (.quantumRestore g p))
      else if t.left ≠ 0 then
        if out.any fun c => c.2.life == .running then .next (after (stopLeft out s) 16 (.quantumRestore g p))
        else .next (bump (after (setTurn s g p { t with left := 0 }) (Config.unitTime s.nonce % saveBound x.n) (.quantumRestore g p)))
      else
        let next := (t.idx + 1) % l.length
        match l[next]? with
        | none => .next s
        | some f =>
          let turned := setTurn s g p { idx := next }
          let inn := (tenants s x p f.vd).filter fun c => c.2.life == .descheduled && inQuantum turned f.vd p (blockCores c.2)
          if inn.all fun c => coresFree s c.2 then .next (beginTurn (restoreAll inn s) x p next)
          else .next (after s 16 (.quantumRestore g p))

end Sys2Proof.Machine
end

