-- ==== Sys2Proof/Machine/Ports.lean ====
section
/-! DEFINITION. The memory side of the device: rings (R351), the memory commands (R285 to R287, R352), pages being zeroed and moved (R284,
R287), scrubbing (R127, R275), and the snapshot image writer (R288 to R291). -/

namespace Sys2Proof.Machine

/-! ### Rings (R351) -/

def getRing (s : State) (k : Nat) : Ring := tblGet {} s.rings k

def setRing (s : State) (k : Nat) (r : Ring) : State := { s with rings := tblSet s.rings k r }

/-- Memory key of entry `i` of a ring: BASE names HBM or PCIe. -/
def ringKey (s : State) (k i : Nat) : Nat :=
  let r := getRing s k
  tierKey (if r.base.getLsbD 63 then 0 else 2) (bitsOf r.base.toNat 47 12 * 4096 + 32 * (i % 2 ^ r.size))

/-- Quad `q` of the entry that a ring's HEAD names. -/
def headQuad (s : State) (k q : Nat) : Nat := ofLeBytes (memRead s.mem (ringKey s k (getRing s k).head + 8 * q) 8)

/-- Write bytes into an entry of a ring, from byte `off` on. -/
def writeEntry (s : State) (k i off : Nat) (bs : List Byte) : State := putBytes s (ringKey s k i + off) bs

/-- The step that an entry asks for: by its op in the memory and the configuration ring; an op without a meaning is answered 2 by the last
one of its ring. -/
def ringStep (k op : Nat) : Instr :=
  match k, op with
  | 0, 1 => .migrate
  | 0, 2 => .evict
  | 0, 3 => .inval
  | 0, _ => .frames
  | 1, 1 => .configPset
  | 1, 2 => .openl
  | 1, 3 => .kill
  | 1, 4 => .release
  | 1, 5 => .grant
  | 1, 6 => .areas
  | 1, _ => .dbgkey
  | _, _ => .hostSubmission

/-- Take up the next entry of a ring, if there is one and none is in progress. -/
def ringNext (s : State) (k : Nat) : State :=
  let r := getRing s k
  if r.head = r.tail || r.size < 4 || (s.pend.any fun p => p.who == .ring k)
      || (s.threads.any fun t => t.2.place == .engine && t.2.tq == some k) then s
  else bump (post s (s.cycle + 1 + Config.hostTime s.nonce) 0 (ringStep k (headQuad s k 0 / 2 ^ 56)) (.ring k))

/-- The head entry is consumed. -/
def ringPop (s : State) (k : Nat) : State :=
  let r := getRing s k
  ringNext (setRing s k { r with head := (r.head + 1) % 2 ^ 32 }) k

/-- Answer the head entry with a status in quad 3 [7:0] and consume it. -/
def ringAnswer (s : State) (k code : Nat) : State :=
  ringPop (writeEntry s k (getRing s k).head 24 [BitVec.ofNat 8 code]) k

/-- The frame of a step that carries out the head entry of ring `k`. -/
def ringOp (k : Nat) (s : State) (body : State → State) : Res :=
  if s.focus = .ring k then .next (body s) else .fault .noSubject

/-! ### Translations and frames (R281, R285) -/

/-- Drop the completed translations of a virtual range. -/
def dropTlb (s : State) (ctx cls va len : Nat) : State :=
  { s with ports := s.ports.map fun p => (p.1, { p.2 with tlb := p.2.tlb.filter fun t =>
    !(t.ctx == ctx && t.cls == cls && t.va < va + len && va < t.va + t.size) }) }

/-- INVAL (R281, R285). -/
def execInval (s : State) : Res :=
  ringOp 0 s fun s =>
    let q := headQuad s 0 0
    let ctx := bitsOf q 47 32
    let cls := q % 16
    if bitsOf q 55 48 ≠ 0 || bitsOf q 31 4 ≠ 0 || !(4 ≤ cls && cls ≤ 6) || (getCtx s ctx).isNone then ringAnswer s 0 2
    else ringAnswer (dropTlb s ctx cls (headQuad s 0 1) (headQuad s 0 2)) 0 1

/-- Bytes of a page of a size index. -/
def sizeOf' (i : Nat) : Nat := if i = 0 then 2 ^ 16 else if i = 1 then 2 ^ 21 else 2 ^ 30

/-- Put `n` frames from a physical address on a free list. -/
def addFrames (tier size : Nat) : Nat → Nat → State → State
  | 0, _, s => s
  | n + 1, pa, s => addFrames tier size n (pa + size) (freeFrame s tier size pa)

/-- FRAMES (R285), and every op of the memory ring that has no meaning. -/
def execFrames (s : State) : Res :=
  ringOp 0 s fun s =>
    let q := headQuad s 0 0
    let tier := bitsOf q 49 48
    let i := bitsOf q 41 40
    let size := sizeOf' i
    let pa := headQuad s 0 1
    let n := headQuad s 0 2
    if q / 2 ^ 56 ≠ 4 || bitsOf q 55 50 ≠ 0 || bitsOf q 47 42 ≠ 0 || bitsOf q 39 0 ≠ 0 || tier = 3 || i = 3 || pa % size ≠ 0
        || !frameInTier tier pa (n * size) then ringAnswer s 0 2
    else ringAnswer (addFrames tier size n pa s) 0 1

/-! ### Zeroing (R284) -/

/-- PAGE_ZEROING_DONE (R284): the accesses that wait for a page proceed in their order of arrival. -/
def execPageZeroingDone (_port page : Nat) (s : State) : Res :=
  match s.dev.zeroing.find? fun j => tierKey j.tier j.pa == page with
  | none => .next s
  | some j =>
    .next (serveAgain { s with dev := { s.dev with zeroing := s.dev.zeroing.filter fun i => tierKey i.tier i.pa != page } } j.waiting)

/-! ### Moving pages (R286, R287) -/

/-- Begin to move a page: it is marked migrating, and its copy takes its time. `cmd` is the ring entry, with the status that the end of
the move writes times 2^32. -/
def startMove (s : State) (ctx cls va : Nat) (l : Leaf) (tier pa cmd : Nat) : State :=
  let job : PageJob := ⟨ctx, cls, va / l.size * l.size, l.size, l.tier, l.pa, l.at', tier, pa, [], some cmd⟩
  let s1 := { s with dev := { s.dev with migrating := s.dev.migrating ++ [job] } }
  bump (after s1 (ceilDiv l.size 20480 + Config.service s1.nonce 0 % 100000) (.pageMigrationDone ctx cls job.va))

/-- The leaf of a virtual address, whatever its rights. -/
def leafOf (s : State) (x : Ctx) (cls va : Nat) : Option Leaf :=
  if rootOf x cls = 0 then none
  else match walkFrom s cls va 3 1 (rootOf x cls) with
    | .ok l => some l
    | .error _ => none

/-- MIGRATE (R285, R287): a page already on its way is taken up again afterwards. -/
def execMigrate (s : State) : Res :=
  ringOp 0 s fun s =>
    let q := headQuad s 0 0
    let f := headQuad s 0 2
    let ctx := bitsOf q 47 32
    let cls := q % 16
    let va := headQuad s 0 1
    let tier := bitsOf f 55 54
    let pa := bitsOf f 47 8 * 256
    match getCtx s ctx with
    | none => ringAnswer s 0 2
    | some x =>
      if bitsOf q 55 48 ≠ 0 || bitsOf q 31 4 ≠ 0 || !(4 ≤ cls && cls ≤ 6) || f / 2 ^ 56 ≠ 0 || bitsOf f 53 48 ≠ 0 || f % 2 ^ 8 ≠ 0
          || va / 2 ^ (if cls = 4 then 39 else if cls = 5 then 41 else 48) ≠ 0 || !tierAllowed cls tier then ringAnswer s 0 2
      else match leafOf s x cls va with
        | none => ringAnswer s 0 3
        | some l =>
          if pa % l.size ≠ 0 || !frameInTier tier pa l.size then ringAnswer s 0 2
          else if (findJob s.dev.migrating ctx cls va).isSome then after s 16 .migrate (.ring 0)
          else ringPop (startMove s ctx cls va l tier pa (2 ^ 32 + (getRing s 0).head)) 0

/-- Whether an access that a port has sent on to the memory of a page is still on its way there (R276). -/
def towardsPage (key size : Nat) : Instr → Bool
  | .storeDelivery a => inPage a
  | .mergeApply a => inPage a
  | .loadRequest a => inPage a
  | _ => false
where
  inPage (a : Access) : Bool :=
    match a.key with
    | some k => key ≤ k && k < key + size
    | none => false

/-- PAGE_MIGRATION_DONE (R287): once the accesses sent on to the old frame have arrived, the frames are copied, the entry is written, INVAL
runs, the old frame is free; then the held writes are applied in their order, and after them the waiting loads. -/
def execPageMigrationDone (ctx cls va : Nat) (s : State) : Res :=
  match s.dev.migrating.find? fun j => j.ctx == ctx && j.cls == cls && j.va == va with
  | none => .next s
  | some j =>
    let src := tierKey j.tier j.pa
    let dst := tierKey j.newTier j.newPa
    if s.pend.any fun p => towardsPage src j.size p.what then .next (after s 1 (.pageMigrationDone ctx cls va))
    else
    let s1 := movePoison { s with mem := memCopy s.mem src dst j.size } src dst j.size
    let e := ofLeBytes (memRead s1.mem (tierKey 0 j.entry) 8)
    let s2 := setEntry s1 j.entry (e / 2 ^ 56 * 2 ^ 56 + j.newTier * 2 ^ 54 + bitsOf e 53 48 * 2 ^ 48 + j.newPa + e % 2 ^ 8)
    let rest := s2.dev.migrating.filter fun i => !(i.ctx == ctx && i.cls == cls && i.va == va)
    let s3 := { s2 with dev := { s2.dev with migrating := rest, owners := setOwners j.newTier ctx j.newPa (j.size / 65536) s2.dev.owners } }
    let s4 := freeFrame (dropTlb s3 ctx cls j.va j.size) j.tier j.size j.pa
    let s5 := match j.cmd with
      | some c => if rest.any fun i => i.cmd == j.cmd then s4 else writeEntry s4 0 (c % 2 ^ 32) 24 [BitVec.ofNat 8 (c / 2 ^ 32)]
      | none => s4
    let w := fun (a : Access) => (walkKindOf a.act).writes
    .next (serveAgain s5 (j.waiting.filter w ++ j.waiting.filter fun a => !w a))

/-- The leaves that present entries of a table name, in ascending order: the virtual addresses of its pages with their leaves. `i` counts
up from `n` entries before the end, `b` is the address that the table begins to map. -/
def tableLeaves (sub : Nat → Nat → List (Nat × Leaf)) (s : State) (level b t : Nat) : Nat → Nat → List (Nat × Leaf)
  | 0, _ => []
  | n + 1, i =>
    let ad := t + 8 * i
    let e := ofLeBytes (memRead s.mem (tierKey 0 ad) 8)
    let va := b + i * levelPage level
    let here := if !bitAt e 63 then []
      else if bitAt e 62 then [(va, (⟨ad, e, levelPage level, bitsOf e 55 54, e / 2 ^ 8 % 2 ^ 40 * 256⟩ : Leaf))]
      else if level = 3 then [] else sub va (e / 2 ^ 8 % 2 ^ 40 * 256)
    here ++ tableLeaves sub s level b t n (i + 1)

/-- All pages of a context's class. -/
def allLeaves (s : State) (x : Ctx) (cls : Nat) : List (Nat × Leaf) :=
  let l3 := fun b t => tableLeaves (fun _ _ => []) s 3 b t 32 0
  let l2 := fun b t => tableLeaves l3 s 2 b t 512 0
  if rootOf x cls = 0 then [] else tableLeaves l2 s 1 0 (rootOf x cls) (if cls = 4 then 512 else 2048) 0

/-- Whether a packet shows that a write to a page, through whatever address, is translated and not yet acknowledged: the write sent on to
the LPDDR tier, or its acknowledgement. -/
def unackedAt (key size : Nat) : Instr → Bool
  | .acknowledgement a _ => towardsPage.inPage key size a
  | .fetchMergeReply a _ _ _ _ => towardsPage.inPage key size a
  | i => towardsPage key size i

/-- Whether a copy-family command of a core is at a line of a page; the line may be named through a window of this device (R277). -/
def copyAt (s : State) (core p c cls va size : Nat) : Bool :=
  (getPart s core p).queue.any fun e => e.reading && (match srcRow s core p (tileOpcode e.word) (tcwOf e.word) e (e.next / 2 ^ 24) with
    | some a =>
      let da := a + e.next % 2 ^ 24
      let own := (getPart s core p).owner
      let at' := if addrClass da = 8 && da / 2 ^ 36 % 65536 = s.dev.id then (windowLocal s own (da % 2 ^ 36) ⟨true, false, false⟩).getD (0, 0)
        else (own, da)
      at'.1 == c && addrClass at'.2 == cls && va ≤ at'.2 % 2 ^ 52 && at'.2 % 2 ^ 52 < va + size
    | none => false)

/-- Whether a page is pinned (R286), or on its way already. -/
def pinned (s : State) (c : Nat) (_ : Ctx) (cls va : Nat) (l : Leaf) : Bool :=
  s.pend.any (fun p => unackedAt (tierKey l.tier l.pa) l.size p.what)
    || s.parts.any (fun k => copyAt s (k.1 / 4) (k.1 % 4) c cls va l.size)
    || (findZero s.dev.zeroing l.tier l.pa).isSome || (findJob s.dev.migrating c cls va).isSome

/-- The pages of a tier that could be evicted, by context, class and ascending address (R286). -/
def evictable (s : State) (tier : Nat) : List (Nat × Nat × Nat × Leaf) :=
  s.ctxs.flatMap fun c => [4, 5].flatMap fun cls =>
    ((allLeaves s c.2 cls).filter fun v => v.2.tier == tier && tierAllowed cls (1 - tier) && !pinned s c.1 c.2 cls v.1 v.2).map fun v =>
      (c.1, cls, v.1, v.2)

/-- Go over pages in order: one whose A bit is clear is a victim, the A bit of any other is cleared, and it is kept for later. -/
def passOver : List (Nat × Nat × Nat × Leaf) → Nat → State →
    State × List (Nat × Nat × Nat × Leaf) × List (Nat × Nat × Nat × Leaf)
  | [], _, s => (s, [], [])
  | v :: l, n, s =>
    if n = 0 then (s, [], [])
    else if bitAt v.2.2.2.e 57 then
      let r := passOver l n (setEntry s v.2.2.2.at' (v.2.2.2.e - 2 ^ 57))
      (r.1, r.2.1, v :: r.2.2)
    else
      let r := passOver l (n - 1) s
      (r.1, v :: r.2.1, r.2.2)

/-- Start the moves of victims as long as frames are free; the answer counts them. -/
def moveVictims (tier cmd : Nat) : List (Nat × Nat × Nat × Leaf) → State → State × Nat
  | [], s => (s, 0)
  | (c, cls, va, l) :: vs, s =>
    match takeFrame s tier l.size with
    | none => moveVictims tier cmd vs s
    | some (pa, s1) => let r := moveVictims tier cmd vs (startMove s1 c cls va l tier pa cmd); (r.1, r.2 + 1)

/-- EVICT (R285, R286): victims with a clear A bit first, then the others in order; SHORT with the number moved when there are fewer. -/
def execEvict (s : State) : Res :=
  ringOp 0 s fun s =>
    let q := headQuad s 0 0
    let src := bitsOf q 49 48
    let dst := bitsOf q 51 50
    let n := q % 2 ^ 32
    let i := (getRing s 0).head
    if bitsOf q 55 52 ≠ 0 || bitsOf q 47 32 ≠ 0 || headQuad s 0 1 ≠ 0 || headQuad s 0 2 ≠ 0 || 1 < src || dst ≠ 1 - src then
      ringAnswer s 0 2
    else
      let r := passOver (evictable s src) n s
      let l := (r.2.1 ++ r.2.2).take n
      let free := fun (k : Nat) => (tblGet [] r.1.dev.frames (4 * dst + k)).length
      let count := fun (k : Nat) => (l.filter fun v => sizeIndex v.2.2.2.size == k).length
      let moved := min (count 0) (free 0) + min (count 1) (free 1) + min (count 2) (free 2)
      let code := if moved = n then 1 else 4
      let s1 := (moveVictims dst (code * 2 ^ 32 + i) l r.1).1
      let s2 := if code = 4 then writeEntry s1 0 i 16 (leBytes 8 moved) else s1
      if moved = 0 then ringAnswer s2 0 code else ringPop s2 0

/-! ### Scrubbing (R127, R275) -/

/-- Whether a port of a tier serves a physical address (R276). -/
def servesFrame (port pa : Nat) : Bool := if port < 8 then pa / 2 ^ 11 % 8 == port else port < 12 && pa / 2 ^ 11 % 4 == port - 8

/-- Whether a memory key lies in an SRAM of a region: a scratchpad, an instruction store or the commons slice (R275). -/
def sramOf (g k : Nat) : Bool :=
  let off := k % 2 ^ 48
  match k / 2 ^ 48 with
  | 0 => regionOf (off / 65536) == g
  | 1 => regionOf (off / 16384) == g
  | 2 => off / 2 ^ 23 == g
  | _ => false

/-- Poison the directory records of a region that a scrub names: accord index `i` stands as key `i` of space 6 (R139, R145). -/
def poisonDir (g : Nat) : List Nat → State → State
  | [], s => s
  | k :: l, s =>
    let i := k % 2 ^ 48
    poisonDir g l (if k / 2 ^ 48 = 6 && i % 64 = g && i < 65536 then
      dirMod s (s.dev.id * 65536 + i) fun r => { r with poisoned := true } else s)

/-- SCRUB_PASS (R127, R275): the scrub of a port's tier has corrected `corrected` errors, which the port counts, and the words that it found
uncorrectable are poisoned; no fault is raised until a program reads them. Unit 64 + g names the ECC of the SRAMs of region g, and its
words by their memory keys, the records of its accord directory among them: what it corrects counts in the region, what it cannot correct
is poisoned (log entry 46). -/
def execScrubPass (port corrected : Nat) (bad : List Nat) (s : State) : Res :=
  let add := fun (n : Nat) => min (2 ^ 64 - 1) (n + corrected)
  .next (if port < 12 then
      modPort (addPoison s ((bad.filter (servesFrame port)).map (tierKey (if port < 8 then 0 else 1)))) port fun x => { x with ce := add x.ce }
    else if 64 ≤ port && port < 128 then
      modRegion (poisonDir (port - 64) bad (addPoison s (bad.filter (sramOf (port - 64))))) (port - 64) fun r => { r with ce := add r.ce }
    else s)

/-! ### Snapshot images (R288 to R291) -/

/-- EPOCH_NOTICE (R288): the homes apply the epoch, and the image writer begins. -/
def execEpochNotice (ctx e : Nat) (s : State) : Res :=
  match (getCtx s ctx).bind (·.image) with
  | none => .next s
  | some j =>
    if j.epoch ≠ e || j.writing then .next s
    else .next (post (modCtx s ctx fun x => { x with image := some { j with writing := true } }) s.cycle 0 .imagePageWrite (.ctx ctx))

/-- Pieces of `n` bytes at an address, none of which crosses a boundary of `m` bytes; the fuel bounds their number. -/
def pieces (m : Nat) : Nat → Nat → Nat → List (Nat × Nat)
  | 0, _, _ => []
  | k + 1, da, n =>
    if n = 0 then []
    else
      let z := min n (m - da % m)
      (da, z) :: pieces m k (da + z) (n - z)

/-- Zero the bytes of poisoned words in a run of bytes at a memory key. -/
def maskPoison (poison : List Nat) : Nat → List Byte → List Byte
  | _, [] => []
  | k, b :: bs => (if poison.contains (k / 8 * 8) then 0 else b) :: maskPoison poison (k + 1) bs

/-- Bytes that the image writer reads within one page or line, with the number of poisoned words: an absent page reads zeros, and the walk
takes the page's frames as any walk does (R280, R284). -/
def imageChunk (s : State) (c : Nat) (x : Ctx) (da z : Nat) : State × List Byte × Nat :=
  match unitKey s c (coreAt x.ox x.oy) x.part x.root4 x.root5 x.root6 da ⟨false, false, false⟩ with
  | (s1, none) => (s1, List.replicate z 0, 0)
  | (s1, some k) =>
    let w := s1.poison.filter fun p => p < k + z && k < p + 8
    (s1, maskPoison w k (memRead s1.mem k z), w.length)

def imageChunks (c : Nat) (x : Ctx) : List (Nat × Nat) → State → State × List Byte × Nat
  | [], s => (s, [], 0)
  | (da, z) :: l, s =>
    let a := imageChunk s c x da z
    let b := imageChunks c x l a.1
    (b.1, a.2.1 ++ b.2.1, a.2.2 + b.2.2)

/-- Bytes that the image writer reads. -/
def imageRead (s : State) (c : Nat) (x : Ctx) (da n : Nat) : State × List Byte × Nat :=
  let m := if 4 ≤ addrClass da && addrClass da ≤ 6 then 65536 else 64
  imageChunks c x (pieces m (n / m + 2) da n) s

/-- Narrowed elements with the counts of R290: bytes, inexact, overflow, nans. The fuel is the number of bytes. -/
def narrowBytes (f rm : Nat) : Nat → List Byte → List Byte × Nat × Nat × Nat
  | 0, _ => ([], 0, 0, 0)
  | n + 1, bs =>
    if bs.length < 4 then (bs, 0, 0, 0)
    else
      let v := elemValue 1 (ofLeBytes (bs.take 4))
      let r := convertTo f false rm 0 v
      let o := elemValue f r.val
      let t := narrowBytes f rm n (bs.drop 4)
      (leBytes 2 r.val ++ t.1, b2n (r.flags % 2 == 1) + t.2.1, b2n (o.isInf && !v.isInf) + t.2.2.1, b2n v.isNan + t.2.2.2)

/-- Bytes of a segment's image (R290, R291). -/
def imageLen (x : Ctx) (j : ImageJob) (i : Nat) : Nat :=
  let n := (nth {} x.segs i).limit
  if !bitAt j.req i then 0 else if bitAt j.req (8 + i) then n / 4 * 2 + n % 4 else n

/-- Byte offset of a segment's image from the header (R290). -/
def imageOff (x : Ctx) (j : ImageJob) : Nat → Nat
  | 0 => 65536
  | i + 1 => imageOff x j i + ceilDiv (imageLen x j i) 65536 * 65536

/-- The image writer stops at a fault of its destination (R289): a record of type 4. -/
def parkImage (s : State) (c : Nat) (x : Ctx) (j : ImageJob) (da cause : Nat) : State :=
  let core := coreAt x.ox x.oy
  let r : TrapRec := ⟨0, 4, j.tid, cause, addrClass da, 1, false, core, x.part, c, 0, da % 2 ^ 52 / 65536 * 65536, 0, s.cycle, true,
    s.nonce⟩
  let s1 := setCtx s c { x with image := some { j with parked := true } }
  bump (addRec s1 (trapQueueOf s1 core x.part) r)

/-- Write pieces of an image at its destination; false comes with the state in which the writer has parked. A piece whose page is being
zeroed or moved waits there with the other accesses to it. -/
def imagePut (c : Nat) (x : Ctx) (j : ImageJob) : List (Nat × Nat) → List Byte → State → State × Bool
  | [], _, s => (s, true)
  | (da, z) :: l, bs, s =>
    let core := coreAt x.ox x.oy
    let a : Access := ⟨.unit, 0, c, x.part, core, 0, da, z, 0, .store (bs.take z), none, none⟩
    let put := fun s => imagePut c x j l (bs.drop z) s
    match homeOf s c core x.part da with
    | .port p cls va =>
      (match translate s p a c cls va ⟨false, true, false⟩ with
        | (s1, .key k _ _) => put (putBytes s1 k (bs.take z))
        | (s1, .fault e) => (parkImage s1 c ((getCtx s1 c).getD x) j da e, false)
        | (s1, .waits) => put s1)
    | _ => put s

/-- Set CE in the leaf of a page (R289). -/
def setEpoch (s : State) (x : Ctx) (da e : Nat) : State :=
  match leafOf s x (addrClass da) (da % 2 ^ 52) with
  | some l => setEntry s l.at' (l.e / 2 ^ 54 * 2 ^ 54 + e % 64 * 2 ^ 48 + l.e % 2 ^ 48)
  | none => s

/-- The page to write next: that of the first held write, else the next one in order. -/
def nextPage (x : Ctx) (j : ImageJob) : Option (Nat × Nat) :=
  let first := match j.held with
    | [] => none
    | a :: _ => j.todo.find? fun t => a.localDa / 65536 == ((nth {} x.segs t.1).base + t.2) / 65536
  match first with
  | some t => some t
  | none => j.todo.head?

/-- Write one page of a segment into the image. -/
def writePage (s : State) (c : Nat) (x : Ctx) (j : ImageJob) (i off : Nat) : State :=
  let g := nth {} x.segs i
  let stop := min g.limit ((g.base + off) / 65536 * 65536 + 65536 - g.base)
  let narrow := bitAt j.req (8 + i)
  let lo := if narrow then ceilDiv off 4 * 4 else off
  let hi := if narrow then min g.limit (ceilDiv stop 4 * 4) else stop
  let r := imageRead s c x (g.base + lo) (hi - lo)
  let b := if narrow then narrowBytes (bitsOf j.req 23 20) (bitsOf j.req 26 24) r.2.1.length r.2.1 else (r.2.1, 0, 0, 0)
  let da := j.dest + imageOff x j i + (if narrow then lo / 2 else lo)
  let w := imagePut c x j (pieces 65536 (b.1.length / 65536 + 2) da b.1.length) b.1 r.1
  if !w.2 then w.1
  else
    let s1 := if addrClass g.base = 4 || addrClass g.base = 5 then setEpoch w.1 x (g.base + off) j.epoch else w.1
    let here := fun (a : Access) => a.localDa / 65536 == (g.base + off) / 65536
    let j1 := { j with
                      todo := j.todo.filter (· != (i, off)), inexact := j.inexact + b.2.1, overflow := j.overflow + b.2.2.1, nans := j.nans + b.2.2.2,
                      poison := j.poison + r.2.2, failed := j.failed || r.2.2 != 0, held := j.held.filter fun a => !here a }
    let s2 := modCtx s1 c fun y => { y with image := some j1 }
    let s3 := serveAgain s2 (j.held.filter here)
    bump (post s3 (s3.cycle + 4 + Config.service s3.nonce 0 % 1000) 0 .imagePageWrite (.ctx c))

/-- Quad 0 of an image header in a state (R290). -/
def headerQuad0 (j : ImageJob) (state : Nat) : Word := BitVec.ofNat 64 (j.epoch % 2 ^ 32 * 2 ^ 32 + state * 2 ^ 28 + j.req % 2 ^ 28)

/-- Write quads of the header from quad `q` on. -/
def putHeader (c : Nat) (x : Ctx) (j : ImageJob) (q : Nat) (ws : List Word) (s : State) : State × Bool :=
  imagePut c x j (pieces 65536 2 (j.dest + 8 * q) (8 * ws.length)) (quadBytes ws) s

/-- IMAGE_PAGE_WRITE (R289 to R291): the header says WRITING before the first page is written. -/
def execImagePageWrite (s : State) : Res :=
  match s.focus with
  | .ctx c =>
    match getCtx s c with
    | none => .next s
    | some x =>
      match x.image with
      | none => .next s
      | some j =>
        if j.parked || !j.writing then .next s
        else if !j.begun then
          let w := putHeader c x j 0 [headerQuad0 j 0] s
          .next (if w.2 then post (modCtx w.1 c fun y => { y with image := some { j with begun := true } }) s.cycle 0 .imagePageWrite (.ctx c)
            else w.1)
        else match nextPage x j with
          | some t => .next (writePage s c x j t.1 t.2)
          | none => .next (poll s 0 .imageComplete (.ctx c))
  | _ => .fault .noSubject

/-- Quads 1 to 511 of an image header (R290). -/
def headerQuads (x : Ctx) (j : ImageJob) : List Word :=
  let n := fun (v : Nat) => BitVec.ofNat 64 v
  [j.label, n j.cyc, n j.vt, n j.inexact, n j.overflow, n j.nans, n j.poison]
    ++ (List.range 8).flatMap (fun i => [n (if bitAt j.req i then imageOff x j i else 0), n (imageLen x j i)])
    ++ List.replicate 488 0

/-- Whether a store of the image writer of a context still waits for its page (R284, R287). -/
def imageWaits (s : State) (c : Nat) : Bool :=
  (s.dev.zeroing ++ s.dev.migrating).any fun j => j.waiting.any fun a => a.who == .unit && a.ctx == c

/-- IMAGE_COMPLETE (R290): quads 1 to 511 of the header, and once every store of the image is delivered quad 0 as a release store; what
still waits for the writer goes on. -/
def execImageComplete (s : State) : Res :=
  match s.focus with
  | .ctx c =>
    match getCtx s c with
    | none => .next s
    | some x =>
      match x.image with
      | none => .next s
      | some j =>
        if j.parked || !j.todo.isEmpty then .next s
        else if !j.headed then
          let w := putHeader c x j 1 (headerQuads x j) s
          .next (if w.2 then post (modCtx w.1 c fun y => { y with image := some { j with headed := true } }) s.cycle 0 .imageComplete (.ctx c)
            else w.1)
        else if imageWaits s c then .next (poll s 16 .imageComplete (.ctx c))
        else
          let w := putHeader c x j 0 [headerQuad0 j (if j.failed then 2 else 1)] s
          .next (if w.2 then serveAgain (modCtx w.1 c fun y => { y with image := none }) j.held else w.1)
  | _ => .fault .noSubject

end Sys2Proof.Machine
end

