-- ==== Sys2Proof/Machine/Fabric.lean ====
section
/-! DEFINITION. The networks and the loops: cicada sweeps, packet lifetimes and router gating (R336 to R338, R349), Avbuak links (R343,
R344), and the power, alarm and equalisation loops (R360 to R362). -/

namespace Sys2Proof.Machine

/-! ### The on-module network -/

/-- CICADA_SWEEP (R336): a sweep begins. No router takes a packet for injection until it ends (injectAt), and a packet that is under way
arrives at a free moment within its bound (sendOn). -/
def execCicadaSweep (s : State) : Res := .next { s with dev := { s.dev with sweeping := true } }

/-- CICADA_SWEEP_END (R336): packets that were under way have passed through every router (R338). -/
def execCicadaSweepEnd (s : State) : Res :=
  .next { s with dev := { s.dev with sweeping := false },
                 cores := if inFlight s then s.cores.map fun e => (e.1, { e.2 with idle := max e.2.idle s.cycle }) else s.cores }

/-- A wake reaches a router (R338): a gated one is on 12 cycles later. -/
def wakeRouter (s : State) (c : Nat) : State :=
  if (getCore s c).router = 1 then after (modCore s c fun x => { x with router := 2 }) 12 .routerOn (.core c) else s

def wakeRouters : List (Nat × CoreSt) → State → State
  | [], s => s
  | (c, _) :: l, s => wakeRouters l (wakeRouter s c)

/-- SWEEP_PREWAKE (R336): every gated router is woken. -/
def execSweepPrewake (s : State) : Res := .next (wakeRouters s.cores s)

/-- FIREFLY_WAKE (R338). -/
def execFireflyWake (s : State) : Res :=
  match s.focus with
  | .core c => .next (wakeRouter s c)
  | _ => .fault .noSubject

/-- ROUTER_ON (R338): a waking router is on, and is idle from now on. -/
def execRouterOn (s : State) : Res :=
  match s.focus with
  | .core c =>
    .next (if (getCore s c).router = 2 then
      after (modCore s c fun x => { x with router := 0, idle := s.cycle }) 4096 .routerGate (.core c) else s)
  | _ => .fault .noSubject

/-- Whether a pending packet has a core's router on its way (R333, R338). -/
def passes (c : Nat) (p : Pend) : Bool :=
  match p.trip with
  | some t => onRoute t c
  | none => false

/-- Whether a router may be gated (R338): it has been idle for 4,096 cycles, no packet is under way through it, no slot of its core holds a
thread, and it serves no acceptor. -/
def mayGate (s : State) (c : Nat) : Bool :=
  let k := getCore s c
  k.router == 0 && k.idle + 4096 ≤ s.cycle && regionHub (regionOf c) != c
    && !(s.threads.any fun t => t.2.core == c && t.2.slot?.isSome) && !(s.pend.any (passes c))

/-- ROUTER_GATE (R338). -/
def execRouterGate (s : State) : Res :=
  match s.focus with
  | .core c => .next (if mayGate s c then modCore s c fun x => { x with router := 1 } else s)
  | _ => .fault .noSubject

/-- Whether a packet of a context has been under way for 524,288 cycles (R337). What suspends the count holds a packet at its home, or keeps
it from entering the network. -/
def expired (s : State) (c : Nat) : Bool :=
  s.pend.any fun p => packetCtx p.what == some c && (match p.trip with
    | some t => t.born + 524288 ≤ s.cycle
    | none => false)

/-- PACKET_LIFETIME_EXPIRED (R337, R349): a packet of the thread or context in focus has been undelivered for 524,288 cycles. -/
def execPacketLifetimeExpired (s : State) : Res :=
  match s.focus with
  | .thread tid =>
    .next (match getThread s tid with
      | some t => if expired s t.ctx then fatalLate s tid 0x30 0 else s
      | none => s)
  | .ctx c =>
    .next (match getCtx s c with
      | some x => if expired s c then raiseFatal s c (coreAt x.ox x.oy) x.part 0 0 0x30 0 else s
      | none => s)
  | _ => .fault .noSubject

/-- Raise a soft error against contexts. -/
def raiseAll (core : Nat) : List Nat → State → State
  | [], s => s
  | c :: l, s =>
    raiseAll core l (match getCtx s c with
      | some x => raiseFatal s c core x.part 0 0 0x31 0
      | none => s)

/-- The packets that stand in a core's router: which of those that have it on their way is free. -/
def heldIn (nonce c : Nat) : Nat → List Pend → List Instr
  | _, [] => []
  | n, p :: l => (if passes c p && Config.inRouter nonce n then [p.what] else []) ++ heldIn nonce c (n + 1) l

/-- SOFT_ERROR (R275, R349): a parity error in a register or latch of a core is a fatal fault of the context that it serves; one in a router
is reported against every context whose packet it holds. -/
def execSoftError (s : State) : Res :=
  match s.focus with
  | .thread tid => .next (fatalLate s tid 0x31 0)
  | .part core p => .next (raiseFatal s (getPart s core p).owner core p 0 0 0x31 0)
  | .core c =>
    let l := (heldIn s.nonce c 0 s.pend).filterMap packetCtx
    .next (raiseAll c (l.foldl natInsert []) (bump s))
  | _ => .fault .noSubject

/-! ### Links (R343, R344) -/

def getLink (s : State) (l : Nat) : Link := tblGet {} s.links l

def setLink (s : State) (l : Nat) (k : Link) : State := { s with links := tblSet s.links l k }

/-- Whether a sequence number is at or before another one, both modulo 4,096. -/
def seqPassed (a b : Nat) : Bool := (b + 4096 - a % 4096) % 4096 < 2048

/-- Bytes of the header of a packet whose first `n` flits are gone: kept until its last one is. -/
def cutHeader : List Flit → List Byte → List Byte
  | [], h => h
  | f :: l, h => cutHeader l (if f.tail then [] else if f.head then f.body.take 16 else h)

/-- Flits acknowledged up to a sequence number leave the replay buffer. -/
def ackFlits (s : State) (k : Link) (ack : Nat) : Link :=
  let gone := k.replay.filter fun f => seqPassed f.seq ack
  let rest := k.replay.filter fun f => !seqPassed f.seq ack
  if gone.isEmpty then k else { k with replay := rest, lastAck := s.cycle, resends := 0, cut := cutHeader gone k.cut }

/-- The most that a link's one-way flight time may be (R342). -/
def flightLimit (l : Nat) : Nat := if l < 31 then 512 else 12288

/-- A packet has come in whole from a link: one for another device goes on, `hop` links behind it (R342); one whose header names a lane, a
kind or a destination that does not exist is a fatal fabric fault of the sending context (R349), reported here when this device is the
sender. What a packet for this device does is its own step. -/
def packetIn (s : State) (lane hop : Nat) (bodies : List (List Byte)) : State :=
  let h := bodies.flatten.take 16
  let dst := fieldOf h 0 2
  if 4 ≤ fieldOf h 5 1 || fieldOf h 4 1 = 0 || 16 < fieldOf h 4 1 || !inFabric s dst then
    if fieldOf h 2 2 = s.dev.id then
      match getCtx s (fieldOf h 12 2) with
      | some x => raiseFatal s (fieldOf h 12 2) (coreAt x.ox x.oy) x.part (fieldOf h 6 5) 0 0x30 0
      | none => s
    else s
  else if dst = s.dev.id then s
  else routeOut s ⟨dst, lane, hop, none, bodies⟩
where
  /-- A field of the header. -/
  fieldOf (h : List Byte) (off n : Nat) : Nat := ofLeBytes ((h.drop off).take n)

/-- A flit taken in sequence: with the last one of its packet the packet is whole (R343). -/
def takeFlit (s : State) (link : Nat) (k : Link) (f : Flit) : State :=
  let had := if f.head then [] else tblGet [] k.through f.vc
  let k1 := { k with bitsIn := k.bitsIn + 512 }
  if f.tail then packetIn (setLink s link { k1 with through := tblErase k1.through f.vc }) (f.vc / 5) (f.vc % 5 + 1) ((had ++ [f]).map (·.body))
  else setLink s link { k1 with through := tblSet k1.through f.vc (had ++ [f]) }

/-- FLIT_RECEIVE (R343): a bad flit is answered with a NAK; a good one acknowledges, is accepted in sequence only, and a gap is answered
with a NAK. -/
def execFlitReceive (link : Nat) (f : Flit) (s : State) : Res :=
  let k := getLink s link
  .next (if !k.up then s
    else if !f.good then setLink s link { k with naks := k.naks ++ [k.expect] }
    else
      let k1 := ackFlits s k f.ack
      retryRoutes (
        if f.seq = k1.expect then takeFlit s link { k1 with expect := (k1.expect + 1) % 4096 } f
        else if seqPassed f.seq k1.expect then setLink s link k1
        else setLink s link { k1 with naks := k1.naks ++ [k1.expect] }))

/-- NAK_RECEIVE (R343): the flits before the named one are complete, the rest is sent again; the eighth time the link is down. -/
def execNakReceive (link seq : Nat) (s : State) : Res :=
  let k := getLink s link
  .next (if !k.up then s
    else
      let k1 := ackFlits s k (seq % 4096 + 4095)
      if k1.replay.isEmpty then retryRoutes (setLink s link k1)
      else
        let s1 := setLink s link { k1 with resends := k1.resends + 1 }
        if 8 ≤ k1.resends + 1 then post s1 s1.cycle 0 .linkDown (.link link) else s1)

/-- LINK_DOWN (R343): after 8 resends of a flit, or 65,536 cycles without an acknowledgement while flits are outstanding. -/
def execLinkDown (s : State) : Res :=
  match s.focus with
  | .link l =>
    let k := getLink s l
    .next (if !k.up then s
      else if 8 ≤ k.resends || (!k.replay.isEmpty && k.lastAck + 65536 ≤ s.cycle) then setLink s l { k with up := false }
      else if k.replay.isEmpty then s
      else post s (k.lastAck + 65536) 0 .linkDown (.link l))
  | _ => .fault .noSubject

/-- The drop notice of a packet with header `h`, to the device that sent it (R344). One of a packet that R345 does not count settles
nothing, and the model leaves it out. -/
def dropNotice (s : State) (h : List Byte) : State :=
  let f := packetIn.fieldOf h
  let i : Instr := .dropNotice (f 6 5) (f 0 2) (f 11 1)
  if h.length ≠ 16 || f 14 1 = 0 then s
  else if f 2 2 = s.dev.id then bump (post s (s.cycle + 1 + Config.linkTime s.nonce) 0 i)
  else emit s (f 2 2) i

/-- Drop notices for the packets whose last flit was not received (R344); `h` is the header of the packet in progress. -/
def dropPackets (last : Nat) : List Flit → List Byte → State → State
  | [], _, s => s
  | f :: l, h, s =>
    let h1 := if f.head then f.body.take 16 else h
    dropPackets last l h1 (if f.tail && !seqPassed f.seq last then dropNotice s h1 else s)

/-- LINK_RETRAIN (R342, R344): `last` is the last sequence number that the far end received. A link that fails to retrain, or whose flight
time exceeds its limit, stays down and sends no drop notices. Packets that waited for a route go on. -/
def execLinkRetrain (link : Nat) (ok : Bool) (last : Nat) (s : State) : Res :=
  let k := getLink s link
  .next (if k.up || !ok || flightLimit link < k.flight then s
    else
      let k1 := { k with up := true, retrains := k.retrains + 1, resends := 0, replay := [], next := (last + 1) % 4096, lastAck := s.cycle,
                         low := [], naks := [], cut := [], through := [] }
      retryRoutes (dropPackets (last % 4096) k.replay k.cut (setLink s link k1)))

/-! ### Power (R360, R361) -/

/-- Change every region. -/
def modRegions (f : Nat → Region → Region) : List Nat → State → State
  | [], s => s
  | g :: l, s => modRegions f l (modRegion s g (f g))

/-- A clock moves to its target, by 50 MHz at most (R360). -/
def nextClock (f target : Nat) : Nat := if f < target then min target (f + 50) else max target (f - 50)

/-- The new target of a region with power share `own`, for module power `p` and cap `cap` (R360). -/
def nextTarget (p cap own target : Nat) : Nat :=
  if cap - 100 < p then (if cap < 64 * own then max 900 (target - 50) else target)
  else if p < cap - 300 then min 1300 (target + 25)
  else target

/-- Energy in femtojoules of this module's share of the bits that a link carried in an interval (R341): 2 pJ for each bit of a local link
and 1 pJ of a global one, of which the sending end spends a share that no rule gives. -/
def linkEnergy (n l : Nat) (k : Link) : Nat :=
  let share := Config.sendShare n l % 1001
  (if l < 31 then 2 else 1) * (k.bitsOut * share + k.bitsIn * (1000 - share))

/-- Module power of an interval of 1 µs, in watts: the regions', the links' and the rest (R341, R360). -/
def modulePower (s : State) : Nat :=
  (List.range 64).foldl (fun t g => t + Config.regionPower s.nonce g) (Config.otherPower s.nonce)
    + (s.links.foldl (fun e l => e + linkEnergy s.nonce l.1 l.2) 0) / 10 ^ 9

/-- VF_LOOP_INTERVAL (R360, R361): clocks move to their targets, targets follow the measured power, the alarm counts its intervals. -/
def execVfLoopInterval (s : State) : Res :=
  if !ready s then .next s
  else
    let d := s.dev
    let n := s.nonce
    let p := modulePower s
    let s1 := modRegions (fun g r => { r with clock := nextClock r.clock r.target, target := nextTarget p d.pcap (Config.regionPower n g) r.target })
      (List.range 64) s
    let above := if d.pcap < p then d.overCnt + 1 else 0
    let below := if p < d.pcap - 300 && !d.regulator then d.clearCnt + 1 else 0
    let enter := !d.alarm && (2 ≤ above || d.regulator)
    let s2 := bump { s1 with links := s1.links.map fun l => (l.1, { l.2 with bitsOut := 0, bitsIn := 0 }),
                             dev := { s1.dev with pwr := p, overCnt := above, clearCnt := below } }
    .next (if enter then post s2 s2.cycle 0 .alarmEntry
      else if d.alarm && 64 ≤ below && above < 2 then post s2 s2.cycle 0 .alarmClear else s2)

/-- ALARM_ENTRY (R361): ALARM is set and every region narrows. -/
def execAlarmEntry (s : State) : Res :=
  .next (if s.dev.alarm then s
    else modRegions (fun _ r => { r with narrow := true }) (List.range 64)
      { s with dev := { s.dev with alarm := true, alarmExt := s.dev.regulator, alarmCount := s.dev.alarmCount + 1, clearCnt := 0 } })

/-- ALARM_CLEAR (R361): entry wins over a clear of the same interval. -/
def execAlarmClear (s : State) : Res :=
  .next (if !s.dev.alarm || s.dev.clearCnt < 64 || s.dev.regulator then s
    else modRegions (fun _ r => { r with narrow := false }) (List.range 64)
      { s with dev := { s.dev with alarm := false, alarmExt := false, clearCnt := 0 } })

/-- REGULATOR_ALARM (R361): the external alarm is raised or withdrawn. -/
def execRegulatorAlarm (on : Bool) (s : State) : Res :=
  let s1 := { s with dev := { s.dev with
    regulator := on, alarmExt := s.dev.alarmExt || (on && s.dev.alarm), clearCnt := if on then 0 else s.dev.clearCnt } }
  .next (if on && !s.dev.alarm then post s1 s1.cycle 0 .alarmEntry else s1)

/-! ### Equalisation (R362) -/

/-- Lanes of a link (R341): 16 electrical ones, or 4 times 32 wavelengths. -/
def lanesOf (l : Nat) : Nat := if l < 31 then 16 else 128

/-- Move the setting with the largest gain by one step, between −15 and 15. -/
def adaptLane (gain : Nat → Int) (t : List Int) : List Int :=
  let best := (List.range 4).foldl (fun b j => if (gain b).natAbs < (gain j).natAbs then j else b) 0
  let v := nth 0 t best
  let step : Int := if gain best = 0 then 0 else if 0 < gain best then 1 else -1
  setNth t best (max (-15) (min 15 (v + step)))

/-- One interval of a link: its margins are measured, its lanes adapt unless a sweep froze them. -/
def adaptLink (n l : Nat) (frozen : Bool) (k : Link) : Link :=
  let lanes := List.range (lanesOf l)
  let margin := fun i => Config.laneMargin n (128 * l + i)
  { k with
          margin := lanes.foldl (fun m i => min m (margin i)) 255
          low := lanes.map fun i => if margin i < 10 then nth 0 k.low i + 1 else 0
          taps := lanes.map fun i =>
      let t := nth [0, 0, 0, 0] k.taps i
      if frozen then t else adaptLane (Config.eqGap n (128 * l + i)) t }

def adaptLinks (n : Nat) (frozen : Bool) : List (Nat × Link) → State → State
  | [], s => s
  | (l, k) :: t, s =>
    adaptLinks n frozen t (
      if k.up then
        let k1 := adaptLink n l frozen k
        let s1 := setLink s l k1
        if k1.low.any fun c => 16 ≤ c then post s1 s1.cycle 0 .laneMarginFail (.link l) else s1
      else s)

/-- EQ_ADAPT (R362), every 1,024 cycles: an interval that overlaps a sweep moves nothing. -/
def execEqAdapt (s : State) : Res :=
  .next (bump (adaptLinks s.nonce (s.dev.sweeping || s.cycle % 65536 = 1024) s.links s))

/-- LANE_MARGIN_FAIL (R362): the link of a lane that stays below 10 mV for 16 intervals is down. -/
def execLaneMarginFail (s : State) : Res :=
  match s.focus with
  | .link l =>
    let k := getLink s l
    .next (if k.up && k.low.any fun c => 16 ≤ c then setLink s l { k with up := false } else s)
  | _ => .fault .noSubject

end Sys2Proof.Machine
end

