-- ==== Sys2Proof/Machine/HostPort.lean ====
section
/-! DEFINITION. The host port (R350 to R354): registers and their writes, configuration operations, host submission; the debug function
(R355); and the dawn sequence (R356 to R359). -/

namespace Sys2Proof.Machine

/-! ### Registers (R350, R351) -/

/-- Bits of BASE that a write reaches. -/
def baseMask : Word := 0x8000FFFFFFFFF000

/-- A write to a register of a ring, at its offset in the ring's block: BASE and SIZE change only while HEAD = TAIL; a raised TAIL lets the
device take entries. -/
def ringWrite (s : State) (k off : Nat) (v : Word) : State :=
  let r := getRing s k
  match off with
  | 0x00 => if r.head = r.tail then setRing s k { r with base := v &&& baseMask } else s
  | 0x08 => if r.head = r.tail && 4 ≤ v.toNat && v.toNat ≤ 16 then setRing s k { r with size := v.toNat } else s
  | 0x10 => ringNext (setRing s k { r with tail := v.toNat % 2 ^ 32 }) k
  | _ => s

/-- Clear the correctable-error count of a region or a port. -/
def clearRegionCount (s : State) (g : Nat) : State := modRegion s g fun r => { r with ce := 0 }

def clearPortCount (s : State) (i : Nat) : State := modPort s i fun p => { p with ce := 0 }

/-- A write to a register of the management function. -/
def pfWrite (s : State) (off : Nat) (v : Word) : State :=
  if off = 0x18 then wakeRec s v s.dev.wakev
  else if off = 0x20 then { s with dev := { s.dev with wakev := v } }
  else if 0x100 ≤ off && off < 0x160 then ringWrite s ((off - 0x100) / 0x20) (off % 0x20) v
  else if 0x400 ≤ off && off < 0x600 then clearRegionCount s ((off - 0x400) / 8)
  else if 0x600 ≤ off && off < 0x660 then clearPortCount s ((off - 0x600) / 8)
  else if off = 0x800 then
    if 1000 ≤ v.toNat && v.toNat ≤ 4000 then { s with dev := { s.dev with pcap := v.toNat } } else s
  else if 0x3000 ≤ off && off < 0x3800 then setHead s ((off - 0x3000) / 8) v.toNat
  else s

/-- REGISTER_WRITE (R350, R351): an aligned 8-byte write of function 0 (management), 1 + v (virtual function v) or 17 (debug). Before READY,
and at offsets that the map does not name, it is discarded. -/
def execRegisterWrite (fn offset : Nat) (v : Word) (s : State) : Res :=
  .next (if !ready s || offset % 8 ≠ 0 then s
    else if fn = 0 then pfWrite s offset v
    else if fn ≤ 16 && 0x140 ≤ offset && offset < 0x160 then ringWrite s (2 + fn) (offset - 0x140) v
    else s)

/-- CEREG (R351): a write clears the count. -/
def execCereg (g : Nat) (s : State) : Res := .next (if ready s && g < 64 then clearRegionCount s g else s)

/-- CEPORT (R351): a write clears the count. -/
def execCeport (i : Nat) (s : State) : Res := .next (if ready s && i < 12 then clearPortCount s i else s)

/-- A register of a ring as it reads. -/
def ringRead (s : State) (k off : Nat) : Word :=
  let r := getRing s k
  match off with
  | 0x00 => r.base
  | 0x08 => BitVec.ofNat 64 r.size
  | 0x10 => BitVec.ofNat 64 r.tail
  | 0x18 => BitVec.ofNat 64 r.head
  | _ => 0

/-- The registers that answer in every dawn state: ID, STATE and EXCL. -/
def earlyRead (s : State) (off : Nat) : Word :=
  match off with
  | 0x00 => 0x464E563600000001
  | 0x08 => BitVec.ofNat 64 (s.dev.state + 16 * s.dev.failed + if ready s then 2 ^ 16 * s.dev.id else 0)
  | 0x10 => BitVec.ofNat 64 ((List.range 64).foldl (fun n g => n + if (getRegion s g).excluded then 2 ^ g else 0) 0)
  | _ => 0

/-- EQ of a link. -/
def eqRead (k : Link) : Word := BitVec.ofNat 64 (min k.margin 255 + 256 * b2n k.up + 2 ^ 16 * (k.retrains % 2 ^ 16))

/-- A register of the management function as it reads (R351). -/
def pfRead (s : State) (off : Nat) : Word :=
  if off < 0x18 then earlyRead s off
  else if !ready s then 0
  else if off = 0x20 then s.dev.wakev
  else if 0x100 ≤ off && off < 0x160 then ringRead s ((off - 0x100) / 0x20) (off % 0x20)
  else if 0x400 ≤ off && off < 0x600 then BitVec.ofNat 64 (getRegion s ((off - 0x400) / 8)).ce
  else if 0x600 ≤ off && off < 0x660 then BitVec.ofNat 64 (getPort s ((off - 0x600) / 8)).ce
  else if off = 0x800 then BitVec.ofNat 64 s.dev.pcap
  else if off = 0x808 then BitVec.ofNat 64 s.dev.pwr
  else if off = 0x810 then BitVec.ofNat 64 (b2n s.dev.alarm + 2 * b2n s.dev.alarmExt + 2 ^ 32 * (s.dev.alarmCount % 2 ^ 32))
  else if 0x1000 ≤ off && off < 0x1200 then
    let r := getRegion s ((off - 0x1000) / 8)
    BitVec.ofNat 64 (r.clock + 2 ^ 16 * r.target)
  else if 0x2000 ≤ off && off < 0x2000 + 8 * 63 then eqRead (getLink s ((off - 0x2000) / 8))
  else if 0x3000 ≤ off && off < 0x3800 then BitVec.ofNat 64 (getTrapQ s ((off - 0x3000) / 8)).head
  else 0

/-- What an 8-byte read of a function's BAR0 returns (R350, R351): all ones where it is not aligned. The host reads outside the steps of
the device. -/
def registerRead (s : State) (fn off : Nat) : Word :=
  if off % 8 ≠ 0 then BitVec.allOnes 64
  else if fn = 0 then pfRead s off
  else if ready s && fn ≤ 16 && 0x140 ≤ off && off < 0x160 then ringRead s (2 + fn) (off - 0x140)
  else 0

/-! ### Configuration operations (R308, R310, R353) -/

/-- Memory key of a payload's device address: no context translates it, so an address of class 0x4, 0x5 or 0x6 is a physical one. -/
def cfgKey (da : Nat) : Option Nat :=
  match da / 2 ^ 52 with
  | 3 => some (commonsKey (da / 2 ^ 23 % 64) (da % 2 ^ 23))
  | 4 => some (tierKey 0 (da % 2 ^ 39))
  | 5 => some (tierKey 1 (da % 2 ^ 41))
  | 6 => some (tierKey 2 (da % 2 ^ 48))
  | _ => none

/-- Bytes of a payload; `none` for a poisoned word or an address without a home. -/
def payload (s : State) (da n : Nat) : Option (List Byte) :=
  match cfgKey da with
  | some k => if poisoned s k n then none else some (memRead s.mem k n)
  | none => none

/-- The payload of the head entry of the configuration ring. -/
def cfgPayload (s : State) (n : Nat) : Option (List Byte) := payload s (headQuad s 1 1) n

/-- A used schedule entry. -/
def schedOf (q : Nat) : Sched :=
  { p := q / 2 ^ 62, vd := bitsOf q 59 56, weight := bitsOf q 55 48, qbase := bitsOf q 47 41, qlen := bitsOf q 40 34, quantum := q % 2 ^ 32 }

/-- Quad i of a descriptor. -/
def descQ (bs : List Byte) (i : Nat) : Nat := fieldAt bs (8 * i) 8

/-- The schedule entries that a descriptor uses, in order. -/
def descEntries (bs : List Byte) : List Sched :=
  ((List.range 16).map fun i => descQ bs (i + 1)).filterMap fun q => if bitAt q 61 then some (schedOf q) else none

/-- Whether every reserved field of a partition-set descriptor is zero. -/
def descReserved (bs : List Byte) : Bool :=
  let q := descQ bs 0
  q / 2 ^ 24 == 0 && !bitAt q 15 && !bitAt q 11 && bitsOf q 7 6 == 0 && !bitAt q 3
    && ((List.range 16).all fun i =>
      let e := descQ bs (i + 1)
      if bitAt e 61 then !bitAt e 60 && bitsOf e 33 32 == 0 else e == 0)
    && ((List.range 3).all fun i => descQ bs (17 + i) == 0)

/-- The set that a descriptor describes. -/
def descSet (bs : List Byte) : PSet :=
  let q := descQ bs 0
  { rx := bitsOf q 10 8, ry := bitsOf q 14 12, rw := bitsOf q 19 16, rh := bitsOf q 23 20, n := q % 8, holder := bitsOf q 5 4,
    entries := descEntries bs, turns := [], raw := (List.range 21).map fun i => BitVec.ofNat 64 (descQ bs i) }

/-- The regions of a set. -/
def setRegions (x : PSet) : List Nat :=
  (List.range 64).filter fun g => x.rx ≤ g % 8 && g % 8 < x.rx + x.rw && x.ry ≤ g / 8 && g / 8 < x.ry + x.rh

def sameRect (x y : PSet) : Bool := x.rx == y.rx && x.ry == y.ry && x.rw == y.rw && x.rh == y.rh

def overlaps (x y : PSet) : Bool := (setRegions x).any (setRegions y).contains

/-- Whether some element of a list stands in a relation to a later one. -/
def anyPair {α : Type} (f : α → α → Bool) : List α → Bool
  | [] => false
  | a :: l => l.any (f a) || anyPair f l

/-- Whether a context is live in a set's rectangle. -/
def liveIn (s : State) (x : PSet) : Bool := s.ctxs.any fun c => (blockRegions c.2).any (setRegions x).contains

/-- The status of a partition-set descriptor (R310, R353, R359): the first reason that applies, or 1. A set with the same rectangle is
replaced, so only another one overlaps. -/
def psetStatus (s : State) (bs : List Byte) : Nat :=
  let x := descSet bs
  let l := x.entries
  if !(x.n = 1 || x.n = 2 || x.n = 4) || !descReserved bs then 2
  else if x.n ≤ x.holder then 3
  else if x.rw = 0 || x.rh = 0 || 8 < x.rx + x.rw || 8 < x.ry + x.rh || (s.sets.any fun y => overlaps x y && !sameRect x y)
      || ((setRegions x).any fun g => (getRegion s g).excluded) then 4
  else if l.any fun e => e.weight == 0 then 5
  else if l.any fun e => e.quantum == 0 then 6
  else if l.any fun e => e.quantum * 1024 < 2 * saveBound x.n then 7
  else if (l.any fun e => x.n ≤ e.p) || anyPair (fun a b => a.p == b.p && a.vd == b.vd) l then 8
  else if (l.any fun e => e.qlen == 0 || 127 < e.qbase + e.qlen)
      || anyPair (fun a b => a.qbase < b.qbase + b.qlen && b.qbase < a.qbase + a.qlen) l then 9
  else if liveIn s x then 10
  else 1

/-- The owner of a 64 KiB unit of a region's commons: the virtual device of the schedule entry whose quota holds it, plus one (R293). -/
def unitOwner (l : List Sched) (u : Nat) : Nat :=
  match l.find? fun e => e.qbase ≤ u && u < e.qbase + e.qlen with
  | some e => e.vd + 1
  | none => 0

/-- The units of commons that change owner. -/
def changedUnits (old new : List Sched) : List Nat := (List.range 127).filter fun u => unitOwner old u != unitOwner new u

/-- Zero units of a region's commons. -/
def zeroUnits (g : Nat) : List Nat → State → State
  | [], s => s
  | u :: l, s =>
    let k := commonsKey g (65536 * u)
    zeroUnits g l (clearPoison { s with mem := memZero s.mem k 65536 } k 65536)

def zeroQuotas (units : List Nat) : List Nat → State → State
  | [], s => s
  | g :: l, s => zeroQuotas units l (modRegion (zeroUnits g units s) g fun r => { r with bars := [], runq := [], spill := [], bags := [] })

/-- Cycles of the zeroing: 8,192 for each MiB of a bank, all banks at once (R293). -/
def zeroTime (units : List Nat) : Nat :=
  (List.range 16).foldl (fun n b => max n (512 * (units.filter fun u => u / 8 == b).length)) 0

/-- The control accord of a partition index of a set, in the acceptor of its first region (R320). -/
def controlCfg (s : State) (g p : Nat) : AccCfg :=
  { acc := controlAcc s (4 * g + p), gen := 0, epoch := 1, trunc := 0, front := 0, llen := 0, darr := 0, desc := 0, owner := 0, part := p,
    qa := ⟨0, 1, 1, [(s.dev.id, g)]⟩, qb := none, strict := false, wsen := 0, proto := none }

def isQuantum (g : Nat) : Instr → Bool
  | .quantumDuskProposal h _ => h == g
  | .quantumRestore h _ => h == g
  | _ => false

def beginTurns (x : PSet) : List Nat → State → State
  | [], s => s
  | p :: l, s => beginTurns x l (beginTurn s x p 0)

/-- Put a set in force: its quotas that change owner are zeroed, its control accords are new, its first quanta begin. -/
def acceptSet (s : State) (x : PSet) : State :=
  let g := x.ry * 8 + x.rx
  let old := match s.sets.find? (sameRect x) with
    | some y => y.entries
    | none => []
  let units := changedUnits old x.entries
  let y := { x with readyAt := s.cycle + zeroTime units }
  let ps := List.range x.n
  let s1 := { s with sets := if s.sets.any (sameRect x) then s.sets.map fun z => if sameRect x z then y else z else s.sets ++ [y],
                     pend := s.pend.filter fun p => !isQuantum g p.what,
                     trapqs := s.trapqs.filter fun q => q.1 / 4 != g }
  let s2 := zeroQuotas units (setRegions x) s1
  let s3 := modRegion s2 g fun r => { r with accs := (r.accs.filter fun a => !isControl s a.acc) ++ ps.map (controlCfg s g) }
  after (beginTurns y ps s3) (zeroTime units) .zeroingEnd

/-- CONFIG_PSET (R308, R310): the status goes to the ring entry and to the descriptor's Q20. -/
def execConfigPset (s : State) : Res :=
  ringOp 1 s fun s =>
    match cfgPayload s 168, cfgKey (headQuad s 1 1) with
    | some bs, some k =>
      let code := psetStatus s bs
      let s1 := if code = 1 then acceptSet s (descSet bs) else s
      ringAnswer (putBytes s1 (k + 160) [BitVec.ofNat 8 code]) 1 code
    | _, _ => ringAnswer s 1 2

/-- A context whose segments name every device address, with every right: OPENL has no opening context (R353). -/
def wideCtx : Ctx :=
  { vd := 0, part := 0, ox := 0, oy := 0, w := 1, h := 1, acc := 0, slot := 0, tvec := none,
    segs := (List.range 8).map fun i => { base := i * 2 ^ 53, limit := 2 ^ 53, r := true, w := true, x := true, m := true, a := true } }

/-- Read for OPENL with the roots of a virtual device. -/
def openlRead (s : State) (v da n : Nat) : Option (List Byte) :=
  let d := getVd s v
  if da / 2 ^ 56 ≠ 0 then none else (unitRead s 0 0 0 d.root4 d.root5 d.root6 (n / 64 + 2) da n).2

/-- Whether a class 0x4 address can be translated with the roots of a virtual device. -/
def openlHome (s : State) (v da : Nat) : Bool :=
  homeOf s 0 0 0 da != .none && (addrClass da != 4 || (getVd s v).root4 != 0)

/-- The checks of OPENL (R160, R353): descriptor, protocol table, partition index; `none` is BADDESC. The argument names a set by the
rectangle of its descriptor's first quad (log entry 40). -/
def openlParts (s : State) (v da arg : Nat) : Option (List Byte × Option Proto × Nat) :=
  let set := s.sets.find? fun x => bitsOf arg 47 32 == bitsOf (nth 0 x.raw 0).toNat 23 8
  match set.bind fun x => x.entries.find? fun e => e.vd == v, openlRead s v da 384 with
  | some e, some bs =>
    let pa := fieldAt bs 32 8
    let darr := fieldAt bs 16 8
    let proto := if pa = 0 then some none
      else if pa % 64 ≠ 0 then none
      else match openlRead s v pa 1088 with
        | some b => (parseProto b).map some
        | none => none
    if da % 128 ≠ 0 || !openCheck s wideCtx bs || darr / 2 ^ 56 ≠ 0 || !openlHome s v darr
        || !openlHome s v (darr + 32 * 2 ^ (fieldAt bs 24 8 % 32) - 1) then none
    else proto.map fun p => (bs, p, e.p)
  | _, _ => none

/-- Add a configuration entry at every member. -/
def addMembers (c : AccCfg) : List (Nat × Nat) → State → State
  | [], s => s
  | m :: l, s => addMembers c l (modRegion s m.2 fun r => { r with accs := r.accs ++ [c] })

/-- An OPENL has registered its accord everywhere: id and epoch stand in the descriptor, and the accord is the launch accord of the virtual
device, whose launches begin at the truncation point (R300, R353). -/
def openlDone (s : State) (v acc da trunc : Nat) : State :=
  let d := getVd s v
  let s1 := dirMod s acc fun r => { r with vd := some v }
  let s2 := unitWrite s1 0 0 0 d.root4 d.root5 d.root6 (da + 4) (leBytes 4 acc)
  let s3 := unitWrite s2 0 0 0 d.root4 d.root5 d.root6 (da + 12) (leBytes 4 1)
  modVd s3 v fun x => { x with acc := some acc, next := trunc, decided := [], offered := [], sysSlots := [] }

/-- The status of OPENL with the state after it, when every member is of this device. -/
def openlHere (s : State) (v acc da : Nat) (bs : List Byte) (proto : Option Proto) (part : Nat) : State × Nat :=
  let q := parseQuorum ((bs.drop 128).take 128)
  if q.members.any fun m => !shareRoom s m.2 part 1 0 || (findAcc s m.2 acc).isSome then (s, 3)
  else
    let q0 := fieldAt bs 0 8
    let trunc := fieldAt bs 8 8 % 2 ^ 32
    let g := ((dirGet s acc).gen + 1) % 65536
    let c : AccCfg := { acc, gen := g, epoch := 1, trunc, front := trunc, llen := fieldAt bs 24 8 % 32, darr := fieldAt bs 16 8, desc := da,
                        owner := 0, part, qa := q, qb := none, strict := bitAt q0 7, wsen := q0 / 2 ^ 20 % 16, proto }
    (openlDone (addMembers c q.members (dirMod s acc fun _ => { desc := da, owner := 0, epoch := 1, gen := g, isOpen := true })) v acc da trunc, 0)

/-- OPENL with members of other devices registers as OPEN does (R160), with the id of the submission engine, for which it waits (log entry
40). -/
def openlFar (s : State) (v acc da : Nat) (bs : List Byte) (part : Nat) : State :=
  if (getThread s (engineTid s)).isSome then after s 16 .openl (.ring 1)
  else
    let t : Thread := { id := engineTid s, ctx := 0, core := portCore 12, part, place := .engine, tq := some 1, op := startOp s }
    let pa := fieldAt bs 32 8
    let pb := if pa = 0 then [] else (openlRead s v pa 1088).getD []
    accGo (setThread s t) t { form := 0, d := 10, acc, cfg := bs ++ pb ++ List.replicate (1088 - pb.length) 0 ++ leBytes 8 da }

/-- OPENL that its ring entry begins. -/
def openlWith (s : State) (v idx da arg : Nat) : State :=
  let acc := s.dev.id * 65536 + idx
  match openlParts s v da arg with
  | none => ringAnswer s 1 2
  | some (bs, proto, part) =>
    if (getRegion s (acc % 64)).excluded then ringAnswer s 1 3
    else if (dirGet s acc).isOpen then ringAnswer s 1 1
    else if (parseQuorum ((bs.drop 128).take 128)).members.any fun m => m.1 != s.dev.id then openlFar s v acc da bs part
    else let r := openlHere s v acc da bs proto part; ringAnswer r.1 1 r.2

/-- OPENL (R353): its ring entry is taken up, or the registrations elsewhere are over. -/
def execOpenl (s : State) : Res :=
  match s.focus with
  | .thread tid =>
    match getThread s tid with
    | none => .fault .noSubject
    | some t =>
      let arg := headQuad s 1 2
      let s1 := dropThread s tid
      let code := (nth 0 t.held 0).toNat / 2 ^ 32
      .next (match code, t.kept with
        | 0, .acc a :: _ => ringAnswer (openlDone s1 (bitsOf arg 19 16) a.acc (headQuad s 1 1) (fieldAt a.cfg 8 8 % 2 ^ 32)) 1 0
        | _, _ => ringAnswer s1 1 code)
  | _ =>
    ringOp 1 s fun s =>
      let arg := headQuad s 1 2
      if arg / 2 ^ 48 ≠ 0 || bitsOf arg 23 20 ≠ 0 then ringAnswer s 1 2
      else openlWith s (bitsOf arg 19 16) (arg % 2 ^ 16) (headQuad s 1 1) arg

/-- KILL (R302, R318, R353): the context stops by a gang stop, which voids a dusk stop that it has been asked for. -/
def execKill (s : State) : Res :=
  ringOp 1 s fun s =>
    let c := headQuad s 1 2
    match getCtx s c with
    | none => ringAnswer s 1 2
    | some x =>
      if x.zeroing then ringAnswer s 1 2
      else
        let s1 := setCtx s c { x with dusk := none }
        ringAnswer (bump (post s1 (s1.cycle + Config.haltDelay s.nonce % 65) 0 .gangStop (.ctx c))) 1 1

/-- RELEASE (R293, R318, R353): the cores of a stopped context are freed, once its completion word is written (R302, log entry 78). -/
def execRelease (s : State) : Res :=
  ringOp 1 s fun s =>
    let c := headQuad s 1 2
    match getCtx s c with
    | none => ringAnswer s 1 2
    | some x =>
      match x.life, x.zeroing with
      | .stopped _, false => if x.done ≠ 0 then after s 16 .release (.ring 1) else ringAnswer (freeCtx s c x) 1 1
      | _, _ => ringAnswer s 1 2

/-- GRANT (R277, R311, R353): an accord, whose owner is a live context or which is a launch accord, or a window of a live
context, which takes the place of an earlier one of the same two contexts. -/
def execGrant (s : State) : Res :=
  ringOp 1 s fun s =>
    let arg := headQuad s 1 2
    let owner := arg % 2 ^ 16
    let grantee := bitsOf arg 31 16
    if bitAt arg 32 then
      match getCtx s owner, cfgPayload s 512 with
      | some _, some bs =>
        let g : Grant := ⟨owner, grantee, none, toQuads 64 bs⟩
        ringAnswer { s with grants := g :: s.grants.filter fun h => !(h.owner == owner && h.grantee == grantee && h.acc.isNone) } 1 1
      | _, _ => ringAnswer s 1 2
    else
      match cfgPayload s 8 with
      | none => ringAnswer s 1 2
      | some bs =>
        let acc := fieldAt bs 0 8 % 2 ^ 32
        if (getCtx s grantee).isNone || ((getCtx s owner).isNone && (dirGet s acc).vd.isNone) then ringAnswer s 1 2
        else ringAnswer { s with grants := ⟨owner, grantee, some acc, []⟩ :: s.grants } 1 1

/-- Whether the five addresses of AREAS are aligned: save area 64 bytes, window 8 KiB, roots to the size of their tables (R278, R353). -/
def areasOk (q : Nat → Nat) : Bool :=
  q 0 % 64 == 0 && q 1 % 8192 == 0 && q 2 % 4096 == 0 && q 3 % 16384 == 0 && q 4 % 2 ^ 21 == 0

/-- AREAS (R353): for a live context, or with bit 63 for the future contexts of a virtual device. -/
def execAreas (s : State) : Res :=
  ringOp 1 s fun s =>
    let arg := headQuad s 1 2
    match cfgPayload s 40 with
    | none => ringAnswer s 1 2
    | some bs =>
      let q := descQ bs
      if !areasOk q then ringAnswer s 1 2
      else if bitAt arg 63 then
        ringAnswer (modVd s (arg % 16) fun d => { d with save := q 0, window := q 1, root4 := q 2, root5 := q 3, root6 := q 4 }) 1 1
      else match getCtx s arg with
        | none => ringAnswer s 1 2
        | some x =>
          let s1 := setCtx s arg { x with save := q 0, root4 := q 2, root5 := q 3, root6 := q 4 }
          let n := trapQueueOf s (coreAt x.ox x.oy) x.part
          ringAnswer (setTrapQ s1 n { getTrapQ s1 n with window := q 1 }) 1 1

/-- DBGKEY (R353, R355), and every op of the configuration ring that has no meaning. -/
def execDbgkey (s : State) : Res :=
  ringOp 1 s fun s =>
    if headQuad s 1 0 / 2 ^ 56 ≠ 7 then ringAnswer s 1 2
    else match cfgPayload s 64 with
      | none => ringAnswer s 1 2
      | some bs => ringAnswer (modVd s (headQuad s 1 2 % 16) fun d => { d with dbg := some bs }) 1 1

/-! ### Host submission (R354) -/

/-- Answer a launch ring entry: quad 2, then bit 0 of quad 3. -/
def submitAnswer (s : State) (k : Nat) (d : Word) : State :=
  let i := (getRing s k).head
  ringPop (writeEntry (writeEntry s k i 16 (leBytes 8 d.toNat)) k i 24 [1]) k

/-- The virtual device whose launch accord a record at an address names, reading it with that device's roots; for a virtual function the
device is given. -/
def submitVd (s : State) (k da : Nat) : Nat :=
  if 3 ≤ k then k - 3
  else match s.vds.find? fun v => (match readRecord s v.1 da with
      | some bs => v.2.acc == some (recAccord bs)
      | none => false) with
    | some v => v.1
    | none => 0

/-- Why a host's record is refused (R264, R298, R354); 0 when it is proposed. -/
def submitWhy (s : State) (k v da : Nat) (bs : List Byte) : Nat :=
  let acc := recAccord bs
  if !recordOk s da bs then 1
  else match (dirGet s acc).vd with
    | none => 2
    | some w => if !(dirGet s acc).isOpen || (3 ≤ k && w ≠ v) then 2 else if 3 ≤ k && recSys bs then 3 else recordWhy s w da bs

/-- A record is submitted, by the management function or by a virtual function (R251). -/
def Vd.offer (d : Vd) (pf : Bool) (w : Word) : Vd := { d with offered := if pf then w :: d.offered.erase w else d.offered.erase w }

/-- Begin a host submission of ring `k`. -/
def submitBegin (s : State) (k : Nat) : State :=
  let da := headQuad s k 0
  let v := submitVd s k da
  match readRecord s v da with
  | none => submitAnswer s k (lnchRefused 1)
  | some bs =>
    let why := submitWhy s k v da bs
    if why ≠ 0 then submitAnswer s k (lnchRefused why)
    else
      let t : Thread := { id := engineTid s, ctx := 0, core := portCore 12, part := 0, place := .engine, tq := some k, op := startOp s }
      let op : PropOp := { outer := .lnch, form := 0, d := 10, acc := recAccord bs, slot := 0, v0 := BitVec.ofNat 64 da, phase := .first }
      propGo (setThread (modVd s v fun d => d.offer (k == 2) (BitVec.ofNat 64 da)) t) t op

/-- HOST_SUBMISSION (R354): a ring's entry is taken up when the engine is free; the engine goes on, or writes its result. -/
def execHostSubmission (s : State) : Res :=
  match s.focus with
  | .ring k => .next (if (getThread s (engineTid s)).isSome then after s 16 .hostSubmission s.focus else submitBegin s k)
  | .thread tid =>
    match getThread s tid with
    | none => .fault .noSubject
    | some t =>
      match t.held with
      | d :: _ => .next (submitAnswer (dropThread s tid) (t.tq.getD 2) d)
      | [] => .next (agree s t fun s _ => s)
  | _ => .fault .noSubject

/-! ### The debug function (R355) -/

/-- The answer to an SPDM request: its bytes depend on keys, certificates and hashes. `kind` 0x7F is an ERROR. -/
def spdmAnswer (s : State) (kind : Nat) (req : List Byte) : State :=
  { s with spdm := { s.spdm with answers := s.spdm.answers ++ [Config.spdmBytes kind req] } }

/-- Change the mailbox's state. -/
def modSpdm (s : State) (f : Spdm → Spdm) : State := { s with spdm := f s.spdm }

/-- GET_VERSION: the exchange starts afresh; a session ends. -/
def execGetVersion (s : State) : Res :=
  .next (spdmAnswer (modSpdm s fun m => { version := true, answers := m.answers }) 0x84 [])

/-- GET_CAPABILITIES follows GET_VERSION. -/
def execGetCapabilities (s : State) : Res :=
  .next (if s.spdm.version then spdmAnswer (modSpdm s fun m => { m with caps := true }) 0xE1 [] else spdmAnswer s 0x7F [])

/-- NEGOTIATE_ALGORITHMS follows GET_CAPABILITIES: Falcon-1024 and SHAKE256 with 64 bytes. -/
def execNegotiateAlgorithms (s : State) : Res :=
  .next (if s.spdm.caps then spdmAnswer (modSpdm s fun m => { m with algs := true }) 0xE3 [] else spdmAnswer s 0x7F [])

/-- A request that needs the negotiation, with the answer for a good one. -/
def negotiated (s : State) (good : Bool) (k : State → State) : Res :=
  .next (if s.spdm.algs && good then k s else spdmAnswer s 0x7F [])

/-- GET_DIGESTS. -/
def execGetDigests (s : State) : Res := negotiated s true fun s => spdmAnswer s 0x81 []

/-- GET_CERTIFICATE: slot 0 only. -/
def execGetCertificate (slot : Nat) (s : State) : Res := negotiated s (slot == 0) fun s => spdmAnswer s 0x82 []

/-- CHALLENGE: signed with the alias key. -/
def execChallenge (slot : Nat) (nonce : List Byte) (s : State) : Res :=
  negotiated s (slot == 0 && s.dev.keys) fun s => spdmAnswer s 0x83 nonce

/-- Measurement 4: the digest of the partition-set descriptors in force, in set order. -/
def measureSets (s : State) : List Byte := Config.shake256 (s.sets.flatMap fun x => quadBytes x.raw)

/-- GET_MEASUREMENTS: the blocks 1 to 4. -/
def execGetMeasurements (index : Nat) (s : State) : Res :=
  negotiated s (1 ≤ index && index ≤ 4) fun s =>
    if index = 4 then modSpdm s fun m => { m with answers := m.answers ++ [measureSets s] } else spdmAnswer s 0x60 [BitVec.ofNat 8 index]

/-- KEY_EXCHANGE. -/
def execKeyExchange (nonce : List Byte) (s : State) : Res :=
  negotiated s s.dev.keys fun s => spdmAnswer (modSpdm s fun m => { m with keyed := true }) 0x64 nonce

/-- FINISH: with the requester's signature good the session is up, known by the digest of its leaf certificate. -/
def execFinish (leafDigest : List Byte) (good : Bool) (s : State) : Res :=
  negotiated s (s.spdm.keyed && good) fun s =>
    spdmAnswer (modSpdm s fun m => { m with keyed := false, session := some leafDigest }) 0x65 []

/-- DEBUG_SESSION_END: the window locks. -/
def execDebugSessionEnd (s : State) : Res := .next (modSpdm s fun m => { m with session := none, keyed := false })

/-- Whether the session unlocks a virtual device. -/
def unlocked (s : State) (v : Nat) : Bool := s.spdm.session.isSome && s.spdm.session == (getVd s v).dbg

/-- Whether the step that releases a stopped context is due in this cycle: a debug read in the same cycle comes after it (R355, R387). -/
def releasedNow (s : State) (c : Nat) : Bool :=
  headQuad s 1 2 == c && s.pend.any fun p => p.what == .release && p.due ≤ s.cycle

/-- A context of a virtual device that a gang stop holds and that is not released. -/
def windowCtx (s : State) (v c : Nat) : Option Ctx :=
  match getCtx s c with
  | some x => match x.life with
    | .stopped _ => if x.vd = v && !x.zeroing && !(x.done == 0 && releasedNow s c) then some x else none
    | _ => none
  | none => none

/-- What the debug window shows (R355), in the model's own layout. Space 0: scratchpads, 2^16 · core + offset. Space 1: halt records, 2^32 ·
context + 64 · record + offset. Space 2: the save area, 2^32 · context + offset. Space 3: trap-queue records, 8,192 · queue + window
offset. `none` is anything else. -/
def windowQuad (s : State) (v space off : Nat) : Option Word :=
  let low := off % 2 ^ 32
  match space with
  | 0 =>
    let core := off / 65536 % 16384
    let p := off % 65536 / max 1 (viewSize s core)
    (windowCtx s v (getPart s core p).owner).map fun _ => BitVec.ofNat 64 (ofLeBytes (memRead s.mem (scratchKey core (off % 65536)) 8))
  | 1 =>
    (windowCtx s v (off / 2 ^ 32)).bind fun x => (blockCores x)[low / 64]?.map fun k => nth 0 (haltQuads s k x.part) (low % 64 / 8)
  | 2 =>
    (windowCtx s v (off / 2 ^ 32)).bind fun x =>
      if x.save = 0 || 64 * x.w * x.h + saveBytes x ≤ low then none
      else some (BitVec.ofNat 64 (ofLeBytes (memRead s.mem (tierKey 0 (x.save + low)) 8)))
  | 3 =>
    (tblFind (getTrapQ s (off / 8192)).recs (off % 8192 / 32)).bind fun r =>
      (windowCtx s v r.ctx).map fun _ => nth 0 (trapRecQuads r) (off % 32 / 8)
  | _ => none

/-- DEBUG_WINDOW_READ (R350, R355): a read that is not unlocked, or is of anything else, returns all ones; before READY every one returns
zero. -/
def execDebugWindowRead (vd space offset : Nat) (s : State) : Res :=
  let w := if !ready s then 0
    else if unlocked s vd && offset % 8 = 0 then (windowQuad s vd space offset).getD (BitVec.allOnes 64) else BitVec.allOnes 64
  .next (modSpdm s fun m => { m with answers := m.answers ++ [leBytes 8 w.toNat] })

/-! ### The dawn sequence (R356 to R359) -/

/-- Mark the excluded regions. -/
def excludeAll : List Nat → State → State
  | [], s => s
  | g :: l, s => excludeAll l (modRegion s (g % 64) fun r => { r with excluded := true })

/-- Bring the trained links up: one whose flight time exceeds its limit is refused (R342). -/
def raiseLinks : List (Nat × Nat) → State → State
  | [], s => s
  | (l, f) :: t, s => raiseLinks t (if l < 63 then setLink s l { up := f ≤ flightLimit l, flight := f } else s)

/-- What a dawn leaves standing: the memories outside the module's SRAMs, what the outside has still to do, and the model's own counter of
free values. -/
def dawnBase (s : State) : State :=
  { State.reset with mem := s.mem.filter fun c => spaceKey 3 0 ≤ c.1, poison := s.poison.filter fun w => spaceKey 3 0 ≤ w,
                     agenda := s.agenda, outbox := s.outbox, nonce := s.nonce }

/-- The dawn ends in FAILED at a step (R358). -/
def dawnFailed (s : State) (step : Nat) : State := { s with dev := { s.dev with state := 15, failed := step } }

/-- The next step of the dawn sequence is due when the one that has begun is over; how long it takes is a free value. -/
def dawnNext (s : State) (d : Dawn) (state : Nat) : State :=
  bump (after { s with dev := { s.dev with state := state } } (1 + Config.dawnTime s.nonce) (.reset d) .dawn)

/-- The end of the step of the dawn sequence in which the device is, and the beginning of the next (R357 to R359). -/
def dawnStep (d : Dawn) (s : State) : State :=
  match s.dev.state with
  | 0 => if d.imageOk then dawnNext s d 1 else dawnFailed s 0
  | 1 => if d.keysOk then dawnNext { s with dev := { s.dev with keys := true } } d 2 else dawnFailed s 1
  | 2 => dawnNext (excludeAll d.failedRegions s) d 3
  | 3 => if d.memOk then dawnNext s d 4 else dawnFailed s 3
  | 4 =>
    let s1 := raiseLinks d.linksUp s
    after { s1 with dev := { s1.dev with state := 5, id := d.device % 2 ^ 16, groups := min 1025 d.groups } } (1300 - s.cycle % 1300)
      .energyMeter
  | _ => s

/-- RESET (R1, R356 to R359): the dawn sequence begins with ROM in cycle 0; each later step of it is this step again, with the dawn in
focus, and ends in FAILED with its number or goes on, until the device is READY. -/
def execReset (d : Dawn) (s : State) : Res :=
  match s.focus with
  | .dawn => .next (dawnStep d s)
  | _ => .next (dawnNext (dawnBase s) d 0)

end Sys2Proof.Machine
end

