-- ==== Sys2Proof/Machine/Advance.lean ====
section
/-! DEFINITION. Which indivisible step the device takes next: what the outside does, a packet or internal event that is due, a thread whose
wait is over, a tile command that can start, a thread that issues (R12, R59 to R66, R306, R360), or the next cycle (log entry 1). -/

namespace Sys2Proof.Machine

open Sys2Proof

/-! ### Waiting threads -/

/-- Whether FENCE.D of a thread may go on (R130, R346). -/
def fenceOver (t : Thread) : Bool := if t.peers.isEmpty then t.uac == 0 else fenceReady t

/-- Whether the condition that holds a thread is true. -/
def condTrue (s : State) (t : Thread) : Cond → Bool
  | .always => true
  | .uacZero => fenceOver t
  | .codeZero => t.codeUac == 0
  | .tileIdle => tileIdle (getPart s t.core t.part)
  | .allIdle => (t.counted || fenceOver t) && tileIdle (getPart s t.core t.part)
  | .storeRoom da => storeRoom s t da
  | .queueFree => tcmdRoom (getPart s t.core t.part) t.id
  | .loopFree => match (getPart s t.core t.part).loop with
    | .idle => ((getPart s t.core t.part).reserved.erase t.id).isEmpty
    | .capturing tid _ _ _ _ => tid == t.id
    | .pushing _ _ _ _ _ => false
  | .handleFree h => handleFree (getPart s t.core t.part) h
  | .filled h n => n ≤ (getHandle (getPart s t.core t.part) h).filled
  | .room h n => n ≤ (getHandle (getPart s t.core t.part) h).free
  | .cmdDone seq _ => (getPart s t.core t.part).queue.all fun e => e.seq != seq
  | .chRoom dst idx => chRoom (getPart s t.core t.part) dst idx
  | .chWord idx =>
    let r := tblGet {} (getPart s t.core t.part).rd idx
    bitAt r.valid (r.taken % 16)
  | .bagRoom => (getPart s t.core t.part).bag < 256
  | .flag => eventFlag s t
  | .tileEntry => tcmdRoom (getPart s t.core t.part) t.id
  | .logDone => logDone s t.held
  | .sharedFill acc => !s.threads.any fun u => filledBy t acc u.2
  | .cycle c => c ≤ s.cycle

/-- Whether a context runs on cores that are its own (R293, R302). -/
def ctxRuns (s : State) (c : Nat) : Bool :=
  match getCtx s c with
  | none => false
  | some x => x.life == .running && !x.zeroing

/-- Whether the dusk cycle of a context has come: a fault since then has voided the stop (R318, R321). -/
def duskCame (s : State) (c : Nat) : Bool :=
  match getCtx s c with
  | none => false
  | some x => x.fault.isNone && (match x.dusk with
    | some d => d ≤ s.cycle
    | none => false)

/-- Whether a context's threads issue in this cycle. -/
def ctxIssues (s : State) (c : Nat) : Bool := ctxRuns s c && !duskCame s c

/-- Whether the step carries a waiting thread on; at its dusk cycle a thread in a LINK still runs it to the end (R249). -/
def goesOn (s : State) (t : Thread) : Bool :=
  (t.place == .engine || (t.slot?.isSome && (ctxIssues s t.ctx || (ctxRuns s t.ctx && inLink t)))) && (match t.wait with
    | .until c => condTrue s t c
    | .gathered _ _ => true
    | .search _ due => due ≤ s.cycle
    | _ => false)

/-! ### Decoding what issues -/

/-- The words that a deterministic launch makes illegal (R306). -/
def detIllegal : Instr → Bool
  | .fmrg _ _ _ _ _ _ => true
  | .mrg _ _ _ _ o => o == 8 || o == 9 || o == 11
  | .rdsw _ _ sel => sel == 0 || sel == 1 || sel == 9
  | .learnPoll _ _ _ => true
  | .learnt _ _ _ _ => true
  | .ballot _ _ _ => true
  | .accordStat _ _ _ _ => true
  | .accordNext _ _ _ _ => true
  | .spawn _ _ _ _ _ => true
  | _ => false

/-- The word at a thread's pc (R59). -/
def fetchWord (s : State) (t : Thread) : BitVec 32 := BitVec.ofNat 32 (ofLeBytes (memRead s.mem (istoreKey t.core t.pc.toNat) 4))

/-- The instruction of a fetched word, or the step that reports it as illegal (R61, R64, R306). -/
def issuedInstr (det : Bool) (w : BitVec 32) : Instr :=
  match decodeScalar w with
  | .ok i => if det && detIllegal i then .illegalInstruction w else i
  | .error _ => .illegalInstruction w

/-- Whether the launch of a context is deterministic. -/
def detOf (s : State) (c : Nat) : Bool :=
  match getCtx s c with
  | some x => x.det
  | none => false

/-! ### Issue (R12, R360) -/

/-- The rotation position of a core's cycle, when the slots of its region advance in this one (R360). -/
def position (s : State) (core : Nat) : Option Nat :=
  let f := (getRegion s (regionOf core)).clock
  if s.cycle * f % 1300 < f then some (s.cycle * f / 1300 % 16) else none

/-- The claim of a thread on its core's cycle: 0 for the slot of the position, 1 for the slot across it in the same partition (R12). -/
def claimOf (s : State) (t : Thread) : Option Nat :=
  match t.slot?, position s t.core with
  | some n, some p => if n = p then some 0 else if n = (p + 8) % 16 && partCount s t.core == 1 then some 1 else none
  | _, _ => none

/-- Whether the skid of a thread is used up: behind a refused access no further instruction issues (R312). -/
def skidUsed (t : Thread) : Bool := t.skid == some 0 && t.uac != 0

/-- Whether a thread is ready to issue (R12, R169). -/
def readyToIssue (s : State) (t : Thread) : Bool :=
  !skidUsed t && (match t.wait with
    | .ready => true
    | .badPc _ => true
    | _ => false) && ctxIssues s t.ctx && (match t.issued with
    | some c => c + 8 ≤ s.cycle
    | none => true)

/-- The order of issue: the core, then the claim. `none` when the thread does not issue. -/
def issueRank (s : State) (t : Thread) : Option Nat :=
  if s.cursor ≤ t.core && readyToIssue s t then (claimOf s t).map fun c => 2 * t.core + c else none

/-- The thread with the least rank. -/
def leastRank (s : State) : List (Nat × Thread) → Option (Nat × Thread)
  | [] => none
  | (_, t) :: l =>
    match issueRank s t, leastRank s l with
    | some r, some b => some (if r ≤ b.1 then (r, t) else b)
    | some r, none => some (r, t)
    | none, b => b

/-- Whether a thread takes the budget trap in place of its word: outside a trap, and not where the context has no trap vector, which drops
that trap (R259, R260). -/
def budgetTrapDue (s : State) (t : Thread) : Bool :=
  (getPart s t.core t.part).budgetTrap && !t.inTrap && ((getCtx s t.ctx).bind (·.tvec)).isSome

/-- A thread's issue cycle, which is counted for its context (R305) and in its skid (R312): what it does there, in the state in which it
does it (R12, R16, R259). -/
def issue (s : State) (t : Thread) : Instr × State :=
  let s1 := countCycles { s with cursor := t.core + 1, focus := .thread t.id } (regionOf t.core) t.ctx 1
  let t := { t with skid := if t.uac = 0 then none else t.skid.map (· - 1) }
  let w := fetchWord s t
  let bad := match t.wait with
    | .badPc _ => true
    | _ => !inSlice s t.core t.part t.pc.toNat
  if bad then (.illegalInstruction w, setThread s1 { t with issued := some s.cycle, wait := .ready })
  else if budgetTrapDue s t then (.budgetTrap, setThread s1 { t with issued := some s.cycle })
  else (issuedInstr (detOf s t.ctx) w, setThread s1 ({ t with issued := some s.cycle, word := w }.setTrapPend false))

/-! ### The order of steps -/

/-- The pending event with the least due cycle, the first of those, if it is due. -/
def nextDue (now : Nat) : List Pend → Option Pend
  | [] => none
  | p :: l =>
    match nextDue now l with
    | some q => if p.due ≤ now && p.due ≤ q.due then some p else some q
    | none => if p.due ≤ now then some p else none

/-- What serves requests by priority class (R304): a bank of a region's commons, a memory port, an acceptor. -/
inductive Server where
  | bank (region n : Nat)
  | port (p : Nat)
  | acceptor (region : Nat)
  deriving DecidableEq, Repr

/-- The server of an access: a bank is 512 KiB of the commons (R273, R293). -/
def accessServer (s : State) (a : Access) : Option Server :=
  match homeOf s a.ctx a.core a.part a.da with
  | .commons g off => some (.bank g (off / 2 ^ 19))
  | .port p _ _ => some (.port p)
  | _ => none

/-- The server at which an event arrives, with the context whose request it is. -/
def serverOf (s : State) : Instr → Option (Server × Nat)
  | .storeDelivery a => (accessServer s a).map fun h => (h, a.ctx)
  | .mergeApply a => (accessServer s a).map fun h => (h, a.ctx)
  | .loadRequest a => (accessServer s a).map fun h => (h, a.ctx)
  | .prepare m => some (.acceptor m.region, ctxOf m.tid)
  | .accept m => some (.acceptor m.region, ctxOf m.tid)
  | .prepacc m => some (.acceptor m.region, ctxOf m.tid)
  | .lease m => some (.acceptor m.region, ctxOf m.tid)
  | .learnRequest q => some (.acceptor q.region, ctxOf q.tid)
  | _ => none
where
  /-- The context of a thread; 0 for one that is not here. -/
  ctxOf (tid : Nat) : Nat :=
    match getThread s tid with
    | some t => t.ctx
    | none => 0

/-- The class in force of a context (R304, R305). -/
def classOf (s : State) (c : Nat) : Nat :=
  match getCtx s c with
  | some x => x.prio
  | none => 0

/-- Whether a server takes `q` before `p`, which is ahead of it: both have come, the class of `q` is higher, and `p` has not waited for
1,024 cycles (R304). -/
def takenBefore (s : State) (p q : Pend) : Bool :=
  match serverOf s p.what, serverOf s q.what with
  | some a, some b => a.1 == b.1 && q.due ≤ s.cycle && classOf s a.2 < classOf s b.2 && s.cycle < p.due + 1024
  | _, _ => false

/-- The request that the server of `p` takes first, among those of a list whose order keys allow it (R117, R304). -/
def firstServed (s : State) : List Pend → Pend → Pend
  | [], p => p
  | q :: l, p =>
    firstServed s l (if takenBefore s p q && (q.key = 0 || (s.pend.find? fun r => r.key = q.key) = some q) then q else p)

/-- The event that comes next: the first that is due, or the one that its server takes before it. -/
def dueEvent (s : State) : Option Pend := (nextDue s.cycle s.pend).map (firstServed s s.pend)

/-- Remove the first occurrence. -/
def dropPend (p : Pend) : List Pend → List Pend
  | [] => []
  | q :: l => if q = p then l else q :: dropPend p l

/-- A partition whose queue starts a command now. -/
def startable (s : State) : List (Nat × Part) → Option (Nat × Nat × QEntry)
  | [] => none
  | (k, x) :: l =>
    if ctxIssues s x.owner then
      match canStart s (k / 4) (k % 4) with
      | some e => if hasTurn s (k / 4) (k % 4) e then some (k / 4, k % 4, e) else startable s l
      | none => startable s l
    else startable s l

/-- Post the gating of the routers that are due for it (R338). -/
def gateIdle : List (Nat × CoreSt) → State → State
  | [], s => s
  | (c, x) :: l, s => gateIdle l (if x.router = 0 && x.idle + 4096 ≤ s.cycle && mayGate s c then post s s.cycle 0 .routerGate (.core c) else s)

/-- Post the end of the lifetime of packets that are 524,288 cycles old (R337). -/
def ageOut : List Pend → State → State
  | [], s => s
  | p :: l, s =>
    ageOut l (match p.trip, packetCtx p.what with
      | some t, some c => if t.born + 524288 = s.cycle then post s s.cycle 0 .packetLifetimeExpired (.ctx c) else s
      | _, _ => s)

/-- The scrubs of a cycle: every port scrubs its tier once in 2^42 cycles, and what it finds is free (R275). -/
def scrubAll : List Nat → State → State
  | [], s => s
  | p :: l, s => scrubAll l (post s s.cycle 0 (.scrubPass p (Config.scrubErrors s.nonce p) (Config.scrubBad s.nonce p)))

/-- The events of the periodic units that a cycle begins (R275, R336 to R338, R360, R362). -/
def periodic (s : State) : State :=
  let at' := fun (n r : Nat) (i : Instr) (s : State) => if s.cycle % n = r then post s s.cycle 0 i else s
  let s1 := if s.cycle % 2 ^ 42 = 0 then bump (scrubAll (List.range 12) s) else s
  at' 1024 0 .eqAdapt (at' 1300 0 .vfLoopInterval (at' 65536 65520 .sweepPrewake (at' 65536 256 .cicadaSweepEnd
    (at' 65536 0 .cicadaSweep (gateIdle s1.cores (ageOut s1.pend s1))))))

/-- The next cycle. -/
def tick (s : State) : State :=
  periodic { s with
    cycle := s.cycle + 1, cursor := 0, focus := .idle, fresh := [],
    agenda := match s.agenda with
      | h :: l => { h with wait := h.wait - 1 } :: l
      | [] => [] }

/-- What the device does next: an instruction and the state in which it acts, or `none` and the state of the next cycle. -/
def choose (s : State) : Option Instr × State :=
  match s.agenda.head?, dueEvent s, s.threads.find? fun t => goesOn s t.2 with
  | some ⟨0, i, w⟩, _, _ => (some i, { s with agenda := s.agenda.tail, focus := w })
  | _, some p, _ => (some p.what, { s with pend := dropPend p s.pend, focus := p.who })
  | _, none, some (_, t) =>
    (some (if t.place == .engine then (if t.tq == some 1 then .openl else .hostSubmission) else issuedInstr (detOf s t.ctx) t.word),
      { s with focus := .thread t.id })
  | _, none, none =>
    match startable s s.parts with
    | some (c, p, e) => match decodeTcw e.word with
      | .ok i => (some i, { s with focus := .part c p })
      | .error _ => (none, tick s)
    | none =>
      match leastRank s s.threads with
      | some (_, t) => let r := issue s t; (some r.1, r.2)
      | none => (none, tick s)

/-! ### Placing an instruction where the step fetches next -/

/-- The context in which a placed instruction runs. -/
def fetchCtx : Ctx :=
  { vd := 0, part := 0, ox := 0, oy := 0, w := 1, h := 1, acc := 0, slot := 0, segs := [], tvec := none }

/-- A device that is READY (R358), with one partition on each core of region 0, core 0 held by context 1, and nothing in flight. -/
def fetchBase (s : State) : State :=
  { s with
    focus := .idle, cursor := 0, pend := [], agenda := [], dev := { s.dev with state := 5, sweeping := false },
    sets := [{ rx := 0, ry := 0, rw := 1, rh := 1, n := 1, holder := 0, entries := [], turns := [], raw := [] }],
    regions := tblSet s.regions 0 {}, ctxs := [(1, fetchCtx)], parts := [(0, { owner := 1 })], threads := [] }

/-- The state with a scalar word at pc 0 of core 0, where the thread of the slot whose cycle it is issues next. -/
def placeScalar (s : State) (w : Nat) : State :=
  let b := fetchBase s
  { b with
    mem := memWrite b.mem (istoreKey 0 0) (leBytes 4 w),
    threads := [(1, { id := 1, ctx := 1, core := 0, part := 0, place := .slot (s.cycle % 8) })] }

/-- The state with a tile command word at the head of the queue of partition 0 of core 0. -/
def placeTile (s : State) (w : Nat) : State :=
  let b := fetchBase s
  { b with parts := [(0, { owner := 1, queue := [{ seq := 0, tid := 1, pc := 0, word := BitVec.ofNat 256 w }], seqCtr := 1 })] }

end Sys2Proof.Machine
end

