-- ==== Sys2Proof/Machine/Alu.lean ====
section
/-! DEFINITION. The integer instructions of R90 to R93 and the constant builders of R94 and R95. -/

namespace Sys2Proof.Machine

/-- A two-operand integer instruction: d receives `f` of the operands, no flag changes (R88, R90). -/
def aluOp (f : Word → Word → Word) (g : BitVec 5) (d a b : BitVec 4) (s : State) : Res :=
  scalar g s fun s t => retireReg s t d (f (t.reg a) (t.reg b))

/-- An integer instruction with an immediate (R93). -/
def immOp (f : Word → Word → Word) (g : BitVec 5) (d a : BitVec 4) (i : Word) (s : State) : Res :=
  scalar g s fun s t => retireReg s t d (f (t.reg a) i)

/-- ADD (R26, R90: a[63:56] kept, 56-bit sum). -/
def execAdd (g : BitVec 5) (d a b : BitVec 4) (s : State) : Res := aluOp tagAdd g d a b s

/-- SUB (R26, R90: a[63:56] kept, 56-bit difference). -/
def execSub (g : BitVec 5) (d a b : BitVec 4) (s : State) : Res := aluOp tagSub g d a b s

/-- AND (R90). -/
def execAnd (g : BitVec 5) (d a b : BitVec 4) (s : State) : Res := aluOp (· &&& ·) g d a b s

/-- OR (R90). -/
def execOr (g : BitVec 5) (d a b : BitVec 4) (s : State) : Res := aluOp (· ||| ·) g d a b s

/-- XOR (R90). -/
def execXor (g : BitVec 5) (d a b : BitVec 4) (s : State) : Res := aluOp (· ^^^ ·) g d a b s

/-- ANDN (R90). -/
def execAndn (g : BitVec 5) (d a b : BitVec 4) (s : State) : Res := aluOp (fun a b => a &&& ~~~b) g d a b s

/-- SHL (R90). -/
def execShl (g : BitVec 5) (d a b : BitVec 4) (s : State) : Res := aluOp aluShl g d a b s

/-- SHR (R90). -/
def execShr (g : BitVec 5) (d a b : BitVec 4) (s : State) : Res := aluOp aluShr g d a b s

/-- SRA (R90). -/
def execSra (g : BitVec 5) (d a b : BitVec 4) (s : State) : Res := aluOp aluSra g d a b s

/-- ROL (R90). -/
def execRol (g : BitVec 5) (d a b : BitVec 4) (s : State) : Res := aluOp aluRol g d a b s

/-- MIN (R90). -/
def execMin (g : BitVec 5) (d a b : BitVec 4) (s : State) : Res := aluOp aluMin g d a b s

/-- MAX (R90). -/
def execMax (g : BitVec 5) (d a b : BitVec 4) (s : State) : Res := aluOp aluMax g d a b s

/-- MINN (R90). -/
def execMinn (g : BitVec 5) (d a b : BitVec 4) (s : State) : Res := aluOp aluMinn g d a b s

/-- MAXN (R90). -/
def execMaxn (g : BitVec 5) (d a b : BitVec 4) (s : State) : Res := aluOp aluMaxn g d a b s

/-- MUL (R90). -/
def execMul (g : BitVec 5) (d a b : BitVec 4) (s : State) : Res := aluOp (· * ·) g d a b s

/-- MULH (R90). -/
def execMulh (g : BitVec 5) (d a b : BitVec 4) (s : State) : Res := aluOp aluMulh g d a b s

/-- MULHN (R90). -/
def execMulhn (g : BitVec 5) (d a b : BitVec 4) (s : State) : Res := aluOp aluMulhn g d a b s

/-- DIV (R91). -/
def execDiv (g : BitVec 5) (d a b : BitVec 4) (s : State) : Res := aluOp aluDiv g d a b s

/-- DIVN (R91). -/
def execDivn (g : BitVec 5) (d a b : BitVec 4) (s : State) : Res := aluOp aluDivn g d a b s

/-- REM (R91). -/
def execRem (g : BitVec 5) (d a b : BitVec 4) (s : State) : Res := aluOp aluRem g d a b s

/-- REMN (R91). -/
def execRemn (g : BitVec 5) (d a b : BitVec 4) (s : State) : Res := aluOp aluRemn g d a b s

/-- SEXT (R90). -/
def execSext (g : BitVec 5) (d a b : BitVec 4) (s : State) : Res := aluOp aluSext g d a b s

/-- ZEXT (R90). -/
def execZext (g : BitVec 5) (d a b : BitVec 4) (s : State) : Res := aluOp aluZext g d a b s

/-- CLZ (R90). -/
def execClz (g : BitVec 5) (d a : BitVec 4) (s : State) : Res := aluOp (fun x _ => aluClz x) g d a a s

/-- CTZ (R90). -/
def execCtz (g : BitVec 5) (d a : BitVec 4) (s : State) : Res := aluOp (fun x _ => aluCtz x) g d a a s

/-- POPC (R90). -/
def execPopc (g : BitVec 5) (d a : BitVec 4) (s : State) : Res := aluOp (fun x _ => aluPopc x) g d a a s

/-- BREV (R90). -/
def execBrev (g : BitVec 5) (d a : BitVec 4) (s : State) : Res := aluOp (fun x _ => aluBrev x) g d a a s

/-- ADDI (R63, R93). -/
def execAddi (g : BitVec 5) (d a : BitVec 4) (i : BitVec 12) (s : State) : Res := immOp tagAdd g d a (sext12 i) s

/-- ANDI (R63, R93). -/
def execAndi (g : BitVec 5) (d a : BitVec 4) (i : BitVec 12) (s : State) : Res := immOp (· &&& ·) g d a (sext12 i) s

/-- ORI (R63, R93). -/
def execOri (g : BitVec 5) (d a : BitVec 4) (i : BitVec 12) (s : State) : Res := immOp (· ||| ·) g d a (sext12 i) s

/-- XORI (R63, R93). -/
def execXori (g : BitVec 5) (d a : BitVec 4) (i : BitVec 12) (s : State) : Res := immOp (· ^^^ ·) g d a (sext12 i) s

/-- MULI (R63, R93). -/
def execMuli (g : BitVec 5) (d a : BitVec 4) (i : BitVec 12) (s : State) : Res := immOp (· * ·) g d a (sext12 i) s

/-- SHLI (R63, R93). -/
def execShli (g : BitVec 5) (d a : BitVec 4) (c : BitVec 6) (s : State) : Res := immOp aluShl g d a (c.setWidth 64) s

/-- SHRI (R63, R93). -/
def execShri (g : BitVec 5) (d a : BitVec 4) (c : BitVec 6) (s : State) : Res := immOp aluShr g d a (c.setWidth 64) s

/-- SRAI (R63, R93). -/
def execSrai (g : BitVec 5) (d a : BitVec 4) (c : BitVec 6) (s : State) : Res := immOp aluSra g d a (c.setWidth 64) s

/-- LI (R94). -/
def execLi (g : BitVec 5) (d : BitVec 4) (i : BitVec 16) (s : State) : Res :=
  scalar g s fun s t => retireReg s t d (sext16 i)

/-- LIS (R95): the old d shifted left by 16, OR the immediate. -/
def execLis (g : BitVec 5) (d : BitVec 4) (i : BitVec 16) (s : State) : Res :=
  scalar g s fun s t => retireReg s t d ((t.reg d <<< 16) ||| i.setWidth 64)

/-- NOP (R67): takes its issue cycle only. -/
def execNop (g : BitVec 5) (s : State) : Res := scalar g s fun s t => retire s t

end Sys2Proof.Machine
end

