-- ==== Sys2Proof/Machine/Control.lean ====
section
/-! DEFINITION. The constant window, selection, identity, compares, predicates and branches (R96 to R108). -/

namespace Sys2Proof.Machine

/-- Entry kn of the constant window of the thread's partition on its core (R19). -/
def constEntry (s : State) (t : Thread) (n : Nat) : Word :=
  BitVec.ofNat 64 (ofLeBytes (memRead s.mem (scratchKey t.core (viewBase s t.core t.part + 8 * n)) 8))

/-- KLD and KLD.X (R96): an index past 255 is a segment-check fault, whose fault value is the index (log entry 71). A poisoned entry raises
no fault, R89's list being closed: what it reads as is free (log entry 70). -/
def constLoad (s : State) (t : Thread) (d : BitVec 4) (e : Nat) : State :=
  if 256 ≤ e then fatalAt s t 0x02 e
  else if poisoned s (scratchKey t.core (viewBase s t.core t.part + 8 * e)) 8 then retireReg (bump s) t d (Config.poisonedWord s.nonce)
  else retireReg s t d (constEntry s t e)

/-- KLD (R96). -/
def execKld (g : BitVec 5) (d : BitVec 4) (k : BitVec 8) (s : State) : Res :=
  scalar g s fun s t => constLoad s t d k.toNat

/-- KLD.X (R96). -/
def execKldX (g : BitVec 5) (d a : BitVec 4) (k : BitVec 8) (s : State) : Res :=
  scalar g s fun s t => constLoad s t d (k.toNat + (t.reg a).toNat)

/-- SEL (R97). -/
def execSel (g : BitVec 5) (d a b n : BitVec 4) (s : State) : Res :=
  scalar g s fun s t => retireReg s t d (if t.pred n then t.reg a else t.reg b)

/-- TAG (R98). -/
def execTag (g : BitVec 5) (d a : BitVec 4) (t : BitVec 8) (s : State) : Res :=
  scalar g s fun s th => retireReg s th d (t ++ (th.reg a).setWidth 56 : BitVec (8 + 56))

/-- SEGA (R99). -/
def execSega (g : BitVec 5) (d a : BitVec 4) (s : State) : Res :=
  scalar g s fun s t =>
    match getCtx s t.ctx with
    | none => fatalAt s t 0x02 0
    | some x =>
      let sg := segOf x (t.reg a)
      let off := (t.reg a).toNat % 2 ^ 53
      if sg.limit ≤ off then fatalAt s t 0x02 (t.reg a).toNat
      else retireReg s t d (BitVec.ofNat 64 ((sg.base + off) % 2 ^ 56))

/-- The identity value that a selector names (R100). -/
def identity (s : State) (t : Thread) (sel : Nat) : Nat :=
  match sel with
  | 0 => t.id
  | 1 => t.status.toNat
  | 2 => coreX t.core + coreY t.core * 2 ^ 16
  | 3 => match t.slot? with
    | some n => n
    | none => 0
  | 4 => t.part + partCount s t.core * 16
  | 5 => t.ctx
  | 6 => s.dev.id
  | 7 => regionOf t.core
  | _ => t.pc.toNat

/-- RDS (R100). -/
def execRds (g : BitVec 5) (d : BitVec 4) (sel : BitVec 12) (s : State) : Res :=
  scalar g s fun s t => retireReg s t d (BitVec.ofNat 64 (identity s t sel.toNat))

/-- CMP (R101): IV goes to sw.FPX even when pd is p0. -/
def execCmp (g : BitVec 5) (p a b c m : BitVec 4) (s : State) : Res :=
  scalar g s fun s t =>
    let r := condTest c (t.reg a) (t.reg b)
    retire s ((t.setPred p (cmpMode m (t.pred p) r.val)).orFpx r.flags)

/-- CMPI (R102). -/
def execCmpi (g : BitVec 5) (p a c : BitVec 4) (i : BitVec 8) (s : State) : Res :=
  scalar g s fun s t => retire s (t.setPred p (condTest c (t.reg a) (cmpiImm c i)).val)

/-- A predicate operation (R103). -/
def plogOp (f : Bool → Bool → Bool) (g : BitVec 5) (p q r : BitVec 4) (s : State) : Res :=
  scalar g s fun s t => retire s (t.setPred p (f (t.pred q) (t.pred r)))

/-- PAND (R103). -/
def execPand (g : BitVec 5) (p q r : BitVec 4) (s : State) : Res := plogOp (· && ·) g p q r s

/-- POR (R103). -/
def execPor (g : BitVec 5) (p q r : BitVec 4) (s : State) : Res := plogOp (· || ·) g p q r s

/-- PXOR (R103). -/
def execPxor (g : BitVec 5) (p q r : BitVec 4) (s : State) : Res := plogOp (· != ·) g p q r s

/-- PANDN (R103). -/
def execPandn (g : BitVec 5) (p q r : BitVec 4) (s : State) : Res := plogOp (fun x y => x && !y) g p q r s

/-- PNOT (R103). -/
def execPnot (g : BitVec 5) (p q : BitVec 4) (s : State) : Res := plogOp (fun x _ => !x) g p q q s

/-- PMOV (R103). -/
def execPmov (g : BitVec 5) (p q : BitVec 4) (s : State) : Res := plogOp (fun x _ => x) g p q q s

/-- PGET (R104). -/
def execPget (g : BitVec 5) (d : BitVec 4) (s : State) : Res :=
  scalar g s fun s t => retireReg s t d (t.predWord.setWidth 64)

/-- PSET (R104). -/
def execPset (g : BitVec 5) (a : BitVec 4) (s : State) : Res :=
  scalar g s fun s t => retire s (t.setPreds ((t.reg a).setWidth 16))

/-! ### Branches -/

/-- Go to a target after the check of R65; `u` holds the register writes, which a failed check does not make. -/
def jump (s : State) (t u : Thread) (target : Int) : State :=
  if 0 ≤ target && inSlice s t.core t.part target.toNat then
    setThread s { u with pc := BitVec.ofNat 14 target.toNat, wait := .ready, counted := false }
  else leaveFault s t (wrapNat 64 target)

/-- pc + 4 · sext(offset), exact (R65). -/
def branchTarget (t : Thread) (off : Int) : Int := (t.pc.toNat : Int) + 4 * off

/-- The link value of JAL and JR. -/
def linkWord (t : Thread) : Word := BitVec.ofNat 64 (t.pc.toNat + 4)

/-- BR (R105). -/
def execBr (g : BitVec 5) (o : BitVec 20) (s : State) : Res :=
  scalar g s fun s t => jump s t t (branchTarget t o.toInt)

/-- JAL (R105): the link goes to g9. -/
def execJal (g : BitVec 5) (o : BitVec 20) (s : State) : Res :=
  scalar g s fun s t => jump s t (t.setReg 9 (linkWord t)) (branchTarget t o.toInt)

/-- JR (R106): a is read before d is written. -/
def execJr (g : BitVec 5) (d a : BitVec 4) (s : State) : Res :=
  scalar g s fun s t => jump s t (t.setReg d (linkWord t)) ((t.reg a).toNat : Int)

/-- DBNZ (R107). -/
def execDbnz (g : BitVec 5) (d : BitVec 4) (o : BitVec 16) (s : State) : Res :=
  scalar g s fun s t =>
    let v := t.reg d - 1
    if v = 0 then retireReg s t d v else jump s t (t.setReg d v) (branchTarget t o.toInt)

end Sys2Proof.Machine
end

