-- ==== Sys2Proof/Machine/Fpu.lean ====
section
/-! DEFINITION. The scalar fp32 instructions (R57, R92): operands are bits [31:0], results are zero-extended, flags go to
sw.FPX even when d is zr. -/

namespace Sys2Proof.Machine

/-- Retire with a result and flags ORed into sw.FPX (R56). -/
def retireFp (s : State) (t : Thread) (d : BitVec 4) (r : Flagged Nat) : State :=
  retireReg s (t.orFpx r.flags) d (BitVec.ofNat 64 r.val)

/-- The fp32 operand of a register. -/
def lo32 (w : Word) : Nat := w.toNat % 2 ^ 32

/-- A two-operand fp32 instruction. -/
def fpuOp (f : Nat → Nat → Flagged Nat) (g : BitVec 5) (d a b : BitVec 4) (s : State) : Res :=
  scalar g s fun s t => retireFp s t d (f (lo32 (t.reg a)) (lo32 (t.reg b)))

/-- FADD (R57, R92). -/
def execFadd (g : BitVec 5) (d a b : BitVec 4) (s : State) : Res := fpuOp (fpAdd fp32) g d a b s

/-- FSUB (R57, R92). -/
def execFsub (g : BitVec 5) (d a b : BitVec 4) (s : State) : Res := fpuOp (fpSub fp32) g d a b s

/-- FMUL (R57, R92). -/
def execFmul (g : BitVec 5) (d a b : BitVec 4) (s : State) : Res := fpuOp (fpMul fp32) g d a b s

/-- FMIN (R57, R92). -/
def execFmin (g : BitVec 5) (d a b : BitVec 4) (s : State) : Res := fpuOp (fpMinMax fp32 false) g d a b s

/-- FMAX (R57, R92). -/
def execFmax (g : BitVec 5) (d a b : BitVec 4) (s : State) : Res := fpuOp (fpMinMax fp32 true) g d a b s

/-- FCVTI (R57, R92): the signed 64-bit integer in a, rounded RNE to fp32. -/
def execFcvti (g : BitVec 5) (d a : BitVec 4) (s : State) : Res :=
  scalar g s fun s t => retireFp s t d (fpFromInt (t.reg a).toNat)

/-- FCVTF (R57, R92): fp32 rounded toward zero to a signed 64-bit integer. -/
def execFcvtf (g : BitVec 5) (d a : BitVec 4) (s : State) : Res :=
  scalar g s fun s t => retireFp s t d (fpToInt64 (lo32 (t.reg a)))

end Sys2Proof.Machine
end

