-- ==== Sys2Proof/Machine/Dispatch.lean ====
section
/-! DEFINITION. The meaning of every instruction: one arm a constructor, in the order of the opcode table. -/

namespace Sys2Proof.Machine

open Sys2Proof

def exec (i : Instr) (s : State) : Host.Outcome State Fault Refusal :=
  match i with
  | .nop g => Sys2Proof.Machine.execNop g s
  | .add g d a b => Sys2Proof.Machine.execAdd g d a b s
  | .sub g d a b => Sys2Proof.Machine.execSub g d a b s
  | .and g d a b => Sys2Proof.Machine.execAnd g d a b s
  | .or g d a b => Sys2Proof.Machine.execOr g d a b s
  | .xor g d a b => Sys2Proof.Machine.execXor g d a b s
  | .andn g d a b => Sys2Proof.Machine.execAndn g d a b s
  | .shl g d a b => Sys2Proof.Machine.execShl g d a b s
  | .shr g d a b => Sys2Proof.Machine.execShr g d a b s
  | .sra g d a b => Sys2Proof.Machine.execSra g d a b s
  | .rol g d a b => Sys2Proof.Machine.execRol g d a b s
  | .min g d a b => Sys2Proof.Machine.execMin g d a b s
  | .max g d a b => Sys2Proof.Machine.execMax g d a b s
  | .minn g d a b => Sys2Proof.Machine.execMinn g d a b s
  | .maxn g d a b => Sys2Proof.Machine.execMaxn g d a b s
  | .mul g d a b => Sys2Proof.Machine.execMul g d a b s
  | .mulh g d a b => Sys2Proof.Machine.execMulh g d a b s
  | .mulhn g d a b => Sys2Proof.Machine.execMulhn g d a b s
  | .div g d a b => Sys2Proof.Machine.execDiv g d a b s
  | .divn g d a b => Sys2Proof.Machine.execDivn g d a b s
  | .rem g d a b => Sys2Proof.Machine.execRem g d a b s
  | .remn g d a b => Sys2Proof.Machine.execRemn g d a b s
  | .clz g d a => Sys2Proof.Machine.execClz g d a s
  | .ctz g d a => Sys2Proof.Machine.execCtz g d a s
  | .popc g d a => Sys2Proof.Machine.execPopc g d a s
  | .sext g d a b => Sys2Proof.Machine.execSext g d a b s
  | .zext g d a b => Sys2Proof.Machine.execZext g d a b s
  | .brev g d a => Sys2Proof.Machine.execBrev g d a s
  | .fadd g d a b => Sys2Proof.Machine.execFadd g d a b s
  | .fsub g d a b => Sys2Proof.Machine.execFsub g d a b s
  | .fmul g d a b => Sys2Proof.Machine.execFmul g d a b s
  | .fmin g d a b => Sys2Proof.Machine.execFmin g d a b s
  | .fmax g d a b => Sys2Proof.Machine.execFmax g d a b s
  | .fcvti g d a => Sys2Proof.Machine.execFcvti g d a s
  | .fcvtf g d a => Sys2Proof.Machine.execFcvtf g d a s
  | .addi g d a n => Sys2Proof.Machine.execAddi g d a n s
  | .andi g d a n => Sys2Proof.Machine.execAndi g d a n s
  | .ori g d a n => Sys2Proof.Machine.execOri g d a n s
  | .xori g d a n => Sys2Proof.Machine.execXori g d a n s
  | .shli g d a c => Sys2Proof.Machine.execShli g d a c s
  | .shri g d a c => Sys2Proof.Machine.execShri g d a c s
  | .srai g d a c => Sys2Proof.Machine.execSrai g d a c s
  | .muli g d a n => Sys2Proof.Machine.execMuli g d a n s
  | .li g d n => Sys2Proof.Machine.execLi g d n s
  | .lis g d n => Sys2Proof.Machine.execLis g d n s
  | .kld g d k => Sys2Proof.Machine.execKld g d k s
  | .kldX g d a k => Sys2Proof.Machine.execKldX g d a k s
  | .sel g d a b n => Sys2Proof.Machine.execSel g d a b n s
  | .tag g d a t => Sys2Proof.Machine.execTag g d a t s
  | .sega g d a => Sys2Proof.Machine.execSega g d a s
  | .rds g d v => Sys2Proof.Machine.execRds g d v s
  | .cmp g p a b c m => Sys2Proof.Machine.execCmp g p a b c m s
  | .cmpi g p a c n => Sys2Proof.Machine.execCmpi g p a c n s
  | .pand g p q r => Sys2Proof.Machine.execPand g p q r s
  | .por g p q r => Sys2Proof.Machine.execPor g p q r s
  | .pxor g p q r => Sys2Proof.Machine.execPxor g p q r s
  | .pandn g p q r => Sys2Proof.Machine.execPandn g p q r s
  | .pnot g p q => Sys2Proof.Machine.execPnot g p q s
  | .pmov g p q => Sys2Proof.Machine.execPmov g p q s
  | .pget g d => Sys2Proof.Machine.execPget g d s
  | .pset g a => Sys2Proof.Machine.execPset g a s
  | .br g o => Sys2Proof.Machine.execBr g o s
  | .jal g o => Sys2Proof.Machine.execJal g o s
  | .jr g d a => Sys2Proof.Machine.execJr g d a s
  | .dbnz g d o => Sys2Proof.Machine.execDbnz g d o s
  | .ld g d a w x => Sys2Proof.Machine.execLd g d a w x s
  | .st g v a w x => Sys2Proof.Machine.execSt g v a w x s
  | .lda g d a w x => Sys2Proof.Machine.execLda g d a w x s
  | .str g v a w x => Sys2Proof.Machine.execStr g v a w x s
  | .lde g d a x => Sys2Proof.Machine.execLde g d a x s
  | .mrg g a b w o => Sys2Proof.Machine.execMrg g a b w o s
  | .fmrg g d a b w o => Sys2Proof.Machine.execFmrg g d a b w o s
  | .vbor g a b => Sys2Proof.Machine.execVbor g a b s
  | .vbtst g d a b => Sys2Proof.Machine.execVbtst g d a b s
  | .fenceD g => Sys2Proof.Machine.execFenceD g s
  | .fenceT g => Sys2Proof.Machine.execFenceT g s
  | .fenceA g => Sys2Proof.Machine.execFenceA g s
  | .fenceI g => Sys2Proof.Machine.execFenceI g s
  | .barRegion g d a => Sys2Proof.Machine.execBarRegion g d a s
  | .barRow g d a => Sys2Proof.Machine.execBarRow g d a s
  | .barCol g d a => Sys2Proof.Machine.execBarCol g d a s
  | .prop g d a b => Sys2Proof.Machine.execProp g d a b s
  | .propRun g d a b => Sys2Proof.Machine.execPropRun g d a b s
  | .learn g d a => Sys2Proof.Machine.execLearn g d a s
  | .learnPoll g d a => Sys2Proof.Machine.execLearnPoll g d a s
  | .learnt g d a b => Sys2Proof.Machine.execLearnt g d a b s
  | .ballot g d a => Sys2Proof.Machine.execBallot g d a s
  | .reshape g d a b => Sys2Proof.Machine.execReshape g d a b s
  | .accordOpen g d a b => Sys2Proof.Machine.execAccordOpen g d a b s
  | .accordClose g d a b => Sys2Proof.Machine.execAccordClose g d a b s
  | .accordTrunc g d a b => Sys2Proof.Machine.execAccordTrunc g d a b s
  | .accordStat g d a b => Sys2Proof.Machine.execAccordStat g d a b s
  | .accordNext g d a b => Sys2Proof.Machine.execAccordNext g d a b s
  | .send g a b n => Sys2Proof.Machine.execSend g a b n s
  | .spawn g d a b n => Sys2Proof.Machine.execSpawn g d a b n s
  | .migr g a => Sys2Proof.Machine.execMigr g a s
  | .chsend g a b => Sys2Proof.Machine.execChsend g a b s
  | .chrecv g d a => Sys2Proof.Machine.execChrecv g d a s
  | .cvsend g d a b r k => Sys2Proof.Machine.execCvsend g d a b r k s
  | .cvrecv g d a => Sys2Proof.Machine.execCvrecv g d a s
  | .cvopJoin g d a => Sys2Proof.Machine.execCvopJoin g d a s
  | .cvopDlg g d a b => Sys2Proof.Machine.execCvopDlg g d a b s
  | .cvopLeave g d a => Sys2Proof.Machine.execCvopLeave g d a s
  | .cvopState g d a b => Sys2Proof.Machine.execCvopState g d a b s
  | .tcmd g d a => Sys2Proof.Machine.execTcmd g d a s
  | .tcmdQ1 g d a b => Sys2Proof.Machine.execTcmdQ1 g d a b s
  | .tloop g a b => Sys2Proof.Machine.execTloop g a b s
  | .adv g a b => Sys2Proof.Machine.execAdv g a b s
  | .twait g a b => Sys2Proof.Machine.execTwait g a b s
  | .waitt g a => Sys2Proof.Machine.execWaitt g a s
  | .tstat g d => Sys2Proof.Machine.execTstat g d s
  | .hdef g a b => Sys2Proof.Machine.execHdef g a b s
  | .bagpop g d => Sys2Proof.Machine.execBagpop g d s
  | .bagins g a b => Sys2Proof.Machine.execBagins g a b s
  | .rewrite g => Sys2Proof.Machine.execRewrite g s
  | .nalloc g d a => Sys2Proof.Machine.execNalloc g d a s
  | .nfree g a => Sys2Proof.Machine.execNfree g a s
  | .link g a b => Sys2Proof.Machine.execLink g a b s
  | .rules g a => Sys2Proof.Machine.execRules g a s
  | .trap g c => Sys2Proof.Machine.execTrap g c s
  | .eret g => Sys2Proof.Machine.execEret g s
  | .rdsw g d v => Sys2Proof.Machine.execRdsw g d v s
  | .wrsw g a v => Sys2Proof.Machine.execWrsw g a v s
  | .yield g => Sys2Proof.Machine.execYield g s
  | .halt g => Sys2Proof.Machine.execHalt g s
  | .ckpt g a => Sys2Proof.Machine.execCkpt g a s
  | .ologMark g a => Sys2Proof.Machine.execOlogMark g a s
  | .ologPause g => Sys2Proof.Machine.execOlogPause g s
  | .ologResume g => Sys2Proof.Machine.execOlogResume g s
  | .ologFlush g => Sys2Proof.Machine.execOlogFlush g s
  | .lnch g d a => Sys2Proof.Machine.execLnch g d a s
  | .wfm g => Sys2Proof.Machine.execWfm g s
  | .snap g d a => Sys2Proof.Machine.execSnap g d a s
  | .tnop c => Sys2Proof.Machine.execTnop c s
  | .mma c => Sys2Proof.Machine.execMma c s
  | .mmas c => Sys2Proof.Machine.execMmas c s
  | .mmaz c => Sys2Proof.Machine.execMmaz c s
  | .spld c => Sys2Proof.Machine.execSpld c s
  | .aclr c => Sys2Proof.Machine.execAclr c s
  | .acld c => Sys2Proof.Machine.execAcld c s
  | .acst c => Sys2Proof.Machine.execAcst c s
  | .acsc c => Sys2Proof.Machine.execAcsc c s
  | .vadd c => Sys2Proof.Machine.execVadd c s
  | .vsub c => Sys2Proof.Machine.execVsub c s
  | .vmul c => Sys2Proof.Machine.execVmul c s
  | .vfma c => Sys2Proof.Machine.execVfma c s
  | .vmin c => Sys2Proof.Machine.execVmin c s
  | .vmax c => Sys2Proof.Machine.execVmax c s
  | .vexp2 c => Sys2Proof.Machine.execVexp2 c s
  | .vlog2 c => Sys2Proof.Machine.execVlog2 c s
  | .vrcp c => Sys2Proof.Machine.execVrcp c s
  | .vrsq c => Sys2Proof.Machine.execVrsq c s
  | .vcvt c => Sys2Proof.Machine.execVcvt c s
  | .vcmp c => Sys2Proof.Machine.execVcmp c s
  | .vsel c => Sys2Proof.Machine.execVsel c s
  | .vand c => Sys2Proof.Machine.execVand c s
  | .vor c => Sys2Proof.Machine.execVor c s
  | .vxor c => Sys2Proof.Machine.execVxor c s
  | .vred c => Sys2Proof.Machine.execVred c s
  | .vtrn c => Sys2Proof.Machine.execVtrn c s
  | .vbcast c => Sys2Proof.Machine.execVbcast c s
  | .vscl c => Sys2Proof.Machine.execVscl c s
  | .copy c => Sys2Proof.Machine.execCopy c s
  | .copyr c => Sys2Proof.Machine.execCopyr c s
  | .gath c => Sys2Proof.Machine.execGath c s
  | .scat c => Sys2Proof.Machine.execScat c s
  | .mcast c => Sys2Proof.Machine.execMcast c s
  | .zero c => Sys2Proof.Machine.execZero c s
  | .qtld c => Sys2Proof.Machine.execQtld c s
  | .rngk c => Sys2Proof.Machine.execRngk c s
  | .tsig c => Sys2Proof.Machine.execTsig c s
  | .tmark c => Sys2Proof.Machine.execTmark c s
  | .tileCommandComplete => Sys2Proof.Machine.execTileCommandComplete s
  | .tloopPush => Sys2Proof.Machine.execTloopPush s
  | .promiseMissed => Sys2Proof.Machine.execPromiseMissed s
  | .remoteAdvance p => Sys2Proof.Machine.execRemoteAdvance p s
  | .storeDelivery a => Sys2Proof.Machine.execStoreDelivery a s
  | .mergeApply a => Sys2Proof.Machine.execMergeApply a s
  | .loadRequest a => Sys2Proof.Machine.execLoadRequest a s
  | .loadReply tid op r => Sys2Proof.Machine.execLoadReply tid op r s
  | .acknowledgement a st => Sys2Proof.Machine.execAcknowledgement a st s
  | .fetchMergeReply a old flags st oseq => Sys2Proof.Machine.execFetchMergeReply a old flags st oseq s
  | .copyShadowRelease => Sys2Proof.Machine.execCopyShadowRelease s
  | .codeOrderRelease => Sys2Proof.Machine.execCodeOrderRelease s
  | .messageArrival m => Sys2Proof.Machine.execMessageArrival m s
  | .handlerStart => Sys2Proof.Machine.execHandlerStart s
  | .spawnRequest m => Sys2Proof.Machine.execSpawnRequest m s
  | .spawnReply tid op status => Sys2Proof.Machine.execSpawnReply tid op status s
  | .migrationArrival p => Sys2Proof.Machine.execMigrationArrival p s
  | .arrivalTaken => Sys2Proof.Machine.execArrivalTaken s
  | .channelWord p => Sys2Proof.Machine.execChannelWord p s
  | .channelCredit p => Sys2Proof.Machine.execChannelCredit p s
  | .linkExchange p => Sys2Proof.Machine.execLinkExchange p s
  | .nfreeAtHome p => Sys2Proof.Machine.execNfreeAtHome p s
  | .pairPush p => Sys2Proof.Machine.execPairPush p s
  | .quarantineExpiry core part node => Sys2Proof.Machine.execQuarantineExpiry core part node s
  | .prepare m => Sys2Proof.Machine.execPrepare m s
  | .accept m => Sys2Proof.Machine.execAccept m s
  | .prepacc m => Sys2Proof.Machine.execPrepacc m s
  | .decided m => Sys2Proof.Machine.execDecided m s
  | .promise r => Sys2Proof.Machine.execPromise r s
  | .accepted r => Sys2Proof.Machine.execAccepted r s
  | .nack r => Sys2Proof.Machine.execNack r s
  | .norun r => Sys2Proof.Machine.execNorun r s
  | .decidednow r => Sys2Proof.Machine.execDecidednow r s
  | .decidedReply r => Sys2Proof.Machine.execDecidedReply r s
  | .truncReply r => Sys2Proof.Machine.execTruncReply r s
  | .phaseTimeout tid op bal => Sys2Proof.Machine.execPhaseTimeout tid op bal s
  | .backoffEnd => Sys2Proof.Machine.execBackoffEnd s
  | .lease m => Sys2Proof.Machine.execLease m s
  | .leaseGrant m => Sys2Proof.Machine.execLeaseGrant m s
  | .freeze m expiry => Sys2Proof.Machine.execFreeze m expiry s
  | .freezeReport r => Sys2Proof.Machine.execFreezeReport r s
  | .seniorReportTimeout => Sys2Proof.Machine.execSeniorReportTimeout s
  | .leaseRelease m => Sys2Proof.Machine.execLeaseRelease m s
  | .leaseExpiry region acc holder op => Sys2Proof.Machine.execLeaseExpiry region acc holder op s
  | .accordTableFill => Sys2Proof.Machine.execAccordTableFill s
  | .learnRequest q => Sys2Proof.Machine.execLearnRequest q s
  | .memberQuery q => Sys2Proof.Machine.execMemberQuery q s
  | .keepalive q => Sys2Proof.Machine.execKeepalive q s
  | .learnerFailover => Sys2Proof.Machine.execLearnerFailover s
  | .learntDeadline => Sys2Proof.Machine.execLearntDeadline s
  | .quorumTakeover acc => Sys2Proof.Machine.execQuorumTakeover acc s
  | .accordRegister m cfg next size darr proto owner strict wsen desc => Sys2Proof.Machine.execAccordRegister m cfg next size darr proto owner strict wsen desc s
  | .openTimeout => Sys2Proof.Machine.execOpenTimeout s
  | .accordCloseAtMember m => Sys2Proof.Machine.execAccordCloseAtMember m s
  | .accordTruncAtMember m => Sys2Proof.Machine.execAccordTruncAtMember m s
  | .barRelease region part kind idx => Sys2Proof.Machine.execBarRelease region part kind idx s
  | .barTimeout => Sys2Proof.Machine.execBarTimeout s
  | .budgetExhausted => Sys2Proof.Machine.execBudgetExhausted s
  | .budgetTrap => Sys2Proof.Machine.execBudgetTrap s
  | .energyMeter => Sys2Proof.Machine.execEnergyMeter s
  | .trapRecordInsert q => Sys2Proof.Machine.execTrapRecordInsert q s
  | .pageZeroingDone port page => Sys2Proof.Machine.execPageZeroingDone port page s
  | .pageMigrationDone ctx cls va => Sys2Proof.Machine.execPageMigrationDone ctx cls va s
  | .scrubPass port corrected bad => Sys2Proof.Machine.execScrubPass port corrected bad s
  | .softError => Sys2Proof.Machine.execSoftError s
  | .epochNotice ctx e => Sys2Proof.Machine.execEpochNotice ctx e s
  | .imagePageWrite => Sys2Proof.Machine.execImagePageWrite s
  | .imageComplete => Sys2Proof.Machine.execImageComplete s
  | .ckptPeriodTrigger => Sys2Proof.Machine.execCkptPeriodTrigger s
  | .ckptStepTrigger => Sys2Proof.Machine.execCkptStepTrigger s
  | .launchStart vd => Sys2Proof.Machine.execLaunchStart vd s
  | .launchComplete => Sys2Proof.Machine.execLaunchComplete s
  | .quantumDuskProposal set part => Sys2Proof.Machine.execQuantumDuskProposal set part s
  | .duskStop => Sys2Proof.Machine.execDuskStop s
  | .quantumRestore set part => Sys2Proof.Machine.execQuantumRestore set part s
  | .gangStop => Sys2Proof.Machine.execGangStop s
  | .ologHeadRecheck => Sys2Proof.Machine.execOlogHeadRecheck s
  | .replayTurn => Sys2Proof.Machine.execReplayTurn s
  | .replayStall => Sys2Proof.Machine.execReplayStall s
  | .cicadaSweep => Sys2Proof.Machine.execCicadaSweep s
  | .cicadaSweepEnd => Sys2Proof.Machine.execCicadaSweepEnd s
  | .sweepPrewake => Sys2Proof.Machine.execSweepPrewake s
  | .packetLifetimeExpired => Sys2Proof.Machine.execPacketLifetimeExpired s
  | .routerGate => Sys2Proof.Machine.execRouterGate s
  | .fireflyWake => Sys2Proof.Machine.execFireflyWake s
  | .routerOn => Sys2Proof.Machine.execRouterOn s
  | .flitReceive link f => Sys2Proof.Machine.execFlitReceive link f s
  | .nakReceive link seq => Sys2Proof.Machine.execNakReceive link seq s
  | .linkDown => Sys2Proof.Machine.execLinkDown s
  | .linkRetrain link ok farLast => Sys2Proof.Machine.execLinkRetrain link ok farLast s
  | .dropNotice tid dev iv => Sys2Proof.Machine.execDropNotice tid dev iv s
  | .countQuery dev tid iv => Sys2Proof.Machine.execCountQuery dev tid iv s
  | .fenceCountTimeout => Sys2Proof.Machine.execFenceCountTimeout s
  | .vfLoopInterval => Sys2Proof.Machine.execVfLoopInterval s
  | .alarmEntry => Sys2Proof.Machine.execAlarmEntry s
  | .alarmClear => Sys2Proof.Machine.execAlarmClear s
  | .regulatorAlarm on => Sys2Proof.Machine.execRegulatorAlarm on s
  | .eqAdapt => Sys2Proof.Machine.execEqAdapt s
  | .laneMarginFail => Sys2Proof.Machine.execLaneMarginFail s
  | .wake v => Sys2Proof.Machine.execWake v s
  | .tqhead q v => Sys2Proof.Machine.execTqhead q v s
  | .cereg g => Sys2Proof.Machine.execCereg g s
  | .ceport n => Sys2Proof.Machine.execCeport n s
  | .registerWrite fn offset v => Sys2Proof.Machine.execRegisterWrite fn offset v s
  | .migrate => Sys2Proof.Machine.execMigrate s
  | .evict => Sys2Proof.Machine.execEvict s
  | .inval => Sys2Proof.Machine.execInval s
  | .frames => Sys2Proof.Machine.execFrames s
  | .configPset => Sys2Proof.Machine.execConfigPset s
  | .openl => Sys2Proof.Machine.execOpenl s
  | .kill => Sys2Proof.Machine.execKill s
  | .release => Sys2Proof.Machine.execRelease s
  | .grant => Sys2Proof.Machine.execGrant s
  | .areas => Sys2Proof.Machine.execAreas s
  | .dbgkey => Sys2Proof.Machine.execDbgkey s
  | .hostSubmission => Sys2Proof.Machine.execHostSubmission s
  | .getVersion => Sys2Proof.Machine.execGetVersion s
  | .getCapabilities => Sys2Proof.Machine.execGetCapabilities s
  | .negotiateAlgorithms => Sys2Proof.Machine.execNegotiateAlgorithms s
  | .getDigests => Sys2Proof.Machine.execGetDigests s
  | .getCertificate slot => Sys2Proof.Machine.execGetCertificate slot s
  | .challenge slot nonce => Sys2Proof.Machine.execChallenge slot nonce s
  | .getMeasurements index => Sys2Proof.Machine.execGetMeasurements index s
  | .keyExchange nonce => Sys2Proof.Machine.execKeyExchange nonce s
  | .finish leafDigest good => Sys2Proof.Machine.execFinish leafDigest good s
  | .debugWindowRead vd space offset => Sys2Proof.Machine.execDebugWindowRead vd space offset s
  | .reset d => Sys2Proof.Machine.execReset d s
  | .illegalInstruction w => Sys2Proof.Machine.execIllegalInstruction w s
  | .countReply tid op dev total => Sys2Proof.Machine.execCountReply tid op dev total s
  | .memberReply tid op member b => Sys2Proof.Machine.execMemberReply tid op member b s
  | .zeroingEnd => Sys2Proof.Machine.execZeroingEnd s
  | .debugSessionEnd => Sys2Proof.Machine.execDebugSessionEnd s

end Sys2Proof.Machine
end

