-- ==== Sys2Proof/Machine/Step.lean ====
section
/-! DEFINITION. One step of the machine: the instruction that Advance.lean chooses, carried out by exec, or the next cycle. -/

namespace Sys2Proof.Machine

open Sys2Proof

/-- One indivisible step (95_what_each_step_holds.md). -/
def step (s : State) : Host.Outcome State Fault Refusal :=
  match choose s with
  | (some i, s1) => exec i s1
  | (none, s1) => .next s1

/-- The state in which the very next step runs the instruction whose bits are `w`: up to 32 bits a scalar word at the pc of the thread
whose issue cycle it is, else a tile command word at the head of its queue (log entry 13). -/
def State.withFetchWord (s : State) (nbits w : Nat) : State := if nbits ≤ 32 then placeScalar s w else placeTile s w

end Sys2Proof.Machine
end

