-- ==== Sys2Proof/Safety.lean ====
section
/-! DEFINITION. What the statements say of a run, in their own words: the canonical form of memory, which thread acts, and what one step
leaves as it was. -/

namespace Sys2Proof.Safety

open Sys2Proof Sys2Proof.Machine

/-- The machine's canonical form: memory lists its bytes in rising order and none that an unlisted key reads as; threads and contexts are
listed in rising order of their ids. -/
def Canonical (s : State) : Prop :=
  Memory.wf s.mem = true ∧ (s.threads.map (·.1)).Pairwise (· < ·) ∧ (s.ctxs.map (·.1)).Pairwise (· < ·)

/-- A meaning completes when it answers a next state. -/
def Completes (r : Host.Outcome State Fault Refusal) : Prop := ∃ s, r = .next s

/-- Nothing but an issue can happen now: the outside does nothing, no packet or event is due, no waiting thread goes on, no tile command
starts. -/
def OnlyIssue (s : State) : Prop :=
  s.agenda = [] ∧ nextDue s.cycle s.pend = none ∧ (s.threads.find? fun t => goesOn s t.2) = none ∧ startable s s.parts = none

/-- Thread `t` is in focus. -/
def Acts (s : State) (t : Thread) : Prop := s.focus = .thread t.id ∧ getThread s t.id = some t

/-- Thread `t` is in focus and ready, and the guard `g` lets its word execute (R60). -/
def Issues (s : State) (t : Thread) (g : BitVec 5) : Prop := Acts s t ∧ t.wait = .ready ∧ guardHolds t g = true

/-- No count mismatch waits to be reported, and the word after the thread's own lies in its slice (R65, R346). -/
def Ahead (s : State) (t : Thread) : Prop := t.mism = none ∧ inSlice s t.core t.part (t.pc.toNat + 4) = true

/-- The thread at the next word, ready, with nothing of its instruction left over. -/
def stepped (t : Thread) : Thread :=
  { t with pc := BitVec.ofNat 14 (t.pc.toNat + 4), wait := .ready, counted := false, held := [], kept := [], mism := none }

/-- The whole machine is as it was but for one thread, which is now `u`: every byte of memory, every other thread, every packet, every
table and register of the device. -/
def OnlyThread (s s' : State) (u : Thread) : Prop :=
  getThread s' u.id = some u ∧ (∀ k, k ≠ u.id → getThread s' k = getThread s k) ∧ s' = { s with threads := s'.threads }

/-- One register of `t` is written and the thread stands at its next word; zr stays zero, and every other register, the predicates, the
status, sw.FPX and the trap words are as they were (R14, R88). -/
def WroteReg (s s' : State) (t : Thread) (d : BitVec 4) (v : Word) : Prop :=
  ∃ u, OnlyThread s s' u ∧ u.reg d = (if d.toNat < 10 then v else 0) ∧ (∀ c, c ≠ d → u.reg c = t.reg c)
    ∧ u = { stepped t with regs := u.regs }

/-- The same, with flags ORed into sw.FPX (R56). -/
def WroteFp (s s' : State) (t : Thread) (d : BitVec 4) (v : Word) (f : BitVec 5) : Prop :=
  ∃ u, OnlyThread s s' u ∧ u.reg d = (if d.toNat < 10 then v else 0) ∧ (∀ c, c ≠ d → u.reg c = t.reg c)
    ∧ u = { stepped t with regs := u.regs, fpx := t.fpx ||| f }

/-- One predicate is written, p0 stays 1, flags are ORed into sw.FPX, and nothing else changes (R15, R88). -/
def WrotePred (s s' : State) (t : Thread) (p : BitVec 4) (b : Bool) (f : BitVec 5) : Prop :=
  ∃ u, OnlyThread s s' u ∧ (∀ q, u.pred q = if q = 0 then true else if q = p then b else t.pred q)
    ∧ u = { stepped t with preds := u.preds, fpx := t.fpx ||| f }

/-- A thread jumped to `target` with register `d` written (10 for none); nothing else changed. -/
def Jumped (s s' : State) (t : Thread) (target : Nat) (d : BitVec 4) (v : Word) : Prop :=
  ∃ u, OnlyThread s s' u ∧ u.pc.toNat = target ∧ u.wait = .ready ∧ u.reg d = (if d.toNat < 10 then v else 0)
    ∧ (∀ c, c ≠ d → u.reg c = t.reg c) ∧ u.preds = t.preds ∧ u.status = t.status ∧ u.fpx = t.fpx ∧ u.trapc = t.trapc
    ∧ u.trapv = t.trapv ∧ u.trappc = t.trappc ∧ u.uac = t.uac

/-- A fatal fault at the thread's own instruction: nothing of the instruction is done, the thread stops there, and the context's first fault
is kept; no byte of memory changes where its trap queue has no window (R312, R315). -/
def FatalHere (s s' : State) (t : Thread) (code : Nat) : Prop :=
  (∃ u, getThread s' t.id = some u ∧ u.wait = .stopped ∧ u.regs = t.regs ∧ u.preds = t.preds ∧ u.pc = t.pc ∧ u.fpx = t.fpx)
    ∧ (∀ x, getCtx s t.ctx = some x → ∃ x', getCtx s' t.ctx = some x' ∧ (x.fault = none →
        (∃ f, x'.fault = some f ∧ f.code = code ∧ f.tid = t.id ∧ f.pc = t.pc.toNat)
          ∧ ((getTrapQ s (trapQueueOf s t.core t.part)).window = 0 → s'.mem = s.mem)))

/-- What a packet's departure leaves as it is: every byte, the poison, contexts, regions, the time and the device but for what waits for a
link (R344). -/
def Quiet (s s' : State) : Prop :=
  s'.mem = s.mem ∧ s'.poison = s.poison ∧ s'.ctxs = s.ctxs ∧ s'.regions = s.regions
    ∧ { s'.dev with backlog := s.dev.backlog } = s.dev ∧ s'.cycle = s.cycle

/-- A packet or event is put on its way, beside all that were on their way, which it can only delay (R116, R333). -/
def Sends (s s' : State) (i : Instr) : Prop :=
  (∀ p ∈ s.pend, ∃ q ∈ s'.pend, q.what = p.what ∧ q.who = p.who ∧ p.due ≤ q.due) ∧ ∃ p ∈ s'.pend, p.what = i ∧ s.cycle ≤ p.due

/-- Every thread but `t` is as it was. -/
def OtherThreads (s s' : State) (t : Thread) : Prop := ∀ k, k ≠ t.id → getThread s' k = getThread s k

/-- All that a program sees of a thread's own words is as it was, but the pc (R13, R32). -/
def KeepsRegs (t u : Thread) : Prop :=
  u.regs = t.regs ∧ u.preds = t.preds ∧ u.status = t.status ∧ u.fpx = t.fpx ∧ u.trapc = t.trapc ∧ u.trapv = t.trapv ∧ u.trappc = t.trappc

/-- A thread waits for `w`, its pc still at the instruction and its words as they were; no memory, context or region changes. -/
def Waits (s s' : State) (t : Thread) (w : Wait) : Prop :=
  ∃ u, getThread s' t.id = some u ∧ u.wait = w ∧ u.pc = t.pc ∧ KeepsRegs t u ∧ OtherThreads s s' t ∧ Quiet s s'

/-- The bytes of memory outside `n` keys from `k` on read as before. -/
def Outside (s s' : State) (k n : Nat) : Prop := ∀ i, i < k ∨ k + n ≤ i → memByte s'.mem i = memByte s.mem i

/-- A thread's context, which neither logs operations now nor replays them (R325, R329). -/
def Plain (s : State) (t : Thread) : Prop := ∃ x, getCtx s t.ctx = some x ∧ logging x = false ∧ replaying x = false

/-- Nothing holds up FENCE.D of a thread: no store is unacknowledged, none of another device is counted, no mismatch is owed (R130, R345,
R346). -/
def Fenced (t : Thread) : Prop := t.peers = [] ∧ t.uac = 0 ∧ t.owed = none

/-- No gang stop has reached the thread's core (R318). -/
def Alive (s : State) (t : Thread) : Prop := (getPart s t.core t.part).stopCycle = none

/-- The partition of the thread's core discards a packet, which its halt record counts, and no thread changes (R318, R319). -/
def Discards (s s' : State) (t : Thread) : Prop :=
  s'.threads = s.threads ∧ s'.ctxs = s.ctxs
    ∧ getPart s' t.core t.part = { getPart s t.core t.part with discarded := (getPart s t.core t.part).discarded + 1 }

end Sys2Proof.Safety
end

