-- ==== Sys2Proof/Certificates/Slice0/Obligations.lean ====
section
/-! DEFINITION. The statements for the provers, from the numbered rules of the spec, and the tables of values that they use. -/

open Sys2Proof Sys2Proof.Machine Sys2Proof.Safety

/-! ### Scalar arithmetic -/

/-- Value of a two-operand integer instruction of R90 and R91 for operands a and b; `n` of the rule is b mod 64. -/
def Sys2Proof.Safety.aluValue (i : Instr) (a b : Word) : Option Word :=
  let n := b.toNat % 64
  match i with
  | .add _ _ _ _ => some (BitVec.ofNat 64 (a.toNat / 2 ^ 56 * 2 ^ 56 + (a.toNat + b.toNat) % 2 ^ 56))
  | .sub _ _ _ _ => some (BitVec.ofNat 64 (a.toNat / 2 ^ 56 * 2 ^ 56 + (a.toNat + 2 ^ 64 - b.toNat) % 2 ^ 56))
  | .and _ _ _ _ => some (a &&& b)
  | .or _ _ _ _ => some (a ||| b)
  | .xor _ _ _ _ => some (a ^^^ b)
  | .andn _ _ _ _ => some (a &&& ~~~b)
  | .shl _ _ _ _ => some (BitVec.ofNat 64 (a.toNat * 2 ^ n))
  | .shr _ _ _ _ => some (BitVec.ofNat 64 (a.toNat / 2 ^ n))
  | .sra _ _ _ _ => some (BitVec.ofInt 64 (a.toInt / 2 ^ n))
  | .rol _ _ _ _ => some (BitVec.ofNat 64 (a.toNat * 2 ^ n % 2 ^ 64 + a.toNat / 2 ^ (64 - n)))
  | .min _ _ _ _ => some (if a.toInt < b.toInt then a else b)
  | .max _ _ _ _ => some (if b.toInt < a.toInt then a else b)
  | .minn _ _ _ _ => some (if a.toNat < b.toNat then a else b)
  | .maxn _ _ _ _ => some (if b.toNat < a.toNat then a else b)
  | .mul _ _ _ _ => some (BitVec.ofNat 64 (a.toNat * b.toNat))
  | .mulh _ _ _ _ => some (BitVec.ofInt 64 (a.toInt * b.toInt / 2 ^ 64))
  | .mulhn _ _ _ _ => some (BitVec.ofNat 64 (a.toNat * b.toNat / 2 ^ 64))
  | .div _ _ _ _ => some (if b = 0 then BitVec.ofInt 64 (-1) else BitVec.ofInt 64 (a.toInt.tdiv b.toInt))
  | .divn _ _ _ _ => some (if b = 0 then BitVec.ofInt 64 (-1) else BitVec.ofNat 64 (a.toNat / b.toNat))
  | .rem _ _ _ _ => some (if b = 0 then a else BitVec.ofInt 64 (a.toInt.tmod b.toInt))
  | .remn _ _ _ _ => some (if b = 0 then a else BitVec.ofNat 64 (a.toNat % b.toNat))
  | _ => none

/-- Guard, destination and sources of the two-operand integer instructions. -/
def Sys2Proof.Safety.aluFields : Instr → Option (BitVec 5 × BitVec 4 × BitVec 4 × BitVec 4)
  | .add g d a b => some (g, d, a, b)
  | .sub g d a b => some (g, d, a, b)
  | .and g d a b => some (g, d, a, b)
  | .or g d a b => some (g, d, a, b)
  | .xor g d a b => some (g, d, a, b)
  | .andn g d a b => some (g, d, a, b)
  | .shl g d a b => some (g, d, a, b)
  | .shr g d a b => some (g, d, a, b)
  | .sra g d a b => some (g, d, a, b)
  | .rol g d a b => some (g, d, a, b)
  | .min g d a b => some (g, d, a, b)
  | .max g d a b => some (g, d, a, b)
  | .minn g d a b => some (g, d, a, b)
  | .maxn g d a b => some (g, d, a, b)
  | .mul g d a b => some (g, d, a, b)
  | .mulh g d a b => some (g, d, a, b)
  | .mulhn g d a b => some (g, d, a, b)
  | .div g d a b => some (g, d, a, b)
  | .divn g d a b => some (g, d, a, b)
  | .rem g d a b => some (g, d, a, b)
  | .remn g d a b => some (g, d, a, b)
  | _ => none

/-- R26, R90, R91: the two-operand integer instructions complete in their own issue with the value of the table, and change nothing but
their destination register and the pc. -/
def Obligations.AluResults : Prop :=
  ∀ (s : State) (t : Thread) (i : Instr) (g : BitVec 5) (d a b : BitVec 4) (v : Word),
    aluFields i = some (g, d, a, b) → aluValue i (t.reg a) (t.reg b) = some v → Issues s t g → Ahead s t →
      ∃ s', exec i s = .next s' ∧ WroteReg s s' t d v

/-- R90: SEXT, ZEXT, BREV, CLZ, CTZ and POPC, bit by bit. -/
def Sys2Proof.Safety.BitResults : Prop :=
  ∀ (s : State) (t : Thread) (g : BitVec 5) (d a b : BitVec 4), Issues s t g → Ahead s t →
    let x := t.reg a
    let n := (t.reg b).toNat % 64
    (∃ s' v, exec (.sext g d a b) s = .next s' ∧ WroteReg s s' t d v
      ∧ ∀ i, i < 64 → v.getLsbD i = if i ≤ n then x.getLsbD i else x.getLsbD n)
    ∧ (∃ s' v, exec (.zext g d a b) s = .next s' ∧ WroteReg s s' t d v
      ∧ ∀ i, i < 64 → v.getLsbD i = (decide (i ≤ n) && x.getLsbD i))
    ∧ (∃ s' v, exec (.brev g d a) s = .next s' ∧ WroteReg s s' t d v ∧ ∀ i, i < 64 → v.getLsbD i = x.getLsbD (63 - i))
    ∧ (∃ s' k, exec (.clz g d a) s = .next s' ∧ WroteReg s s' t d (BitVec.ofNat 64 k) ∧ k ≤ 64
      ∧ (∀ i, i < k → x.getLsbD (63 - i) = false) ∧ (k < 64 → x.getLsbD (63 - k) = true))
    ∧ (∃ s' k, exec (.ctz g d a) s = .next s' ∧ WroteReg s s' t d (BitVec.ofNat 64 k) ∧ k ≤ 64
      ∧ (∀ i, i < k → x.getLsbD i = false) ∧ (k < 64 → x.getLsbD k = true))
    ∧ (∃ s', exec (.popc g d a) s = .next s'
      ∧ WroteReg s s' t d (BitVec.ofNat 64 ((List.range 64).filter fun i => x.getLsbD i).length))

/-- R93: the immediate forms, with the sign-extended imm12 or the six-bit count. -/
def Sys2Proof.Safety.ImmediateResults : Prop :=
  ∀ (s : State) (t : Thread) (g : BitVec 5) (d a : BitVec 4) (i : BitVec 12) (c : BitVec 6), Issues s t g → Ahead s t →
    let x := t.reg a
    let y : Word := i.signExtend 64
    let gives := fun (j : Instr) (v : Word) => ∃ s', exec j s = .next s' ∧ WroteReg s s' t d v
    gives (.addi g d a i) (BitVec.ofNat 64 (x.toNat / 2 ^ 56 * 2 ^ 56 + (x.toNat + y.toNat) % 2 ^ 56))
    ∧ gives (.andi g d a i) (x &&& y) ∧ gives (.ori g d a i) (x ||| y) ∧ gives (.xori g d a i) (x ^^^ y)
    ∧ gives (.muli g d a i) (BitVec.ofNat 64 (x.toNat * y.toNat))
    ∧ gives (.shli g d a c) (BitVec.ofNat 64 (x.toNat * 2 ^ c.toNat))
    ∧ gives (.shri g d a c) (BitVec.ofNat 64 (x.toNat / 2 ^ c.toNat))
    ∧ gives (.srai g d a c) (BitVec.ofInt 64 (x.toInt / 2 ^ c.toNat))

/-- R94: LI, its word and its value. -/
def Sys2Proof.Safety.LiResult : Prop :=
  ∀ (s : State) (t : Thread) (g : BitVec 5) (d : BitVec 4) (i : BitVec 16),
    encode (.li g d i) = some (g ++ (0x0C : BitVec 7) ++ d ++ i : BitVec 32)
    ∧ (Issues s t g → Ahead s t → ∃ s', exec (.li g d i) s = .next s' ∧ WroteReg s s' t d (i.signExtend 64))

/-- R95: LIS, its word and its value; bits [63:48] of the old d are lost. -/
def Sys2Proof.Safety.LisResult : Prop :=
  ∀ (s : State) (t : Thread) (g : BitVec 5) (d : BitVec 4) (i : BitVec 16),
    encode (.lis g d i) = some (g ++ (0x0D : BitVec 7) ++ d ++ i : BitVec 32)
    ∧ (Issues s t g → Ahead s t →
      ∃ s', exec (.lis g d i) s = .next s'
        ∧ WroteReg s s' t d (BitVec.ofNat 64 ((t.reg d).toNat % 2 ^ 48 * 2 ^ 16 + i.toNat)))

/-- R96, R19: KLD and KLD.X read an entry of the constant window of the thread's partition where it stands, and complete with some value
when its word is poisoned; an index past 255 is a fatal segment-check fault. -/
def Sys2Proof.Safety.ConstantWindow : Prop :=
  ∀ (s : State) (t : Thread) (g : BitVec 5) (d a : BitVec 4) (k : BitVec 8), Issues s t g → Ahead s t →
    let at' := fun n => scratchKey t.core (viewBase s t.core t.part + 8 * n)
    let entry := fun n => BitVec.ofNat 64 (ofLeBytes (memRead s.mem (at' n) 8))
    let e := k.toNat + (t.reg a).toNat
    (poisoned s (at' k.toNat) 8 = false → ∃ s', exec (.kld g d k) s = .next s' ∧ WroteReg s s' t d (entry k.toNat))
    ∧ (e < 256 → poisoned s (at' e) 8 = false → ∃ s', exec (.kldX g d a k) s = .next s' ∧ WroteReg s s' t d (entry e))
    ∧ (poisoned s (at' k.toNat) 8 = true → ∃ s' v, exec (.kld g d k) s = .next s' ∧ WroteReg { s with nonce := s.nonce + 1 } s' t d v)
    ∧ (e < 256 → poisoned s (at' e) 8 = true →
      ∃ s' v, exec (.kldX g d a k) s = .next s' ∧ WroteReg { s with nonce := s.nonce + 1 } s' t d v)
    ∧ (256 ≤ e → ∃ s', exec (.kldX g d a k) s = .next s' ∧ FatalHere s s' t 0x02)

/-- R97, R98, R104: SEL moves all bits, TAG replaces the tag byte, PGET reads the predicate word, whose bit 0 is 1. -/
def Sys2Proof.Safety.SelTagPget : Prop :=
  ∀ (s : State) (t : Thread) (g : BitVec 5) (d a b n : BitVec 4) (k : BitVec 8), Issues s t g → Ahead s t →
    (∃ s', exec (.sel g d a b n) s = .next s' ∧ WroteReg s s' t d (if n = 0 ∨ t.preds.getLsbD n.toNat then t.reg a else t.reg b))
    ∧ (∃ s', exec (.tag g d a k) s = .next s' ∧ WroteReg s s' t d (BitVec.ofNat 64 (k.toNat * 2 ^ 56 + (t.reg a).toNat % 2 ^ 56)))
    ∧ (∃ s', exec (.pget g d) s = .next s' ∧ WroteReg s s' t d (BitVec.ofNat 64 (t.preds.toNat / 2 * 2 + 1)))

/-- R99: SEGA translates inside the segment, and is a fatal segment-check fault outside it. -/
def Sys2Proof.Safety.SegaResult : Prop :=
  ∀ (s : State) (t : Thread) (x : Ctx) (g : BitVec 5) (d a : BitVec 4), Issues s t g → Ahead s t → getCtx s t.ctx = some x →
    let q := segOf x (t.reg a)
    let off := (t.reg a).toNat % 2 ^ 53
    (off < q.limit → ∃ s', exec (.sega g d a) s = .next s' ∧ WroteReg s s' t d (BitVec.ofNat 64 ((q.base + off) % 2 ^ 56)))
    ∧ (q.limit ≤ off → ∃ s', exec (.sega g d a) s = .next s' ∧ FatalHere s s' t 0x02)

/-- R100: what RDS reads for each selector. -/
def Sys2Proof.Safety.RdsResult : Prop :=
  ∀ (s : State) (t : Thread) (g : BitVec 5) (d : BitVec 4) (sel : BitVec 12) (n : Nat), Issues s t g → Ahead s t → t.place = .slot n →
    let gives := fun v => ∃ s', exec (.rds g d sel) s = .next s' ∧ WroteReg s s' t d (BitVec.ofNat 64 v)
    (sel = 0 → gives t.id) ∧ (sel = 1 → gives t.status.toNat) ∧ (sel = 2 → gives (t.core % 128 + t.core / 128 * 2 ^ 16))
    ∧ (sel = 3 → gives n) ∧ (sel = 4 → gives (t.part + 16 * partCount s t.core)) ∧ (sel = 5 → gives t.ctx)
    ∧ (sel = 6 → gives s.dev.id) ∧ (sel = 7 → gives (t.core / 128 / 16 * 8 + t.core % 128 / 16)) ∧ (sel = 8 → gives t.pc.toNat)

/-! ### Predicates and branches -/

/-- The integer conditions of R101. -/
def Sys2Proof.Safety.intTest (c : Nat) (a b : Word) : Option Bool :=
  match c with
  | 0 => some (decide (a = b))
  | 1 => some (decide (a ≠ b))
  | 2 => some (decide (a.toInt < b.toInt))
  | 3 => some (decide (b.toInt ≤ a.toInt))
  | 4 => some (decide (a.toNat < b.toNat))
  | 5 => some (decide (b.toNat ≤ a.toNat))
  | 6 => some (decide (b.toInt < a.toInt))
  | 7 => some (decide (a.toInt ≤ b.toInt))
  | 8 => some (decide (b.toNat < a.toNat))
  | 9 => some (decide (a.toNat ≤ b.toNat))
  | 10 => some (decide (a &&& b ≠ 0))
  | 11 => some (decide (a &&& b = 0))
  | _ => none

/-- R101: CMP under an integer condition, for its three modes. The floating-point conditions have a statement of their own. -/
def Sys2Proof.Safety.CompareResults : Prop :=
  ∀ (s : State) (t : Thread) (g : BitVec 5) (p a b c m : BitVec 4) (r : Bool), Issues s t g → Ahead s t →
    intTest c.toNat (t.reg a) (t.reg b) = some r →
      (m = 0 → ∃ s', exec (.cmp g p a b c m) s = .next s' ∧ WrotePred s s' t p r 0)
      ∧ (m = 1 → ∃ s', exec (.cmp g p a b c m) s = .next s' ∧ WrotePred s s' t p (t.pred p && r) 0)
      ∧ (m = 2 → ∃ s', exec (.cmp g p a b c m) s = .next s' ∧ WrotePred s s' t p (t.pred p || r) 0)

/-- R63, R102: CMPI compares with imm8, zero-extended for the unsigned order conditions and sign-extended for the others. -/
def Sys2Proof.Safety.CompareImmediate : Prop :=
  ∀ (s : State) (t : Thread) (g : BitVec 5) (p a c : BitVec 4) (i : BitVec 8) (r : Bool), Issues s t g → Ahead s t →
    intTest c.toNat (t.reg a) (if c = 4 ∨ c = 5 ∨ c = 8 ∨ c = 9 then i.setWidth 64 else i.signExtend 64) = some r →
      ∃ s', exec (.cmpi g p a c i) s = .next s' ∧ WrotePred s s' t p r 0

/-- R103: the predicate operations. -/
def Sys2Proof.Safety.PredicateLogic : Prop :=
  ∀ (s : State) (t : Thread) (g : BitVec 5) (p q r : BitVec 4), Issues s t g → Ahead s t →
    let gives := fun (i : Instr) (b : Bool) => ∃ s', exec i s = .next s' ∧ WrotePred s s' t p b 0
    gives (.pand g p q r) (t.pred q && t.pred r) ∧ gives (.por g p q r) (t.pred q || t.pred r)
    ∧ gives (.pxor g p q r) (t.pred q ^^ t.pred r) ∧ gives (.pandn g p q r) (t.pred q && !t.pred r)
    ∧ gives (.pnot g p q) (!t.pred q) ∧ gives (.pmov g p q) (t.pred q)

/-- R15, R104: PSET writes the whole predicate word but bit 0, and nothing else but the pc. -/
def Sys2Proof.Safety.PredicateWord : Prop :=
  ∀ (s : State) (t : Thread) (g : BitVec 5) (a : BitVec 4), Issues s t g → Ahead s t →
    ∃ s' u, exec (.pset g a) s = .next s' ∧ OnlyThread s s' u ∧ u = { stepped t with preds := u.preds }
      ∧ ∀ q : BitVec 4, u.pred q = if q = 0 then true else (t.reg a).getLsbD q.toNat

/-- R65, R105, R106: BR, JAL and JR to a target inside the slice; JR reads a before it writes the link. -/
def Sys2Proof.Safety.BranchTargets : Prop :=
  ∀ (s : State) (t : Thread) (g : BitVec 5) (o : BitVec 20) (d a : BitVec 4) (n : Nat), Issues s t g →
    t.part < partCount s t.core → inSlice s t.core t.part n = true →
      let link := BitVec.ofNat 64 (t.pc.toNat + 4)
      ((t.pc.toNat : Int) + 4 * o.toInt = n → (∃ s', exec (.br g o) s = .next s' ∧ Jumped s s' t n 10 0)
        ∧ ∃ s', exec (.jal g o) s = .next s' ∧ Jumped s s' t n 9 link)
      ∧ ((t.reg a).toNat = n → ∃ s', exec (.jr g d a) s = .next s' ∧ Jumped s s' t n d link)

/-- R107: DBNZ decrements as a plain 64-bit word; it branches while the result is not zero, always for zr, and falls through at zero. -/
def Sys2Proof.Safety.CountedBranch : Prop :=
  ∀ (s : State) (t : Thread) (g : BitVec 5) (d : BitVec 4) (o : BitVec 16) (n : Nat), Issues s t g → t.part < partCount s t.core →
    (t.reg d ≠ 1 → (t.pc.toNat : Int) + 4 * o.toInt = n → inSlice s t.core t.part n = true →
      ∃ s', exec (.dbnz g d o) s = .next s' ∧ Jumped s s' t n d (t.reg d - 1))
    ∧ (t.reg d = 1 → Ahead s t → ∃ s', exec (.dbnz g d o) s = .next s' ∧ WroteReg s s' t d 0)

/-- R65, R105 to R107: a branch whose target is outside the slice is a fatal illegal-instruction fault; no link and no counter is
written. -/
def Sys2Proof.Safety.BranchOutside : Prop :=
  ∀ (s : State) (t : Thread) (g : BitVec 5) (o : BitVec 20) (o' : BitVec 16) (d a : BitVec 4), Issues s t g →
    let out := fun (n : Int) => n < 0 ∨ inSlice s t.core t.part n.toNat = false
    (out ((t.pc.toNat : Int) + 4 * o.toInt) → (∃ s', exec (.br g o) s = .next s' ∧ FatalHere s s' t 0x01)
      ∧ ∃ s', exec (.jal g o) s = .next s' ∧ FatalHere s s' t 0x01)
    ∧ (out ((t.reg a).toNat : Int) → ∃ s', exec (.jr g d a) s = .next s' ∧ FatalHere s s' t 0x01)
    ∧ (t.reg d ≠ 1 → out ((t.pc.toNat : Int) + 4 * o'.toInt) → ∃ s', exec (.dbnz g d o') s = .next s' ∧ FatalHere s s' t 0x01)

/-! ### fp32 -/

/-- The low half of a register, which is all that an fp32 instruction reads (R57). -/
def Sys2Proof.Safety.low (w : Word) : BitVec 32 := w.setWidth 32

/-- Magnitude of an fp32 encoding without its sign, in units of 2^−149; 2^277 for infinity (R37). -/
def Sys2Proof.Safety.fpMag (k : Nat) : Nat := if k / 2 ^ 23 = 0 then k else (2 ^ 23 + k % 2 ^ 23) * 2 ^ (k / 2 ^ 23 - 1)

/-- The encoding without its sign. -/
def Sys2Proof.Safety.fpAbs (w : BitVec 32) : Nat := w.toNat % 2 ^ 31

/-- A number: neither infinity nor NaN. -/
def Sys2Proof.Safety.fpFinite (w : BitVec 32) : Prop := fpAbs w < 0x7F800000

def Sys2Proof.Safety.fpNan (w : BitVec 32) : Prop := 0x7F800000 < fpAbs w

/-- A signalling NaN has its top fraction bit clear. -/
def Sys2Proof.Safety.fpSignals (w : BitVec 32) : Prop := fpNan w ∧ w.getLsbD 22 = false

/-- The number of an encoding in units of 2^−149. -/
def Sys2Proof.Safety.fpInt (w : BitVec 32) : Int := if w.msb then -(fpMag (fpAbs w) : Int) else fpMag (fpAbs w)

/-- Encoding `k` is the one nearest to x / u units, the even one of two: IEEE 754's round to nearest, with 0x7F800000 for everything
that rounds to 2^128 or more. -/
def Sys2Proof.Safety.Nearest (k u x : Nat) : Prop :=
  k ≤ 0x7F800000 ∧ ∀ j, j ≤ 0x7F800000 →
    let e := fun (n : Nat) => ((fpMag n * u : Nat) - (x : Nat) : Int).natAbs
    e k < e j ∨ (e k = e j ∧ (j = k ∨ k % 2 = 0))

/-- The register and flags of a rounded magnitude: OF at infinity, NX when inexact, UF as given. -/
def Sys2Proof.Safety.Rounds (v : Word) (f : BitVec 5) (neg : Bool) (u x : Nat) (uf : Bool) : Prop :=
  ∃ k, Nearest k u x ∧ v = BitVec.ofNat 64 (k + if neg then 2 ^ 31 else 0)
    ∧ f.getLsbD 0 = decide (k = 0x7F800000 ∨ fpMag k * u ≠ x) ∧ f.getLsbD 1 = (uf && decide (fpMag k * u ≠ x))
    ∧ f.getLsbD 2 = decide (k = 0x7F800000) ∧ f.getLsbD 3 = false ∧ f.getLsbD 4 = false

/-- R57, R92, R56: on numbers, FADD, FSUB and FMUL round the exact sum, difference and product to nearest even, with OF, UF (tiny after
rounding, R45) and NX ORed into sw.FPX. A zero sum is −0 only of two negative zeros, a product takes the signs' exclusive or. Tininess
after rounding is the model's reading (log 34). -/
def Obligations.FloatRounding : Prop :=
  ∀ (s : State) (t : Thread) (g : BitVec 5) (d a b : BitVec 4), Issues s t g → Ahead s t →
    let x := low (t.reg a)
    let y := low (t.reg b)
    fpFinite x → fpFinite y →
      (∃ s' v f, exec (.fadd g d a b) s = .next s' ∧ WroteFp s s' t d v f
        ∧ Rounds v f (if fpInt x + fpInt y = 0 then x.msb && y.msb else decide (fpInt x + fpInt y < 0)) 1 (fpInt x + fpInt y).natAbs false)
      ∧ (∃ s' v f, exec (.fsub g d a b) s = .next s' ∧ WroteFp s s' t d v f
        ∧ Rounds v f (if fpInt x - fpInt y = 0 then x.msb && !y.msb else decide (fpInt x - fpInt y < 0)) 1 (fpInt x - fpInt y).natAbs false)
      ∧ ∃ s' v f, exec (.fmul g d a b) s = .next s' ∧ WroteFp s s' t d v f
        ∧ Rounds v f (x.msb ^^ y.msb) (2 ^ 149) (fpInt x * fpInt y).natAbs
            (decide ((fpInt x * fpInt y).natAbs < 2 ^ 172 - 2 ^ 147))

/-- R57, R92, R38: FADD, FSUB and FMUL with a NaN give the canonical NaN, with IV when an input signals; inf − inf and 0 × inf give it
with IV; other infinities pass through. -/
def Sys2Proof.Safety.FloatSpecials : Prop :=
  ∀ (s : State) (t : Thread) (g : BitVec 5) (d a b : BitVec 4), Issues s t g → Ahead s t →
    let x := low (t.reg a)
    let y := low (t.reg b)
    let gives := fun (i : Instr) (v : Word) (f : BitVec 5) => ∃ s', exec i s = .next s' ∧ WroteFp s s' t d v f
    let nan : Word := 0x7FC00000
    (∀ f : BitVec 5, fpNan x ∨ fpNan y → (fpSignals x ∨ fpSignals y → f = 16) → (¬(fpSignals x ∨ fpSignals y) → f = 0) →
      gives (.fadd g d a b) nan f ∧ gives (.fsub g d a b) nan f ∧ gives (.fmul g d a b) nan f)
    ∧ (fpAbs x = 0x7F800000 → (y = x ∨ fpFinite y → gives (.fadd g d a b) (x.setWidth 64) 0)
      ∧ (y = x ^^^ 0x80000000 ∨ fpFinite y → gives (.fsub g d a b) (x.setWidth 64) 0)
      ∧ (y = x ^^^ 0x80000000 → gives (.fadd g d a b) nan 16) ∧ (y = x → gives (.fsub g d a b) nan 16))
    ∧ (fpFinite x → fpAbs y = 0x7F800000 → gives (.fadd g d a b) (y.setWidth 64) 0
      ∧ gives (.fsub g d a b) ((y ^^^ 0x80000000).setWidth 64) 0)
    ∧ (fpAbs x = 0x7F800000 ∨ fpAbs y = 0x7F800000 → ¬fpNan x → ¬fpNan y →
      (fpAbs x = 0 ∨ fpAbs y = 0 → gives (.fmul g d a b) nan 16)
      ∧ (fpAbs x ≠ 0 → fpAbs y ≠ 0 →
        gives (.fmul g d a b) (BitVec.ofNat 64 (0x7F800000 + if x.msb ^^ y.msb then 2 ^ 31 else 0)) 0))

/-- The order of the encodings that are not NaN, −0 below +0. -/
def Sys2Proof.Safety.fpKey (w : BitVec 32) : Int := if w.msb then -(fpAbs w : Int) - 1 else fpAbs w

/-- R57, R92: FMIN and FMAX for every operand, NaNs included; no flag but IV is set. -/
def Sys2Proof.Safety.FloatMinMax : Prop :=
  ∀ (s : State) (t : Thread) (g : BitVec 5) (d a b : BitVec 4) (f : BitVec 5), Issues s t g → Ahead s t →
    let x := low (t.reg a)
    let y := low (t.reg b)
    let gives := fun (i : Instr) (v : BitVec 32) => ∃ s', exec i s = .next s' ∧ WroteFp s s' t d (v.setWidth 64) f
    (fpSignals x ∨ fpSignals y → f = 16) → (¬(fpSignals x ∨ fpSignals y) → f = 0) →
      (fpNan x → fpNan y → gives (.fmin g d a b) 0x7FC00000 ∧ gives (.fmax g d a b) 0x7FC00000)
      ∧ (fpNan x → ¬fpNan y → gives (.fmin g d a b) y ∧ gives (.fmax g d a b) y)
      ∧ (¬fpNan x → fpNan y → gives (.fmin g d a b) x ∧ gives (.fmax g d a b) x)
      ∧ (¬fpNan x → ¬fpNan y → gives (.fmin g d a b) (if fpKey x ≤ fpKey y then x else y)
        ∧ gives (.fmax g d a b) (if fpKey x ≤ fpKey y then y else x))

/-- R57, R92: FCVTI rounds the signed integer to nearest even; FCVTF truncates, saturates with IV, and gives 0 with IV for NaN. -/
def Sys2Proof.Safety.FloatConversions : Prop :=
  ∀ (s : State) (t : Thread) (g : BitVec 5) (d a : BitVec 4), Issues s t g → Ahead s t →
    let x := low (t.reg a)
    let m := fpMag (fpAbs x)
    let gives := fun (v : Word) (f : BitVec 5) => ∃ s', exec (.fcvtf g d a) s = .next s' ∧ WroteFp s s' t d v f
    (∃ s' v f, exec (.fcvti g d a) s = .next s' ∧ WroteFp s s' t d v f
      ∧ Rounds v f (decide ((t.reg a).toInt < 0)) 1 ((t.reg a).toInt.natAbs * 2 ^ 149) false)
    ∧ (fpNan x → gives 0 16)
    ∧ (¬fpNan x → x.msb = false → 2 ^ 212 ≤ m → gives 0x7FFFFFFFFFFFFFFF 16)
    ∧ (¬fpNan x → x.msb = true → 2 ^ 212 < m → gives 0x8000000000000000 16)
    ∧ (¬fpNan x → (if x.msb then m ≤ 2 ^ 212 else m < 2 ^ 212) →
      gives (BitVec.ofInt 64 (if x.msb then -(m / 2 ^ 149 : Nat) else (m / 2 ^ 149 : Nat))) (if m % 2 ^ 149 = 0 then 0 else 1))

/-- The value of an encoding that is not NaN, up to scale: both zeros are 0. -/
def Sys2Proof.Safety.fpSign (w : BitVec 32) : Int := if w.msb then -(fpAbs w : Int) else fpAbs w

/-- R58, R101: CMP under FEQ, FLT, FLE and FUN (conditions 12 to 15) in its set mode, with the IV flag in sw.FPX. -/
def Sys2Proof.Safety.FloatCompare : Prop :=
  ∀ (s : State) (t : Thread) (g : BitVec 5) (p a b : BitVec 4) (q i : BitVec 5), Issues s t g → Ahead s t →
    let x := low (t.reg a)
    let y := low (t.reg b)
    let gives := fun (c : BitVec 4) (r : Bool) (f : BitVec 5) => ∃ s', exec (.cmp g p a b c 0) s = .next s' ∧ WrotePred s s' t p r f
    (fpSignals x ∨ fpSignals y → q = 16) → (¬(fpSignals x ∨ fpSignals y) → q = 0) →
    (fpNan x ∨ fpNan y → i = 16) → (¬(fpNan x ∨ fpNan y) → i = 0) →
      (fpNan x ∨ fpNan y → gives 12 false q ∧ gives 13 false i ∧ gives 14 false i ∧ gives 15 true q)
      ∧ (¬(fpNan x ∨ fpNan y) → gives 12 (decide (fpSign x = fpSign y)) q ∧ gives 13 (decide (fpSign x < fpSign y)) i
        ∧ gives 14 (decide (fpSign x ≤ fpSign y)) i ∧ gives 15 false q)

/-! ### The frame of every scalar word -/

/-- R60, R108: a word whose guard does not hold takes its issue, advances the pc by 4 and changes nothing else, whatever it is. -/
def Obligations.GuardFalse : Prop :=
  ∀ (s : State) (t : Thread) (i : Instr) (w : BitVec 32), encode i = some w → Acts s t → t.wait = .ready →
    guardHolds t (w.extractLsb' 27 5) = false → Ahead s t → ∃ s', exec i s = .next s' ∧ OnlyThread s s' (stepped t)

/-- R67, R170: NOP changes nothing but the pc. -/
def Sys2Proof.Safety.NopResult : Prop :=
  ∀ (s : State) (t : Thread) (g : BitVec 5), Issues s t g → Ahead s t → ∃ s', exec (.nop g) s = .next s' ∧ OnlyThread s s' (stepped t)

/-! ### Memory -/

/-- R23 to R25: the checks of an access in their order: the limit of the segment, its rights (with X for a write of class 0x2, but for what
ACCORD OPEN names with right A), then alignment of the device address. -/
def Obligations.SegmentChecks : Prop :=
  ∀ (x : Ctx) (a : Word) (z n : Nat) (q : Rights),
    let g := segOf x a
    let off := a.toNat % 2 ^ 53
    let da := (g.base + off) % 2 ^ 56
    let wants := (q.r = true → g.r = true) ∧ (q.w = true → g.w = true) ∧ (q.m = true → g.m = true) ∧ (q.a = true → g.a = true)
      ∧ (q.w = true → q.a = false → addrClass da = 2 → g.x = true)
    (g.limit < off + z → segCheck x a z n q = .error 0x02) ∧ (¬wants → segCheck x a z n q = .error 0x02)
    ∧ (off + z ≤ g.limit → wants → da % n ≠ 0 → segCheck x a z n q = .error 0x03)
    ∧ (off + z ≤ g.limit → wants → da % n = 0 → segCheck x a z n q = .ok da)

/-- A store or merge has left: it is counted in sw.UAC, its packet is on its way to the home of `da`, and nothing of memory has changed
yet. -/
def Sys2Proof.Safety.Leaves (s s' : State) (t u : Thread) (da z : Nat) (act : Act) : Prop :=
  getThread s' t.id = some u ∧ OtherThreads s s' t ∧ Quiet s s' ∧ KeepsRegs t u ∧ u.uac = t.uac + 1
    ∧ ∃ a, Sends s s' (accessStep a) ∧ a.who = .thread t.id ∧ a.ctx = t.ctx ∧ a.part = t.part ∧ a.core = t.core
        ∧ a.pc = t.pc.toNat ∧ a.da = da ∧ a.z = z ∧ a.act = act

/-- R33, R114, R115, R120, R122, R128, R335: ST, STR (its fence passed), MRG and VBOR issue and retire in their own step, and the write
leaves for the device address that R25 gives; FMRG parks for the old value. -/
def Sys2Proof.Safety.StoreIssue : Prop :=
  ∀ (s : State) (t : Thread) (x : Ctx) (g : BitVec 5) (r a d : BitVec 4) (w : BitVec 2) (v : BitVec 1) (o : BitVec 4) (off : BitVec 9)
    (da : Nat), Issues s t g → Ahead s t → getCtx s t.ctx = some x →
    let z := 2 ^ w.toNat
    let y := 4 * 2 ^ v.toNat
    let free := fun n => ownWindow s t da = false ∧ (addrClass da = 2 → 4 ≤ n) ∧ storeRoom s t da = true
    let retires := fun (i : Instr) (n : Nat) (act : Act) => ∃ s' u, exec i s = .next s' ∧ Leaves s s' t u da n act ∧ u.wait = .ready
      ∧ u.pc = BitVec.ofNat 14 (t.pc.toNat + 4)
    (segCheck x (effAddr (t.reg a) off z) z z rightW = .ok da → free z →
      retires (.st g r a w off) z (.store (leBytes z (t.reg r).toNat)))
    ∧ (segCheck x (effAddr (t.reg a) off y) y y rightW = .ok da → free y → (t.counted = true ∨ Fenced t) →
      retires (.str g r a v off) y (.store (leBytes y (t.reg r).toNat)))
    ∧ (segCheck x (t.reg a) y y rightM = .ok da → free y →
      retires (.mrg g a r v o) y (.merge false o.toNat (v == 1) (t.reg r)))
    ∧ (segCheck x (t.reg a) 32 32 rightM = .ok da → free 32 → retires (.vbor g a r) 32 (.vbor (t.reg r)))
    ∧ (segCheck x (t.reg a) y y rightRM = .ok da → free y → replaying x = false →
      ∃ s' u, exec (.fmrg g d a r v o) s = .next s' ∧ Leaves s s' t u da y (.merge true o.toNat (v == 1) (t.reg r)) ∧ u.pc = t.pc
        ∧ u.wait = .fetch d o.toNat (v == 1) da none)

/-- R19, R25, R114: a store that the segment refuses, one into the constant window of its own partition on its own core, and one
narrower than 4 bytes into an instruction store are fatal at the instruction, with code 0x02, 0x03 or the window's 0x02. -/
def Sys2Proof.Safety.StoreRefused : Prop :=
  ∀ (s : State) (t : Thread) (x : Ctx) (g : BitVec 5) (r a : BitVec 4) (w : BitVec 2) (off : BitVec 9) (e da : Nat),
    Issues s t g → getCtx s t.ctx = some x →
    let z := 2 ^ w.toNat
    let gives := fun c => ∃ s', exec (.st g r a w off) s = .next s' ∧ FatalHere s s' t c
    (segCheck x (effAddr (t.reg a) off z) z z rightW = .error e → gives e)
    ∧ (segCheck x (effAddr (t.reg a) off z) z z rightW = .ok da → ownWindow s t da = true → gives 0x02)
    ∧ (segCheck x (effAddr (t.reg a) off z) z z rightW = .ok da → ownWindow s t da = false → addrClass da = 2 → z < 4 → gives 0x03)

/-- Memory key of a home inside the module's SRAM. -/
def Sys2Proof.Safety.sramKey : Home → Option Nat
  | .scratch c off => some (scratchKey c off)
  | .istore c off => some (istoreKey c off)
  | .commons g off => some (commonsKey g off)
  | _ => none

/-- A home that takes a write at once: no constant window, no copy that holds it back, no merge-exception word. -/
def Sys2Proof.Safety.Open (s : State) (a : Access) : Home → Prop
  | .scratch c off => 0x800 ≤ off - viewBase s c a.part ∧ ∀ x ∈ (getCore s c).shadows, holdsWrite x off a = false
  | .istore _ _ => True
  | .commons _ off => off + a.z ≤ 0x7F0000
  | _ => False

/-- A packet of a thread, on its way to a home of this device that its core names. -/
def Sys2Proof.Safety.FromThread (s : State) (a : Access) (tid : Nat) : Prop :=
  a.who = .thread tid ∧ a.key = none ∧ descheduled s a.ctx = false

/-- R66, R110, R115: a delivered store writes its bytes, low byte first, at its home and nowhere else, and is acknowledged to its
thread. -/
def Sys2Proof.Safety.StoreDelivered : Prop :=
  ∀ (s : State) (a : Access) (bs : List Byte) (h : Home) (k tid : Nat), Canonical s → FromThread s a tid → a.act = .store bs →
    bs.length = a.z → homeOf s a.ctx a.core a.part a.da = h → sramKey h = some k → Open s a h →
      ∃ s', exec (.storeDelivery a) s = .next s' ∧ memRead s'.mem k a.z = bs ∧ Outside s s' k a.z ∧ s'.threads = s.threads
        ∧ Sends s s' (.acknowledgement a .ok)

/-- The integer merges of R123 on words of `w` bits. -/
def Sys2Proof.Safety.mergeValue (o w old b : Nat) : Option Nat :=
  let sx := fun n => (BitVec.ofNat w n).toInt
  match o with
  | 0 => some ((old + b) % 2 ^ w)
  | 1 => some (if sx b < sx old then b else old)
  | 2 => some (if sx old < sx b then b else old)
  | 3 => some (min old b)
  | 4 => some (max old b)
  | 5 => some (old &&& b)
  | 6 => some (old ||| b)
  | 7 => some (old ^^^ b)
  | 10 => some b
  | _ => none

/-- R122, R123: an integer merge at an unpoisoned scratchpad or commons word replaces it by the merged value, and answers: the
acknowledgement, or the old value for the fetch form. -/
def Sys2Proof.Safety.MergeApplied : Prop :=
  ∀ (s : State) (a : Access) (fetch wide : Bool) (o v : Nat) (b : Word) (h : Home) (k tid : Nat), Canonical s → FromThread s a tid →
    a.act = .merge fetch o wide b → a.z = (if wide then 8 else 4) → homeOf s a.ctx a.core a.part a.da = h → sramKey h = some k →
    Open s a h → (∀ c off, h ≠ .istore c off) → poisoned s k a.z = false →
    let old := ofLeBytes (memRead s.mem k a.z)
    mergeValue o (8 * a.z) old (b.toNat % 2 ^ (8 * a.z)) = some v →
      ∃ s', exec (.mergeApply a) s = .next s' ∧ memRead s'.mem k a.z = leBytes a.z v ∧ Outside s s' k a.z ∧ s'.threads = s.threads
        ∧ (fetch = false → Sends s s' (.acknowledgement a .ok))
        ∧ (fetch = true → ∃ q, Sends s s' (.fetchMergeReply a (BitVec.ofNat 64 old) 0 .ok q))

/-- R128: a delivered VBOR sets in its 32-byte block the bits that the bytes of its operand name, and no other. -/
def Sys2Proof.Safety.VborApplied : Prop :=
  ∀ (s : State) (a : Access) (b : Word) (h : Home) (k tid : Nat), Canonical s → FromThread s a tid → a.act = .vbor b → a.z = 32 →
    homeOf s a.ctx a.core a.part a.da = h → sramKey h = some k → Open s a h → (∀ c off, h ≠ .istore c off) →
    poisoned s k 32 = false →
      ∃ s', exec (.mergeApply a) s = .next s' ∧ Outside s s' k 32 ∧ Sends s s' (.acknowledgement a .ok)
        ∧ ∀ i j, i < 32 → j < 8 → ((memByte s'.mem (k + i)).getLsbD j = true ↔
          (memByte s.mem (k + i)).getLsbD j = true ∨ ∃ n, n < 8 ∧ b.toNat / 2 ^ (8 * n) % 256 = 8 * i + j)

/-- What a load of a width code writes (R73): .b .h .w sign-extended (0, 2, 4), .bu .hu .wu zero-extended (1, 3, 5), .d (6) whole. -/
def Sys2Proof.Safety.loadValue (w : Nat) (bs : List Byte) : Word :=
  let v := ofLeBytes bs
  if w = 0 ∨ w = 2 ∨ w = 4 then BitVec.ofInt 64 (BitVec.ofNat (8 * bs.length) v).toInt else BitVec.ofNat 64 v

/-- R29, R110 to R112, R119, R129: LD, LDA and VBTST of an unpoisoned range of the thread's own scratchpad or instruction store complete
in their own issue; the range is the one that R25 gives. -/
def Sys2Proof.Safety.LoadInline : Prop :=
  ∀ (s : State) (t : Thread) (x : Ctx) (g : BitVec 5) (d a b : BitVec 4) (w : BitVec 3) (v : BitVec 1) (off : BitVec 9) (da o k : Nat)
    (h : Home), Issues s t g → Ahead s t → getCtx s t.ctx = some x → homeOf s t.ctx t.core t.part da = h →
    (h = .scratch t.core o ∨ h = .istore t.core o) → sramKey h = some k →
    let z := 2 ^ (w.toNat / 2)
    let y := 4 * 2 ^ v.toNat
    let ok := fun n => (addrClass da = 2 → 4 ≤ n) ∧ poisoned s k n = false
    (w ≠ 7 → segCheck x (effAddr (t.reg a) off z) z z rightR = .ok da → ok z →
      ∃ s', exec (.ld g d a w off) s = .next s' ∧ WroteReg s s' t d (loadValue w.toNat (memRead s.mem k z)))
    ∧ (segCheck x (effAddr (t.reg a) off y) y y rightR = .ok da → ok y →
      ∃ s', exec (.lda g d a v off) s = .next s' ∧ WroteReg s s' t d (loadValue (if v = 0 then 4 else 6) (memRead s.mem k y)))
    ∧ (segCheck x (t.reg a) 32 32 rightR = .ok da → ok 32 →
      ∃ s', exec (.vbtst g d a b) s = .next s' ∧ WroteReg s s' t d (BitVec.ofNat 64 (((List.range 8).filter fun n =>
        let m := (t.reg b).toNat / 2 ^ (8 * n) % 256
        (memByte s.mem (k + m / 8)).getLsbD (m % 8)).length)))

/-- R24, R37, R121: LDE without a scale (blog 0, or the integer formats): the element of the pointer's format at element offset x, in the
thread's own scratchpad. int8 and int4 are sign-extended; fp32, bf16, fp16, e4m3, e5m2, e2m3 and e2m1 numbers widen exactly, and s8
is 2^(byte − 127). A tag without a format, or blog of 8 and more, is an illegal instruction. -/
def Sys2Proof.Safety.LdeInline : Prop :=
  ∀ (s : State) (t : Thread) (x : Ctx) (g : BitVec 5) (d a : BitVec 4) (off : BitVec 9) (da o : Nat), Issues s t g → Ahead s t →
    getCtx s t.ctx = some x → homeOf s t.ctx t.core t.part da = .scratch t.core o →
    let f := (t.reg a).toNat / 2 ^ 60
    let bl := (t.reg a).toNat / 2 ^ 56 % 16
    let z : Nat := if f = 1 then 4 else if f = 2 ∨ f = 3 then 2 else 1
    let base : Int := ((t.reg a).toNat % 2 ^ 53 : Nat)
    let nib := f = 7 ∨ f = 9
    let e : Int := if nib then (2 * base + off.toInt) % 2 ^ 54 else base + off.toInt * z
    let at' : Word := BitVec.ofNat 64 ((t.reg a).toNat / 2 ^ 53 * 2 ^ 53 + ((if nib then e / 2 else e) % 2 ^ 53).toNat)
    let raw := ofLeBytes (memRead s.mem (scratchKey t.core o) z)
    let elem := if nib then raw / 16 ^ (e % 2).toNat % 16 else if f = 6 then raw % 64 else raw
    let ready := segCheck x at' z z rightR = .ok da ∧ poisoned s (scratchKey t.core o) z = false
    (f = 8 → bl < 8 → ready → ∃ s', exec (.lde g d a off) s = .next s' ∧ WroteReg s s' t d (BitVec.ofInt 64 (BitVec.ofNat 8 elem).toInt))
    ∧ (f = 9 → bl < 8 → ready → ∃ s', exec (.lde g d a off) s = .next s' ∧ WroteReg s s' t d (BitVec.ofInt 64 (BitVec.ofNat 4 elem).toInt))
    ∧ (∀ n m q, 1 ≤ f → f ≤ 7 → bl = 0 → ready → elemValue f elem = .fin n m q →
      ∃ s' v, exec (.lde g d a off) s = .next s' ∧ WroteReg s s' t d (v.setWidth 64)
        ∧ fpInt v * 2 ^ (1000 : Nat) = (if n then -(m : Int) else m) * 2 ^ (q + 1149).toNat)
    ∧ (f = 11 → bl < 8 → ready → elem < 255 →
      ∃ s' v, exec (.lde g d a off) s = .next s' ∧ WroteReg s s' t d (v.setWidth 64) ∧ fpInt v = 2 ^ (elem + 22))
    ∧ (f = 0 ∨ 12 ≤ f ∨ 8 ≤ bl → ∃ s', exec (.lde g d a off) s = .next s' ∧ FatalHere s s' t 0x01)

/-- R112, R274: a load whose home is a memory port, a commons or another core's instruction store parks its thread and sends a request;
R18, R29: one whose home is another core's scratchpad carries the thread there, with the load. -/
def Sys2Proof.Safety.LoadElsewhere : Prop :=
  ∀ (s : State) (t : Thread) (x : Ctx) (g : BitVec 5) (d a : BitVec 4) (w : BitVec 3) (off : BitVec 9) (da n : Nat) (h : Home),
    Issues s t g → getCtx s t.ctx = some x → t.place = .slot n → homeOf s t.ctx t.core t.part da = h →
    let z := 2 ^ (w.toNat / 2)
    segCheck x (effAddr (t.reg a) off z) z z rightR = .ok da → (addrClass da = 2 → 4 ≤ z) →
      ((∃ q, (∃ p v, h = .port p q v) ∨ (∃ c, h = .commons c q) ∨ ∃ c, c ≠ t.core ∧ h = .istore c q) →
        ∃ s' r, exec (.ld g d a w off) s = .next s' ∧ Waits s s' t (.load (.ld d w.toNat) da) ∧ Sends s s' (.loadRequest r)
          ∧ r.who = .thread t.id ∧ r.op = t.op + 1 ∧ r.ctx = t.ctx ∧ r.da = da ∧ r.z = z ∧ r.act = .load)
      ∧ (∀ c q, c ≠ t.core → h = .scratch c q → inHandler s t = false → Fenced t →
        ∃ s' u r, exec (.ld g d a w off) s = .next s' ∧ getThread s' t.id = some u ∧ u.place = .flight ∧ KeepsRegs t u ∧ u.pc = t.pc
          ∧ s'.mem = s.mem ∧ Sends s s' (.migrationArrival r) ∧ r.tid = t.id ∧ r.core = c ∧ r.st = travelState t
          ∧ r.load = some (.ld d w.toNat, da, z))

/-- R110, R112, R127: a load request reads its bytes at an SRAM home, or reports poison, and changes no memory and no thread. -/
def Sys2Proof.Safety.LoadServed : Prop :=
  ∀ (s : State) (a : Access) (h : Home) (k tid : Nat), FromThread s a tid → a.act = .load →
    homeOf s a.ctx a.core a.part a.da = h → sramKey h = some k →
      ∃ s', exec (.loadRequest a) s = .next s' ∧ s'.mem = s.mem ∧ s'.threads = s.threads
        ∧ (poisoned s k a.z = false → Sends s s' (.loadReply tid a.op (.data (memRead s.mem k a.z))))
        ∧ (poisoned s k a.z = true → Sends s s' (.loadReply tid a.op .poison))

/-- R19, R30, R111, R112, R127: a reply writes the loaded value, or is fatal with 0x11 for poison and 0x10 without a home; a reply to an
operation that is over changes nothing; R318: a partition that a gang stop has stopped discards it. -/
def Sys2Proof.Safety.LoadReplied : Prop :=
  ∀ (s : State) (t : Thread) (d : BitVec 4) (w da : Nat) (bs : List Byte) (r : LoadRes), s.focus = .idle → getThread s t.id = some t →
    t.place ≠ .engine →
    (Alive s t → t.wait = .load (.ld d w) da → Ahead s t → w < 7 → bs.length = 2 ^ (w / 2) →
      (∃ s', exec (.loadReply t.id t.op (.data bs)) s = .next s' ∧ WroteReg s s' t d (loadValue w bs))
      ∧ (∃ s', exec (.loadReply t.id t.op .poison) s = .next s' ∧ FatalHere s s' t 0x11)
      ∧ ∃ s', exec (.loadReply t.id t.op .noHome) s = .next s' ∧ FatalHere s s' t 0x10)
    ∧ (Alive s t → ∀ op, op ≠ t.op → exec (.loadReply t.id op r) s = .next s)
    ∧ ((getPart s t.core t.part).stopCycle.isSome = true → ∀ op, ∃ s', exec (.loadReply t.id op r) s = .next s' ∧ Discards s s' t)

/-- R33, R115, R122, R125, R130: an acknowledgement takes one from sw.UAC and lets the thread go on as it stood; the reply to an FMRG does
too, and writes the old value, a .w one zero-extended, with its flags ORed into sw.FPX (no order log). -/
def Sys2Proof.Safety.Acknowledged : Prop :=
  ∀ (s : State) (t : Thread) (x : Ctx) (a : Access) (old : Word) (f q o da : Nat) (d : BitVec 4) (wide : Bool),
    getThread s t.id = some t → a.who = .thread t.id → addrClass a.da ≠ 8 →
    ((∀ l, t.wait ≠ .link l) →
      ∃ s' u, exec (.acknowledgement a .ok) s = .next s' ∧ getThread s' t.id = some u ∧ u.uac = t.uac - 1 ∧ KeepsRegs t u ∧ u.pc = t.pc
        ∧ u.wait = t.wait ∧ OtherThreads s s' t ∧ Quiet s s')
    ∧ (Alive s t → t.wait = .fetch d o wide da none → t.op = a.op → Ahead s t → getCtx s t.ctx = some x → logging x = false →
      ∃ s' u, exec (.fetchMergeReply a old f .ok q) s = .next s' ∧ getThread s' t.id = some u ∧ u.uac = t.uac - 1
        ∧ u.regs = writeReg t.regs d (if wide then old else BitVec.ofNat 64 (old.toNat % 2 ^ 32)) ∧ u.preds = t.preds
        ∧ u.fpx = t.fpx ||| BitVec.ofNat 5 f ∧ u.pc = BitVec.ofNat 14 (t.pc.toNat + 4) ∧ u.wait = .ready ∧ OtherThreads s s' t ∧ Quiet s s')

/-- R130: each fence completes when its condition holds and changes nothing but the pc; else it waits at its own pc. -/
def Sys2Proof.Safety.FencesComplete : Prop :=
  ∀ (s : State) (t : Thread) (g : BitVec 5), Issues s t g → Ahead s t → t.peers = [] → t.owed = none → t.counted = false →
    let idle := tileIdle (getPart s t.core t.part)
    let done := fun i => ∃ s', exec i s = .next s' ∧ OnlyThread s s' (stepped t)
    let held := fun i c => ∃ s', exec i s = .next s' ∧ OnlyThread s s' { t with wait := .until c }
    (t.uac = 0 → done (.fenceD g)) ∧ (t.uac ≠ 0 → held (.fenceD g) .uacZero)
    ∧ (idle = true → done (.fenceT g)) ∧ (idle = false → held (.fenceT g) .tileIdle)
    ∧ (t.uac = 0 → idle = true → done (.fenceA g)) ∧ (t.uac ≠ 0 → held (.fenceA g) .uacZero)
    ∧ (t.uac = 0 → idle = false → held (.fenceA g) .allIdle)
    ∧ (t.codeUac = 0 → done (.fenceI g)) ∧ (t.codeUac ≠ 0 → held (.fenceI g) .codeZero)

/-! ### Barriers -/

/-- The status of a barrier: phase [63:32], arrived [31:8], PARKSEEN [4], outcome [3:0] (R132). -/
def Sys2Proof.Safety.barWord (phase arrived seen outcome : Nat) : Word :=
  BitVec.ofNat 64 (phase % 2 ^ 32 * 2 ^ 32 + arrived * 2 ^ 8 + seen * 2 ^ 4 + outcome)

/-- The three barriers with their kinds. -/
def Sys2Proof.Safety.barInstr (kind : Nat) (g : BitVec 5) (d a : BitVec 4) : Instr :=
  match kind with
  | 0 => .barRegion g d a
  | 1 => .barRow g d a
  | _ => .barCol g d a

/-- R132, R133: a BAR whose scope is not held whole ends at once with outcome 2 (SCOPE), one whose deadline is over with outcome 1
(TIMEOUT), each with the counts as they stand; else, its fence passed, it arrives and waits, and the last arrival releases the phase
after 24 cycles (12 for a row or column). -/
def Sys2Proof.Safety.BarrierArrives : Prop :=
  ∀ (s : State) (t : Thread) (x : Ctx) (kind : Nat) (g : BitVec 5) (d a : BitVec 4), kind < 3 → Issues s t g → Ahead s t →
    t.held = [] → t.deadline = 0 → getCtx s t.ctx = some x → logging x = false → replaying x = false → x.det = false →
    let r := regionOf t.core
    let idx := barIndex kind t.core
    let b := getBar s r t.part kind idx
    let mine := ∀ c ∈ barScope kind idx r, holds s t.ctx c t.part = true
    let dl := (t.reg a).toNat
    (¬mine → ∃ s', exec (barInstr kind g d a) s = .next s' ∧ WroteReg s s' t d (barWord b.phase b.arrived.length 0 2))
    ∧ (mine → dl ≠ 0 → dl ≤ s.cycle → ∃ s', exec (barInstr kind g d a) s = .next s'
      ∧ ∃ u, getThread s' t.id = some u ∧ OtherThreads s s' t ∧ s'.mem = s.mem
        ∧ u = { stepped t with regs := writeReg t.regs d (barWord b.phase b.arrived.length (b2n (parkSeen s r t.part kind idx b.arrived)) 1) }
        ∧ (getBar s' r t.part kind idx).phase = b.phase)
    ∧ (mine → dl = 0 ∨ s.cycle < dl → Fenced t → ∃ s' u, exec (barInstr kind g d a) s = .next s' ∧ getThread s' t.id = some u
      ∧ u.wait = .bar kind idx d ∧ u.pc = t.pc ∧ u.deadline = dl ∧ KeepsRegs t u ∧ OtherThreads s s' t ∧ s'.mem = s.mem
      ∧ t.core ∈ (getBar s' r t.part kind idx).arrived ∧ (getBar s' r t.part kind idx).phase = b.phase
      ∧ (b.releasing = false → (∀ c ∈ barScope kind idx r, c = t.core ∨ c ∈ b.arrived) →
        ∃ p ∈ s'.pend, p.what = .barRelease r t.part kind idx ∧ s.cycle + (if kind = 0 then 24 else 12) ≤ p.due))

/-- R132: the release gives every waiter outcome 0 with the full count, and the next phase begins empty. R133: at its deadline a waiter
gets outcome 1, unless the phase is bound to release. -/
def Sys2Proof.Safety.BarrierEnds : Prop :=
  ∀ (s : State) (t : Thread) (r kind idx : Nat) (d : BitVec 4), getThread s t.id = some t → t.wait = .bar kind idx d →
    regionOf t.core = r → (∀ w ∈ barWaiters r t.part kind idx s.threads, getThread s w.1.id = some w.1 ∧ Plain s w.1 ∧ Ahead s w.1) →
    let b := getBar s r t.part kind idx
    let ended := fun (s' : State) (v : Word) => ∃ u, getThread s' t.id = some u ∧ u.regs = writeReg t.regs d v ∧ u.wait = .ready
      ∧ u.pc = BitVec.ofNat 14 (t.pc.toNat + 4) ∧ u.preds = t.preds ∧ s'.mem = s.mem
    (∃ s', exec (.barRelease r t.part kind idx) s = .next s' ∧ ended s' (barWord b.phase (barScope kind idx r).length 0 0)
      ∧ getBar s' r t.part kind idx = { phase := b.phase + 1, arrived := [], releasing := false })
    ∧ (s.focus = .op t.id t.op → t.deadline ≠ 0 → t.deadline < s.cycle → b.releasing = false →
      ∃ s', exec .barTimeout s = .next s' ∧ ended s' (barWord b.phase b.arrived.length (b2n (parkSeen s r t.part kind idx b.arrived)) 1))

/-! ### Migration, ending and yielding -/

/-- R18, R29, R167, R176: MIGR to the thread's own core only fences; to another core it leaves with all its words. On arrival it stands
in the arrival queue at its next word, and a free work slot takes the oldest arrival. -/
def Sys2Proof.Safety.Migration : Prop :=
  ∀ (s : State) (t : Thread) (g : BitVec 5) (a : BitVec 4) (c : Nat),
    (Issues s t g → Ahead s t → Fenced t → coreRef s t.ctx (t.reg a) = .core c 0 → holds s t.ctx c t.part = true →
      (c = t.core → ∃ s', exec (.migr g a) s = .next s' ∧ OnlyThread s s' (stepped t))
      ∧ (c ≠ t.core → inHandler s t = false → ∃ s' u p, exec (.migr g a) s = .next s' ∧ getThread s' t.id = some u ∧ u.place = .flight
        ∧ KeepsRegs t u ∧ u.pc = t.pc ∧ s'.mem = s.mem ∧ OtherThreads s s' t ∧ Sends s s' (.migrationArrival p) ∧ p.tid = t.id
        ∧ p.ctx = t.ctx ∧ p.part = t.part ∧ p.core = c ∧ p.st = travelState t ∧ p.load = none))
    ∧ ∀ p : MigPkt, getThread s p.tid = some t → t.id = p.tid → t.place = .flight → descheduled s p.ctx = false →
      (getPart s p.core p.part).stopCycle = none → (getCtx s p.ctx).isSome = true → holds s p.ctx p.core p.part = true →
      (getPart s p.core p.part).arrivals.length < 8 → p.load = none → p.mism = none →
      inSlice s p.core p.part (p.st.pc.toNat + 4) = true →
        ∃ s' u, exec (.migrationArrival p) s = .next s' ∧ getThread s' t.id = some u ∧ u.place = .arrivalQ ∧ u.core = p.core
          ∧ u.regs = p.st.regs ∧ u.preds = p.st.preds ∧ u.status = p.st.status ∧ u.trapc = p.st.trapc
          ∧ u.pc = BitVec.ofNat 14 (p.st.pc.toNat + 4) ∧ u.wait = .ready ∧ s'.mem = s.mem
          ∧ (getPart s' p.core p.part).arrivals = (getPart s p.core p.part).arrivals ++ [p.tid]

/-- R176, R263: a free work slot takes the oldest thread of the arrival queue (no order log), and its event flag is cleared. -/
def Sys2Proof.Safety.ArrivalTaken : Prop :=
  ∀ (s : State) (t : Thread) (n : Nat) (l : List Nat), s.focus = .part t.core t.part → getThread s t.id = some t → Plain s t →
    t.place = .arrivalQ → t.held = [] → t.ctx = (getPart s t.core t.part).owner → freeSlot s t.core t.part = some n → n < 16 →
    (getPart s t.core t.part).arrivals = t.id :: l → (∀ e ∈ s.threads, e.2.place ≠ .held) →
      ∃ s', exec .arrivalTaken s = .next s' ∧ getThread s' t.id = some { t with place := .slot n } ∧ OtherThreads s s' t
        ∧ s'.mem = s.mem ∧ (getPart s' t.core t.part).arrivals = l ∧ bitAt (getPart s' t.core t.part).flags n = false

/-- R261, R17: HALT, its fence passed, ends the thread, and its slot is offered to what waits. R262: YIELD with nothing waiting only takes
its issue; else the thread goes to the tail of a queue at its next word. R263: WFM takes its slot's flag, or waits for it; in a
handler it is illegal. -/
def Sys2Proof.Safety.EndingAndWaiting : Prop :=
  ∀ (s : State) (t : Thread) (g : BitVec 5) (n : Nat), Canonical s → Issues s t g → Ahead s t → t.place = .slot n → n < 16 →
    (Fenced t → ∃ s', exec (.halt g) s = .next s' ∧ getThread s' t.id = none ∧ OtherThreads s s' t ∧ s'.mem = s.mem
      ∧ Sends s s' (if n = handlerSlot s t.core t.part then .handlerStart else .arrivalTaken))
    ∧ (yields s t = false → ∃ s', exec (.yield g) s = .next s' ∧ OnlyThread s s' (stepped t))
    ∧ (yields s t = true → Fenced t → ∃ s' u, exec (.yield g) s = .next s' ∧ getThread s' t.id = some u
      ∧ (u.place = .arrivalQ ∨ u.place = .runQ) ∧ u.pc = BitVec.ofNat 14 (t.pc.toNat + 4) ∧ KeepsRegs t u ∧ OtherThreads s s' t ∧ s'.mem = s.mem)
    ∧ (inHandler s t = false → eventFlag s t = true → ∃ s', exec (.wfm g) s = .next s' ∧ getThread s' t.id = some (stepped t)
      ∧ eventFlag s' (stepped t) = false ∧ OtherThreads s s' t ∧ Quiet s s')
    ∧ (inHandler s t = false → eventFlag s t = false →
      ∃ s', exec (.wfm g) s = .next s' ∧ OnlyThread s s' { t with wait := .until .flag })
    ∧ (inHandler s t = true → ∃ s', exec (.wfm g) s = .next s' ∧ FatalHere s s' t 0x01)

/-! ### Messages and spawns -/

/-- R77, R167, R170, R174: SEND reads its words from its own view, is counted in sw.UAC, and its message leaves at once when no store into
the target's instruction store is unacknowledged. -/
def Sys2Proof.Safety.SendIssues : Prop :=
  ∀ (s : State) (t : Thread) (g : BitVec 5) (a b n : BitVec 4) (bs : List Byte) (c : Nat), Issues s t g → Ahead s t →
    readOwn s t (t.reg b) (8 * (n.toNat + 1)) 8 = .ok bs → coreRef s t.ctx (t.reg a) = .core c 0 → holds s t.ctx c t.part = true →
    t.uac < 4095 → (getPart s t.core t.part).codeOut = [] → (getPart s t.core t.part).held = [] →
      ∃ s' u m, exec (.send g a b n) s = .next s' ∧ getThread s' t.id = some u ∧ u.uac = t.uac + 1 ∧ u.pc = BitVec.ofNat 14 (t.pc.toNat + 4)
        ∧ KeepsRegs t u ∧ OtherThreads s s' t ∧ Quiet s s' ∧ Sends s s' (.messageArrival m) ∧ m.tid = t.id ∧ m.dst = c
        ∧ m.part = t.part ∧ m.words = toQuads (n.toNat + 1) bs

/-- R170, R171: a message that fits its partition's buffer joins it while the spill queue is empty, and is acknowledged; else it spills;
R173: when that queue is full too it waits in the network, and none of its source and destination overtakes it. R174: a held message leaves
once its stores are acknowledged. -/
def Sys2Proof.Safety.MessageBuffered : Prop :=
  ∀ (s : State) (m : Msg) (h : HeldMsg) (core p : Nat),
    (m.dev = none → holds s m.ctx m.dst m.part = true → descheduled s m.ctx = false → (getPart s m.dst m.part).stopCycle = none →
      let buffer := (getPart s m.dst m.part).msgs
      let spill := tblGet [] (getRegion s (regionOf m.dst)).spill m.part
      ∃ s', exec (.messageArrival m) s = .next s' ∧ s'.mem = s.mem ∧ s'.threads = s.threads
        ∧ (msgWords buffer + m.words.length ≤ 32 → spill = [] →
          (getPart s' m.dst m.part).msgs = buffer ++ [m] ∧ ∃ a, Sends s s' (.acknowledgement a .ok) ∧ a.who = .thread m.tid)
        ∧ (32 < msgWords buffer + m.words.length ∨ spill ≠ [] → msgWords spill + m.words.length ≤ 256 →
          tblGet [] (getRegion s' (regionOf m.dst)).spill m.part = spill ++ [m] ∧ ∃ a, Sends s s' (.acknowledgement a .ok)
            ∧ a.who = .thread m.tid)
        ∧ (256 < msgWords spill + m.words.length → 32 < msgWords buffer + m.words.length ∨ spill ≠ [] →
          (getPart s' m.dst m.part).msgs = buffer ∧ ∃ q ∈ s'.pend, q.what = .messageArrival m ∧ s.cycle < q.due
            ∧ ∀ r ∈ s'.pend, r.key = q.key → q.due ≤ r.due))
    ∧ (s.focus = .part core p → (getPart s core p).held = [h] → (∀ i ∈ h.after, ∀ c ∈ (getPart s core p).codeOut, c.2 ≠ i) →
      ∃ s', exec .codeOrderRelease s = .next s' ∧ (getPart s' core p).held = [] ∧ Sends s s' (msgStep h.m h.spawn) ∧ s'.mem = s.mem
        ∧ s'.threads = s.threads)

/-- What a thread that starts from a message holds (R169): the sender in g0, the word count in g1, words 1 to 8 in g2 to g9, word 0 as pc;
only p0 set; every other word zero. -/
def Sys2Proof.Safety.Started (u : Thread) (sender : Nat) (w : List Word) : Prop :=
  u.reg 0 = BitVec.ofNat 64 sender ∧ u.reg 1 = BitVec.ofNat 64 w.length
    ∧ (∀ i, 1 ≤ i → i ≤ 8 → u.reg (BitVec.ofNat 4 (i + 1)) = w.getD i 0)
    ∧ u.predWord = 1 ∧ u.pc.toNat = (w.getD 0 0).toNat % 2 ^ 14 ∧ u.status = 0 ∧ u.fpx = 0 ∧ u.trapc = 0 ∧ u.trapv = 0 ∧ u.trappc = 0
    ∧ u.uac = 0

/-- R17, R168, R169, R171: a free handler slot takes the oldest message, starts a thread with its words, and writes the words to the slot's
arrival block. -/
def Sys2Proof.Safety.HandlerStarts : Prop :=
  ∀ (s : State) (x : Ctx) (core p id : Nat) (m : Msg) (l : List Msg), Canonical s → s.focus = .part core p →
    slotThread s core (handlerSlot s core p) = none → (getPart s core p).owner = m.ctx → getCtx s m.ctx = some x → logging x = false →
    replaying x = false → (getPart s core p).msgs = m :: l → m.dst = core → m.part = p → newTid s core = some id →
    m.words.length ≤ 16 →
      ∃ s' u, exec .handlerStart s = .next s' ∧ getThread s' id = some u ∧ u.place = .slot (handlerSlot s core p) ∧ u.ctx = m.ctx
        ∧ u.core = core ∧ u.part = p ∧ Started u m.tid m.words ∧ (getPart s' core p).msgs = l
        ∧ memRead s'.mem (scratchKey core (viewBase s core p + 0x800 + 128 * (handlerSlot s core p - firstSlot s core p)))
            (8 * m.words.length) = quadBytes m.words

/-- R175, R191: SPAWN reads its words, fences, and parks for the reply; the request starts a thread in a free slot and answers its id, or
answers bit 63 with reason 2 when the core has no id left, or reason 1 when nothing is free; the reply goes to d, but R318: a stopped
partition discards it. -/
def Sys2Proof.Safety.Spawning : Prop :=
  ∀ (s : State) (t : Thread) (g : BitVec 5) (a b d n : BitVec 4) (bs : List Byte) (c k : Nat) (m : Msg) (target : Word) (v : SpawnRes),
    (Issues s t g → t.held = [] → Fenced t → Plain s t → readOwn s t (t.reg b) (8 * (n.toNat + 1)) 8 = .ok bs →
      coreRef s t.ctx (t.reg a) = .core c 0 → holds s t.ctx c t.part = true → (getPart s t.core t.part).codeOut = [] →
      (getPart s t.core t.part).held = [] →
        ∃ s' m, exec (.spawn g d a b n) s = .next s' ∧ Waits s s' t (.spawn d n.toNat (coreRefWord c))
          ∧ Sends s s' (.spawnRequest m) ∧ m.tid = t.id ∧ m.op = t.op + 1 ∧ m.dst = c ∧ m.words = toQuads (n.toNat + 1) bs)
    ∧ (m.dev = none → m.force = none → holds s m.ctx m.dst m.part = true → descheduled s m.ctx = false →
      (getPart s m.dst m.part).stopCycle = none →
        (∀ id i, newTid s m.dst = some id → freeSlot s m.dst m.part = some i →
          ∃ s' u, exec (.spawnRequest m) s = .next s' ∧ getThread s' id = some u ∧ u.place = .slot i ∧ u.core = m.dst
            ∧ Started u m.tid m.words ∧ ∃ q, Sends s s' (.spawnReply m.tid m.op ⟨BitVec.ofNat 64 id, q⟩))
        ∧ (newTid s m.dst = none → ∃ s', exec (.spawnRequest m) s = .next s' ∧ s'.threads = s.threads
          ∧ ∃ q, Sends s s' (.spawnReply m.tid m.op ⟨BitVec.ofNat 64 (2 ^ 63 + 2 * 2 ^ 56), q⟩))
        ∧ ((newTid s m.dst).isSome = true → freeSlot s m.dst m.part = none → 8 ≤ (getPart s m.dst m.part).arrivals.length →
          ∃ s', exec (.spawnRequest m) s = .next s' ∧ s'.threads = s.threads
            ∧ ∃ q, Sends s s' (.spawnReply m.tid m.op ⟨BitVec.ofNat 64 (2 ^ 63 + 2 ^ 56), q⟩)))
    ∧ (getThread s t.id = some t → t.place ≠ .engine → Alive s t → t.wait = .spawn d k target → Ahead s t → Plain s t →
      ∃ s', exec (.spawnReply t.id t.op v) s = .next s' ∧ WroteReg s s' t d v.word)
    ∧ (getThread s t.id = some t → t.place ≠ .engine → (getPart s t.core t.part).stopCycle.isSome = true →
      ∃ s', exec (.spawnReply t.id t.op v) s = .next s' ∧ Discards s s' t)

/-! ### Channels -/

/-- R177 to R179, R263: CHSEND with room leaves with its word and number; the word goes to quad q mod 16 of the reader's channel and is
acknowledged, and the word of a second writer is refused; CHRECV takes the next word in order and returns a credit, or parks, and faults
for a core that the context does not hold or that wrote none; the credit gives the writer room again. That a channel's word number
outlives its writer entry is the model's reading (log 8). -/
def Obligations.Channels : Prop :=
  ∀ (s : State) (t : Thread) (g : BitVec 5) (a b d : BitVec 4) (c i : Nat) (p : ChPkt),
    (Issues s t g → Ahead s t → coreRef s t.ctx (t.reg a) = .core c i → i < 16 →
      let r := tblGet {} (getPart s t.core t.part).rd i
      let k := scratchKey t.core (viewBase s t.core t.part + 0x1000 + 128 * i + 8 * (r.taken % 16))
      (holds s t.ctx c t.part = true → chRoom (getPart s t.core t.part) c i = true → Fenced t →
        ∃ s' u q, exec (.chsend g a b) s = .next s' ∧ getThread s' t.id = some u ∧ u.uac = 1 ∧ u.pc = BitVec.ofNat 14 (t.pc.toNat + 4)
          ∧ KeepsRegs t u ∧ OtherThreads s s' t ∧ Quiet s s' ∧ Sends s s' (.channelWord q) ∧ q.tid = t.id ∧ q.dst = c ∧ q.idx = i
          ∧ q.w = t.reg b ∧ q.q = (match findWr (getPart s t.core t.part).wr c i with | some e => e.sent | none => 0))
      ∧ (holds s t.ctx c t.part = false → (∃ s', exec (.chsend g a b) s = .next s' ∧ FatalHere s s' t 0x10)
        ∧ ∃ s', exec (.chrecv g d a) s = .next s' ∧ FatalHere s s' t 0x10)
      ∧ (holds s t.ctx c t.part = true → bitAt r.valid (r.taken % 16) = true → r.writer = some c → poisoned s k 8 = false →
        ∃ s' u q, exec (.chrecv g d a) s = .next s' ∧ getThread s' t.id = some u
          ∧ u.regs = writeReg t.regs d (BitVec.ofNat 64 (ofLeBytes (memRead s.mem k 8))) ∧ u.pc = BitVec.ofNat 14 (t.pc.toNat + 4)
          ∧ (tblGet {} (getPart s' t.core t.part).rd i).taken = r.taken + 1
          ∧ bitAt (tblGet {} (getPart s' t.core t.part).rd i).valid (r.taken % 16) = false ∧ Quiet s s'
          ∧ Sends s s' (.channelCredit q) ∧ q.dst = c ∧ q.src = t.core ∧ q.idx = i)
      ∧ (holds s t.ctx c t.part = true → bitAt r.valid (r.taken % 16) = true → r.writer ≠ some c →
        ∃ s', exec (.chrecv g d a) s = .next s' ∧ FatalHere s s' t 0x13)
      ∧ (holds s t.ctx c t.part = true → bitAt r.valid (r.taken % 16) = false → ∃ s', exec (.chrecv g d a) s = .next s'
        ∧ OnlyThread s s' { t with wait := .until (.chWord i) }))
    ∧ (p.dev = none → descheduled s p.ctx = false → (getPart s p.dst p.part).stopCycle = none → p.idx < 16 → Canonical s →
      let r := tblGet {} (getPart s p.dst p.part).rd p.idx
      let k := scratchKey p.dst (viewBase s p.dst p.part + 0x1000 + 128 * p.idx + 8 * (p.q % 16))
      (holds s p.ctx p.dst p.part = true → (r.valid = 0 ∨ r.writer = some p.src) →
        ∃ s', exec (.channelWord p) s = .next s' ∧ memRead s'.mem k 8 = leBytes 8 p.w.toNat ∧ Outside s s' k 8 ∧ s'.threads = s.threads
          ∧ bitAt (tblGet {} (getPart s' p.dst p.part).rd p.idx).valid (p.q % 16) = true
          ∧ (tblGet {} (getPart s' p.dst p.part).rd p.idx).writer = some p.src
          ∧ ∃ a, Sends s s' (.acknowledgement a .ok) ∧ a.who = .thread p.tid)
      ∧ (holds s p.ctx p.dst p.part = true → r.valid ≠ 0 → r.writer ≠ some p.src →
        ∃ s' a, exec (.channelWord p) s = .next s' ∧ s'.mem = s.mem ∧ s'.parts = s.parts ∧ Sends s s' (.acknowledgement a .channel)
          ∧ a.who = .thread p.tid)
      ∧ ∀ e, findWr (getPart s p.dst p.part).wr p.src p.idx = some e →
        ∃ s' e', exec (.channelCredit p) s = .next s' ∧ findWr (getPart s' p.dst p.part).wr p.src p.idx = some e'
          ∧ e'.untaken = e.untaken - 1 ∧ e'.sent = e.sent ∧ s'.mem = s.mem ∧ s'.threads = s.threads)

/-! ### Traps and state words -/

/-- A thread has entered a recoverable trap (R256): cause, value and return pc are saved, the pc is the trap vector `v` in the slice of its
core (R296), TRAPPEND is set, and its registers, predicates and flags are as they were. -/
def Sys2Proof.Safety.Trapped (s s' : State) (t : Thread) (v cause : Nat) (value : Word) (ret : BitVec 14) : Prop :=
  ∃ u, getThread s' t.id = some u ∧ u.trapc.toNat = cause ∧ u.trapv = value ∧ u.trappc = ret
    ∧ u.pc = BitVec.ofNat 14 (sliceBase s t.core t.part + v)
    ∧ u.status.getLsbD 4 = true ∧ (∀ i, i ≠ 4 → u.status.getLsbD i = t.status.getLsbD i) ∧ u.wait = .ready ∧ u.regs = t.regs
    ∧ u.preds = t.preds ∧ u.fpx = t.fpx ∧ OtherThreads s s' t ∧ s'.mem = s.mem ∧ s'.ctxs = s.ctxs

/-- R255 to R257, R259, R260: TRAP enters cause 1 with its code and the next word as return pc; without a trap vector it is fatal 0x07, in a
trap it is the double trap 0x05. -/
def Sys2Proof.Safety.TrapTaken : Prop :=
  ∀ (s : State) (t : Thread) (x : Ctx) (g : BitVec 5) (c : BitVec 12), Issues s t g → getCtx s t.ctx = some x →
    (∀ v, t.trapc = 0 → x.tvec = some v → ∃ s', exec (.trap g c) s = .next s'
      ∧ Trapped s s' t v 1 (c.setWidth 64) (BitVec.ofNat 14 (t.pc.toNat + 4)))
    ∧ (t.trapc = 0 → x.tvec = none → ∃ s', exec (.trap g c) s = .next s' ∧ FatalHere s s' t 0x07)
    ∧ (t.trapc ≠ 0 → ∃ s', exec (.trap g c) s = .next s' ∧ FatalHere s s' t 0x05)

/-- R258: ERET goes to sw.TRAPPC and clears sw.TRAPC, and the other words of the thread keep their values; outside a trap it is fatal 0x06,
to a pc outside the slice 0x01. -/
def Sys2Proof.Safety.EretReturns : Prop :=
  ∀ (s : State) (t : Thread) (g : BitVec 5), Issues s t g →
    (t.trapc ≠ 0 → inSlice s t.core t.part t.trappc.toNat = true → ∃ s', exec (.eret g) s = .next s'
      ∧ OnlyThread s s' { t with trapc := 0, pc := t.trappc, counted := false })
    ∧ (t.trapc = 0 → ∃ s', exec (.eret g) s = .next s' ∧ FatalHere s s' t 0x06)
    ∧ (t.trapc ≠ 0 → inSlice s t.core t.part t.trappc.toNat = false → ∃ s', exec (.eret g) s = .next s' ∧ FatalHere s s' t 0x01)

/-- R61, R64, R65, R68: a word that is no legal instruction is a fatal illegal-instruction fault, code 0x01, and nothing of it is done. -/
def Sys2Proof.Safety.IllegalIsFatal : Prop :=
  ∀ (s : State) (t : Thread) (w : BitVec 32), Acts s t → ∃ s', exec (.illegalInstruction w) s = .next s' ∧ FatalHere s s' t 0x01

/-- R61: a word with G = 0b10000 is illegal whatever its other bits are, so a step that would issue it reports it. -/
def Obligations.GuardReserved : Prop :=
  ∀ w : BitVec 32, w.extractLsb' 27 5 = 16 → (∀ i, decodeScalar w ≠ .ok i) ∧ ∀ det, issuedInstr det w = .illegalInstruction w

/-- R252 to R254: RDSW reads what each selector names; a privileged selector outside a system context is fatal 0x04. -/
def Sys2Proof.Safety.RdswResult : Prop :=
  ∀ (s : State) (t : Thread) (x : Ctx) (g : BitVec 5) (d : BitVec 4) (sel : BitVec 12), Issues s t g → Ahead s t →
    getCtx s t.ctx = some x →
    let n := sel.toNat
    let gives := fun v => ∃ s', exec (.rdsw g d sel) s = .next s' ∧ WroteReg s s' t d (BitVec.ofNat 64 v)
    let sys := x.sys = true
    let q := t.tq.getD (trapQueueOf s t.core t.part)
    (n = 0 → gives s.cycle) ∧ (n = 1 → gives (vtimeOf s x)) ∧ (n = 2 → gives (t.uac % 4096)) ∧ (n = 3 → gives t.fpx.toNat)
    ∧ (n = 4 → gives t.trapc.toNat) ∧ (n = 5 → gives t.trapv.toNat) ∧ (n = 6 → gives t.trappc.toNat)
    ∧ (n = 7 → gives ((tstatWord s t.core t.part).toNat % 2 ^ 32)) ∧ (n = 8 → gives (ologWord s t.ctx x (regionOf t.core)).toNat)
    ∧ (n = 9 → gives (if x.budget = 0 then 2 ^ 64 - 1 else x.budget - x.energy)) ∧ (n = 10 → gives x.prio)
    ∧ (n = 0x100 → sys → gives (q * 2 ^ 16 + (getTrapQ s q).head)) ∧ (n = 0x101 → sys → gives 0)
    ∧ (n = 0x102 → sys → gives (matrixHolder s t.core * 16 + partCount s t.core))
    ∧ (n = 0x103 → sys → gives (getRegion s (regionOf t.core)).clock) ∧ (n = 0x104 → sys → gives t.wakev.toNat)
    ∧ (0x100 ≤ n → ¬sys → ∃ s', exec (.rdsw g d sel) s = .next s' ∧ FatalHere s s' t 0x04)

/-- R252, R253, R316, R317: WRSW writes the low bits that each word has, and nothing else but the pc; sw.TQHEAD sets the head of the queue
that it names, sw.WAKE with no parked access of that name changes nothing more; outside a system context they are fatal 0x04. -/
def Sys2Proof.Safety.WrswResult : Prop :=
  ∀ (s : State) (t : Thread) (x : Ctx) (g : BitVec 5) (a : BitVec 4) (sel : BitVec 12), Issues s t g → Ahead s t →
    getCtx s t.ctx = some x →
    let n := sel.toNat
    let v := t.reg a
    let q := v.toNat / 2 ^ 16 % 256
    let gives := fun (u : Thread) => ∃ s', exec (.wrsw g a sel) s = .next s' ∧ OnlyThread s s' (stepped u)
    let sys := x.sys = true
    (n = 3 → gives { t with fpx := v.setWidth 5 }) ∧ (n = 4 → gives { t with trapc := v.setWidth 8 })
    ∧ (n = 5 → gives { t with trapv := v }) ∧ (n = 6 → gives { t with trappc := v.setWidth 14 })
    ∧ (n = 0x100 → sys → ∃ s', exec (.wrsw g a sel) s = .next s' ∧ getThread s' t.id = some (stepped { t with tq := some q })
      ∧ (getTrapQ s' q).head = v.toNat % 65536 ∧ OtherThreads s s' t ∧ Quiet s s' ∧ Sends s s' (.trapRecordInsert q))
    ∧ (n = 0x101 → sys → tblFind (getTrapQ s (v.toNat / 2 ^ 48 % 256)).recs (v.toNat / 2 ^ 40 % 256) = none → gives t)
    ∧ (n = 0x104 → sys → gives { t with wakev := v })
    ∧ (0x100 ≤ n → ¬sys → ∃ s', exec (.wrsw g a sel) s = .next s' ∧ FatalHere s s' t 0x04)

/-! ### Budget, checkpoints and the order log -/

/-- R255, R259, R305: at the end of its budget a context drops to class 0 and every core of its block has the trap due, after its resumption
when it is off its cores; the next thread that would issue there takes it with the remaining budget as value, at its own pc. Without a trap
vector nothing happens (R260). The meter charges each context its share of what every region measured, by issue and tile-engine cycles, and
asks for itself again. -/
def Sys2Proof.Safety.Budget : Prop :=
  ∀ (s : State) (t : Thread) (x : Ctx) (c : Nat),
    let share := fun r =>
      let l := (getRegion s r).used
      let all := (l.map (·.2)).sum
      if all = 0 then 0 else Config.regionPower s.nonce r * tblGet 0 l c / all
    (s.focus = .ctx c → getCtx s c = some x → ∃ s' y, exec .budgetExhausted s = .next s' ∧ getCtx s' c = some y ∧ y.prio = 0
      ∧ y.exhausted = true ∧ y.budget = x.budget ∧ (x.saved = none → ∀ k ∈ blockCores x, (getPart s' k x.part).budgetTrap = true)
      ∧ (∀ v, x.saved = some v → ∃ w, y.saved = some w ∧ w.parts.map (·.1) = v.parts.map (·.1) ∧ ∀ e ∈ w.parts, e.2.budgetTrap = true)
      ∧ s'.mem = s.mem ∧ s'.threads = s.threads)
    ∧ (Acts s t → getCtx s t.ctx = some x → ∃ s', exec .budgetTrap s = .next s' ∧ (getPart s' t.core t.part).budgetTrap = false
      ∧ (∀ v, x.tvec = some v →
        Trapped s s' t v 5 (BitVec.ofNat 64 (if x.budget = 0 then 2 ^ 64 - 1 else x.budget - x.energy)) t.pc)
      ∧ (x.tvec = none → s'.threads = tblSet s.threads t.id t))
    ∧ (Canonical s → getCtx s c = some x → ∃ s' y, exec .energyMeter s = .next s' ∧ getCtx s' c = some y
      ∧ y.energy = x.energy + ((List.range 64).map fun r => share r).sum ∧ (∀ r, (getRegion s' r).used = [])
      ∧ s'.mem = s.mem ∧ s'.threads = s.threads ∧ Sends s s' .energyMeter)

/-- R265, R266, R292: CKPT with a good table and nothing asked of it completes and is counted; with a request pending outside a trap it
takes trap 4 with the trigger, at its own pc; before a dusk stop it halts at its next word with its table. The triggers set the request:
the step count on its core, the period at its multiples of sw.VTIME on every core. -/
def Sys2Proof.Safety.Checkpoints : Prop :=
  ∀ (s : State) (t : Thread) (x : Ctx) (g : BitVec 5) (a : BitVec 4) (l : List Word) (c core p : Nat),
    (Issues s t g → Ahead s t → getCtx s t.ctx = some x → readTable s t (t.reg a) = .ok l →
      let q := getPart s t.core t.part
      let asked := q.ckptTimer = true ∨ q.ckptStep = true
      (¬asked ∨ t.trapc ≠ 0 → duskAhead s x = false → ∃ s', exec (.ckpt g a) s = .next s' ∧ getThread s' t.id = some (stepped t)
        ∧ (getPart s' t.core t.part).ckptCount = q.ckptCount + 1 ∧ OtherThreads s s' t ∧ Quiet s s'
        ∧ (x.steps ≠ 0 → (q.ckptCount + 1) % x.steps = 0 → Sends s s' .ckptStepTrigger))
      ∧ (∀ v, asked → t.trapc = 0 → x.tvec = some v → logging x = false → replaying x = false → ∃ s', exec (.ckpt g a) s = .next s'
        ∧ Trapped s s' t v 4 (if q.ckptTimer then 1 else 2) t.pc ∧ (getPart s' t.core t.part).ckptTimer = false
        ∧ (getPart s' t.core t.part).ckptStep = false)
      ∧ (¬asked ∨ t.trapc ≠ 0 → duskAhead s x = true → Fenced t → ∃ s', exec (.ckpt g a) s = .next s'
        ∧ OnlyThread s s' { stepped t with wait := .ckpt l }))
    ∧ (∀ e w, Issues s t g → readTable s t (t.reg a) = .error (e, w) → ∃ s', exec (.ckpt g a) s = .next s' ∧ FatalHere s s' t e)
    ∧ (s.focus = .part core p → ∃ s', exec .ckptStepTrigger s = .next s' ∧ (getPart s' core p).ckptStep = true ∧ s'.mem = s.mem
      ∧ s'.threads = s.threads)
    ∧ (s.focus = .ctx c → getCtx s c = some x → x.life = .running → x.vtSince.isSome = true → x.period ≠ 0 → vtimeOf s x ≠ 0 →
      vtimeOf s x % x.period = 0 → ∃ s', exec .ckptPeriodTrigger s = .next s' ∧ s'.mem = s.mem ∧ s'.threads = s.threads
        ∧ (∀ k ∈ blockCores x, (getPart s' k x.part).ckptTimer = true) ∧ ∃ e ∈ s'.pend, e.what = .ckptPeriodTrigger ∧ s.cycle < e.due)

/-- R265: the values of its quads for which a live-range table is good for a view of that size. -/
def Sys2Proof.Safety.LiveRangeTable : Prop :=
  ∀ (view : Nat) (q : Word) (l : List Word),
    tableOk view (q :: l) = true ↔ (q.toNat < 2 ^ 24 ∧ q.toNat / 2 ^ 16 ≤ 31 ∧ q.toNat / 2 ^ 11 % 32 = 0
      ∧ ∀ w ∈ l, w.toNat < 2 ^ 32 ∧ 1 ≤ w.toNat / 2 ^ 16 ∧ w.toNat / 2 ^ 16 ≤ 1024 ∧ w.toNat % 64 = 0
        ∧ w.toNat % 2 ^ 16 + 64 * (w.toNat / 2 ^ 16) ≤ view)

/-- R267, R325, R327, R328: without an order log the four forms only complete. With one, MARK appends its record and completes, or waits for
room; PAUSE appends its record and sets PAUSED, RESUME clears it and appends its record once the cores have acknowledged; each completes
after the acknowledgements. FLUSH completes when no outcome of its context waits for room, else once those that then waited are delivered.
-/
def Sys2Proof.Safety.OrderLogForms : Prop :=
  ∀ (s : State) (t : Thread) (x : Ctx) (g : BitVec 5) (a : BitVec 4), Acts s t → Ahead s t → getCtx s t.ctx = some x →
    let r := regionOf t.core
    let n := tblGet 0 x.log.counts r
    let room := logTail s t.ctx x r + 1 ≤ logHead s t.ctx x r + 2 ^ x.log.lseg
    let done := fun i => ∃ s', exec i s = .next s' ∧ OnlyThread s s' (stepped t)
    let counted := fun (s' : State) => ∃ y, getCtx s' t.ctx = some y ∧ tblGet 0 y.log.counts r = n + 1
    (t.wait = .ready → guardHolds t g = true → t.held = [] →
      (x.log.on = false → done (.ologMark g a) ∧ done (.ologPause g) ∧ done (.ologResume g) ∧ done (.ologFlush g))
      ∧ (logging x = true → room →
        (∃ s', exec (.ologMark g a) s = .next s' ∧ getThread s' t.id = some (stepped t) ∧ OtherThreads s s' t ∧ counted s')
        ∧ ∃ s' y u n, exec (.ologPause g) s = .next s' ∧ getCtx s' t.ctx = some y ∧ y.log.paused = true ∧ counted s'
          ∧ getThread s' t.id = some u ∧ u = { t with held := [1], wait := .until (.cycle n) } ∧ n ≤ s.cycle + 64)
      ∧ (logging x = true → ¬room →
        ∃ s' u q k, exec (.ologMark g a) s = .next s' ∧ getThread s' t.id = some u ∧ u.wait = .ring q k ∧ u.pc = t.pc ∧ s'.mem = s.mem)
      ∧ (x.log.on = true → x.log.rpl = false → x.log.paused = true →
        done (.ologPause g) ∧ ∃ s' y u n, exec (.ologResume g) s = .next s' ∧ getCtx s' t.ctx = some y ∧ y.log.paused = false
          ∧ getThread s' t.id = some u ∧ u = { t with held := [1], wait := .until (.cycle n) } ∧ n ≤ s.cycle + 64)
      ∧ (x.log.on = true → (∀ e ∈ s.threads, e.2.ctx = t.ctx → ringWaits e.2 = false) → done (.ologFlush g))
      ∧ (∀ e ∈ s.threads, x.log.on = true → e.2.ctx = t.ctx → ringWaits e.2 = true → getThread s e.1 = some e.2 → e.1 < 2 ^ 64 →
        ∃ s', exec (.ologFlush g) s = .next s' ∧ OnlyThread s s' { t with held := unwritten t.ctx s.threads, wait := .until .logDone }))
    ∧ (∀ c, t.wait = .until c → x.log.on = true →
      (t.held ≠ [] → done (.ologPause g))
      ∧ (t.held ≠ [] → logging x = true → room →
        ∃ s', exec (.ologResume g) s = .next s' ∧ getThread s' t.id = some (stepped t) ∧ OtherThreads s s' t ∧ counted s')
      ∧ (logDone s t.held = true → done (.ologFlush g)))

/-- R328 to R330: when the heads are read again, an outcome that now fits is delivered with its record; a thread whose turn has come, or
which diverges, looks again; a replay that consumes nothing for 2^24 cycles is fatal 0x17. -/
def Sys2Proof.Safety.OrderLogWaits : Prop :=
  ∀ (s : State) (t : Thread) (x : Ctx) (c type form since : Nat) (obj v : Word) (d : BitVec 4) (q : LogRec), getCtx s c = some x → t.ctx = c →
    getThread s t.id = some t →
    let r := regionOf t.core
    (s.focus = .ctx c → (∀ e ∈ s.threads, ringWaits e.2 = false) → ∃ s', exec .ologHeadRecheck s = .next s' ∧ s'.threads = s.threads)
    ∧ (s.focus = .ctx c → t.wait = .ring q { r1 := d, v1 := v } → Ahead s t → t.place ≠ .held →
      (∀ e ∈ s.threads, e.1 ≠ t.id → ringWaits e.2 = false) → logFits (touchHeads c x (blockRegions x) s) c x r q = true →
      ∃ s' y u, exec .ologHeadRecheck s = .next s' ∧ getThread s' t.id = some u ∧ u.regs = writeReg t.regs d v
        ∧ u.pc = BitVec.ofNat 14 (t.pc.toNat + 4) ∧ u.wait = .ready ∧ OtherThreads s s' t ∧ getCtx s' c = some y
        ∧ tblGet 0 y.log.counts r = tblGet 0 x.log.counts r + logSize q)
    ∧ (s.focus = .op t.id t.op → t.wait = .turn type form obj since →
      (turnOf s c x r t.id type form obj ≠ .later →
        ∃ s', exec .replayTurn s = .next s' ∧ OnlyThread s s' { t with wait := .until .always })
      ∧ (turnOf s c x r t.id type form obj = .later → exec .replayTurn s = .next s)
      ∧ (max since x.log.lastTurn + 2 ^ 24 ≤ s.cycle → ∃ s', exec .replayStall s = .next s' ∧ FatalHere s s' t 0x17)
      ∧ (s.cycle < max since x.log.lastTurn + 2 ^ 24 →
        ∃ s', exec .replayStall s = .next s' ∧ Sends s s' .replayStall ∧ s'.threads = s.threads ∧ s'.mem = s.mem))

/-! ### Agreement at a thread -/

/-- A thread may begin an agreement instruction on an accord whose entry `e` its partition's table holds, live, with every member of its
quorums on this device. -/
def Sys2Proof.Safety.AgreeReady (s : State) (t : Thread) (g : BitVec 5) (acc : Nat) (e : AccTab) : Prop :=
  Issues s t g ∧ t.kept = [] ∧ t.place ≠ .engine ∧ Plain s t ∧ ((getPart s t.core t.part).accTab.find? fun x => x.acc == acc) = some e
    ∧ ∀ n, let q := governing e.qa e.qb n; q.members ≠ [] ∧ ∀ m ∈ q.members, m.1 = s.dev.id

/-- A phase has been sent: the thread waits with the proposal in phase `ph` at ballot `bal`, and every member has its message, with the
flag, value and slot given. -/
def Sys2Proof.Safety.Proposes (s s' : State) (t : Thread) (q : Quorum) (ph : Phase) (mk : AMsg → Instr) (acc slot bal : Nat) (flag : Bool)
    (v : Word) : Prop :=
  (∃ u p, getThread s' t.id = some u ∧ u.wait = .op (.prop p) ∧ p.phase = ph ∧ p.bal = bal ∧ p.grants = [] ∧ u.pc = t.pc ∧ KeepsRegs t u
    ∧ u.op = t.op + 1) ∧ OtherThreads s s' t ∧ Quiet s s'
    ∧ ∀ (i : Nat) (m : Nat × Nat), q.members[i]? = some m → ∃ a, Sends s s' (mk a) ∧ a.region = m.2 ∧ a.member = i ∧ a.acc = acc
      ∧ a.slot = slot ∧ a.bal = bal
        ∧ a.flag = flag ∧ a.v = v ∧ a.orig = t.id ∧ a.tid = t.id ∧ a.op = t.op + 1

/-- R145 to R147, R151, R152, R163, R186: where PROP and PROP.RUN begin. A quorum of one member takes PREPACC; a thread with three defeats
asks the gate for the lease; a hint of its own run sends ACCEPT at once; else PREPARE goes out, at round 1 or one past the round of
a LOST hint; a round of 2^24 is fatal 0x12. Everything but PREPARE comes after the fence. A conversation's accord refuses with
reason 11. -/
def Sys2Proof.Safety.ProposalStarts : Prop :=
  ∀ (s : State) (t : Thread) (g : BitVec 5) (d : BitVec 3) (a b : BitVec 4) (e : AccTab) (run : Bool), d.toNat < 5 →
    let acc := (t.reg a).toNat / 2 ^ 32
    let slot := (t.reg a).toNat % 2 ^ 32
    AgreeReady s t g acc e →
    let i := if run then Instr.propRun g d a b else .prop g d a b
    let q := governing e.qa e.qb slot
    let h := (t.reg (pairHi d)).toNat
    let mine := h % 256 = 0x10 ∧ h / 256 % 2 ^ 32 = t.id / 256
    let round := if h % 16 = 2 then h / 2 ^ 40 + 1 else 1
    let many := e.conv = false ∧ 2 ≤ q.members.length
    (many → t.defeat < 3 → ¬mine → round < 2 ^ 24 →
      ∃ s', exec i s = .next s' ∧ Proposes s s' t q .prep .prepare acc slot (round * 2 ^ 40 + t.id) run (t.reg b))
    ∧ (many → t.defeat < 3 → mine → Fenced t →
      ∃ s', exec i s = .next s' ∧ Proposes s s' t q .acc .accept acc slot (h / 2 ^ 40 * 2 ^ 40 + t.id) true (t.reg b))
    ∧ (e.conv = false → q.members.length = 1 → Fenced t →
      ∃ s', exec i s = .next s' ∧ Proposes s s' t q .pre .prepacc acc slot (2 ^ 40 + t.id) false (t.reg b))
    ∧ (many → 3 ≤ t.defeat → Fenced t → ∃ s' u p m, exec i s = .next s' ∧ getThread s' t.id = some u ∧ u.wait = .op (.prop p)
      ∧ p.phase = .lease ∧ u.pc = t.pc ∧ Sends s s' (.lease m) ∧ m.region = (nth (0, 0) q.members 0).2 ∧ m.acc = acc ∧ m.tid = t.id)
    ∧ (many → t.defeat < 3 → ¬mine → 2 ^ 24 ≤ round → ∃ s', exec i s = .next s' ∧ FatalHere s s' t 0x12)
    ∧ (e.conv = true → Ahead s t → ∃ s' u, exec i s = .next s' ∧ getThread s' t.id = some u ∧ u.pc = BitVec.ofNat 14 (t.pc.toNat + 4)
      ∧ u.reg (pairLo d) = 0 ∧ u.reg (pairHi d) = 0xB5)

/-- A member has been asked: the thread waits for the answer, and the request for accord and slot is on its way. -/
def Sys2Proof.Safety.Asks (s s' : State) (t : Thread) (f : LForm) (acc slot : Nat) : Prop :=
  ∃ u l q, getThread s' t.id = some u ∧ u.wait = .op (.learn l) ∧ l.form = f ∧ u.pc = t.pc ∧ KeepsRegs t u ∧ OtherThreads s s' t
    ∧ Quiet s s' ∧ Sends s s' (reqStep q) ∧ q.form = f ∧ q.acc = acc ∧ q.slot = slot ∧ q.tid = t.id ∧ q.op = u.op

/-- R154, R157, R159, R162, R188, R189: LEARN, LEARN.POLL, LEARNT without a deadline, BALLOT, ACCORD.STAT, ACCORD.NEXT, CVRECV and
CVOP.STATE ask the nearest member and wait. -/
def Sys2Proof.Safety.QuestionsAsked : Prop :=
  ∀ (s : State) (t : Thread) (g : BitVec 5) (d : BitVec 3) (d4 a b : BitVec 4) (e : AccTab),
    let r := (t.reg a).toNat
    let asks := fun (i : Instr) (f : LForm) (acc slot : Nat) => ∃ s', exec i s = .next s' ∧ Asks s s' t f acc slot
    (AgreeReady s t g (r / 2 ^ 32) e →
      asks (.learn g d a) .learn (r / 2 ^ 32) (r % 2 ^ 32) ∧ asks (.learnPoll g d a) .poll (r / 2 ^ 32) (r % 2 ^ 32)
      ∧ (t.reg b = 0 → asks (.learnt g d a b) .learnt (r / 2 ^ 32) (r % 2 ^ 32))
      ∧ asks (.ballot g d4 a) .ballot (r / 2 ^ 32) (r % 2 ^ 32)
      ∧ asks (.cvrecv g d a) (.recv (r / 32 % 8) (r % 256)) (r / 2 ^ 32) (r / 256 % 2 ^ 24)
      ∧ asks (.cvopState g d4 a b) (.cvstate (t.reg b)) (r / 2 ^ 32) 0)
    ∧ (AgreeReady s t g (r % 2 ^ 32) e →
      asks (.accordStat g d4 a b) (.stat (t.reg b)) (r % 2 ^ 32) 0
      ∧ asks (.accordNext g d4 a b) .next (r % 2 ^ 32) ((t.reg b).toNat % 2 ^ 32))

/-- R181, R186 to R189: CVSEND, CVOP.JOIN, CVOP.DLG and CVOP.LEAVE on a conversation ask the nearest member for the next slot, with their
value kept: kind and role with b[55:0], or the role-control value; one that was PENDING when a stop abandoned it, as d says, asks what
became of the slot that d names; on a plain accord they give 0xB5 at once. -/
def Sys2Proof.Safety.ConversationStarts : Prop :=
  ∀ (s : State) (t : Thread) (g : BitVec 5) (d a b k : BitVec 4) (r : BitVec 3) (e : AccTab),
    let n := (t.reg a).toNat
    let x := (t.reg b).toNat
    AgreeReady s t g (n / 2 ^ 32) e →
    let h := (t.reg d).toNat
    let starts := fun (i : Instr) (v : Nat) =>
      (h % 16 ≠ 8 → ∃ s', exec i s = .next s' ∧ Asks s s' t .frontier (n / 2 ^ 32) 0
        ∧ ∃ u p, getThread s' t.id = some u ∧ u.kept = [.prop p] ∧ p.v0 = BitVec.ofNat 64 v ∧ p.outer = .conv)
      ∧ (h % 16 = 8 → ∃ s' u l p q, exec i s = .next s' ∧ getThread s' t.id = some u ∧ u.wait = .op (.learn l) ∧ u.pc = t.pc
        ∧ u.regs = writeReg t.regs d (BitVec.ofNat 64 (h / 256 % 2 ^ 32 * 256 + 8)) ∧ u.kept = [.prop p] ∧ p.v0 = BitVec.ofNat 64 v
        ∧ p.outer = .conv ∧ Sends s s' (reqStep q) ∧ q.form = .look ∧ q.acc = n / 2 ^ 32 ∧ q.slot = h / 256 % 2 ^ 32 ∧ q.tid = t.id)
    let refuses := fun (i : Instr) => ∃ s', exec i s = .next s' ∧ ∃ u, getThread s' t.id = some u ∧ u.pc = BitVec.ofNat 14 (t.pc.toNat + 4)
      ∧ u.regs = writeReg t.regs d 0xB5
    let send := k.toNat * 2 ^ 60 + r.toNat * 2 ^ 57 + x % 2 ^ 56
    let control := fun op w => 15 * 2 ^ 60 + n % 8 * 2 ^ 57 + op * 2 ^ 54 + w
    (e.conv = true → starts (.cvsend g d a b r k) send ∧ starts (.cvopJoin g d a) (control 1 0)
      ∧ starts (.cvopDlg g d a b) (control 0 (x % 2 ^ 40)) ∧ starts (.cvopLeave g d a) (control 2 0))
    ∧ (e.conv = false → Ahead s t → refuses (.cvsend g d a b r k) ∧ refuses (.cvopJoin g d a) ∧ refuses (.cvopDlg g d a b)
      ∧ refuses (.cvopLeave g d a))

/-- R158 to R161: RESHAPE and ACCORD.OPEN begin by reading their descriptor; an invalid one ends RESHAPE with reason 15, OPEN with BADDESC.
The owner's ACCORD.CLOSE goes to the directory, or ends with 2 for a bad flag word, and another's is fatal 0x10; ACCORD.TRUNC goes to the
gate. -/
def Sys2Proof.Safety.AccordForms : Prop :=
  ∀ (s : State) (t : Thread) (x : Ctx) (g : BitVec 5) (d : BitVec 3) (d4 a b : BitVec 4) (e : AccTab) (da : Nat),
    getCtx s t.ctx = some x →
    let n := (t.reg a).toNat % 2 ^ 32
    let reads := fun (i : Instr) (z : Nat) => ∃ s' u r, exec i s = .next s' ∧ getThread s' t.id = some u ∧ u.pc = t.pc ∧ KeepsRegs t u
      ∧ u.wait = .gather (linesOf (z / 64 + 2) da z) [] 1 ∧ Sends s s' (.loadRequest r) ∧ r.da = da ∧ r.act = .load ∧ r.who = .thread t.id
    (Issues s t g → t.kept = [] → t.held = [] → replaying x = false → segCheck x (t.reg b) 128 128 rightR = .ok da →
      reads (.reshape g d a b) 128)
    ∧ (∀ bs, Acts s t → t.wait = .gathered bs 1 → t.kept = [] → replaying x = false → logging x = false → validQuorum bs = false →
      d.toNat < 5 → Ahead s t → ∃ s' u, exec (.reshape g d a b) s = .next s' ∧ getThread s' t.id = some u
        ∧ u.pc = BitVec.ofNat 14 (t.pc.toNat + 4) ∧ u.reg (pairLo d) = 0 ∧ u.reg (pairHi d) = 0xF5)
    ∧ (Issues s t g → segCheck x (t.reg a) 384 128 rightARW = .ok da → reads (.accordOpen g d4 a b) 384)
    ∧ (∀ bs, Acts s t → t.wait = .gathered bs 1 → segCheck x (t.reg a) 384 128 rightARW = .ok da → fieldAt bs 32 8 = 0 →
      openCheck s x bs = false → Ahead s t → ∃ s' u, exec (.accordOpen g d4 a b) s = .next s' ∧ getThread s' t.id = some u
        ∧ u.pc = BitVec.ofNat 14 (t.pc.toNat + 4) ∧ u.regs = writeReg t.regs d4 (BitVec.ofNat 64 (2 * 2 ^ 32)))
    ∧ (AgreeReady s t g n e → e.owner ≠ t.ctx ∨ n / 65536 ≠ s.dev.id →
      ∃ s', exec (.accordClose g d4 a b) s = .next s' ∧ FatalHere s s' t 0x10)
    ∧ (AgreeReady s t g n e → e.owner = t.ctx → n / 65536 = s.dev.id →
      ((t.reg b).toNat < 2 → ∃ s' u o m, exec (.accordClose g d4 a b) s = .next s' ∧ getThread s' t.id = some u ∧ u.wait = .op (.acc o)
        ∧ u.pc = t.pc ∧ Sends s s' (.accordCloseAtMember m) ∧ m.region = n % 64 ∧ m.member = 255 ∧ m.acc = n
        ∧ m.flag = (t.reg b).getLsbD 0)
      ∧ (2 ≤ (t.reg b).toNat → Ahead s t → ∃ s' u, exec (.accordClose g d4 a b) s = .next s' ∧ getThread s' t.id = some u
        ∧ u.pc = BitVec.ofNat 14 (t.pc.toNat + 4) ∧ u.regs = writeReg t.regs d4 (BitVec.ofNat 64 (2 * 2 ^ 32))))
    ∧ (AgreeReady s t g n e → e.qa.members ≠ [] → (∀ m ∈ e.qa.members, m.1 = s.dev.id) →
      ∃ s' u o m, exec (.accordTrunc g d4 a b) s = .next s' ∧ getThread s' t.id = some u ∧ u.wait = .op (.acc o) ∧ u.pc = t.pc
        ∧ Sends s s' (.accordTruncAtMember m) ∧ m.region = (nth (0, 0) e.qa.members 0).2 ∧ m.acc = n ∧ m.slot = (t.reg b).toNat % 2 ^ 32
        ∧ m.flag = true)

/-! ### Acceptors -/

/-- A message of a proposer passes the checks of R141 at its member, which holds entry `e` for the slot, or room for a new one. -/
def Sys2Proof.Safety.Passes (s : State) (m : AMsg) (c : AccCfg) (e : SlotEntry) : Prop :=
  m.dev = s.dev.id ∧ findAcc s m.region m.acc = some c ∧ c.frozen = none ∧ m.gen = c.gen ∧ m.epoch = epochFor c m.slot
    ∧ c.trunc ≤ m.slot ∧ m.slot < c.front + 16 ∧ (c.darr = 0 ∨ m.slot < c.trunc + 2 ^ c.llen)
    ∧ ((slotEntry c m.slot = some e ∧ e.decided = false)
      ∨ (slotEntry c m.slot = none ∧ e = { slot := m.slot } ∧ shareRoom s m.region c.part 1 0 = true))

/-- The entry of a slot at a member after a step. -/
def Sys2Proof.Safety.Holds (s' : State) (m : AMsg) (f : SlotEntry → Prop) : Prop :=
  ∃ c' e', findAcc s' m.region m.acc = some c' ∧ slotEntry c' m.slot = some e' ∧ f e'

/-- R141, R147, R149: PREPARE above the promised ballot is promised with what was accepted, else NACK 2 with the promise; ACCEPT at or above
it is accepted, else NACK 2, and without the run grant that its flag asks for NORUN; PREPACC decides at once, keeping an accepted value; a
member that does not hold the accord in this epoch answers NACK 8, and a decided slot is answered with its decision. -/
def Sys2Proof.Safety.AcceptorAnswers : Prop :=
  ∀ (s : State) (m : AMsg) (c : AccCfg) (e : SlotEntry),
    let rep : ARep := { tid := m.tid, op := m.op, member := m.member, bal := m.bal }
    let gives := fun (i : Instr) (r : Instr) => ∃ s', exec i s = .next s' ∧ Sends s s' r ∧ s'.threads = s.threads ∧ s'.mem = s.mem
    (Passes s m c e →
      (e.p < m.bal → ∃ s' n, exec (.prepare m) s = .next s' ∧ s'.threads = s.threads ∧ s'.mem = s.mem ∧ n ≤ 1
        ∧ Sends s s' (.promise { rep with ab := e.ab, av := e.av, ao := e.ao, num := n, config := e.config })
        ∧ Holds s' m fun x => x.p = m.bal ∧ x.ab = e.ab ∧ x.av = e.av)
      ∧ (m.bal ≤ e.p → gives (.prepare m) (.nack { rep with ab := e.p, num := 2 }))
      ∧ (c.proto = none → m.flag = false ∨ e.p = m.bal →
        (max e.p (runBallot c m.slot) ≤ m.bal → ∃ s', exec (.accept m) s = .next s' ∧ s'.threads = s.threads ∧ s'.mem = s.mem
          ∧ Sends s s' (.accepted rep) ∧ Holds s' m fun x => x.p = m.bal ∧ x.ab = m.bal ∧ x.av = m.v ∧ x.ao = m.orig)
        ∧ (m.bal < max e.p (runBallot c m.slot) →
          gives (.accept m) (.nack { rep with ab := max e.p (runBallot c m.slot), num := 2 })))
      ∧ (c.proto = none → m.flag = true → e.p ≠ m.bal → (∀ r ∈ c.runs, r.bal ≠ m.bal ∨ m.slot < r.lo ∨ r.hi < m.slot) →
        gives (.accept m) (.norun rep))
      ∧ (c.proto = none → e.ab = 0 → ∃ s', exec (.prepacc m) s = .next s' ∧ ∃ r, Sends s s' (.decidednow r) ∧ r.tid = m.tid ∧ r.op = m.op
        ∧ r.av = m.v ∧ r.ao = m.orig ∧ r.ab = m.bal))
    ∧ (m.dev = s.dev.id → findAcc s m.region m.acc = none →
      gives (.prepare m) (.nack { rep with num := 8 }) ∧ gives (.accept m) (.nack { rep with num := 8 })
      ∧ gives (.prepacc m) (.nack { rep with num := 8 }))
    ∧ (m.dev = s.dev.id → findAcc s m.region m.acc = some c → c.frozen = none → m.gen = c.gen → m.epoch = epochFor c m.slot →
      c.trunc ≤ m.slot → slotEntry c m.slot = some e → e.decided = true →
      gives (.prepare m) (.decidedReply { rep with ab := e.ab, av := e.av, ao := e.ao, num := 1, config := e.config }))

/-- R141, R142: a decision reaches a member that does not know the slot decided: from then on it does. One that holds another generation, or
an entry of the slot with its decision, changes nothing. -/
def Sys2Proof.Safety.DecisionRecorded : Prop :=
  ∀ (s : State) (m : AMsg) (c : AccCfg), findAcc s m.region m.acc = some c →
    (m.gen = c.gen → knownDecided c m.slot = false → c.trunc ≤ m.slot → c.waits = [] → c.darr = 0 → isControl s m.acc = false →
      ∃ s' c', exec (.decided m) s = .next s' ∧ findAcc s' m.region m.acc = some c' ∧ knownDecided c' m.slot = true ∧ s'.mem = s.mem)
    ∧ (m.gen ≠ c.gen ∨ (slotEntry c m.slot).any (·.decided) = true → exec (.decided m) s = .next s)

/-- A proposal in progress takes this reply: the thread waits in it, the reply is to a message of its attempt, no gang stop has reached its
core, and no reply of a lower member is due in this cycle (R149). -/
def Sys2Proof.Safety.Awaits (s : State) (t : Thread) (p : PropOp) (r : ARep) : Prop :=
  getThread s t.id = some t ∧ Alive s t ∧ r.tid = t.id ∧ t.wait = .op (.prop p) ∧ p.sop ≠ 0 ∧ p.sop ≤ r.op ∧ r.op ≤ t.op ∧ lowerFirst s r = false

/-- A PROP has returned: its pair holds v and the status word, DEFEAT is `n`, and the thread stands at its next word (R143, R144). -/
def Sys2Proof.Safety.Returns (s s' : State) (t : Thread) (d : Nat) (v : Word) (bal why out n : Nat) : Prop :=
  ∃ u, getThread s' t.id = some u ∧ u.wait = .ready ∧ u.pc = BitVec.ofNat 14 (t.pc.toNat + 4) ∧ u.preds = t.preds ∧ u.defeat = n
    ∧ u.regs = writeReg (writeReg t.regs (BitVec.ofNat 4 d) v) (BitVec.ofNat 4 (d + 1)) (BitVec.ofNat 64 (bal / 256 * 256 + why * 16 + out))
    ∧ OtherThreads s s' t ∧ s'.mem = s.mem

/-- The thread holds its lost attempt for the back-off time before it returns LOST (R150). -/
def Sys2Proof.Safety.Backs (s s' : State) (t : Thread) (why high : Nat) : Prop :=
  ∃ u p, getThread s' t.id = some u ∧ u.wait = .op (.prop p) ∧ p.phase = .hold ∧ p.why = why ∧ p.high = high ∧ KeepsRegs t u ∧ u.pc = t.pc
    ∧ ∃ e ∈ s'.pend, e.what = .backoffEnd ∧ e.who = .op t.id u.op
        ∧ s.cycle + 64 * 2 ^ min (min 15 (t.defeat + 1)) 6 ≤ e.due
        ∧ e.due < s.cycle + 64 * 2 ^ min (min 15 (t.defeat + 1)) 6 + 64

/-- R143, R144, R147, R149, R150: what replies do to a plain PROP (no order log, not senior). A promise or acceptance short of the quorum is
noted; the promise that makes q1 sends ACCEPT with the value of the highest accepted ballot, a later one only tells of its run grant, one of
another ballot is discarded; the acceptance that makes q2 tells the members and returns the decision. DECIDEDNOW, DECIDED and TRUNC
return what they carry; NACK 2, 3 and 4 lose the attempt, NACK 8 returns EPOCH, NACK 11 and 12 REFUSED; NORUN and NACK 5 and 7 of the
phase in progress are noted while the others can still make the quorum. -/
def Sys2Proof.Safety.RepliesTaken : Prop :=
  ∀ (s : State) (t : Thread) (p : PropOp) (r : ARep), Awaits s t p r → p.outer = .plain → p.senior = false → Plain s t → Ahead s t →
    t.kept = [] → p.d < 9 → (∀ m ∈ p.q.members, m.1 = s.dev.id) →
    let noted := fun (i : Instr) (f : PropOp → Prop) => ∃ s' q, exec i s = .next s' ∧ OnlyThread s s' { t with wait := .op (.prop q) } ∧ f q
    let grants := natInsert p.grants r.member
    let mine := r.ao = t.id
    let asked := r.op = p.cur ∧ (p.phase = .prep ∨ p.phase = .acc ∨ p.phase = .pre)
    (p.bal ≠ r.bal → exec (.promise r) s = .next s)
    ∧ (p.phase = .acc → p.bal = r.bal → noted (.promise r) fun q => q.runs = p.runs + r.num ∧ q.grants = p.grants)
    ∧ (p.phase = .prep → p.bal = r.bal → grants.length < p.q.q1 → noted (.promise r) fun q => q.grants = grants
      ∧ q.best = max p.best r.ab ∧ q.v = if p.best < r.ab then r.av else p.v)
    ∧ (p.phase = .prep → p.bal = r.bal → p.q.q1 ≤ grants.length → Fenced t → ∃ s', exec (.promise r) s = .next s'
      ∧ (∃ u q, getThread s' t.id = some u ∧ u.wait = .op (.prop q) ∧ q.phase = .acc ∧ q.bal = p.bal)
      ∧ ∀ (i : Nat) (m : Nat × Nat), p.q.members[i]? = some m → ∃ a, Sends s s' (.accept a) ∧ a.region = m.2 ∧ a.member = i
        ∧ a.bal = p.bal ∧ a.slot = p.slot
          ∧ a.v = if p.best < r.ab then r.av else p.v)
    ∧ (p.phase = .acc → r.op = p.cur → grants.length < p.q.q2 → noted (.accepted r) fun q => q.grants = grants ∧ q.v = p.v)
    ∧ (p.phase = .acc → r.op = p.cur → p.q.q2 ≤ grants.length →
      ∃ s', exec (.accepted r) s = .next s'
        ∧ (if p.orig = t.id then Returns s s' t p.d p.v p.bal (if p.best ≠ 0 then 10
            else if p.viaRun = true ∨ p.run = true ∧ p.q.q1 ≤ p.runs then 1 else 0) 0 0
          else Returns s s' t p.d p.v p.bal (if p.config then 15 else 10) 1 0)
        ∧ ∀ (i : Nat) (m : Nat × Nat), p.q.members[i]? = some m → ∃ a, Sends s s' (.decided a) ∧ a.region = m.2 ∧ a.slot = p.slot
          ∧ a.v = p.v ∧ a.bal = p.bal)
    ∧ (mine → ∃ s', exec (.decidednow r) s = .next s' ∧ Returns s s' t p.d r.av r.ab 0 0 0)
    ∧ (¬mine → ∃ s', exec (.decidednow r) s = .next s' ∧ Returns s s' t p.d r.av r.ab (if r.config then 15 else 10) 1 0)
    ∧ (∃ s', exec (.decidedReply r) s = .next s'
      ∧ Returns s s' t p.d r.av r.ab (if r.config = true ∧ ¬mine then 15 else 9) (if mine then 0 else 1) 0)
    ∧ (r.num = 1 → ∃ s', exec (.truncReply r) s = .next s' ∧ Returns s s' t p.d r.av r.ab 9 4 t.defeat)
    ∧ (r.num ≠ 1 → ∃ s', exec (.truncReply r) s = .next s' ∧ Returns s s' t p.d 0 0 0 4 t.defeat)
    ∧ (r.num = 2 ∨ r.num = 3 ∨ r.num = 4 → ∃ s', exec (.nack r) s = .next s' ∧ Backs s s' t r.num (max p.high r.ab))
    ∧ (r.num = 8 → ∃ s', exec (.nack r) s = .next s' ∧ Returns s s' t p.d 0 0 8 6 t.defeat)
    ∧ (r.num = 11 ∨ r.num = 12 → ∃ s', exec (.nack r) s = .next s' ∧ Returns s s' t p.d 0 0 r.num 5 t.defeat)
    ∧ (asked → r.num = 5 ∨ r.num = 7 → phaseNeed p ≤ p.q.members.length - (natInsert p.refusals r.member).length →
      noted (.nack r) fun q => q.refusals = natInsert p.refusals r.member ∧ q.lastOther = r.num)
    ∧ (asked → phaseNeed p ≤ p.q.members.length - (natInsert p.refusals r.member).length →
      noted (.norun r) fun q => q.refusals = natInsert p.refusals r.member)

/-- R149 to R151, R155, R156, R160: the time-outs. A phase without its quorum returns NOQUORUM with reason 6; after the hold LOST returns,
one defeat more; LEARNT past its deadline returns TIMEOUT; a silent member is given up, at the last one with NOQUORUM; an OPEN without
answers is taken back, and will return UNREACH. -/
def Sys2Proof.Safety.AgreementTimeouts : Prop :=
  ∀ (s : State) (t : Thread) (p : PropOp) (l : LearnOp) (a : AccOp), getThread s t.id = some t → Plain s t → Ahead s t →
    (t.wait = .op (.prop p) → p.outer = .plain → p.senior = false → p.d < 9 →
      (p.phase = .prep ∨ p.phase = .acc ∨ p.phase = .pre →
        ∃ s', exec (.phaseTimeout t.id t.op p.bal) s = .next s' ∧ Returns s s' t p.d 0 0 6 3 t.defeat)
      ∧ (∀ op, op ≠ t.op → exec (.phaseTimeout t.id op p.bal) s = .next s)
      ∧ (p.phase = .hold → s.focus = .op t.id t.op → ∃ s', exec .backoffEnd s = .next s'
        ∧ Returns s s' t p.d 0 p.high p.why 2 (min 15 (t.defeat + 1))))
    ∧ (t.wait = .op (.learn l) → l.d < 9 →
      (l.form = .learnt → t.kept = [] → s.focus = .thread t.id → t.deadline ≠ 0 → t.deadline < s.cycle → ∃ s', exec .learntDeadline s = .next s'
        ∧ Returns s s' t l.d 0 0 0 7 t.defeat)
      ∧ (l.form = .learn → t.kept = [] → s.focus = .op t.id t.op → l.heard + 524288 ≤ s.cycle →
        l.n ≤ l.tried + 1 → ∃ s', exec .learnerFailover s = .next s' ∧ Returns s s' t l.d 0 0 6 3 t.defeat))
    ∧ (t.wait = .op (.acc a) → s.focus = .op t.id t.op → a.undo = false → ∃ s' u o m, exec .openTimeout s = .next s'
      ∧ getThread s' t.id = some u ∧ u.wait = .op (.acc o) ∧ o.undo = true ∧ o.code = 4 ∧ u.pc = t.pc ∧ KeepsRegs t u
      ∧ Sends s s' (.accordCloseAtMember m) ∧ m.member = 255 ∧ m.v = 1 ∧ m.region = a.acc % 64 ∧ m.gen = a.gen)

/-- R151: the gate grants a free lease, tells every member of quorum A to freeze, and ends the lease at its expiry; a member freezes and
reports its entry; the holder gathers the reports, and with all of them, or when they have been waited for, prepares above every reported
round; a release, or the expiry, ends lease and freeze. That a lease request is checked for its epoch is the model's reading (log 25). -/
def Obligations.Leases : Prop :=
  ∀ (s : State) (m : AMsg) (c : AccCfg) (t : Thread) (p : PropOp) (r : ARep) (ex : Nat),
    (findAcc s m.region m.acc = some c → m.dev = s.dev.id → m.gen = c.gen →
      (m.epoch = epochFor c m.slot → c.lease = none → (∀ x ∈ (governing c.qa c.qb m.slot).members, x.1 = s.dev.id) →
        ∃ s' c', exec (.lease m) s = .next s' ∧ Sends s s' (.leaseGrant m) ∧ findAcc s' m.region m.acc = some c'
          ∧ c'.lease = some (m, s.cycle + 4096 * max 1 c.wsen)
          ∧ (∀ (i : Nat) (x : Nat × Nat), (governing c.qa c.qb m.slot).members[i]? = some x →
            Sends s s' (.freeze { m with member := i, region := x.2 } (s.cycle + 4096 * max 1 c.wsen)))
          ∧ Sends s s' (.leaseExpiry m.region m.acc m.tid m.op))
      ∧ (s.cycle ≤ ex → ∃ s' c' q, exec (.freeze m ex) s = .next s' ∧ findAcc s' m.region m.acc = some c' ∧ c'.frozen = some (m.tid, ex)
        ∧ Sends s s' (.freezeReport q) ∧ q.tid = m.tid ∧ q.num = ((slotEntry c m.slot).getD { slot := m.slot }).p)
      ∧ (∃ s' c', exec (.leaseRelease m) s = .next s' ∧ findAcc s' m.region m.acc = some c' ∧ (∀ f, c'.frozen = some f → f.1 ≠ m.tid))
      ∧ (∃ s' c', exec (.leaseExpiry m.region m.acc m.tid m.op) s = .next s' ∧ findAcc s' m.region m.acc = some c'
        ∧ ∀ f, c'.frozen = some f → f.1 = m.tid → s.cycle < f.2))
    ∧ (getThread s t.id = some t → Alive s t → m.tid = t.id → t.wait = .op (.prop p) → t.op = m.op → p.phase = .lease →
      p.reports.length < p.q.members.length → ∃ s' q, exec (.leaseGrant m) s = .next s'
        ∧ getThread s' t.id = some { t with wait := .op (.prop q) } ∧ q.phase = .reports ∧ q.leased = true
        ∧ Sends s s' .seniorReportTimeout)
    ∧ (Awaits s t p r → p.phase = .lease → ∃ s' q, exec (.freezeReport r) s = .next s'
      ∧ OnlyThread s s' { t with wait := .op (.prop q) } ∧ q.reports = natInsert p.reports r.member
      ∧ q.topRound = max p.topRound (r.num / 2 ^ 40))
    ∧ (getThread s t.id = some t → t.wait = .op (.prop p) → p.phase = .reports → s.focus = .op t.id t.op →
      (∀ x ∈ p.q.members, x.1 = s.dev.id) → p.topRound + 1 < 2 ^ 24 → p.hint = 0 → p.fall = false →
      ∃ s' u q, exec .seniorReportTimeout s = .next s' ∧ getThread s' t.id = some u ∧ u.wait = .op (.prop q) ∧ q.phase = .prep
        ∧ q.bal = (p.topRound + 1) * 2 ^ 40 + t.id
        ∧ ∀ (i : Nat) (x : Nat × Nat), p.q.members[i]? = some x → ∃ n, Sends s s' (.prepare n) ∧ n.member = i ∧ n.region = x.2 ∧ n.bal = q.bal)

/-- R142, R154, R156, R157, R162, R189: what a member answers to questions. A decided entry is told; an undecided slot is told NOTYET to a
poll and kept for a learner, which is acknowledged and reminded while its record waits; the queries tell frontier, truncation point,
epoch, the ballot of an undecided entry, and role owners; a question with another generation is stale. -/
def Sys2Proof.Safety.MemberAnswers : Prop :=
  ∀ (s : State) (q : LReq) (c : AccCfg) (e : SlotEntry), findAcc s q.region q.acc = some c → q.dev = s.dev.id →
    let tells := fun (i : Instr) (b : MBody) => ∃ s', exec i s = .next s' ∧ Sends s s' (.memberReply q.tid q.op q.member b)
      ∧ s'.mem = s.mem ∧ s'.threads = s.threads
    let plain := fun v => MBody.answer (BitVec.ofNat 64 v) 0 false q.slot 0 0
    let asks := q.form = .learn ∨ q.form = .poll ∨ q.form = .learnt
    (q.gen ≠ c.gen → q.form ≠ .cancel → q.form ≠ .directory → tells (.learnRequest q) .stale ∧ tells (.memberQuery q) .stale)
    ∧ (asks → sameEpoch c q = true → c.trunc ≤ q.slot → (c.entries ++ c.late).find? (fun e => e.slot == q.slot && e.decided) = some e →
      tells (.learnRequest q) (.answer e.av (BitVec.ofNat 64 (e.ab / 256 * 256 + (if e.config then 15 else 0) * 16
        + if e.ao = q.tid then 0 else 1)) true q.slot e.ao e.ab))
    ∧ (sameEpoch c q = true → c.trunc ≤ q.slot → (c.entries ++ c.late).find? (fun e => e.slot == q.slot && e.decided) = none →
      knownDecided c q.slot = false →
        (q.form = .poll → ∃ v, tells (.learnRequest q) (.answer 0 v false q.slot 0 0) ∧ v.toNat % 256 = 8)
        ∧ (q.form = .learn ∨ q.form = .learnt → shareRoom s q.region c.part 0 1 = true → (∀ p ∈ s.pend, p.what ≠ .keepalive q) →
          tells (.learnRequest q) .ack
          ∧ ∃ s' c', exec (.learnRequest q) s = .next s' ∧ findAcc s' q.region q.acc = some c' ∧ c'.waits = c.waits ++ [q]
            ∧ Sends s s' (.keepalive q)))
    ∧ (sameEpoch c q = true →
      (q.form = .stat 0 → tells (.memberQuery q) (plain c.front)) ∧ (q.form = .stat 1 → tells (.memberQuery q) (plain c.trunc))
      ∧ (q.form = .stat 2 → tells (.memberQuery q) (plain c.epoch)) ∧ (q.form = .frontier → tells (.memberQuery q) (plain c.front))
      ∧ (∀ n : Word, n.toNat < 8 → q.form = .cvstate n → tells (.memberQuery q) (plain (tblGet 0 c.roles n.toNat)))
      ∧ (q.form = .ballot → c.trunc ≤ q.slot → slotEntry c q.slot = some e → e.decided = false →
        (c.entries ++ c.late).find? (fun e => e.slot == q.slot && e.decided) = none →
        tells (.memberQuery q) (plain (max e.p (runBallot c q.slot) / 256 * 256 + 34))))
    ∧ (q ∈ c.waits → tells (.keepalive q) .keep)
    ∧ (q ∉ c.waits → c.reads = [] → exec (.keepalive q) s = .next s)

/-- R143, R154, R156, R161: an answer returns the two words of a LEARN to its pair; an acknowledgement or keepalive is noted; a forced close
returns NOQUORUM with reason 13; any other answer to an operation that is over changes nothing; the last answer of a failed OPEN returns its
code. R148: the directory's reply to a fill of an open accord of the thread's own context reads the descriptor at its home. -/
def Sys2Proof.Safety.AnswersReturned : Prop :=
  ∀ (s : State) (t : Thread) (l : LearnOp) (member slot orig bal acc : Nat) (v1 v2 : Word) (b : MBody) (a : AccOp) (code v : Nat),
    getThread s t.id = some t → Alive s t → t.id < 2 ^ 40 →
    (t.wait = .op (.learn l) → l.form = .learn → l.d < 9 → t.kept = [] → Plain s t → Ahead s t →
      (∃ s' u, exec (.memberReply t.id t.op member (.answer v1 v2 true slot orig bal)) s = .next s' ∧ getThread s' t.id = some u
        ∧ u.pc = BitVec.ofNat 14 (t.pc.toNat + 4) ∧ u.wait = .ready
        ∧ u.regs = writeReg (writeReg t.regs (BitVec.ofNat 4 l.d) v1) (BitVec.ofNat 4 (l.d + 1)) v2
        ∧ u.defeat = if v2.toNat % 16 ≤ 1 then 0 else t.defeat)
      ∧ (∃ s', exec (.memberReply t.id t.op member .ack) s = .next s'
        ∧ OnlyThread s s' { t with wait := .op (.learn { l with heard := s.cycle }) })
      ∧ ∃ s', exec (.memberReply t.id t.op member (.closed l.acc)) s = .next s' ∧ Returns s s' t l.d 0 0 13 3 t.defeat)
    ∧ (∀ op, op ≠ t.op → (∀ k, b ≠ .closed k) → exec (.memberReply t.id op member b) s = .next s)
    ∧ (t.wait = .op (.acc a) → a.first = false → a.undo = true → a.waiting = [member] → Ahead s t →
      ∃ s' u, exec (.memberReply t.id t.op member (.status code v)) s = .next s' ∧ getThread s' t.id = some u ∧ u.wait = .ready
        ∧ u.pc = BitVec.ofNat 14 (t.pc.toNat + 4) ∧ u.regs = writeReg t.regs (BitVec.ofNat 4 a.d) (BitVec.ofNat 64 (a.code * 2 ^ 32)))
    ∧ (t.wait = .op (.fill acc) → s.focus = .op t.id t.op → acc / 65536 = s.dev.id → isControl s acc = false → (dirGet s acc).isOpen = true →
      (dirGet s acc).poisoned = false →
      (dirGet s acc).owner = t.ctx → t.ctx ≠ 0 → ∃ s' u r, exec .accordTableFill s = .next s' ∧ getThread s' t.id = some u
        ∧ (∃ todo got, u.wait = .gather todo got (acc * 16 + 9)) ∧ u.pc = t.pc ∧ KeepsRegs t u ∧ Sends s s' (.loadRequest r)
        ∧ r.da = (dirGet s acc).desc)

/-- R139, R158, R160, R161: the directory opens an accord that is closed under its next generation, or answers INUSE; a member with room
takes the configuration, one without answers NOROOM; closing by force closes the accord at its directory, closing frees it at a member, and
a stale generation is refused by the directory; the gate cuts at the smaller of the request and its frontier, never back; the takeover puts
quorum B in place of A at each of its members. -/
def Sys2Proof.Safety.AccordsAtMembers : Prop :=
  ∀ (s : State) (m : AMsg) (cfg qb : Quorum) (size darr owner wsen desc : Nat) (strict : Bool) (proto : Option Proto) (c : AccCfg)
    (acc g : Nat), m.dev = s.dev.id →
    let i := Instr.accordRegister m cfg none size darr proto owner strict wsen desc
    let tells := fun (s' : State) code v => Sends s s' (.memberReply m.tid m.op m.member (.status code v))
    (m.member = 255 → m.flag = false → (getRegion s (m.acc % 64)).excluded = false →
      ((dirGet s m.acc).isOpen = false → ∃ s', exec i s = .next s' ∧ tells s' 0 (((dirGet s m.acc).gen + 1) % 65536)
        ∧ (dirGet s' m.acc).isOpen = true ∧ (dirGet s' m.acc).owner = owner ∧ (dirGet s' m.acc).epoch = 1)
      ∧ ((dirGet s m.acc).isOpen = true → ∃ s', exec i s = .next s' ∧ tells s' 1 0 ∧ s'.regions = s.regions))
    ∧ (m.member = 255 → m.v = 0 →
      ((dirGet s m.acc).isOpen = true → (dirGet s m.acc).gen = m.gen → m.flag = true → ∃ s', exec (.accordCloseAtMember m) s = .next s'
        ∧ tells s' 0 0 ∧ (dirGet s' m.acc).isOpen = false)
      ∧ ((dirGet s m.acc).gen ≠ m.gen → ∃ s', exec (.accordCloseAtMember m) s = .next s' ∧ s'.regions = s.regions
        ∧ Sends s s' (.memberReply m.tid m.op m.member .stale)))
    ∧ (m.member ≠ 255 → m.flag = false → findAcc s m.region m.acc = none → (s.dev.id, m.region) ∈ cfg.members → m.carry = {} →
      (shareRoom s m.region m.orig 1 0 = true → ∃ s' c', exec i s = .next s' ∧ tells s' 0 0 ∧ findAcc s' m.region m.acc = some c'
        ∧ c'.qa = cfg ∧ c'.gen = m.gen ∧ c'.entries = [] ∧ c'.trunc = m.slot ∧ c'.front = m.slot)
      ∧ (shareRoom s m.region m.orig 1 0 = false → ∃ s', exec i s = .next s' ∧ tells s' 3 0 ∧ s'.regions = s.regions))
    ∧ (m.member ≠ 255 → m.v = 0 → (∀ x ∈ (getRegion s m.region).accs, x.acc = m.acc → x.gen = m.gen) →
      ∃ s', exec (.accordCloseAtMember m) s = .next s' ∧ tells s' 0 0
      ∧ findAcc s' m.region m.acc = none)
    ∧ (m.member ≠ 255 → m.flag = true → findAcc s m.region m.acc = some c → c.gen = m.gen →
      ∃ s' c', exec (.accordTruncAtMember m) s = .next s' ∧ tells s' 0 (max c.trunc (min m.slot c.front))
        ∧ findAcc s' m.region m.acc = some c' ∧ c'.trunc = max c.trunc (min m.slot c.front))
    ∧ (accordView s acc = some (g, c) → c.acc = acc → c.qb = some qb → c.qa.members = [(s.dev.id, g)] → qb.members = [(s.dev.id, g)] →
      s.regions.map (·.1) = [g] → qb.frm ≤ c.front → c.owner = 0 → getCtx s 0 = none →
      launchVd s acc = none → acc / 65536 = s.dev.id →
      ∃ s' c', exec (.quorumTakeover acc) s = .next s' ∧ findAcc s' g acc = some c' ∧ c'.qa = qb ∧ c'.qb = none)

/-! ### Tile commands at their thread -/

/-- R77, R84, R192, R222, R244: TCMD reads four quads of the own view as they were before this cycle's deliveries; a legal command goes to
the tail of the queue under the next sequence number, and d gets its ticket, or for a copy its promise; an illegal one is numbered, but
enters no queue, and is fault 0x20 at the TCMD. TCMD.Q1 puts b into Q1. Without room beside the entries kept for others the thread waits. -/
def Sys2Proof.Safety.TileAccepted : Prop :=
  ∀ (s : State) (t : Thread) (g : BitVec 5) (d a b : BitVec 4) (k : Nat) (q1 : Bool), Issues s t g → Ahead s t → t.held = [] →
    ownKey s t (t.reg a) 32 32 = .ok k →
    let p := getPart s t.core t.part
    let q := toQuads 4 (readBefore s k 32)
    let w := tcwBits (if q1 then setNth q 1 (t.reg b) else q)
    let i := if q1 then Instr.tcmdQ1 g d a b else .tcmd g d a
    (tcmdRoom p t.id = true → p.loop = .idle → tileLegal s t.core t.part w = true →
      ∃ s' u e v, exec i s = .next s' ∧ getThread s' t.id = some u ∧ u.regs = writeReg t.regs d v ∧ u.preds = t.preds
        ∧ u.pc = BitVec.ofNat 14 (t.pc.toNat + 4) ∧ u.wait = .ready ∧ OtherThreads s s' t ∧ Quiet s s' ∧ s'.pend = s.pend
        ∧ (getPart s' t.core t.part).queue = p.queue ++ [e] ∧ e.seq = p.seqCtr ∧ e.word = w ∧ e.tid = t.id ∧ e.pc = t.pc.toNat
        ∧ e.started = false ∧ (getPart s' t.core t.part).seqCtr = (p.seqCtr + 1) % 2 ^ 32
        ∧ (getPart s' t.core t.part).handles = p.handles
        ∧ (isCopyOp (tileOpcode w) = false → v = BitVec.ofNat 64 (2 ^ 63 + p.seqCtr % 2 ^ 32))
        ∧ (isCopyOp (tileOpcode w) = true → v.toNat = p.seqCtr % 128 * 2 ^ 56 + e.vt % 2 ^ 56))
    ∧ (∀ x, tcmdRoom p t.id = true → p.loop = .idle → tileLegal s t.core t.part w = false → getCtx s p.owner = some x → x.fault = none →
      ∃ s' x' f, exec i s = .next s' ∧ (getPart s' t.core t.part).queue = p.queue
        ∧ (getPart s' t.core t.part).seqCtr = (p.seqCtr + 1) % 2 ^ 32 ∧ getCtx s' p.owner = some x' ∧ x'.fault = some f ∧ f.code = 0x20
        ∧ f.tid = t.id ∧ f.pc = t.pc.toNat)
    ∧ (tcmdRoom p t.id = false → ∃ s' u, exec i s = .next s' ∧ OnlyThread s s' u ∧ u.wait = .until .queueFree ∧ u.pc = t.pc ∧ u.regs = t.regs)

/-- R202, R244: TLOOP starts a capture, unless a queue entry is kept for another thread; a bad operand is fatal 0x0A; with all captured and
room for them TLOOP_PUSH accepts one iteration, each command with its handles and accumulator moved on, and the last iteration ends the
loop. -/
def Sys2Proof.Safety.TileLoops : Prop :=
  ∀ (s : State) (t : Thread) (g : BitVec 5) (a b : BitVec 4) (core p m strides iter pos : Nat) (cmds : List QEntry),
    let x := (t.reg a).toNat
    let y := (t.reg b).toNat
    let good := x < 2 ^ 32 ∧ x / 8 % 2 ^ 13 = 0 ∧ y < 2 ^ 22 ∧ x / 2 ^ 16 ≠ 0
    (Issues s t g → Ahead s t → (good → (getPart s t.core t.part).loop = .idle → (getPart s t.core t.part).reserved.erase t.id = [] →
        ∃ s', exec (.tloop g a b) s = .next s' ∧ getThread s' t.id = some (stepped t) ∧ OtherThreads s s' t ∧ Quiet s s'
          ∧ (getPart s' t.core t.part).loop = .capturing t.id (x % 8 + 1) (x / 2 ^ 16) y []
          ∧ (getPart s' t.core t.part).queue = (getPart s t.core t.part).queue)
      ∧ (good → (getPart s t.core t.part).loop = .idle → (getPart s t.core t.part).reserved.erase t.id ≠ [] →
        ∃ s', exec (.tloop g a b) s = .next s' ∧ OnlyThread s s' { t with wait := .until .loopFree })
      ∧ (¬good → ∃ s', exec (.tloop g a b) s = .next s' ∧ FatalHere s s' t 0x0A))
    ∧ (s.focus = .part core p → (getPart s core p).loop = .pushing m strides iter pos cmds →
      (getPart s core p).queue.length + (getPart s core p).reserved.length + cmds.length ≤ 64 →
        (∀ e ∈ cmds, tileLegal s core p (loopWord s core p e.word strides iter) = true) →
      ∃ s' l, exec .tloopPush s = .next s' ∧ (getPart s' core p).queue = (getPart s core p).queue ++ l ∧ s'.threads = s.threads
        ∧ s'.mem = s.mem ∧ l.map (·.word) = cmds.map (fun e => loopWord s core p e.word strides iter)
        ∧ (getPart s' core p).loop = if iter + 1 < m then .pushing m strides (iter + 1) pos cmds else .idle)

/-- The handle operand of ADV and TWAIT names handle h of the thread's slice, defined as x. -/
def Sys2Proof.Safety.NamesHandle (s : State) (t : Thread) (v : Word) (h : Nat) (x : Handle) : Prop :=
  v.toNat < 512 ∧ v.toNat / 32 % 8 = 0 ∧ h = v.toNat % 32 ∧ inHandles s t.core t.part h = true
    ∧ getHandle (getPart s t.core t.part) h = x ∧ x.n ≠ 0

/-- Only handle h of a thread's partition is changed, to y, and the thread stands at its next word. -/
def Sys2Proof.Safety.SetsHandle (s s' : State) (t : Thread) (h : Nat) (y : Handle) : Prop :=
  getThread s' t.id = some (stepped t) ∧ OtherThreads s s' t ∧ Quiet s s' ∧ s'.pend = s.pend
    ∧ getHandle (getPart s' t.core t.part) h = y
    ∧ ∀ k, k ≠ h → getHandle (getPart s' t.core t.part) k = getHandle (getPart s t.core t.part) k

/-- R197, R198, R200, R201: ADV advances C and CE up to P, or, its fence passed, P and PE within the slots; more is fatal 0x0A. TWAIT waits
for filled or free slots. HDEF defines a handle with its counts at 0, once no unfinished command names it; a bad one is fatal 0x0A. -/
def Sys2Proof.Safety.HandleInstructions : Prop :=
  ∀ (s : State) (t : Thread) (g : BitVec 5) (a b : BitVec 4) (h : Nat) (x : Handle), Issues s t g → Ahead s t →
    let n := (t.reg b).toNat
    let y := (t.reg b).toNat
    let side := (t.reg a).getLsbD 8
    let past := (sextNat 16 (x.ce + n + 65536 - x.p) : Int) ≤ 0
    let size := y / 2 ^ 16 % 2 ^ 16
    let base := y % 2 ^ 16
    let slots := y / 2 ^ 32
    let good := (t.reg a).toNat < 32 ∧ inHandles s t.core t.part (t.reg a).toNat = true ∧ slots ≤ 16 ∧ 1 ≤ slots ∧ base % 32 = 0
      ∧ 0x800 ≤ base ∧ size % 32 = 0 ∧ size ≠ 0 ∧ base + size * slots ≤ viewSize s t.core
    (NamesHandle s t (t.reg a) h x → n ≤ 16 →
      (side = true → past → ∃ s', exec (.adv g a b) s = .next s'
        ∧ SetsHandle s s' t h { x with c := (x.c + n) % 65536, ce := (x.ce + n) % 65536 })
      ∧ (side = true → ¬past → ∃ s', exec (.adv g a b) s = .next s' ∧ FatalHere s s' t 0x0A)
      ∧ (side = false → Fenced t → countDiff (x.pe + n) x.c ≤ x.n → ∃ s', exec (.adv g a b) s = .next s'
        ∧ SetsHandle s s' t h { x with p := (x.p + n) % 65536, pe := (x.pe + n) % 65536 }))
    ∧ (NamesHandle s t (t.reg a) h x → n ≤ x.n → let have' := if side then x.free else x.filled
      (n ≤ have' → ∃ s', exec (.twait g a b) s = .next s' ∧ OnlyThread s s' (stepped t))
      ∧ (have' < n → ∃ s', exec (.twait g a b) s = .next s'
        ∧ OnlyThread s s' { t with wait := .until (if side then .room h n else .filled h n) }))
    ∧ (good → handleFree (getPart s t.core t.part) (t.reg a).toNat = true → ∃ s', exec (.hdef g a b) s = .next s'
      ∧ SetsHandle s s' t (t.reg a).toNat ⟨base, size, slots, 0, 0, 0, 0⟩)
    ∧ (¬good → ∃ s', exec (.hdef g a b) s = .next s' ∧ FatalHere s s' t 0x0A)

/-- R202, R223, R224, R228, R255: WAITT on a word that names no unfinished command completes; on a ticket it waits for the completion, on a
promise until its cycle too, and PROMISE_MISSED, or a promise already past, is trap 2 with the revised promise. TSTAT reads and clears
the flags that were not set in this cycle. -/
def Sys2Proof.Safety.PromisesAndStatus : Prop :=
  ∀ (s : State) (t : Thread) (x : Ctx) (e : QEntry) (g : BitVec 5) (a d : BitVec 4), Ahead s t → getCtx s t.ctx = some x →
    let p := getPart s t.core t.part
    let vt := (t.reg a).toNat % 2 ^ 56
    let v := vtimeOf s x
    let k := copyCost s t.ctx t.core (tileOpcode e.word) (tcwOf e.word)
    let revised := fun (v : Nat) => BitVec.ofNat 64 (e.seq % 128 * 2 ^ 56 + (v + k.1 + linesLeft s t.ctx (tileOpcode e.word) (tcwOf e.word) e * k.2)
      % 2 ^ 56)
    let waits := fun (s' : State) (o : Option Nat) => ∃ u, getThread s' t.id = some u ∧ u.wait = .until (.cmdDone e.seq o) ∧ u.pc = t.pc
      ∧ KeepsRegs t u ∧ OtherThreads s s' t ∧ s'.mem = s.mem
    (Issues s t g → (namedCommand p (t.reg a) = none → ∃ s', exec (.waitt g a) s = .next s' ∧ getThread s' t.id = some (stepped t)
        ∧ OtherThreads s s' t ∧ Quiet s s')
      ∧ (namedCommand p (t.reg a) = some e → p.loop = .idle → ((t.reg a).getLsbD 63 ∨ t.trapc ≠ 0 ∨ x.det = true →
          ∃ s', exec (.waitt g a) s = .next s' ∧ waits s' none)
        ∧ ((t.reg a).getLsbD 63 = false → t.trapc = 0 → x.det = false →
          (v ≤ vt → ∃ s', exec (.waitt g a) s = .next s' ∧ waits s' (some vt) ∧ Sends s s' .promiseMissed)
          ∧ ∀ n, vt < v → x.tvec = some n → ∃ s', exec (.waitt g a) s = .next s'
            ∧ Trapped s s' t n 2 (revised v) (BitVec.ofNat 14 (t.pc.toNat + 4))))
      ∧ ∃ s' u, exec (.tstat g d) s = .next s' ∧ getThread s' t.id = some u ∧ OtherThreads s s' t ∧ Quiet s s'
        ∧ u.regs = writeReg t.regs d (BitVec.ofNat 64 (p.mark.toNat % 2 ^ 32 * 2 ^ 32 + (tstatWord s t.core t.part).toNat % 2 ^ 32))
        ∧ u.pc = BitVec.ofNat 14 (t.pc.toNat + 4)
        ∧ (getPart s' t.core t.part).sticky = if p.newAt = s.cycle then p.newFlags else 0)
    ∧ ∀ n vt', s.focus = .op t.id t.op → getThread s t.id = some t → t.wait = .until (.cmdDone e.seq (some vt')) →
      (p.queue.find? fun y => y.seq == e.seq) = some e → x.tvec = some n → vt' < v →
        ∃ s', exec .promiseMissed s = .next s' ∧ Trapped s s' t n 2 (revised (v - 1)) (BitVec.ofNat 14 (t.pc.toNat + 4))

/-! ### Tile commands at their engine -/

/-- Entry `e` is the first of the queue in focus that has not started, it is of opcode `op` with fields `c`, its region runs at the full
clock, and every handle that it names is defined. -/
def Sys2Proof.Safety.AtHead (s : State) (core p op : Nat) (c : Tcw) (e : QEntry) : Prop :=
  s.focus = .part core p ∧ ((getPart s core p).queue.find? fun x => !x.started) = some e
    ∧ (getRegion s (regionOf core)).clock = 1300 ∧ ∀ h ∈ tileHandles op c, (getHandle (getPart s core p) h).n ≠ 0

/-- The command has started as `e'` and claimed its slots: `win` more of each input handle, `wout` more of the output handle. The other
entries of the queue, and every thread, are as they were; no byte of memory has changed (R199). -/
def Sys2Proof.Safety.Begun (s s' : State) (core p op : Nat) (c : Tcw) (e e' : QEntry) : Prop :=
  (getPart s' core p).queue = (getPart s core p).queue.map (fun x => if x.seq = e.seq then e' else x) ∧ e'.seq = e.seq ∧ e'.started = true
    ∧ e'.word = e.word ∧ s'.mem = s.mem ∧ s'.threads = s.threads ∧ s'.ctxs = s.ctxs
    ∧ ∀ h, getHandle (getPart s' core p) h =
      let x := getHandle (getPart s core p) h
      { x with ce := if h ∈ tileIns op c then (x.ce + c.win.toNat) % 65536 else x.ce,
               pe := if tileOut op c = some h then (x.pe + c.wout.toNat) % 65536 else x.pe }

/-- It runs `cost` cycles in its unit and completes `drain` cycles later (R208, R209, R213). -/
def Sys2Proof.Safety.RunsFor (s s' : State) (core p unit cost drain : Nat) (e' : QEntry) : Prop :=
  e'.finish = some (s.cycle + cost + drain) ∧ (∃ q ∈ s'.pend, q.what = .tileCommandComplete ∧ q.who = .cmd core p e'.seq
      ∧ q.due = s.cycle + cost + drain)
    ∧ (unit = 1 → cost ≠ 0 → (getCore s' core).matrixBusy = s.cycle + cost)
    ∧ (unit = 2 → cost ≠ 0 → (getCore s' core).vectorBusy = s.cycle + cost)

/-- The bytes of a tile in the slot that a command claims next of handle `h`, on core `at'`; they can be read (R127, R203). -/
def Sys2Proof.Safety.TileIn (s : State) (core p at' h n : Nat) (bs : List Byte) : Prop :=
  let x := getHandle (getPart s core p) h
  let k := scratchKey at' (viewBase s at' p + (x.base + x.size * (x.ce % x.n)))
  n ≤ x.size ∧ holds s (getPart s core p).owner at' p = true ∧ poisoned s k n = false ∧ bs = memRead s.mem k n

/-- The vector commands: opcode, fields, bytes of the tiles a, b and c that they read, bytes that they write, cycles. -/
def Sys2Proof.Safety.vecForm : Instr → Option (Nat × Tcw × Nat × Nat × Nat × Nat × Nat)
  | .vadd c => some (0x30, c, vecBytes c.fmtA c, vecBytes c.fmtB c, 0, vecBytes c.fmtOut c, c.count.toNat % 64)
  | .vsub c => some (0x31, c, vecBytes c.fmtA c, vecBytes c.fmtB c, 0, vecBytes c.fmtOut c, c.count.toNat % 64)
  | .vmul c => some (0x32, c, vecBytes c.fmtA c, vecBytes c.fmtB c, 0, vecBytes c.fmtOut c, c.count.toNat % 64)
  | .vfma c => some (0x33, c, vecBytes c.fmtA c, vecBytes c.fmtB c, vecBytes c.fmtOut c, vecBytes c.fmtOut c, c.count.toNat % 64)
  | .vmin c => some (0x34, c, vecBytes c.fmtA c, vecBytes c.fmtB c, 0, vecBytes c.fmtOut c, c.count.toNat % 64)
  | .vmax c => some (0x35, c, vecBytes c.fmtA c, vecBytes c.fmtB c, 0, vecBytes c.fmtOut c, c.count.toNat % 64)
  | .vexp2 c => some (0x36, c, vecBytes c.fmtA c, 0, 0, vecBytes c.fmtOut c, 4 * (c.count.toNat % 64))
  | .vlog2 c => some (0x37, c, vecBytes c.fmtA c, 0, 0, vecBytes c.fmtOut c, 4 * (c.count.toNat % 64))
  | .vrcp c => some (0x38, c, vecBytes c.fmtA c, 0, 0, vecBytes c.fmtOut c, 4 * (c.count.toNat % 64))
  | .vrsq c => some (0x39, c, vecBytes c.fmtA c, 0, 0, vecBytes c.fmtOut c, 4 * (c.count.toNat % 64))
  | .vcvt c => some (0x3A, c, vecBytes c.fmtA c, 0, 0, vecBytes c.fmtOut c, c.count.toNat % 64)
  | .vcmp c => some (0x3B, c, vecBytes c.fmtA c, vecBytes c.fmtB c, 0, vecLen c, c.count.toNat % 64)
  | .vsel c => some (0x3C, c, vecBytes c.fmtA c, vecBytes c.fmtB c, if fmtWidth c.fmtA.toNat = 4 then vecLen c / 2 else vecLen c,
      vecBytes c.fmtOut c, c.count.toNat % 64)
  | .vand c => some (0x3D, c, vecBytes c.fmtA c, vecBytes c.fmtB c, 0, vecBytes c.fmtOut c, c.count.toNat % 64)
  | .vor c => some (0x3E, c, vecBytes c.fmtA c, vecBytes c.fmtB c, 0, vecBytes c.fmtOut c, c.count.toNat % 64)
  | .vxor c => some (0x3F, c, vecBytes c.fmtA c, vecBytes c.fmtB c, 0, vecBytes c.fmtOut c, c.count.toNat % 64)
  | .vred c => some (0x40, c, vecBytes c.fmtA c, 0, 0, 0, c.count.toNat % 64 + 8)
  | .vtrn c => some (0x41, c, vecBytes c.fmtA c, 0, 0, vecBytes c.fmtOut c, 32)
  | .vbcast c => some (0x42, c, vecBytes c.fmtA c, 0, 0, vecBytes c.fmtOut c, c.count.toNat % 64)
  | .vscl c => some (0x43, c, vecBytes c.fmtA c, 0, 0, vecBytes c.fmtOut c, c.count.toNat % 64)
  | _ => none

/-- R127, R199, R203, R211 to R213, R229: a vector command whose tiles can be read and whose output fits starts, runs its cycles in the
vector unit and completes 12 cycles later, with output only for its own slot. An unreadable input is a tile command fault: 0x20 at the
TCMD, and no later command of the queue starts. -/
def Sys2Proof.Safety.VectorCommands : Prop :=
  ∀ (s : State) (core p op na nb nc nout cost : Nat) (i : Instr) (c : Tcw) (e : QEntry) (x y z : List Byte),
    vecForm i = some (op, c, na, nb, nc, nout, cost) → AtHead s core p op c e →
    (TileIn s core p core c.hA.toNat na x → (nb ≠ 0 → TileIn s core p core c.hB.toNat nb y) →
      (nc ≠ 0 → TileIn s core p core (handleC c) nc z) → nout ≤ (getHandle (getPart s core p) c.dst.toNat).size →
      (op = 0x43 → (ownBytes s core p c.q2 (ceilDiv (vecLen c) (2 ^ tagBlog c.q2))).isSome = true) →
      ∃ s' e' bs, exec i s = .next s' ∧ Begun s s' core p op c e e' ∧ RunsFor s s' core p 2 cost 12 e'
        ∧ e'.outBytes = [(e'.slotD, bs)]
        ∧ e'.slotD = slotAt (getHandle (getPart s core p) c.dst.toNat) (getHandle (getPart s core p) c.dst.toNat).pe
        ∧ e'.outDev = e.outDev ∧ e'.outSide = e.outSide)
    ∧ (∀ v, getCtx s (getPart s core p).owner = some v → v.fault = none → (getPart s core p).dead = none →
      (getHandle (getPart s core p) c.hA.toNat).size < na → ∃ s' v' f, exec i s = .next s'
        ∧ (∀ y, queueHead (getPart s' core p) = some y → acceptedBefore y.seq e.seq = true)
        ∧ getCtx s' (getPart s core p).owner = some v' ∧ v'.fault = some f ∧ f.code = 0x20 ∧ f.tid = e.tid ∧ f.pc = e.pc)

/-- R36, R39, R212: the results of the commands that work on stored bits: VAND, VOR and VXOR byte by byte; on 8-bit elements VSEL takes a
where the mask is nonzero, VBCAST repeats element 0, VTRN transposes the 32 × 32 image; VCMP on int8 (EQ, LT, LE) writes 1 or 0. -/
def Sys2Proof.Safety.VectorBits : Prop :=
  ∀ (s : State) (core p op na nb nc nout cost : Nat) (i : Instr) (c : Tcw) (e : QEntry) (x y z : List Byte),
    vecForm i = some (op, c, na, nb, nc, nout, cost) → AtHead s core p op c e → TileIn s core p core c.hA.toNat na x →
    (nb ≠ 0 → TileIn s core p core c.hB.toNat nb y) → (nc ≠ 0 → TileIn s core p core (handleC c) nc z) →
    nout ≤ (getHandle (getPart s core p) c.dst.toNat).size →
    c.fmtA = 8 → c.fmtOut = 8 → (nb ≠ 0 → c.fmtB = 8) →
    let k := 64 * (c.count.toNat % 64)
    let gives := fun (n : Nat) (f : Nat → Byte) => ∃ s' e', exec i s = .next s' ∧ Begun s s' core p op c e e'
      ∧ e'.outBytes = [(e'.slotD, (List.range n).map f)]
    let at' := fun (l : List Byte) (j : Nat) => nth 0 l j
    (op = 0x3D → gives k fun j => at' x j &&& at' y j) ∧ (op = 0x3E → gives k fun j => at' x j ||| at' y j)
    ∧ (op = 0x3F → gives k fun j => at' x j ^^^ at' y j) ∧ (op = 0x3C → gives k fun j => if at' z j ≠ 0 then at' x j else at' y j)
    ∧ (op = 0x42 → gives k fun _ => at' x 0) ∧ (op = 0x41 → k = 1024 → gives k fun j => at' x (32 * (j % 32) + j / 32))
    ∧ (op = 0x3B → c.count.toNat / 64 = 0 → gives k fun j => if at' x j = at' y j then 1 else 0)
    ∧ (op = 0x3B → c.count.toNat / 64 = 1 → gives k fun j => if (at' x j).toInt < (at' y j).toInt then 1 else 0)
    ∧ (op = 0x3B → c.count.toNat / 64 = 2 → gives k fun j => if (at' x j).toInt ≤ (at' y j).toInt then 1 else 0)

/-- The matrix products: opcode, fields, whether A is sparse. -/
def Sys2Proof.Safety.matForm : Instr → Option (Nat × Tcw × Bool)
  | .mma c => some (0x10, c, false)
  | .mmas c => some (0x11, c, true)
  | .mmaz c => some (0x12, c, false)
  | _ => none

/-- R194, R203 to R210: the matrix commands start and run: the products with readable tiles, good metadata and scales (MMAS when its groups
keep two elements in order), SPLD, ACLR in 16 cycles with zeros, ACLD in 64, ACST in 64 and ACSC. Those that read an accumulator or
the side memory hold the array, and wait, while an earlier command conflicts with them. -/
def Sys2Proof.Safety.MatrixCommands : Prop :=
  ∀ (s : State) (core p : Nat) (c : Tcw) (e : QEntry) (x y : List Byte),
    let own := fun (q : Word) (n : Nat) => q = 0 ∨ (ownBytes s core p q n).isSome = true
    let from' := fun (b : Nat) => if c.flags.getLsbD b then remoteCore core c else core
    let k := 32 * c.count.toNat
    let f := c.fmtOut.toNat
    let dst := getHandle (getPart s core p) c.dst.toNat
    let late := blocked (getPart s core p).queue e
    let waits := fun (i : Instr) (op : Nat) => late = true → ∃ s' e', exec i s = .next s' ∧ Begun s s' core p op c e e' ∧ e'.cost ≠ 0
      ∧ e'.outAcc = e.outAcc ∧ e'.outBytes = e.outBytes ∧ s'.pend = s.pend
    (∀ i op sparse, matForm i = some (op, c, sparse) → AtHead s core p op c e → own c.q2 32 → own c.q3 1 →
      (op ≠ 0x12 → waits i op) ∧ (op = 0x12 ∨ late = false →
      TileIn s core p (from' 0) c.hA.toNat (tileBytes c.fmtA.toNat (32 * if sparse then k / 2 else k)) x →
      TileIn s core p (from' 1) c.hB.toNat (tileBytes c.fmtB.toNat (32 * k)) y →
      (sparse = true → c.count.toNat ≤ 4 ∧ ∀ b < 512, let n := nth 0 (sideOf s core c.acc.toNat) b
        n % 4 < n / 4 % 4 ∧ n / 16 % 4 < n / 64 % 4) →
      ∃ s' e' l, exec i s = .next s' ∧ Begun s s' core p op c e e' ∧ e'.outAcc = [(c.acc.toNat, l)]
        ∧ RunsFor s s' core p 1 (narrowCost s core (quarterCost c.fmtA.toNat c.fmtB.toNat * c.count.toNat / (if sparse then 2 else 1))) 24 e'))
    ∧ (AtHead s core p 0x18 c e → TileIn s core p core c.hA.toNat 512 x → ∃ s' e' n, exec (.spld c) s = .next s'
      ∧ Begun s s' core p 0x18 c e e' ∧ RunsFor s s' core p 1 n 0 e' ∧ e'.outSide = [(c.count.toNat % 4, x.map (·.toNat))])
    ∧ (AtHead s core p 0x20 c e → ∃ s' e', exec (.aclr c) s = .next s' ∧ Begun s s' core p 0x20 c e e' ∧ RunsFor s s' core p 1 16 0 e'
      ∧ e'.outAcc = [(c.acc.toNat, List.replicate 1024 0)])
    ∧ (AtHead s core p 0x21 c e → TileIn s core p core c.hA.toNat (tileBytes c.fmtA.toNat 1024) x → ∃ s' e' l, exec (.acld c) s = .next s'
      ∧ Begun s s' core p 0x21 c e e' ∧ RunsFor s s' core p 1 64 0 e' ∧ e'.outAcc = [(c.acc.toNat, l)])
    ∧ (AtHead s core p 0x22 c e → waits (.acst c) 0x22 ∧ (late = false → tileBytes f 1024 ≤ dst.size → ∃ s' e' bs, exec (.acst c) s = .next s'
      ∧ Begun s s' core p 0x22 c e e' ∧ e'.outBytes = [(slotAt dst dst.pe, bs)] ∧ e'.outAcc = [] ∧ RunsFor s s' core p 1 64 0 e'))
    ∧ (AtHead s core p 0x23 c e → waits (.acsc c) 0x23)
    ∧ (∀ v da, AtHead s core p 0x23 c e → late = false → getCtx s (getPart s core p).owner = some v → segCheck v c.q2 32 32 rightW = .ok da →
      homeOf s (getPart s core p).owner core p da ≠ .none → tileBytes f (1024 * c.count.toNat) ≤ dst.size →
      ∃ s' e' bs, exec (.acsc c) s = .next s' ∧ Begun s s' core p 0x23 c e e' ∧ e'.outBytes = [(slotAt dst dst.pe, bs)]
        ∧ (e'.outDev.flatMap (·.2)).length = 32 ∧ (∀ w ∈ e'.outDev, da ≤ w.1 ∧ w.1 + w.2.length ≤ da + 32)
        ∧ RunsFor s s' core p 1 (64 * c.count.toNat + 16) 0 e')

/-- R45, R203, R204: MMAZ on int8 tiles without scales is the exact product: A row by row, B column by column. (Each sum of at most 1,024
products of bytes is at most 2^24 in magnitude, which fp32 holds.) -/
def Sys2Proof.Safety.MatrixProduct : Prop :=
  ∀ (s : State) (core p : Nat) (c : Tcw) (e : QEntry) (x y : List Byte), AtHead s core p 0x12 c e → c.fmtA = 8 → c.fmtB = 8 → c.q2 = 0 →
    c.q3 = 0 → c.flags = 0 → 1 ≤ c.count.toNat → c.count.toNat ≤ 32 →
    let k := 32 * c.count.toNat
    TileIn s core p core c.hA.toNat (32 * k) x → TileIn s core p core c.hB.toNat (32 * k) y →
    ∃ s' e' l, exec (.mmaz c) s = .next s' ∧ Begun s s' core p 0x12 c e e' ∧ e'.outAcc = [(c.acc.toNat, l)] ∧ l.length = 1024
      ∧ ∀ i j, i < 32 → j < 32 → fpInt (BitVec.ofNat 32 (nth 0 l (32 * i + j)))
          = 2 ^ 149 * ((List.range k).map fun n => (nth 0 x (k * i + n)).toInt * (nth 0 y (k * j + n)).toInt).sum

/-- R79, R131, R195, R199, R214, R216 to R219, R226, R227: the commands of the other families start: TNOP, RNGK and TMARK complete at once,
TMARK with the mark; a copy form with good fields occupies a copy engine and takes its first line; QTLD loads its sixteen bytes from the own
scratchpad; TSIG sends its quad as a store, or applies its advance to the own core. -/
def Sys2Proof.Safety.OtherCommands : Prop :=
  ∀ (s : State) (core p : Nat) (c : Tcw) (e : QEntry),
    let own := (getPart s core p).owner
    let plain := fun (i : Instr) (op : Nat) => AtHead s core p op c e →
      ∃ s' e', exec i s = .next s' ∧ Begun s s' core p op c e e' ∧ RunsFor s s' core p 0 0 0 e' ∧ (getPart s' core p).mark
        = if op = 0x71 then c.q1 else (getPart s core p).mark
    let copies := fun (i : Instr) (op : Nat) => AtHead s core p op c e → copyFieldsOk op c = true → ∀ l, copyIndex s core p op c = some l →
      ∃ s' e', exec i s = .next s' ∧ Begun s s' core p op c e e' ∧ e'.idx = l ∧ e'.allRead = false ∧ e'.next = e.next
        ∧ (getCore s' core).copies = (getCore s core).copies + 1
        ∧ ∃ q ∈ s'.pend, q.what = .copyShadowRelease ∧ q.who = .cmd core p e.seq ∧ q.due = s.cycle
    plain (.tnop c) 0x01 ∧ plain (.rngk c) 0x61 ∧ plain (.tmark c) 0x71
    ∧ copies (.copy c) 0x50 ∧ copies (.copyr c) 0x51 ∧ copies (.gath c) 0x52 ∧ copies (.scat c) 0x53 ∧ copies (.mcast c) 0x54
    ∧ copies (.zero c) 0x55
    ∧ (∀ da o, AtHead s core p 0x60 c e → tileAddr s core p (q1dev c) c.q1 0 16 16 rightR = some da →
      homeOf s own core p da = .scratch core o → poisoned s (scratchKey core o) 16 = false →
      ∃ s' e', exec (.qtld c) s = .next s' ∧ Begun s s' core p 0x60 c e e' ∧ e'.allRead = true
        ∧ (getPart s' core p).table = (memRead s.mem (scratchKey core o) 16).map (·.toInt)
        ∧ (getPart s' core p).esc = c.flags.getLsbD 0)
    ∧ (∀ da, AtHead s core p 0x70 c e → c.flags.getLsbD 0 = false → tileAddr s core p (q1dev c) c.q1 0 8 8 rightW = some da →
      inWindow s core p da = false → ∃ s' e' a, exec (.tsig c) s = .next s' ∧ Begun s s' core p 0x70 c e e' ∧ e'.unacked = 1
        ∧ Sends s s' (accessStep a) ∧ a.da = da ∧ a.act = .store (leBytes 8 c.q2.toNat) ∧ a.who = .cmd core p e.seq)
    ∧ (∀ y, AtHead s core p 0x70 c e → c.flags.getLsbD 0 = true → c.q1.toNat < 512 → c.q1.toNat / 32 % 8 = 0 →
      holds s own core p = true → inHandles s core p (c.q1.toNat % 32) = true →
      advance (getHandle (getPart s core p) (c.q1.toNat % 32)) (bitAt c.q1.toNat 8) c.q2.toNat = some y →
      ∃ s', exec (.tsig c) s = .next s' ∧ getHandle (getPart s' core p) (c.q1.toNat % 32) = y ∧ s'.mem = s.mem ∧ s'.threads = s.threads)

/-- R194, R199, R228: a command whose unit is done and which nothing earlier holds completes: its slot bytes and accumulators are written,
its flags become sticky, C and P of its handles advance, and its entry leaves the queue. -/
def Sys2Proof.Safety.TileCompletes : Prop :=
  ∀ (s : State) (core p off f : Nat) (bs : List Byte) (e : QEntry), Canonical s → s.focus = .cmd core p e.seq →
    ((getPart s core p).queue.find? fun x => x.seq == e.seq) = some e → e.started = true → e.finish = some f → f ≤ s.cycle →
    e.allRead = true → (getPart s core p).stopCycle = none → e.outDev = [] → e.unacked = 0 → blocked (getPart s core p).queue e = false →
    e.outBytes = [(off, bs)] → (∀ x ∈ (getPart s core p).queue, x.cost = 0) →
    ((getCore s core).acc.map (·.1)).Pairwise (· < ·) → (∀ r ∈ e.outAcc, r.2.length = 1024) → (e.outAcc.map (·.1)).Nodup →
    let op := tileOpcode e.word
    let c := tcwOf e.word
    let k := scratchKey core (viewBase s core p + off)
    ∃ s', exec .tileCommandComplete s = .next s' ∧ memRead s'.mem k bs.length = bs ∧ Outside s s' k bs.length ∧ s'.threads = s.threads
      ∧ (getPart s' core p).queue.map (·.seq) = ((getPart s core p).queue.map (·.seq)).filter (· != e.seq)
      ∧ (getPart s' core p).sticky = (getPart s core p).sticky ||| e.flags
      ∧ (∀ a, tblSlice (getCore s' core).acc (1024 * a) 1024
        = ((e.outAcc.find? fun r => r.1 == a).map (·.2)).getD (tblSlice (getCore s core).acc (1024 * a) 1024))
      ∧ ∀ h, getHandle (getPart s' core p) h =
        let x := getHandle (getPart s core p) h
        { x with c := if h ∈ tileIns op c then (x.c + c.win.toNat) % 65536 else x.c,
                 p := if tileOut op c = some h then (x.p + c.wout.toNat) % 65536 else x.p }

/-- R36, R131, R200, R216, R218, R221, R226, R263: one line of a running copy: ZERO stores zero bytes, COPY without conversion stores the
bytes of a scratchpad line (bits [7:6] of e2m3 zero), at the line's destination. A remote advance moves its handle, sets the event flags of
the partition's work slots, and is acknowledged; one that its handle refuses changes nothing. -/
def Sys2Proof.Safety.CopyLines : Prop :=
  ∀ (s : State) (core p da src o : Nat) (e : QEntry) (q : AdvPkt),
    let op := tileOpcode e.word
    let c := tcwOf e.word
    let g := copyGeom op c
    let row := e.next / 2 ^ 24
    let off := e.next % 2 ^ 24
    let stores := fun (bs : List Byte) => ∃ s' a, exec .copyShadowRelease s = .next s' ∧ s'.mem = s.mem ∧ s'.threads = s.threads
      ∧ Sends s s' (accessStep a) ∧ a.da = da + off ∧ a.z = bs.length ∧ a.act = .store bs ∧ a.who = .cmd core p e.seq
    (s.focus = .cmd core p e.seq → ((getPart s core p).queue.find? fun x => x.seq == e.seq) = some e → e.started = true →
      e.allRead = false → e.reading = false → e.parked = false → e.carry = [] → (getPart s core p).stopCycle = none → off < g.dbytes →
      duskDue s (getPart s core p).owner = false → (∀ n, unackedTo (getCore s core) n < 255) →
      dstRow s core p op c e row = some [da] →
      (op = 0x55 → stores (List.replicate (min (g.dbytes - off) (64 - (da + off) % 64)) 0))
      ∧ (op = 0x50 → c.fmtA = c.fmtOut → srcRow s core p op c e row = some src → (src + off) % 64 = (da + off) % 64 →
        homeOf s (getPart s core p).owner core p (src + off) = .scratch core o →
        let z := min (g.sbytes - off) (64 - (src + off) % 64)
        poisoned s (scratchKey core o) z = false → (∀ n, ∀ x ∈ (getCore s n).shadows, x.held = []) → 
          stores (cleanBytes c.fmtOut.toNat (memRead s.mem (scratchKey core o) z))))
    ∧ (q.dev = none → descheduled s q.ctx = false → (getPart s q.dst q.part).stopCycle = none → holds s q.ctx q.dst q.part = true →
      inHandles s q.dst q.part q.h = true →
      (∀ y, advance (getHandle (getPart s q.dst q.part) q.h) q.consume q.n = some y → ∃ s' a, exec (.remoteAdvance q) s = .next s'
        ∧ getHandle (getPart s' q.dst q.part) q.h = y ∧ Quiet s s' ∧ s'.threads = s.threads
        ∧ (∀ n, firstSlot s q.dst q.part ≤ n → n < handlerSlot s q.dst q.part → bitAt (getPart s' q.dst q.part).flags n = true)
        ∧ Sends s s' (.acknowledgement a .ok))
      ∧ (advance (getHandle (getPart s q.dst q.part) q.h) q.consume q.n = none → ∃ s' a, exec (.remoteAdvance q) s = .next s'
        ∧ s'.parts = s.parts ∧ Quiet s s' ∧ s'.threads = s.threads ∧ Sends s s' (.acknowledgement a .badAdvance)))

/-! ### Launches -/

/-- A thread reads `z` bytes at device address `da` for its instruction, line by line; the first request is on its way (R264, R314). -/
def Sys2Proof.Safety.Gathers (s s' : State) (t : Thread) (da z : Nat) (got : List Byte) (stage : Nat) : Prop :=
  ∃ u r, getThread s' t.id = some u ∧ u.pc = t.pc ∧ KeepsRegs t u ∧ u.wait = .gather (linesOf (z / 64 + 2) da z) got stage
    ∧ OtherThreads s s' t ∧ Sends s s' (.loadRequest r) ∧ r.da = da ∧ r.act = .load ∧ r.who = .thread t.id

/-- R264, R268, R269, R295, R298: LNCH reads the first line of its record, then the rest; a bad record gives BADREC (1), an unusable or
non-launch accord NOGRANT (2), a system context PRIV (3), a block without schedule entries CONFIG (6); a good one is proposed: the nearest
member is asked for the next slot. SNAP reads its block; a bad one gives 2, one during an image 3, a good one is proposed in the control
accord. The order in which LNCH's refusals are looked for, and SNAP's checks with nmask 0, are the model's reading (logs 18, 52). -/
def Obligations.LaunchForms : Prop :=
  ∀ (s : State) (t : Thread) (x : Ctx) (g : BitVec 5) (d a : BitVec 4) (bs : List Byte) (da : Nat) (e : AccTab), Fenced t → t.kept = [] →
    t.place ≠ .engine → getCtx s t.ctx = some x → logging x = false → replaying x = false →
    let acc := recAccord bs
    let ctl := controlAcc s (trapQueueOf s t.core t.part)
    let gives := fun (i : Instr) (v : Nat) => ∃ s' u, exec i s = .next s' ∧ getThread s' t.id = some u
      ∧ u.regs = writeReg t.regs d (BitVec.ofNat 64 v) ∧ u.pc = BitVec.ofNat 14 (t.pc.toNat + 4) ∧ OtherThreads s s' t ∧ Quiet s s'
    let refused := fun (n : Nat) => gives (.lnch g d a) (2 ^ 63 + n * 2 ^ 56)
    let known := fun (n : Nat) => ((getPart s t.core t.part).accTab.find? fun y => y.acc == n) = some e
      ∧ ∀ n, let q := governing e.qa e.qb n; q.members ≠ [] ∧ ∀ m ∈ q.members, m.1 = s.dev.id
    (segCheck x (t.reg a) 320 64 rightR = .ok da →
      (Issues s t g → ∃ s', exec (.lnch g d a) s = .next s' ∧ Gathers s s' t da 64 [] 1)
      ∧ (Acts s t → t.wait = .gathered bs 1 → segCheck x (t.reg a) (recLen (recNk bs)) 64 rightR = .ok da →
        ∃ s', exec (.lnch g d a) s = .next s' ∧ Gathers s s' t (da + 64) (recLen (recNk bs) - 64) bs 2)
      ∧ (Acts s t → t.wait = .gathered bs 2 → Ahead s t →
        (recordOk s da bs = false → refused 1)
        ∧ (recordOk s da bs = true → ((dirGet s acc).vd = none ∨ usable s t acc = false) → refused 2)
        ∧ ∀ v, recordOk s da bs = true → (dirGet s acc).vd = some v → usable s t acc = true →
          (recSys bs = true → refused 3) ∧ (recSys bs = false → blockPart s v bs = none → refused 6)
          ∧ (recSys bs = false → (blockPart s v bs).isSome = true → known acc →
            ∃ s', exec (.lnch g d a) s = .next s' ∧ Asks s s' t .frontier acc 0)))
    ∧ (segCheck x (t.reg a) 64 64 rightR = .ok da →
      (Issues s t g → ∃ s', exec (.snap g d a) s = .next s' ∧ Gathers s s' t da 64 [] 1)
      ∧ (Acts s t → t.wait = .gathered bs 1 → Ahead s t → (snapOk x bs = false → gives (.snap g d a) 2)
        ∧ (snapOk x bs = true → x.image.isSome = true → gives (.snap g d a) 3)
        ∧ ∀ r c, snapOk x bs = true → x.image = none → accordView s ctl = some (r, c) →
          (∀ n, let q := governing c.qa c.qb n; q.members ≠ [] ∧ ∀ m ∈ q.members, m.1 = s.dev.id) →
          ∃ s', exec (.snap g d a) s = .next s' ∧ Asks s s' t .frontier ctl 0))

/-- R19 to R22, R251, R296, R299 to R301: the launch unit takes the next decided slot. A bad record only ends its slot; one that must wait is
looked at again; else the context is made with what the record says, as a system context only when the management function submitted it,
every core of the block is its own, and (a block of one core, no order log, no halted replay) the core has its code, its constant window,
and its threads with their registers at the entry. The polls of a waiting launch, the least free context id, slot and thread id are the
model's choice (logs 7, 17). A SYS record that no management function submitted starts as an ordinary one, the model's reading (log 75). -/
def Obligations.LaunchStarts : Prop :=
  ∀ (s : State) (v p c : Nat) (w : Word) (bs img : List Byte), Canonical s → tblFind (getVd s v).decided (getVd s v).next = some w →
    ((getVd s v).decided.map (·.1)).Pairwise (· < ·) → readRecord s v w.toNat = some bs →
    let slot := (getVd s v).next
    (recordWhy s v w.toNat bs ≠ 0 → ∃ s', exec (.launchStart v) s = .next s' ∧ (getVd s' v).next = slot + 1
      ∧ tblFind (getVd s' v).decided slot = none ∧ s'.threads = s.threads)
    ∧ (recordWhy s v w.toNat bs = 0 → blockPart s v bs = some p →
      (mustWait s v p bs = true → ∃ s', exec (.launchStart v) s = .next s' ∧ s'.ctxs = s.ctxs ∧ s'.threads = s.threads ∧ s'.vds = s.vds
        ∧ ∃ q ∈ s'.pend, q.what = .launchStart v ∧ s.cycle < q.due)
      ∧ (mustWait s v p bs = false → readImage s v bs = some img → firstFree (s.ctxs.map (·.1)) 65535 1 = some c →
        ∃ s' x, exec (.launchStart v) s = .next s' ∧ getCtx s' c = some x ∧ x.vd = v ∧ x.part = p ∧ x.slot = slot ∧ x.acc = recAccord bs
          ∧ x.segs = (List.range 8).map (recSeg bs) ∧ x.sys = (recSys bs && (getVd s v).sysSlots.contains slot) ∧ x.life = .running
            ∧ x.budget = recQ bs 4
          ∧ (getVd s' v).next = slot + 1 ∧ (∀ k ∈ recCores bs, (getPart s' k.1 p).owner = c)
          ∧ ∀ k, recCores bs = [(k, 0, 0)] → bitAt (recQ bs 0) 61 = false →
            let ext := coreExtent s.dev.id bs 0 0
            img.length ≤ 16384 → memRead s'.mem (istoreKey k (sliceBase s k p)) img.length = img
            ∧ memRead s'.mem (scratchKey k (viewBase s k p)) (128 + 8 * recNk bs) = quadBytes (windowWords s bs c slot k 0 0 ext)
            ∧ ∀ i, i < threadCount bs ext → ∃ id t, getThread s' id = some t ∧ t.ctx = c ∧ t.core = k ∧ t.part = p
              ∧ t.regs = launchRegs i (subExtent bs ext i) ∧ t.pc = BitVec.ofNat 14 (sliceBase s k p + recQ bs 2 % 2 ^ 16)
              ∧ t.wait = .ready))

/-- R293, R302, R311, R354: a launch with work left is looked at again; when nothing is left its completion word is stored with status 0, and
after that its cores are zeroed for 256 cycles, or longer where arenas and region bags pass on, at whose end the context is gone. A host's
submission is answered in its ring entry: BADREC at once for a record that cannot be read, the engine's result when it has one; with the
engine busy it waits. The polls of 16 cycles, what ends with a context in one step and that RELEASE waits for the completion word are the
model's choice (logs 17, 41, 78). -/
def Obligations.LaunchEnds : Prop :=
  ∀ (s : State) (x : Ctx) (t : Thread) (c k off g : Nat) (d : Word) (ds : List Word), Canonical s →
    let answered := fun (s' : State) (n : Nat) (v : Word) => (getRing s' n).head = ((getRing s n).head + 1) % 2 ^ 32
      ∧ memRead s'.mem (ringKey s n (getRing s n).head + 16) 8 = leBytes 8 v.toNat
      ∧ memByte s'.mem (ringKey s n (getRing s n).head + 24) = 1
    (s.focus = .ctx c → getCtx s c = some x → x.life = .running → x.fault = none → x.zeroing = false →
      (∀ e ∈ s.threads, e.2.ctx ≠ c) →
      (launchBusy s c x = true → ∃ s', exec .launchComplete s = .next s' ∧ s'.ctxs = s.ctxs
        ∧ ∃ q ∈ s'.pend, q.what = .launchComplete ∧ q.who = .ctx c ∧ s.cycle < q.due)
      ∧ (launchBusy s c x = false → x.done ≠ 0 → homeOf s c (coreAt x.ox x.oy) x.part x.done = .commons g off → off + 8 ≤ 0x7F0000 →
        ∃ s' x', exec .launchComplete s = .next s' ∧ memRead s'.mem (commonsKey g off) 8 = leBytes 8 (x.slot * 2 ^ 32)
          ∧ Outside s s' (commonsKey g off) 8 ∧ getCtx s' c = some x' ∧ x'.done = 0)
      ∧ (launchBusy s c x = false → x.done = 0 → x.saved = none → ∃ s' x', exec .launchComplete s = .next s' ∧ getCtx s' c = some x'
        ∧ x'.zeroing = true ∧ ∃ q ∈ s'.pend, q.what = .zeroingEnd ∧ q.who = .ctx c ∧ s.cycle + 256 ≤ q.due
          ∧ (graphsOf s x = [] → q.due = s.cycle + 256)))
    ∧ (s.focus = .ctx c → getCtx s c = some x → x.zeroing = true → ∃ s', exec .zeroingEnd s = .next s' ∧ getCtx s' c = none
      ∧ (∀ n, n ≠ c → getCtx s' n = getCtx s n) ∧ s'.mem = s.mem ∧ s'.threads = s.threads
      ∧ ((s.parts.map (·.1)).Pairwise (· < ·) → ∀ n ∈ blockCores x, (getPart s n x.part).owner = c →
        tblFind s'.parts (partKey n x.part) = none))
    ∧ (s.focus = .idle → ∃ s', exec .zeroingEnd s = .next s' ∧ s'.mem = s.mem ∧ s'.threads = s.threads ∧ s'.ctxs = s.ctxs)
    ∧ (s.focus = .ring k → (getThread s (engineTid s)).isSome = true → ∃ s', exec .hostSubmission s = .next s' ∧ s'.mem = s.mem
      ∧ s'.threads = s.threads ∧ Sends s s' .hostSubmission)
    ∧ (s.focus = .ring k → getThread s (engineTid s) = none → readRecord s (submitVd s k (headQuad s k 0)) (headQuad s k 0) = none →
      ∃ s', exec .hostSubmission s = .next s' ∧ answered s' k (BitVec.ofNat 64 (2 ^ 63 + 2 ^ 56)))
    ∧ (Acts s t → t.tq = some k → t.held = d :: ds → ∃ s', exec .hostSubmission s = .next s' ∧ getThread s' t.id = none ∧ answered s' k d)

/-! ### Graph rewriting -/

/-- Device address of node `n` as the words of the own pool name it. -/
def Sys2Proof.Safety.poolNode (gs : GraphSt) (core n : Nat) : Nat :=
  3 * 2 ^ 52 + regionOf core * 2 ^ 23 + gs.abase + (core / 128 % 16 * 16 + core % 128 % 16) * 2 ^ (5 + gs.cl) + 32 * n

/-- R232 to R238: RULES with a good descriptor in the own scratchpad sets the graph state and empties pool and bag, a bad one is fatal 0x09,
and so is every graph instruction before it. NALLOC takes the oldest free node, else the next of its chunk, and stores the four words (0
when there is none); NFREE goes to the node's home, which marks it free once and quarantines it for 4,194,304 cycles of sw.VTIME. The zero
in a freed node's word 0 is the model's reading (log 30). -/
def Obligations.NodePool : Prop :=
  ∀ (s : State) (t : Thread) (x : Ctx) (g : BitVec 5) (d a b : BitVec 4) (gs : GraphSt) (da off n core part vt : Nat) (l : List Nat) (k : GraphPkt),
    getCtx s t.ctx = some x →
    let p := getPart s t.core t.part
    let bs := memRead s.mem (scratchKey t.core off) 64
    let v := (t.reg a).toNat
    let node := v % 2 ^ 56 / 32 * 32
    (Issues s t g → segCheck x (t.reg a) 64 64 rightR = .ok da → homeOf s t.ctx t.core t.part da = .scratch t.core off →
      poisoned s (scratchKey t.core off) 64 = false →
      (Ahead s t → rulesOk s x bs = true → p.graph = none → ∃ s' y, exec (.rules g a) s = .next s' ∧ getThread s' t.id = some (stepped t)
        ∧ OtherThreads s s' t ∧ Quiet s s' ∧ (getPart s' t.core t.part).graph = some y ∧ y.rtab.toNat = fieldAt bs 0 8
        ∧ y.abase = fieldAt bs 8 8 % 2 ^ 23 ∧ y.boff = fieldAt bs 16 8 % 2 ^ 23 ∧ (getPart s' t.core t.part).bag = 0
        ∧ (getPart s' t.core t.part).bump = 0 ∧ (getPart s' t.core t.part).free = [])
      ∧ (rulesOk s x bs = false → ∃ s', exec (.rules g a) s = .next s' ∧ FatalHere s s' t 0x09))
    ∧ (Issues s t g → p.graph = none → ∀ i, i = .nalloc g d a ∨ i = .nfree g a ∨ i = .bagins g a b ∨ i = .bagpop g d ∨ i = .rewrite g ∨ i = .link g a b →
      ∃ s', exec i s = .next s' ∧ FatalHere s s' t 0x09)
    ∧ (Issues s t g → Ahead s t → p.graph = some gs → 2 ^ 56 ≤ v → v / 2 ^ 54 % 4 ≠ 3 →
      let takes := fun (n : Nat) (q : Part) => t.uac ≤ 4091 → unackedTo (getCore s t.core) (lineOf s t.ctx n) ≤ 251 →
        homeOf s t.ctx t.core t.part n ≠ .none → addrClass n = 3 → n % 32 = 0 →
        ∃ s' u, exec (.nalloc g d a) s = .next s' ∧ getThread s' t.id = some u ∧ u.regs = writeReg t.regs d (BitVec.ofNat 64 n)
          ∧ u.uac = t.uac + 4 ∧ u.pc = BitVec.ofNat 14 (t.pc.toNat + 4) ∧ s'.mem = s.mem ∧ (getPart s' t.core t.part).free = q.free
          ∧ (getPart s' t.core t.part).bump = q.bump
          ∧ ∀ i, i < 4 → ∃ r, Sends s s' (.storeDelivery r) ∧ r.da = n + 8 * i ∧ r.act = .store (leBytes 8 (if i = 0 then v else 0))
      (p.free = n :: l → takes n { p with free := l })
      ∧ (p.free = [] → p.bump < 2 ^ gs.cl → takes (poolNode gs t.core p.bump) { p with bump := p.bump + 1 })
      ∧ (p.free = [] → 2 ^ gs.cl ≤ p.bump → ∃ s', exec (.nalloc g d a) s = .next s' ∧ WroteReg s s' t d 0))
    ∧ (Issues s t g → Ahead s t → p.graph = some gs → inArena s t.ctx gs node = true → t.uac < 4095 →
      unackedTo (getCore s t.core) (lineOf s t.ctx node) < 255 →
      ∃ s' u q, exec (.nfree g a) s = .next s' ∧ getThread s' t.id = some u ∧ u.uac = t.uac + 1 ∧ KeepsRegs t u
        ∧ u.pc = BitVec.ofNat 14 (t.pc.toNat + 4) ∧ OtherThreads s s' t ∧ Quiet s s' ∧ Sends s s' (.nfreeAtHome q) ∧ q.da = node
        ∧ q.tid = t.id)
    ∧ (Canonical s → (getPart s k.src k.part).graph = some gs → descheduled s k.ctx = false →
      let c := nodeCore gs k.da
      let m := commonsKey (k.da / 2 ^ 23 % 64) (k.da % 2 ^ 23)
      (getPart s c k.part).stopCycle = none → poisoned s m 8 = false →
      (memByte s.mem (m + 7) ≠ 0 → ∃ s' r, exec (.nfreeAtHome k) s = .next s' ∧ memRead s'.mem m 8 = List.replicate 8 0 ∧ Outside s s' m 8
        ∧ Sends s s' (.acknowledgement r .ok) ∧ Sends s s' (.quarantineExpiry c k.part k.da)
        ∧ (getPart s' c k.part).quarantine.map (·.1) = (getPart s c k.part).quarantine.map (·.1) ++ [k.da])
      ∧ (memByte s.mem (m + 7) = 0 → ∃ s' r, exec (.nfreeAtHome k) s = .next s' ∧ s'.mem = s.mem ∧ Sends s s' (.acknowledgement r .graph)))
    ∧ (((getPart s core part).quarantine.find? fun q => q.1 == n) = some (n, vt) → getCtx s (getPart s core part).owner = some x →
      (vt + 4194304 ≤ vtimeOf s x → ∃ s', exec (.quarantineExpiry core part n) s = .next s'
        ∧ (getPart s' core part).free = (getPart s core part).free ++ [n] ∧ s'.mem = s.mem ∧ s'.threads = s.threads)
      ∧ (vtimeOf s x < vt + 4194304 → ∃ s', exec (.quarantineExpiry core part n) s = .next s'
        ∧ (getPart s' core part).free = (getPart s core part).free ∧ Sends s s' (.quarantineExpiry core part n)))

/-- R239 to R242, R246: BAGINS puts its pair on top of the bag, waiting while it is full, and the 193rd entry spills the 64 oldest to the
first free block of the region bag; a pair push does so at its home; BAGPOP takes the top into g8 and g9 with status 0, or 3 for a
continuation, and with an empty bag searches. Which block is free goes by the region bag's offset (the model's choice, log entry 74). The
layout of bag and blocks is the model's own, and so is that the bag of a region is found by boff (logs 29, 74). -/
def Obligations.PairBag : Prop :=
  ∀ (s : State) (t : Thread) (g : BitVec 5) (a b d : BitVec 4) (gs : GraphSt) (k : GraphPkt),
    let p := getPart s t.core t.part
    let key := fun n => bagKey s t.core t.part n
    let x : Word := BitVec.ofNat 64 (ofLeBytes (memRead s.mem (key (p.bag - 1)) 8))
    let y : Word := BitVec.ofNat 64 (ofLeBytes (memRead s.mem (key (p.bag - 1) + 8) 8))
    (Canonical s → Issues s t g → Ahead s t → p.graph = some gs →
      (p.bag < 256 → p.bag ≠ 192 → ∃ s', exec (.bagins g a b) s = .next s' ∧ getThread s' t.id = some (stepped t) ∧ OtherThreads s s' t
        ∧ (getPart s' t.core t.part).bag = p.bag + 1 ∧ memRead s'.mem (key p.bag) 16 = quadBytes [t.reg a, t.reg b]
        ∧ Outside s s' (key p.bag) 16)
      ∧ (p.bag = 192 → key 0 + 4096 ≤ 2 ^ 48 → ∀ i, firstFree (((tblGet [] (getRegion s (regionOf t.core)).bags t.part).filter fun k => k.boff == gs.boff).map (·.index))
          gs.bsz 0 = some i →
        let block := blockKey gs (regionOf t.core) i
        ∃ s', exec (.bagins g a b) s = .next s' ∧ getThread s' t.id = some (stepped t) ∧ (getPart s' t.core t.part).bag = 129
          ∧ memRead s'.mem block 1024 = memRead s.mem (key 0) 1024 ∧ memRead s'.mem (key 0) 2048 = memRead s.mem (key 64) 2048
          ∧ memRead s'.mem (key 128) 16 = quadBytes [t.reg a, t.reg b])
      ∧ (256 ≤ p.bag → ∃ s', exec (.bagins g a b) s = .next s' ∧ OnlyThread s s' { t with wait := .until .bagRoom })
      ∧ (p.bag ≠ 0 → d ≠ 8 → d ≠ 9 → p.bounced = [] → Plain s t → poisoned s (key (p.bag - 1)) 16 = false →
        ∃ s' u, exec (.bagpop g d) s = .next s' ∧ getThread s' t.id = some u ∧ u.reg 8 = x ∧ u.reg 9 = y
          ∧ u.reg d = (if d.toNat < 10 ∧ x.getLsbD 2 then 3 else 0) ∧ (∀ c : BitVec 4, c ≠ 8 → c ≠ 9 → c ≠ d → u.reg c = t.reg c)
          ∧ u.pc = BitVec.ofNat 14 (t.pc.toNat + 4) ∧ (getPart s' t.core t.part).bag = p.bag - 1 ∧ s'.mem = s.mem ∧ OtherThreads s s' t)
      ∧ (p.bag = 0 → Plain s t → ∃ s' n, exec (.bagpop g d) s = .next s' ∧ OnlyThread s s' { t with wait := .search 0 n } ∧ s.cycle < n))
    ∧ (Canonical s → descheduled s k.ctx = false → (getPart s k.src k.part).graph = some gs →
      let c := if k.w.getLsbD 2 then k.src else nodeCore gs k.da
      let q := getPart s c k.part
      q.stopCycle = none → q.bounced = [] →
      (q.bag < 256 → q.bag ≠ 192 → ∃ s' r, exec (.pairPush k) s = .next s' ∧ (getPart s' c k.part).bag = q.bag + 1
        ∧ memRead s'.mem (bagKey s c k.part q.bag) 16 = quadBytes [k.w, k.w2] ∧ s'.threads = s.threads
        ∧ Sends s s' (.acknowledgement r .ok))
      ∧ (256 ≤ q.bag → ∃ s', exec (.pairPush k) s = .next s' ∧ (getPart s' c k.part).bounced = [k] ∧ s'.mem = s.mem
        ∧ s'.threads = s.threads))

/-- R243 to R246: REWRITE reads both nodes of the pair in g8 and g9, then the entry of their kinds, for which the node of the lower kind comes
first, and jumps to the rule with the eight words in g0 to g7; with TP a queue entry is kept for the thread, for which it waits. LINK, its
fence passed, first exchanges BUSY into the slot of a; an exchange puts its word into the slot and returns the old one; the reply to a
LINK's last exchange, with no redex made, ends it. Two words of different R are fatal 0x09. Reserved wire bits are not looked at (log 30),
and a TLOOP waits while an entry is kept for a handler (log 77); both are the model's choice. -/
def Obligations.Rewriting : Prop :=
  ∀ (s : State) (t : Thread) (g : BitVec 5) (a b : BitVec 4) (gs : GraphSt) (x : Ctx) (q : List Word) (w : Word) (ws : List Word) (bs : List Byte)
    (k : GraphPkt) (l : LinkOp) (c : Access) (r off da : Nat), (getPart s t.core t.part).graph = some gs → getCtx s t.ctx = some x →
    let v := fun (i : BitVec 4) => t.reg i
    let node := fun (w : Word) => w.toNat % 2 ^ 56 / 32 * 32
    let e := (nth 0 q 8).toNat
    let ok := fun (w : Word) => w.getLsbD 2 = false ∧ w.toNat % 4 ≠ 3 ∧ nodeOk s t.ctx t.part gs (node w) = true
    let kind := fun i => (nodeWord bs i).toNat / 2 ^ 56
    let swap := kind 4 < kind 0
    let read := t.wait = .until .tileEntry ∧ t.held = q ∧ q = w :: ws
      ∨ t.wait = .gathered bs 3 ∧ q = toQuads 8 (bs.take 64) ++ [BitVec.ofNat 64 (fieldAt bs 64 4)]
    let good := bitAt e 31 = true ∧ ((nth 0 q 0).toNat < 0xF0 * 2 ^ 56 ∧ (nth 0 q 4).toNat < 0xF0 * 2 ^ 56 ∨ bitAt e 30 = true)
    let room := bitAt e 30 = false ∨ tcmdRoom (getPart s t.core t.part) t.id = true
    (Issues s t g → t.held = [] → ok (v 8) → ok (v 9) → (v 8).toNat % 4 = 0 → (v 9).toNat % 4 = 0 →
      ∃ s' u m, exec (.rewrite g) s = .next s' ∧ getThread s' t.id = some u ∧ u.pc = t.pc ∧ KeepsRegs t u ∧ OtherThreads s s' t ∧ Quiet s s'
        ∧ u.wait = .gather ((List.range 4).map (fun i => (node (v 8) + 8 * i, 8)) ++ (List.range 4).map fun i => (node (v 9) + 8 * i, 8)) [] 2
        ∧ Sends s s' (.loadRequest m) ∧ m.da = node (v 8) ∧ m.z = 8)
    ∧ (Acts s t → t.wait = .gathered bs 2 → kind 0 ≠ 0 → kind 4 ≠ 0 → nodeWord bs 1 = v 9 → nodeWord bs 5 = v 8 →
      segCheck x (gs.rtab + BitVec.ofNat 64 (4 * (min (kind 0) (kind 4) * 256 + max (kind 0) (kind 4)))) 4 4 rightR = .ok da →
      ∃ s' u m, exec (.rewrite g) s = .next s' ∧ getThread s' t.id = some u ∧ u.pc = t.pc ∧ OtherThreads s s' t ∧ Quiet s s'
        ∧ u.wait = .gather (linesOf 2 da 4) (if swap then (bs.drop 32).take 32 ++ bs.take 32 else bs) 3
        ∧ u.reg 8 = (if swap then v 9 else v 8) ∧ u.reg 9 = (if swap then v 8 else v 9) ∧ (∀ i, i ≠ 8 → i ≠ 9 → u.reg i = v i)
        ∧ Sends s s' (.loadRequest m) ∧ m.da = da)
    ∧ (Acts s t → read → good → room →
      ∃ s' u, exec (.rewrite g) s = .next s' ∧ getThread s' t.id = some u ∧ OtherThreads s s' t ∧ Quiet s s' ∧ s'.pend = s.pend
        ∧ (∀ i : BitVec 4, i.toNat < 8 → u.reg i = nth 0 q i.toNat) ∧ u.reg 8 = v 8 ∧ u.reg 9 = v 9 ∧ u.pc = BitVec.ofNat 14 e
        ∧ u.wait = .ready ∧ u.preds = t.preds ∧ u.status = t.status
        ∧ (getPart s' t.core t.part).queue = (getPart s t.core t.part).queue
        ∧ ((getPart s' t.core t.part).reserved.contains t.id = bitAt e 30))
    ∧ (Acts s t → read → good → ¬room → ∃ s', exec (.rewrite g) s = .next s'
      ∧ OnlyThread s s' { t with held := q, wait := .until .tileEntry })
    ∧ (Issues s t g → ok (v a) → ok (v b) → Fenced t →
      ∃ s' u m, exec (.link g a b) s = .next s' ∧ getThread s' t.id = some u ∧ u.uac = 1 ∧ u.pc = t.pc ∧ KeepsRegs t u
        ∧ (∃ l, u.wait = .link l ∧ l.a = v a ∧ l.b = v b ∧ l.stage = .claimA) ∧ OtherThreads s s' t ∧ s'.mem = s.mem
        ∧ Sends s s' (.linkExchange m) ∧ m.da = node (v a) + 8 + 8 * ((v a).toNat % 4) ∧ m.w = 4 ∧ m.tid = t.id)
    ∧ (Issues s t g → (v a).getLsbD 2 ≠ (v b).getLsbD 2 → ∃ s', exec (.link g a b) s = .next s' ∧ FatalHere s s' t 0x09)
    ∧ (Canonical s → homeOf s k.ctx k.src k.part k.da = .commons r off → coreClass k.da = false →
      poisoned s (commonsKey r off) 8 = false →
      let old : Word := BitVec.ofNat 64 (ofLeBytes (memRead s.mem (commonsKey r off) 8))
      ∃ s' c m, exec (.linkExchange k) s = .next s' ∧ memRead s'.mem (commonsKey r off) 8 = leBytes 8 k.w.toNat
        ∧ Outside s s' (commonsKey r off) 8 ∧ s'.threads = s.threads ∧ Sends s s' (.fetchMergeReply c old 0 .ok m) ∧ c.who = .thread k.tid
        ∧ c.op = k.op)
    ∧ (getThread s t.id = some t → t.place ≠ .engine → Alive s t → Ahead s t → t.wait = .link l → l.stage = .joinY → l.pushes = [] →
      l.extra = [] → (l.x.toNat % 4 ≠ 0 ∨ l.y.toNat % 4 ≠ 0) → c.who = .thread t.id → c.op = t.op → (w.getLsbD 2 = false ∨ w = 4) →
      ∃ s' u, exec (.fetchMergeReply c w 0 .ok 0) s = .next s' ∧ getThread s' t.id = some u ∧ u.wait = .ready
        ∧ u.pc = BitVec.ofNat 14 (t.pc.toNat + 4) ∧ KeepsRegs t u ∧ OtherThreads s s' t ∧ s'.mem = s.mem ∧ s'.ctxs = s.ctxs)
/-! ### Stops of a context -/

/-- R302, R318, R319: a gang stop ends a running context: its threads stand where they stood with their registers, and its cores stop in
this cycle. A context off its cores only ends; one that has ended is left as it is. The completion word of one that has ended is looked at
from then on: while packets of the context are on their way it waits, then it says FAULT (1) or KILLED (3). -/
def Sys2Proof.Safety.GangStop : Prop :=
  ∀ (s : State) (c g off : Nat) (x : Ctx), Canonical s → s.focus = .ctx c → getCtx s c = some x → x.zeroing = false →
    (x.life = .running → ∃ s', exec .gangStop s = .next s' ∧ (∀ k ∈ blockCores x, (getPart s' k x.part).stopCycle = some s.cycle)
      ∧ ∀ k t, getThread s k = some t → ∃ u, getThread s' k = some u ∧ u.regs = t.regs ∧ u.preds = t.preds ∧ u.pc = t.pc
        ∧ u.wait = if t.ctx = c then .stopped else t.wait)
    ∧ (x.life = .running ∨ x.life = .descheduled → ∃ s' x', exec .gangStop s = .next s' ∧ getCtx s' c = some x'
      ∧ x'.life = .stopped x.fault.isNone ∧ x'.dusk = none ∧ x'.done = x.done
      ∧ ∃ q ∈ s'.pend, q.what = .launchComplete ∧ q.who = .ctx c ∧ s.cycle < q.due)
    ∧ ∀ b, x.life = .stopped b → exec .gangStop s = .next s
      ∧ (x.done = 0 → exec .launchComplete s = .next s)
      ∧ (x.done ≠ 0 → inTransit s c = true → ∃ s', exec .launchComplete s = .next s' ∧ s'.ctxs = s.ctxs
        ∧ ∃ q ∈ s'.pend, q.what = .launchComplete ∧ q.who = .ctx c ∧ s.cycle < q.due)
      ∧ (x.done ≠ 0 → inTransit s c = false → homeOf s c (coreAt x.ox x.oy) x.part x.done = .commons g off → off + 8 ≤ 0x7F0000 →
        ∃ s' x', exec .launchComplete s = .next s' ∧ getCtx s' c = some x' ∧ x'.life = x.life ∧ x'.done = 0
          ∧ memRead s'.mem (commonsKey g off) 8 = leBytes 8 (x.slot * 2 ^ 32 + if b then 3 else 1)
          ∧ Outside s s' (commonsKey g off) 8)

/-- R249, R320 to R323: at its dusk cycle a context is taken off its cores, which are nobody's then; a thread that could issue is saved as it
is, and no thread of it stays. While a LINK runs, a barrier is bound to release, or an ACSC has writes on their way, the stop waits;
before its cycle, and once a gang stop has begun, it does nothing. The polls of 16 cycles and the moment at which running commands
complete are the model's choice (log 15). -/
def Obligations.DuskStop : Prop :=
  ∀ (s : State) (c d : Nat) (x : Ctx), Canonical s → s.focus = .ctx c → getCtx s c = some x → x.dusk = some d → x.life = .running →
    x.zeroing = false →
    (s.cycle < d ∨ stopping s c x = true → exec .duskStop s = .next s)
    ∧ (d ≤ s.cycle → stopping s c x = false → busyAtDusk s c x = true → ∃ s', exec .duskStop s = .next s' ∧ s'.threads = s.threads
      ∧ s'.ctxs = s.ctxs
      ∧ Sends s s' .duskStop)
    ∧ (d ≤ s.cycle → stopping s c x = false → busyAtDusk s c x = false → ∃ s' x' v, exec .duskStop s = .next s' ∧ getCtx s' c = some x'
      ∧ x'.life = .descheduled
      ∧ x'.dusk = none ∧ x'.saved = some v ∧ x'.segs = x.segs ∧ (∀ n, n ≠ c → getCtx s' n = getCtx s n)
      ∧ ((s.parts.map (·.1)).Pairwise (· < ·) → ∀ k ∈ blockCores x, (getPart s' k x.part).owner = 0)
      ∧ ∀ k t, getThread s k = some t →
        (isSaved c t = true → getThread s' k = none ∧ tblFind v.threads k = some (savedThread t)
          ∧ (t.wait = .ready → tblFind v.threads k = some t))
        ∧ (isSaved c t = false → ∃ u, getThread s' k = some u ∧ KeepsRegs t u ∧ u.pc = t.pc))

/-- R309, R320, R322, R323: 4,096 cycles before the end of a turn the stop is proposed, and every running context of the partition index has
that dusk cycle. At the switch what still runs of the outgoing virtual device stops; when all are off, the next entry's contexts come back
on cores that are free and zeroed, with their threads as they were saved, and its turn begins. A turn of weight quanta, the polls and the
layout of the save are the model's choice (log 16). -/
def Obligations.Quanta : Prop :=
  ∀ (s : State) (g p : Nat) (x : Machine.PSet) (e : Sched), Canonical s → setOf s g = some x →
    let t := tblGet {} x.turns p
    let es := entriesOf x p
    let again := fun (s' : State) => ∃ q ∈ s'.pend, q.what = .quantumRestore g p ∧ s.cycle ≤ q.due
    (2 ≤ es.length → t.switching = false →
      (∃ s', exec (.quantumDuskProposal g p) s = .next s'
        ∧ ((∀ a, findAcc s g (controlAcc s (4 * g + p)) = some a → a.darr = 0) → s'.threads = s.threads)
        ∧ ∃ q ∈ s'.pend, q.what = .quantumRestore g p ∧ q.due = s.cycle + 4096)
      ∧ ∀ a n y, findAcc s g (controlAcc s (4 * g + p)) = some a → knownDecided a a.front = false → a.darr = 0 → psetOf s g = some x →
        g < 64 → p < 4 →
        nth (0, 64) (governing a.qa a.qb a.front).members 0 = (s.dev.id, g) → s.cycle % 2 ^ 60 + 4096 < 2 ^ 60 →
        n ∈ holdersOf s x p → getCtx s n = some y → y.dusk = none → y.fault = none →
        ∃ s' y', exec (.quantumDuskProposal g p) s = .next s' ∧ getCtx s' n = some y' ∧ y'.dusk = some (s.cycle + 4096)
          ∧ ∃ q ∈ s'.pend, q.what = .duskStop ∧ q.who = .ctx n ∧ q.due = s.cycle + 4096)
    ∧ (es[t.idx]? = some e →
      let out := tenants s x p e.vd
      (t.switching = false → ∃ s', exec (.quantumRestore g p) s = .next s' ∧ again s'
        ∧ ∀ n y, (n, y) ∈ out → y.life = .running → y.dusk = none → stopping s n y = false →
          ∃ y', getCtx s' n = some y' ∧ y'.dusk = some s.cycle ∧ ∃ q ∈ s'.pend, q.what = .duskStop ∧ q.who = .ctx n ∧ q.due = s.cycle)
      ∧ (t.switching = true → t.left ≠ 0 → ∃ s', exec (.quantumRestore g p) s = .next s' ∧ again s' ∧ s'.threads = s.threads)
      ∧ ∀ f, t.switching = true → t.left = 0 → es[(t.idx + 1) % es.length]? = some f →
        let turned := setTurn s g p { idx := (t.idx + 1) % es.length }
        let inn := (tenants s x p f.vd).filter fun c => c.2.life == .descheduled && inQuantum turned f.vd p (blockCores c.2)
        ((inn.all fun c => coresFree s c.2) = false → ∃ s', exec (.quantumRestore g p) s = .next s' ∧ again s' ∧ s'.ctxs = s.ctxs
          ∧ s'.threads = s.threads)
        ∧ ((inn.all fun c => coresFree s c.2) = true → ∃ s' x', exec (.quantumRestore g p) s = .next s' ∧ setOf s' g = some x'
          ∧ (tblGet {} x'.turns p).idx = (t.idx + 1) % es.length ∧ (tblGet {} x'.turns p).left = f.weight
          ∧ (tblGet {} x'.turns p).switching = false
          ∧ ∀ n y v, inn = [(n, y)] → y.saved = some v → areaCells s y = v.area → (v.threads.map (·.1)).Pairwise (· < ·) →
            (∀ e ∈ v.threads, e.2.id = e.1) →
            (∃ y', getCtx s' n = some y' ∧ y'.life = .running ∧ y'.saved = none)
            ∧ ∀ k u, (k, u) ∈ v.threads → ∃ u', getThread s' k = some u' ∧ u'.regs = u.regs ∧ u'.preds = u.preds ∧ u'.pc = u.pc
              ∧ u'.fpx = u.fpx ∧ u'.trapc = u.trapc ∧ u'.trapv = u.trapv ∧ u'.trappc = u.trappc ∧ u'.place = u.place
              ∧ u'.wait = u.wait))

/-- R275, R337, R349: a packet undelivered for its lifetime (0x30) and a soft error (0x31) are fatal: of the thread in focus, of the context
of a packet or of a partition's owner, or, in a router, of every context whose packets it holds. The lifetime is 524,288 cycles from
injection; which packets stand in a router is free. -/
def Sys2Proof.Safety.DeviceFaults : Prop :=
  ∀ (s : State) (t : Thread) (x : Ctx) (c core p n : Nat) (q : Pend),
    let faults := fun (i : Instr) (code : Nat) => ∃ s' x' f, exec i s = .next s' ∧ getCtx s' c = some x' ∧ x'.fault = some f ∧ f.code = code
      ∧ f.cyc = s.cycle ∧ ∃ r ∈ s'.pend, r.what = .gangStop ∧ r.who = .ctx c ∧ r.due ≤ s.cycle + 64
    (Acts s t → (expired s t.ctx = true → ∃ s', exec .packetLifetimeExpired s = .next s' ∧ FatalHere s s' t 0x30)
      ∧ (expired s t.ctx = false → exec .packetLifetimeExpired s = .next s)
      ∧ ∃ s', exec .softError s = .next s' ∧ FatalHere s s' t 0x31)
    ∧ (getCtx s c = some x → x.fault = none →
      (s.focus = .ctx c → (expired s c = true → faults .packetLifetimeExpired 0x30)
        ∧ (expired s c = false → exec .packetLifetimeExpired s = .next s))
      ∧ (s.focus = .part core p → (getPart s core p).owner = c → faults .softError 0x31)
      ∧ (s.focus = .core core → s.pend[n]? = some q → passes core q = true → Config.inRouter s.nonce n = true → packetCtx q.what = some c →
        faults .softError 0x31))

/-! ### Trap queues and wakes -/

/-- R315 to R317, R351: a waiting record enters its queue at the next position, with the next sequence number and its four quads in the
window, when two positions are out of use, and its thread loses RECPEND. A wake that names a live record by queue, index and thread lets a
parked thread issue its instruction again; with SKIP a held store is acknowledged and discarded; any other wake does nothing. TQHEAD sets
the consumer index. A woken load is issued again whole, the model's reading (log 48). -/
def Obligations.TrapQueues : Prop :=
  ∀ (s : State) (q : Nat) (r : TrapRec) (v : Word), Canonical s →
    let tq := getTrapQ s q
    let pos := tq.ins % 256
    (tq.waiting = [r] → r.type ≠ 5 →
      (posInUse tq pos = false → posInUse tq ((tq.ins + 1) % 256) = false → ∃ s', exec (.trapRecordInsert q) s = .next s'
        ∧ (getTrapQ s' q).waiting = [] ∧ (getTrapQ s' q).ins = tq.ins + 1
        ∧ tblFind (getTrapQ s' q).recs pos = some { r with seq := tq.ins % 65536 }
        ∧ (tq.window ≠ 0 → memRead s'.mem (tierKey 0 (tq.window + 32 * pos)) 32 = quadBytes (trapRecQuads { r with seq := tq.ins % 65536 }))
        ∧ (tq.window = 0 → s'.mem = s.mem)
        ∧ ∀ t, getThread s r.tid = some t → t.id = r.tid → getThread s' r.tid = some (t.setRecPend false))
      ∧ (posInUse tq pos = true → exec (.trapRecordInsert q) s = .next s))
    ∧ (ready s = true →
      let n := v.toNat
      let k := n / 2 ^ 48 % 256
      let i := n / 2 ^ 40 % 256
      let named := fun (r : TrapRec) => n / 2 ^ 56 % 128 = 0 ∧ isTrapQueue s k = true ∧ tblFind (getTrapQ s k).recs i = some r ∧ r.live = true
        ∧ r.tid % 2 ^ 40 = n % 2 ^ 40
      ((∀ r, ¬named r) → exec (.wake v) s = .next s)
      ∧ (∀ t, named r → r.type = 1 → r.kind ≠ 2 → (s.dev.parked.find? fun y => y.1 == r.uid) = none → getThread s r.tid = some t →
        t.id = r.tid → t.wait = .xfault → ∃ s', exec (.wake v) s = .next s'
          ∧ getThread s' r.tid = some { t with wait := .ready, held := [], kept := [] } ∧ s'.mem = s.mem
          ∧ tblFind (getTrapQ s' k).recs i = some { r with live := false })
      ∧ (∀ p a tid, named r → r.type = 2 → heldBy s r.uid = some (p, a) → a.who = .thread tid → (∃ bs, a.act = .store bs) →
        ((getPort s p).held.filter (standsBehind a)) = [] → 4 ≤ addrClass a.da → addrClass a.da ≤ 6 →
        a.via = none → a.key = none →
        (r.skipOk = true → n / 2 ^ 63 = 1 → ∃ s', exec (.wake v) s = .next s' ∧ Sends s s' (.acknowledgement a .discarded) ∧ s'.mem = s.mem
          ∧ (∀ h ∈ (getPort s' p).held, h.trap ≠ some r.uid) ∧ tblFind (getTrapQ s' k).recs i = some { r with live := false })
        ∧ (n / 2 ^ 63 = 0 → ∃ s0 m, exec (accessStep a) s0 = .next m ∧ exec (.wake v) s = .next (askInsert m k) ∧ s0.mem = s.mem
          ∧ s0.threads = s.threads ∧ (∀ h ∈ (getPort s0 p).held, h.trap ≠ some r.uid)
          ∧ tblFind (getTrapQ s0 k).recs i = some { r with live := false }))
      ∧ (q < 256 → ∃ s', exec (.tqhead q v) s = .next s' ∧ (getTrapQ s' q).head = n % 65536 ∧ s'.mem = s.mem ∧ s'.threads = s.threads
        ∧ Sends s s' (.trapRecordInsert q)))
    ∧ (ready s = false → exec (.wake v) s = .next s ∧ exec (.tqhead q v) s = .next s)

/-! ### Pages -/

/-- A ring's head entry is answered with a status in its quad 3 and consumed; no other byte changes. -/
def Sys2Proof.Safety.Answered (s s' : State) (k code : Nat) : Prop :=
  (getRing s' k).head = ((getRing s k).head + 1) % 2 ^ 32 ∧ memByte s'.mem (ringKey s k (getRing s k).head + 24) = BitVec.ofNat 8 code
    ∧ Outside s s' (ringKey s k (getRing s k).head + 24) 1

/-- Accesses are presented to their homes one after another, each as its own step. -/
def Sys2Proof.Safety.Presented (s' : State) : List Access → State → Prop
  | [], s => s' = s
  | a :: l, s => ∃ m, exec (accessStep a) s = .next m ∧ Presented s' l m

/-- R281, R285 to R287, R352: MIGRATE, EVICT, INVAL and FRAMES of the memory ring. A malformed one is answered 2, a page that is not mapped 3,
an eviction that finds too few pages 4 with their number; a good MIGRATE or EVICT starts the moves of its pages; INVAL drops the completed
translations of its range and FRAMES puts its frames on the free list, answered 1. Which fields are checked, the tiers of EVICT and the
order of a free list are the model's reading (log 19). -/
def Obligations.MemoryRing : Prop :=
  ∀ (s : State) (x : Ctx), Canonical s → s.focus = .ring 0 →
    let q := headQuad s 0 0
    let f := headQuad s 0 2
    let va := headQuad s 0 1
    let ctx := q / 2 ^ 32 % 2 ^ 16
    let cls := q % 16
    let ends := fun (i : Instr) (code : Nat) => ∃ s', exec i s = .next s' ∧ Answered s s' 0 code ∧ s'.threads = s.threads ∧ s'.ctxs = s.ctxs
    let starts := fun (i : Instr) (c cl v tier pa : Nat) (l : Leaf) => ∃ s', exec i s = .next s' ∧ s'.mem = s.mem ∧ s'.threads = s.threads
      ∧ (getRing s' 0).head = ((getRing s 0).head + 1) % 2 ^ 32
      ∧ ∃ j ∈ s'.dev.migrating, j.ctx = c ∧ j.cls = cl ∧ j.va = v / l.size * l.size ∧ j.pa = l.pa ∧ j.newTier = tier ∧ j.newPa = pa
        ∧ ∃ e ∈ s'.pend, e.what = .pageMigrationDone c cl (v / l.size * l.size)
    let moveOk := q / 2 ^ 48 % 2 ^ 8 = 0 ∧ q % 2 ^ 32 / 2 ^ 4 = 0 ∧ 4 ≤ cls ∧ cls ≤ 6 ∧ f / 2 ^ 56 = 0 ∧ f / 2 ^ 48 % 2 ^ 6 = 0 ∧ f % 2 ^ 8 = 0
      ∧ va / 2 ^ (if cls = 4 then 39 else if cls = 5 then 41 else 48) = 0 ∧ tierAllowed cls (f / 2 ^ 54 % 4) = true
    (getCtx s ctx = none → ends .migrate 2 ∧ ends .inval 2)
    ∧ (getCtx s ctx = some x →
      (¬moveOk → ends .migrate 2) ∧ (moveOk → leafOf s x cls va = none → ends .migrate 3)
      ∧ (∀ l, moveOk → leafOf s x cls va = some l → f % 2 ^ 48 % l.size = 0 → frameInTier (f / 2 ^ 54 % 4) (f % 2 ^ 48) l.size = true →
        findJob s.dev.migrating ctx cls va = none → starts .migrate ctx cls va (f / 2 ^ 54 % 4) (f % 2 ^ 48) l)
      ∧ (∀ l, moveOk → leafOf s x cls va = some l → ¬(f % 2 ^ 48 % l.size = 0 ∧ frameInTier (f / 2 ^ 54 % 4) (f % 2 ^ 48) l.size = true) →
        ends .migrate 2)
      ∧ (q / 2 ^ 48 % 2 ^ 8 = 0 → q % 2 ^ 32 / 2 ^ 4 = 0 → 4 ≤ cls → cls ≤ 6 → ends .inval 1
        ∧ ∀ s', exec .inval s = .next s' → ∀ p ∈ s'.ports, ∀ e ∈ p.2.tlb, e.ctx = ctx → e.cls = cls → va + f ≤ e.va ∨ e.va + e.size ≤ va))
    ∧ (let tier := q / 2 ^ 48 % 4
      let i := q / 2 ^ 40 % 4
      let size := if i = 0 then 2 ^ 16 else if i = 1 then 2 ^ 21 else 2 ^ 30
      let good := q / 2 ^ 56 = 4 ∧ q / 2 ^ 50 % 2 ^ 6 = 0 ∧ q / 2 ^ 42 % 2 ^ 6 = 0 ∧ q % 2 ^ 40 = 0 ∧ tier ≠ 3 ∧ i ≠ 3 ∧ va % size = 0
        ∧ frameInTier tier va (f * size) = true
      (¬good → ends .frames 2)
      ∧ (good → ends .frames 1 ∧ ∀ s', exec .frames s = .next s' →
        tblGet [] s'.dev.frames (4 * tier + i) = tblGet [] s.dev.frames (4 * tier + i) ++ (List.range f).map fun n => va + n * size))
    ∧ (let src := q / 2 ^ 48 % 4
      let dst := q / 2 ^ 50 % 4
      let n := q % 2 ^ 32
      let good := q / 2 ^ 52 % 16 = 0 ∧ q / 2 ^ 32 % 2 ^ 16 = 0 ∧ va = 0 ∧ f = 0 ∧ src ≤ 1 ∧ dst = 1 - src
      (¬good → ends .evict 2) ∧ (good → n = 0 → ends .evict 1)
      ∧ (good → n ≠ 0 → evictable s src = [] → ∃ s', exec .evict s = .next s' ∧ (getRing s' 0).head = ((getRing s 0).head + 1) % 2 ^ 32
        ∧ memByte s'.mem (ringKey s 0 (getRing s 0).head + 24) = 4
        ∧ memRead s'.mem (ringKey s 0 (getRing s 0).head + 16) 8 = List.replicate 8 0)
      ∧ ∀ c cl v l pa fs, good → n = 1 → evictable s src = [(c, cl, v, l)] → bitAt l.e 57 = false →
        tblGet [] s.dev.frames (4 * dst + sizeIndex l.size) = pa :: fs →
        starts .evict c cl v dst pa l)

/-- R284, R287: a page is zeroed, and what waited for it is presented in order of arrival. A page is moved: its bytes are at the new frame,
its entry names that, its old frame is free; then the held writes are presented, and after them the waiting loads. While an access that a
port has sent on is still on its way to the old frame the move waits. R127, R275: scrubbing adds the errors that it corrected to its
port's count and poisons the words of its tier that it found uncorrectable, and does nothing else. Unit 64 + g is the ECC of the SRAMs of
region g, the model's choice (log entry 46). What a scrub finds comes with its step (log 46). -/
def Obligations.PagesDone : Prop :=
  ∀ (s : State) (j : PageJob) (port page ctx cls va fixed g : Nat) (bad : List Nat), Canonical s →
    let plain := fun (a : Access) => 4 ≤ addrClass a.da ∧ addrClass a.da ≤ 6 ∧ a.via = none ∧ a.key = none
    ((s.dev.zeroing.find? fun j => tierKey j.tier j.pa == page) = some j → (∀ a ∈ j.waiting, plain a) →
      ∃ s' s0, exec (.pageZeroingDone port page) s = .next s' ∧ s0 = { s with dev := s0.dev }
        ∧ (∀ i, i ∈ s0.dev.zeroing ↔ i ∈ s.dev.zeroing ∧ tierKey i.tier i.pa ≠ page) ∧ Presented s' j.waiting s0)
    ∧ ((s.dev.migrating.find? fun j => j.ctx == ctx && j.cls == cls && j.va == va) = some j → (∀ a ∈ j.waiting, plain a) →
      let src := tierKey j.tier j.pa
      let dst := tierKey j.newTier j.newPa
      let ent := tierKey 0 j.entry
      let answer := fun (k : Nat) => ∃ c, j.cmd = some c ∧ k = ringKey s 0 (c % 2 ^ 32) + 24
      let coming := s.pend.any fun p => towardsPage src j.size p.what
      (coming = true → ∃ s', exec (.pageMigrationDone ctx cls va) s = .next s' ∧ s'.mem = s.mem ∧ s'.dev = s.dev
        ∧ Sends s s' (.pageMigrationDone ctx cls va))
      ∧ (coming = false → ∃ s' s0, exec (.pageMigrationDone ctx cls va) s = .next s'
        ∧ Presented s' ((j.waiting.filter fun a => (walkKindOf a.act).writes) ++ j.waiting.filter fun a => !(walkKindOf a.act).writes) s0
        ∧ s0.threads = s.threads ∧ (s0.dev.migrating.find? fun j => j.ctx == ctx && j.cls == cls && j.va == va) = none
        ∧ (∀ i, i < j.size → (dst + i < ent ∨ ent + 8 ≤ dst + i) → ¬answer (dst + i) → memByte s0.mem (dst + i) = memByte s.mem (src + i))
        ∧ ((∀ i, i < 8 → ¬answer (ent + i)) → j.newTier < 4 → j.newPa % 2 ^ 8 = 0 → j.newPa < 2 ^ 48 →
          let e := ofLeBytes (memRead s0.mem ent 8)
          e / 2 ^ 54 % 4 = j.newTier ∧ e % 2 ^ 48 / 2 ^ 8 * 2 ^ 8 = j.newPa)
        ∧ (tblGet [] s0.dev.frames (4 * j.tier + sizeIndex j.size)).getLast? = some j.pa
        ∧ ∀ c, j.cmd = some c → (∀ i ∈ s.dev.migrating, i.cmd = j.cmd → i = j) →
          memByte s0.mem (ringKey s 0 (c % 2 ^ 32) + 24) = BitVec.ofNat 8 (c / 2 ^ 32)))
    ∧ (port < 64 → ∃ s', exec (.scrubPass port fixed bad) s = .next s' ∧ s' = { s with poison := s'.poison, ports := s'.ports }
      ∧ (∀ p, p < 12 → getPort s' p = if p = port then { getPort s p with ce := min (2 ^ 64 - 1) ((getPort s p).ce + fixed) } else getPort s p)
      ∧ ∀ w, w ∈ s'.poison ↔ w ∈ s.poison
        ∨ ∃ b ∈ bad, servesFrame port b = true ∧ w = tierKey (if port < 8 then 0 else 1) b / 8 * 8)
    ∧ (g < 64 → ∃ s', exec (.scrubPass (64 + g) fixed bad) s = .next s' ∧ s' = { s with poison := s'.poison, regions := s'.regions }
      ∧ (∀ n, n ≠ g → getRegion s' n = getRegion s n)
      ∧ getRegion s' g = { getRegion s g with ce := min (2 ^ 64 - 1) ((getRegion s g).ce + fixed), dir := (getRegion s' g).dir }
      ∧ ∀ w, w ∈ s'.poison ↔ w ∈ s.poison ∨ ∃ b ∈ bad, sramOf g b = true ∧ w = b / 8 * 8)

/-! ### Snapshot images -/

/-- R288 to R290: the notice of an epoch starts the writer of its image, whose header says WRITING (0) before the first page. A written page
is no longer to write, its poisoned words are counted, and writes to it no longer wait; without pages left the image is completed: quads 1
to 511 of the header at the destination, then, once no store of the image waits for its page, quad 0 with epoch, request and COMPLETE (1)
or FAILED (2), and the context has no image in progress. The places of the segments in an image are the model's reading (log 18). -/
def Obligations.ImageWriter : Prop :=
  ∀ (s : State) (c e i off : Nat) (x : Ctx) (j : ImageJob), Canonical s → getCtx s c = some x → x.image = some j →
    let core := coreAt x.ox x.oy
    let storing := fun (da : Nat) (bs : List Byte) (s1 : State) (k : Nat) => ∃ p cls va tier n, homeOf s c core x.part da = .port p cls va
      ∧ Machine.translate s p ⟨.unit, 0, c, x.part, core, 0, da, bs.length, 0, .store bs, none, none⟩ c cls va ⟨false, true, false⟩
        = (s1, .key k tier n)
    (j.epoch = e → j.writing = false → ∃ s' x', exec (.epochNotice c e) s = .next s' ∧ getCtx s' c = some x'
      ∧ x'.image = some { j with writing := true } ∧ s'.mem = s.mem ∧ Sends s s' .imagePageWrite)
    ∧ (j.epoch ≠ e → exec (.epochNotice c e) s = .next s)
    ∧ (s.focus = .ctx c → j.parked = false → j.writing = true → j.held = [] →
      (∀ s1 k, j.begun = false → j.dest % 8 = 0 → let bs := quadBytes [headerQuad0 j 0]; storing j.dest bs s1 k →
        ∃ s' x', exec .imagePageWrite s = .next s' ∧ getCtx s' c = some x' ∧ x'.image = some { j with begun := true }
          ∧ s'.mem = memWrite s1.mem k bs ∧ ∃ q ∈ s'.pend, q.what = .imagePageWrite ∧ q.who = .ctx c)
      ∧ (j.begun = true → j.todo = [] → ∃ s', exec .imagePageWrite s = .next s' ∧ s'.mem = s.mem
        ∧ ∃ q ∈ s'.pend, q.what = .imageComplete ∧ q.who = .ctx c)
      ∧ (j.begun = true → nextPage x j = some (i, off) → bitAt j.req (8 + i) = false →
        let g := nth {} x.segs i
        let r := imageRead s c x (g.base + off) (min g.limit ((g.base + off) / 65536 * 65536 + 65536 - g.base) - off)
        let n := r.2.1.length
        (imagePut c x j (pieces 65536 (n / 65536 + 2) (j.dest + imageOff x j i + off) n) r.2.1 r.1).2 = true →
        ∃ s' x' j', exec .imagePageWrite s = .next s' ∧ getCtx s' c = some x' ∧ x'.image = some j' ∧ j'.todo = j.todo.filter (· != (i, off))
          ∧ j'.poison = j.poison + r.2.2 ∧ j'.failed = (j.failed || r.2.2 != 0) ∧ ∃ q ∈ s'.pend, q.what = .imagePageWrite ∧ s.cycle < q.due))
    ∧ (s.focus = .ctx c → j.parked = false → j.todo = [] → j.held = [] → j.dest % 4096 = 0 → ∀ s1 k,
      (j.headed = false → let bs := quadBytes (headerQuads x j); storing (j.dest + 8) bs s1 k →
        ∃ s' x', exec .imageComplete s = .next s' ∧ getCtx s' c = some x' ∧ x'.image = some { j with headed := true }
          ∧ s'.mem = memWrite s1.mem k bs ∧ ∃ q ∈ s'.pend, q.what = .imageComplete ∧ q.who = .ctx c)
      ∧ (j.headed = true → imageWaits s c = true → ∃ s', exec .imageComplete s = .next s' ∧ s'.mem = s.mem ∧ s'.ctxs = s.ctxs
        ∧ ∃ q ∈ s'.pend, q.what = .imageComplete ∧ q.who = .ctx c)
      ∧ (j.headed = true → imageWaits s c = false →
        let state := if j.failed then 2 else 1
        let bs := quadBytes [BitVec.ofNat 64 (j.epoch % 2 ^ 32 * 2 ^ 32 + state * 2 ^ 28 + j.req % 2 ^ 28)]
        storing j.dest bs s1 k →
        ∃ s' x', exec .imageComplete s = .next s' ∧ getCtx s' c = some x' ∧ x'.image = none ∧ s'.mem = memWrite s1.mem k bs))

/-! ### The networks and the loops -/

/-- R336, R338: a sweep begins and ends; at its end the routers have been used by what was under way. A wake, or the cycle before a sweep,
lets a gated router wake, which is on 12 cycles later and then idle; after 4,096 idle cycles a router that nothing uses is gated, and one
whose core holds a thread, or that a packet under way passes, is not. -/
def Sys2Proof.Safety.Routers : Prop :=
  ∀ (s : State) (c : Nat),
    let k := getCore s c
    let keeps := fun (s' : State) => s'.mem = s.mem ∧ s'.threads = s.threads ∧ s'.ctxs = s.ctxs ∧ s'.cycle = s.cycle
    let wakes := fun (s' : State) => (getCore s' c).router = 2 ∧ ∃ p ∈ s'.pend, p.what = .routerOn ∧ p.who = .core c ∧ p.due = s.cycle + 12
    exec .cicadaSweep s = .next { s with dev := { s.dev with sweeping := true } }
    ∧ (∃ s', exec .cicadaSweepEnd s = .next s' ∧ s' = { s with dev := { s.dev with sweeping := false }, cores := s'.cores }
      ∧ (getCore s' c).router = k.router ∧ k.idle ≤ (getCore s' c).idle ∧ (inFlight s = false → s'.cores = s.cores))
    ∧ (∃ s', exec .sweepPrewake s = .next s' ∧ keeps s' ∧ (k.router = 1 → wakes s') ∧ (k.router ≠ 1 → getCore s' c = k))
    ∧ (s.focus = .core c →
      (k.router = 1 → ∃ s', exec .fireflyWake s = .next s' ∧ keeps s' ∧ wakes s') ∧ (k.router ≠ 1 → exec .fireflyWake s = .next s)
      ∧ (k.router = 2 → ∃ s', exec .routerOn s = .next s' ∧ keeps s' ∧ (getCore s' c).router = 0 ∧ (getCore s' c).idle = s.cycle
        ∧ ∃ p ∈ s'.pend, p.what = .routerGate ∧ p.due = s.cycle + 4096)
      ∧ (k.router = 0 → k.idle + 4096 ≤ s.cycle → (∀ t ∈ s.threads, t.2.core = c → t.2.slot? = none) → regionHub (regionOf c) ≠ c →
        (∀ p ∈ s.pend, passes c p = false) → ∃ s', exec .routerGate s = .next s' ∧ keeps s' ∧ getCore s' c = { k with router := 1 })
      ∧ ((∃ t ∈ s.threads, t.2.core = c ∧ t.2.slot?.isSome = true) ∨ s.cycle < k.idle + 4096 ∨ (∃ p ∈ s.pend, passes c p = true) →
        exec .routerGate s = .next s))

/-- R342 to R344, R349: a damaged flit, and one after a gap, is answered with a NAK of the expected number; one in sequence is accepted; its
acknowledgement frees the replay buffer; the last flit of a packet for another device sends it on, one hop further, and a header that names
no kind or device is fatal 0x30 of the context that sent it. A NAK for an unacknowledged flit is a resend, of which the eighth ends the
link, as 65,536 cycles without acknowledgement do. A link that retrains within its flight time is up with an empty replay buffer, and a
packet whose last flit was not received gets its drop notice, which its thread counts. -/
def Sys2Proof.Safety.Links : Prop :=
  ∀ (s : State) (l seq last dev iv c : Nat) (f : Flit) (t : Thread) (x : Ctx),
    let k := getLink s l
    let passed := fun (a b : Nat) => (b + 4096 - a % 4096) % 4096 < 2048
    let sets := fun (i : Instr) (k' : Link) => exec i s = .next (setLink s l k')
    let field := fun (off n : Nat) => ofLeBytes ((f.body.drop off).take n)
    let whole := f.head = true ∧ f.tail = true ∧ 16 ≤ f.body.length
    let named := field 4 1 ≠ 0 ∧ field 4 1 ≤ 16 ∧ field 5 1 < 4 ∧ inFabric s (field 0 2) = true
    (k.up = false → exec (.flitReceive l f) s = .next s ∧ exec (.nakReceive l seq) s = .next s)
    ∧ (k.up = true → f.good = false → sets (.flitReceive l f) { k with naks := k.naks ++ [k.expect] })
    ∧ (k.up = true → f.good = true → ∃ s', exec (.flitReceive l f) s = .next s'
      ∧ (getLink s' l).expect = (if f.seq = k.expect then (k.expect + 1) % 4096 else k.expect)
      ∧ (getLink s' l).naks = (if f.seq = k.expect ∨ passed f.seq k.expect then k.naks else k.naks ++ [k.expect])
      ∧ (s.dev.backlog = [] → f.seq ≠ k.expect ∨ f.tail = false → s'.mem = s.mem ∧ s'.threads = s.threads
        ∧ ∀ y, y ∈ (getLink s' l).replay ↔ y ∈ k.replay ∧ ¬passed y.seq f.ack))
    ∧ (k.up = true → f.good = true → f.seq = k.expect → whole → named → field 0 2 ≠ s.dev.id →
      ∃ s0, exec (.flitReceive l f) s = .next (retryRoutes (routeOut s0 ⟨field 0 2, f.vc / 5, f.vc % 5 + 1, none, [f.body]⟩))
        ∧ s0.dev = s.dev ∧ s0.mem = s.mem ∧ s0.threads = s.threads ∧ ∀ n, n ≠ l → getLink s0 n = getLink s n)
    ∧ (k.up = true → f.good = true → f.seq = k.expect → whole → ¬named → field 2 2 = s.dev.id → c = field 12 2 → getCtx s c = some x →
      x.fault = none → ∃ s' x' r, exec (.flitReceive l f) s = .next s' ∧ getCtx s' c = some x' ∧ x'.fault = some r ∧ r.code = 0x30
        ∧ r.tid = field 6 5)
    ∧ (k.up = true → (∃ y ∈ k.replay, ¬passed y.seq (seq % 4096 + 4095)) → ∃ s', exec (.nakReceive l seq) s = .next s'
      ∧ (∀ y, y ∈ (getLink s' l).replay ↔ y ∈ k.replay ∧ ¬passed y.seq (seq % 4096 + 4095))
      ∧ ((∀ y ∈ k.replay, ¬passed y.seq (seq % 4096 + 4095)) → (getLink s' l).resends = k.resends + 1
        ∧ (7 ≤ k.resends → Sends s s' .linkDown)))
    ∧ (s.focus = .link l → k.up = true →
      (8 ≤ k.resends ∨ (k.replay ≠ [] ∧ k.lastAck + 65536 ≤ s.cycle) → sets .linkDown { k with up := false })
      ∧ (k.resends < 8 → k.replay = [] → exec .linkDown s = .next s)
      ∧ (k.resends < 8 → k.replay ≠ [] → s.cycle < k.lastAck + 65536 → ∃ s', exec .linkDown s = .next s' ∧ s'.links = s.links
        ∧ ∃ q ∈ s'.pend, q.what = .linkDown ∧ q.who = .link l ∧ q.due = k.lastAck + 65536))
    ∧ (k.up = false → k.flight ≤ flightLimit l → ∃ s', exec (.linkRetrain l true last) s = .next s' ∧ (getLink s' l).up = true
      ∧ (getLink s' l).retrains = k.retrains + 1
      ∧ (s.dev.backlog = [] → k.replay = [] → (getLink s' l).replay = [] ∧ (getLink s' l).next = (last + 1) % 4096)
      ∧ (k.replay = [f] → whole → field 14 1 ≠ 0 → field 2 2 = s.dev.id → ¬passed f.seq (last % 4096) →
        Sends s s' (.dropNotice (field 6 5) (field 0 2) (field 11 1))))
    ∧ exec (.linkRetrain l false last) s = .next s ∧ (flightLimit l < k.flight → exec (.linkRetrain l true last) s = .next s)
    ∧ (getThread s t.id = some t → iv = t.interval → ∃ s', exec (.dropNotice t.id dev iv) s = .next s'
      ∧ OnlyThread s s' { t with peers := t.peers.map fun p => if p.iv == iv && p.dev == dev then { p with dropped := p.dropped + 1 } else p })

/-- R345, R346: a query closes its interval and is answered with the number of packets delivered. When every peer has answered, or the time
for it is over, the interval ends: unacknowledged remote accesses are written off, and the first peer whose totals differ is the
mismatch that the fence reports. An interval that a ninth peer closed is checked in background in the same way, and its mismatch waits for
the next fence. -/
def Sys2Proof.Safety.FenceCounts : Prop :=
  ∀ (s : State) (t : Thread) (dev tid iv total : Nat) (got : List (Nat × Nat)),
    let n := (countAt s dev tid iv).total
    let mine := getThread s t.id = some t
    let ends := fun (s' : State) (g : List (Nat × Nat)) => OnlyThread s s' { t with
      peers := [], counted := true, interval := (t.interval + 1) % 256, uac := t.uac - remoteUnacked t, owed := none, wait := .until .always,
      mism := match t.owed with
        | some m => some m
        | none => firstMismatch 0 t.peers g }
    let again := fun (s' : State) (op : Nat) => ∃ p ∈ s'.pend, p.what = .fenceCountTimeout ∧ p.who = .op t.id op ∧ p.due = s.cycle + 262144
    (∃ s' c, exec (.countQuery dev tid iv) s = .next s' ∧ c ∈ s'.counts ∧ c.dev = dev ∧ c.tid = tid ∧ c.iv = iv ∧ c.closed = true ∧ c.total = n
      ∧ s'.threads = s.threads ∧ s'.mem = s.mem ∧ (dev = s.dev.id → Sends s s' (.countReply tid iv dev n)))
    ∧ (mine → Alive s t → t.wait = .count got →
      (∀ p, t.peers = [p] → p.iv = iv → p.dev = dev → got = [] → ∃ s', exec (.countReply t.id iv dev total) s = .next s' ∧ ends s' [(0, total)]
        ∧ (t.owed = none → ((∃ u, getThread s' t.id = some u ∧ u.mism = none) ↔ p.src = total)))
      ∧ (∀ i, peerIndex iv dev 0 t.peers = some i → (tblSet got i total).length < t.peers.length →
        ∃ s', exec (.countReply t.id iv dev total) s = .next s' ∧ OnlyThread s s' { t with wait := .count (tblSet got i total) }))
    ∧ (mine → s.focus = .op t.id t.op → t.op < checkOp 0 →
      (t.wait = .count got → ∃ s', exec .fenceCountTimeout s = .next s' ∧ ends s' got)
      ∧ (t.wait = .until .uacZero → t.uac ≤ remoteUnacked t →
        ∃ s' u, exec .fenceCountTimeout s = .next s' ∧ getThread s' t.id = some u ∧ u.wait = .count [] ∧ u.pc = t.pc ∧ KeepsRegs t u
          ∧ OtherThreads s s' t ∧ again s' (t.op + 1))
      ∧ (t.wait = .until .uacZero → remoteUnacked t < t.uac → ∃ s', exec .fenceCountTimeout s = .next s' ∧ s'.threads = s.threads
        ∧ Sends s s' .fenceCountTimeout))
    ∧ (mine → iv < 2 ^ 64 →
      (s.focus = .op t.id (checkOp iv) → iv ≠ t.interval → peersOf t iv ≠ [] → (peersOf t iv).any (·.asked) = false →
        ∃ s' u, exec .fenceCountTimeout s = .next s' ∧ getThread s' t.id = some u ∧ OtherThreads s s' t ∧ again s' (totalOp iv)
          ∧ u = { t with peers := t.peers.map fun p => if p.iv = iv then { p with asked := true } else p })
      ∧ (s.focus = .op t.id (totalOp iv) → (peersOf t iv).any (·.asked) = true → ∃ s', exec .fenceCountTimeout s = .next s'
        ∧ OnlyThread s s' { t with
          uac := t.uac - (peersOf t iv).foldl (fun n p => n + (p.src - p.acked)) 0, peers := t.peers.filter fun p => p.iv != iv,
          owed := match t.owed with
            | some m => some m
            | none => closedMismatch (peersOf t iv) }))

/-- R360 to R362: in an interval each clock moves to its target by 50 MHz at most and each target follows the module's power; two intervals
above the cap, or the regulator, enter the alarm, 64 below it leave it. The alarm narrows every region, and its end widens them. An
equaliser moves one setting of a lane by one step within its range, and none in an interval that a sweep overlaps; a lane that stayed
below 10 mV for 16 intervals takes its link down. -/
def Sys2Proof.Safety.Loops : Prop :=
  ∀ (s : State) (g l i : Nat) (on : Bool) (k : Link), g < 64 →
    let d := s.dev
    let r := getRegion s g
    let p := modulePower s
    let own := Config.regionPower s.nonce g
    (ready s = true → 1000 ≤ d.pcap → ∃ s', exec .vfLoopInterval s = .next s' ∧ s'.dev.pwr = p ∧ s'.threads = s.threads ∧ s'.mem = s.mem
      ∧ (getRegion s' g).clock = (if r.clock < r.target then min r.target (r.clock + 50) else max r.target (r.clock - 50))
      ∧ (getRegion s' g).target = (if d.pcap < p + 100 then (if d.pcap < 64 * own then max 900 (r.target - 50) else r.target)
        else if p + 300 < d.pcap then min 1300 (r.target + 25) else r.target)
      ∧ s'.dev.overCnt = (if d.pcap < p then d.overCnt + 1 else 0)
      ∧ (d.alarm = false → (d.pcap < p ∧ 1 ≤ d.overCnt) ∨ d.regulator = true → Sends s s' .alarmEntry)
      ∧ (d.alarm = true → p + 300 < d.pcap → d.regulator = false → 63 ≤ d.clearCnt → Sends s s' .alarmClear))
    ∧ (d.alarm = false → ∃ s', exec .alarmEntry s = .next s' ∧ s'.dev.alarm = true ∧ s'.dev.alarmCount = d.alarmCount + 1
      ∧ (getRegion s' g) = { r with narrow := true } ∧ s'.threads = s.threads)
    ∧ (d.alarm = true → 64 ≤ d.clearCnt → d.regulator = false → ∃ s', exec .alarmClear s = .next s' ∧ s'.dev.alarm = false
      ∧ (getRegion s' g) = { r with narrow := false } ∧ s'.threads = s.threads)
    ∧ (∃ s', exec (.regulatorAlarm on) s = .next s' ∧ s'.dev.regulator = on ∧ (on = true → d.alarm = false → Sends s s' .alarmEntry))
    ∧ ((s.links.map (·.1)).Pairwise (· < ·) → tblFind s.links l = some k → ∃ s' k', exec .eqAdapt s = .next s' ∧ tblFind s'.links l = some k'
      ∧ (k.up = false → k' = k)
      ∧ (k.up = true → i < lanesOf l →
        let t := nth [0, 0, 0, 0] k.taps i
        let u := nth [0, 0, 0, 0] k'.taps i
        let m := Config.laneMargin s.nonce (128 * l + i)
        k'.margin ≤ m ∧ nth 0 k'.low i = (if m < 10 then nth 0 k.low i + 1 else 0) ∧ (m < 10 → 15 ≤ nth 0 k.low i → Sends s s' .laneMarginFail)
        ∧ ((s.dev.sweeping = true ∨ s.cycle % 65536 = 1024) → u = t)
        ∧ (t.length = 4 → (∀ v ∈ t, -15 ≤ v ∧ v ≤ 15) → (∀ v ∈ u, -15 ≤ v ∧ v ≤ 15)
          ∧ ∃ b, ∀ j, (j ≠ b → nth 0 u j = nth 0 t j) ∧ (nth 0 u j - nth 0 t j).natAbs ≤ 1)))
    ∧ (s.focus = .link l → (getLink s l).up = true → (∃ c ∈ (getLink s l).low, 16 ≤ c) →
      exec .laneMarginFail s = .next (setLink s l { getLink s l with up := false }))

/-! ### The host port -/

/-- R350, R351: before READY, at an unaligned offset, at one that the map does not name, or from the debug function a register write does
nothing. Else BASE and SIZE take it only while HEAD = TAIL, TAIL takes it, PCAP from 1,000 to 4,000, WAKEV all of it, an error count is
cleared, and a virtual function reaches its own launch ring. That a SIZE outside 4 to 16 is discarded is the model's reading (log 41). -/
def Obligations.Registers : Prop :=
  ∀ (s : State) (fn off k v : Nat) (w : Word),
    let f := .registerWrite fn off w
    let ring := fun (i : Instr) (k o : Nat) =>
      let r := getRing s k
      (o = 0 → r.head = r.tail → exec i s = .next (setRing s k { r with base := w &&& 0x8000FFFFFFFFF000 }))
      ∧ (o = 8 → r.head = r.tail → 4 ≤ w.toNat → w.toNat ≤ 16 → exec i s = .next (setRing s k { r with size := w.toNat }))
      ∧ (o = 0 ∨ o = 8 → r.head ≠ r.tail → exec i s = .next s)
      ∧ (o = 0x10 → ∃ s', exec i s = .next s' ∧ (getRing s' k).tail = w.toNat % 2 ^ 32 ∧ (getRing s' k).head = r.head ∧ s'.mem = s.mem
        ∧ s'.threads = s.threads)
      ∧ (o = 0x18 → exec i s = .next s)
    (ready s = false ∨ off % 8 ≠ 0 ∨ 17 ≤ fn → exec f s = .next s)
    ∧ (ready s = true →
      (k < 3 → ring (.registerWrite 0 (0x100 + 0x20 * k + off) w) k off)
      ∧ (v < 16 → ring (.registerWrite (1 + v) (0x140 + off) w) (3 + v) off)
      ∧ exec (.registerWrite 0 0x800 w) s
        = .next (if 1000 ≤ w.toNat ∧ w.toNat ≤ 4000 then { s with dev := { s.dev with pcap := w.toNat } } else s)
      ∧ exec (.registerWrite 0 0x20 w) s = .next { s with dev := { s.dev with wakev := w } }
      ∧ (k < 64 → ∃ s', exec (.cereg k) s = .next s' ∧ getRegion s' k = { getRegion s k with ce := 0 }
        ∧ (∀ n, n ≠ k → getRegion s' n = getRegion s n) ∧ exec (.registerWrite 0 (0x400 + 8 * k) w) s = .next s')
      ∧ (k < 12 → ∃ s', exec (.ceport k) s = .next s' ∧ getPort s' k = { getPort s k with ce := 0 }
        ∧ (∀ n, n ≠ k → getPort s' n = getPort s n) ∧ exec (.registerWrite 0 (0x600 + 8 * k) w) s = .next s')
      ∧ (off % 8 = 0 → off < 0x18 ∨ 0x808 ≤ off ∧ off < 0x3000 → exec (.registerWrite 0 off w) s = .next s))

/-- A ring's head entry has its status in quad 3 and is consumed. -/
def Sys2Proof.Safety.Responds (s s' : State) (k code : Nat) : Prop :=
  (getRing s' k).head = ((getRing s k).head + 1) % 2 ^ 32 ∧ memByte s'.mem (ringKey s k (getRing s k).head + 24) = BitVec.ofNat 8 code

/-- R293, R302, R308, R310, R311, R318, R353: the operations of the configuration ring. A partition-set descriptor gets its status, and a
good one is in force, with new control accords; KILL starts a gang stop within 64 cycles, RELEASE frees a stopped context's cores once its
completion word is written (the model's order, log entry 78), GRANT keeps its grant, AREAS its five addresses, DBGKEY its key; whatever
fails its checks is answered 2 and changes nothing. -/
def Sys2Proof.Safety.ConfigRing : Prop :=
  ∀ (s : State) (x : Ctx) (bs : List Byte) (key : Nat), Canonical s → s.focus = .ring 1 →
    let arg := headQuad s 1 2
    let q := fun (i : Nat) => fieldAt bs (8 * i) 8
    let ends := fun (i : Instr) (code : Nat) => ∃ s', exec i s = .next s' ∧ Answered s s' 1 code ∧ s'.threads = s.threads ∧ s'.ctxs = s.ctxs
      ∧ s'.sets = s.sets ∧ s'.grants = s.grants ∧ s'.vds = s.vds ∧ s'.regions = s.regions
    let owner := arg % 2 ^ 16
    let grantee := arg / 2 ^ 16 % 2 ^ 16
    (cfgPayload s 168 = some bs → cfgKey (headQuad s 1 1) = some key → key + 160 ≠ ringKey s 1 (getRing s 1).head + 24 →
      let y := descSet bs
      let code := psetStatus s bs
      ∃ s', exec .configPset s = .next s' ∧ Responds s s' 1 code ∧ memByte s'.mem (key + 160) = BitVec.ofNat 8 code ∧ s'.threads = s.threads
        ∧ (code ≠ 1 → s'.sets = s.sets)
        ∧ (code = 1 → (∀ g ∈ setRegions y, ∃ z, psetOf s' g = some z ∧ z.n = y.n ∧ z.entries = y.entries ∧ z.holder = y.holder)
          ∧ ∀ p, p < y.n → ∃ a, findAcc s' (y.ry * 8 + y.rx) (controlAcc s (4 * (y.ry * 8 + y.rx) + p)) = some a ∧ a.front = 0 ∧ a.epoch = 1
            ∧ a.qa.members = [(s.dev.id, y.ry * 8 + y.rx)]))
    ∧ (getCtx s arg = none → ends .kill 2 ∧ ends .release 2)
    ∧ (getCtx s arg = some x → x.zeroing = false →
      (∃ s', exec .kill s = .next s' ∧ Answered s s' 1 1 ∧ getCtx s' arg = some { x with dusk := none }
        ∧ (∀ n, n ≠ arg → getCtx s' n = getCtx s n)
        ∧ ∃ p ∈ s'.pend, p.what = .gangStop ∧ p.who = .ctx arg ∧ p.due ≤ s.cycle + 64)
      ∧ (x.life = .running ∨ x.life = .descheduled → ends .release 2)
      ∧ (∀ b, x.life = .stopped b → x.done ≠ 0 → ∃ s', exec .release s = .next s' ∧ s'.ctxs = s.ctxs ∧ s'.rings = s.rings ∧ s'.mem = s.mem
        ∧ Sends s s' .release)
      ∧ (∀ b, x.life = .stopped b → x.done = 0 → ∃ s' x', exec .release s = .next s' ∧ Responds s s' 1 1 ∧ getCtx s' arg = some x'
        ∧ x'.zeroing = true))
    ∧ (bitAt arg 32 = true → getCtx s owner = some x → cfgPayload s 512 = some bs → ∃ s' g l, exec .grant s = .next s' ∧ Answered s s' 1 1
      ∧ s'.grants = g :: l ∧ g.owner = owner ∧ g.grantee = grantee ∧ g.acc = none ∧ g.window = toQuads 64 bs
      ∧ ∀ h, h ∈ l ↔ h ∈ s.grants ∧ ¬(h.owner = owner ∧ h.grantee = grantee ∧ h.acc = none))
    ∧ (bitAt arg 32 = false → cfgPayload s 8 = some bs →
      let acc := q 0 % 2 ^ 32
      let bad := getCtx s grantee = none ∨ (getCtx s owner = none ∧ (dirGet s acc).vd = none)
      (bad → ends .grant 2)
      ∧ (¬bad → ∃ s' g, exec .grant s = .next s' ∧ Answered s s' 1 1 ∧ s'.grants = g :: s.grants ∧ g.owner = owner ∧ g.grantee = grantee
        ∧ g.acc = some acc))
    ∧ (cfgPayload s 40 = some bs →
      let ok := q 0 % 64 = 0 ∧ q 1 % 8192 = 0 ∧ q 2 % 4096 = 0 ∧ q 3 % 16384 = 0 ∧ q 4 % 2 ^ 21 = 0
      (¬ok → ends .areas 2)
      ∧ (ok → bitAt arg 63 = true → ∃ s', exec .areas s = .next s' ∧ Answered s s' 1 1
        ∧ getVd s' (arg % 16) = { getVd s (arg % 16) with save := q 0, window := q 1, root4 := q 2, root5 := q 3, root6 := q 4 })
      ∧ (ok → bitAt arg 63 = false → getCtx s arg = some x → ∃ s', exec .areas s = .next s' ∧ Answered s s' 1 1
        ∧ getCtx s' arg = some { x with save := q 0, root4 := q 2, root5 := q 3, root6 := q 4 }
        ∧ (getTrapQ s' (trapQueueOf s (coreAt x.ox x.oy) x.part)).window = q 1)
      ∧ (ok → bitAt arg 63 = false → getCtx s arg = none → ends .areas 2))
    ∧ (headQuad s 1 0 / 2 ^ 56 ≠ 7 → ends .dbgkey 2)
    ∧ (headQuad s 1 0 / 2 ^ 56 = 7 → cfgPayload s 64 = some bs → ∃ s', exec .dbgkey s = .next s' ∧ Answered s s' 1 1
      ∧ (getVd s' (arg % 16)).dbg = some bs)

/-- R139, R160, R300, R353: OPENL opens a launch accord of a virtual device with the next generation at the directory and at every member,
and the device's launches begin at its truncation point. A bad descriptor is answered 2, an open accord 1, an excluded directory region or a
full member 3, and nothing is opened. With a member on another device it registers as OPEN does, at the directory first, once the submission
engine is free. -/
def Sys2Proof.Safety.LaunchAccords : Prop :=
  ∀ (s : State) (bs : List Byte) (proto : Option Proto) (part : Nat), Canonical s → s.focus = .ring 1 →
    let arg := headQuad s 1 2
    let v := arg / 2 ^ 16 % 16
    let acc := s.dev.id * 65536 + arg % 2 ^ 16
    let reserved := arg / 2 ^ 48 ≠ 0 ∨ arg / 2 ^ 20 % 16 ≠ 0
    let ends := fun (code : Nat) => ∃ s', exec .openl s = .next s' ∧ Answered s s' 1 code ∧ s'.regions = s.regions ∧ s'.vds = s.vds
    let ms := (parseQuorum ((bs.drop 128).take 128)).members
    let full := ∃ m ∈ ms, shareRoom s m.2 part 1 0 = false ∨ (findAcc s m.2 acc).isSome = true
    (reserved ∨ openlParts s v (headQuad s 1 1) arg = none → ends 2)
    ∧ (¬reserved → openlParts s v (headQuad s 1 1) arg = some (bs, proto, part) →
      let excl := (getRegion s (acc % 64)).excluded = true
      let isOpen := (dirGet s acc).isOpen = true
      let far := ∃ m ∈ ms, m.1 ≠ s.dev.id
      (excl → ends 3) ∧ (¬excl → isOpen → ends 1) ∧ (¬excl → ¬isOpen → ¬far → full → ends 3)
      ∧ (¬excl → ¬isOpen → far → getThread s (engineTid s) ≠ none → ∃ s', exec .openl s = .next s' ∧ s'.rings = s.rings
        ∧ s'.regions = s.regions ∧ s'.mem = s.mem ∧ Sends s s' .openl)
      ∧ (¬excl → ¬isOpen → far → getThread s (engineTid s) = none → ∃ s' u a m pr st w, exec .openl s = .next s'
        ∧ getThread s' (engineTid s) = some u ∧ u.wait = .op (.acc a) ∧ a.acc = acc ∧ s'.rings = s.rings ∧ s'.regions = s.regions
        ∧ s'.mem = s.mem ∧ Sends s s' (.accordRegister m (parseQuorum ((bs.drop 128).take 128)) none (fieldAt bs 24 8 % 32) (fieldAt bs 16 8)
          pr 0 st w (headQuad s 1 1)) ∧ m.member = 255 ∧ m.region = acc % 64)
      ∧ (¬excl → ¬isOpen → ¬far → ¬full →
        let trunc := fieldAt bs 8 8 % 2 ^ 32
        let gen := ((dirGet s acc).gen + 1) % 65536
        ∃ s', exec .openl s = .next s' ∧ Responds s s' 1 0 ∧ (dirGet s' acc).isOpen = true ∧ (dirGet s' acc).gen = gen
          ∧ (dirGet s' acc).vd = some v ∧ (getVd s' v).acc = some acc ∧ (getVd s' v).next = trunc ∧ (getVd s' v).decided = []
          ∧ ∀ m ∈ ms, ∃ c, findAcc s' m.2 acc = some c ∧ c.gen = gen ∧ c.epoch = 1 ∧ c.front = trunc ∧ c.part = part ∧ c.proto = proto))

/-- R300, R353: when the registrations of an OPENL with members elsewhere are over, its ring entry is answered and the engine is free; a
good one is the launch accord of its virtual device, whose launches begin at the truncation point. -/
def Sys2Proof.Safety.LaunchAccordEnd : Prop :=
  ∀ (s : State) (t : Thread) (a : AccOp) (d : Word), Canonical s → Acts s t → t.held = [d] → t.kept = [.acc a] →
    let v := headQuad s 1 2 / 2 ^ 16 % 16
    let code := d.toNat / 2 ^ 32
    (code ≠ 0 → ∃ s', exec .openl s = .next s' ∧ getThread s' t.id = none ∧ Answered s s' 1 code ∧ s'.regions = s.regions ∧ s'.vds = s.vds)
    ∧ (code = 0 → ∃ s', exec .openl s = .next s' ∧ getThread s' t.id = none ∧ Responds s s' 1 0 ∧ (dirGet s' a.acc).vd = some v
      ∧ (getVd s' v).acc = some a.acc ∧ (getVd s' v).next = fieldAt a.cfg 8 8 % 2 ^ 32 ∧ (getVd s' v).decided = [])

/-- R355: every request gets one answer; the negotiation goes in its order, GET_VERSION beginning it anew and ending a session; a signed
FINISH after KEY_EXCHANGE opens a session. The debug window shows zeros before READY, and all ones unless the session is that of the virtual device's key; then
it shows the scratchpads of its stopped contexts, but all ones in the cycle of their release. -/
def Sys2Proof.Safety.DebugFunction : Prop :=
  ∀ (s : State) (n index v off : Nat) (bs : List Byte) (x : Ctx),
    let m := s.spdm
    let answers := fun (i : Instr) (p : Spdm → Prop) => ∃ s' b, exec i s = .next s' ∧ s'.spdm.answers = m.answers ++ [b] ∧ p s'.spdm
      ∧ s' = { s with spdm := s'.spdm }
    let same := fun (y : Spdm) => y = { m with answers := y.answers }
    answers .getVersion (fun y => y.version = true ∧ y.caps = false ∧ y.algs = false ∧ y.keyed = false ∧ y.session = none)
    ∧ (m.version = true → answers .getCapabilities fun y => y = { m with caps := true, answers := y.answers })
    ∧ (m.version = false → answers .getCapabilities same)
    ∧ (m.caps = true → answers .negotiateAlgorithms fun y => y = { m with algs := true, answers := y.answers })
    ∧ (m.caps = false → answers .negotiateAlgorithms same)
    ∧ answers .getDigests same ∧ answers (.getCertificate n) same ∧ answers (.challenge n bs) same
    ∧ (m.algs = true → index = 4 → ∃ s', exec (.getMeasurements index) s = .next s'
      ∧ s'.spdm.answers = m.answers ++ [Config.shake256 (s.sets.flatMap fun z => quadBytes z.raw)])
    ∧ answers (.getMeasurements index) same
    ∧ (m.algs = true → s.dev.keys = true → answers (.keyExchange bs) fun y => y = { m with keyed := true, answers := y.answers })
    ∧ (m.algs = false ∨ s.dev.keys = false → answers (.keyExchange bs) same)
    ∧ (m.algs = true → m.keyed = true → answers (.finish bs true) fun y => y.session = some bs ∧ y.keyed = false)
    ∧ (m.algs = false ∨ m.keyed = false → answers (.finish bs true) same) ∧ answers (.finish bs false) same
    ∧ exec .debugSessionEnd s = .next { s with spdm := { m with session := none, keyed := false } }
    ∧ answers (.debugWindowRead v n off) same
    ∧ (ready s = false → ∃ s', exec (.debugWindowRead v n off) s = .next s' ∧ s'.spdm.answers = m.answers ++ [List.replicate 8 0])
    ∧ (ready s = true → m.session = none ∨ m.session ≠ (getVd s v).dbg → ∃ s', exec (.debugWindowRead v n off) s = .next s'
      ∧ s'.spdm.answers = m.answers ++ [List.replicate 8 0xFF])
    ∧ (ready s = true → m.session = some bs → (getVd s v).dbg = some bs → off % 8 = 0 →
      let core := off / 65536 % 16384
      let c := (getPart s core (off % 65536 / max 1 (viewSize s core))).owner
      let reads := fun (l : List Byte) => ∃ s', exec (.debugWindowRead v 0 off) s = .next s' ∧ s'.spdm.answers = m.answers ++ [l]
      getCtx s c = some x → x.vd = v → x.zeroing = false → (∃ b, x.life = .stopped b) →
      ((∀ p ∈ s.pend, p.what = .release → s.cycle < p.due) → reads (memRead s.mem (scratchKey core (off % 65536)) 8))
      ∧ (x.done = 0 → headQuad s 1 2 = c → (∃ p ∈ s.pend, p.what = .release ∧ p.due ≤ s.cycle) → reads (List.replicate 8 0xFF)))

/-- R1, R356 to R359: a reset begins the dawn sequence with ROM in cycle 0: no thread, context, partition set or other event, the SRAMs
zero, the memories outside as they were. Each step of the dawn ends FAILED with its number (0, 1 or 3), or the next begins; at the end the
device is READY with its id and keys, the failed regions excluded and the links up that trained within their flight time. How long a step
takes is free. -/
def Sys2Proof.Safety.DawnSequence : Prop :=
  ∀ (s : State) (d : Dawn), Canonical s →
    let goes := fun (k : State) (n : Nat) => ∃ s', exec (.reset d) s = .next s' ∧ s'.dev = { k.dev with state := n } ∧ s'.links = s.links
      ∧ s'.mem = s.mem ∧ ∃ q ∈ s'.pend, q.what = .reset d ∧ q.who = .dawn ∧ s.cycle < q.due
    let fails := fun (n : Nat) => exec (.reset d) s = .next { s with dev := { s.dev with state := 15, failed := n } }
    (s.focus ≠ .dawn → ∃ s' q, exec (.reset d) s = .next s' ∧ s'.threads = [] ∧ s'.ctxs = [] ∧ s'.parts = [] ∧ s'.cores = [] ∧ s'.sets = []
      ∧ s'.cycle = 0 ∧ s'.dev = State.reset.dev ∧ s'.dev.state = 0 ∧ s'.pend = [q] ∧ q.what = .reset d ∧ q.who = .dawn ∧ 0 < q.due
      ∧ Memory.wf s'.mem = true ∧ (∀ k, 3 * 2 ^ 48 ≤ k → memByte s'.mem k = memByte s.mem k) ∧ ∀ k, k < 3 * 2 ^ 48 → memByte s'.mem k = 0)
    ∧ (s.focus = .dawn →
      (s.dev.state = 0 → (d.imageOk = true → goes s 1) ∧ (d.imageOk = false → fails 0))
      ∧ (s.dev.state = 1 → (d.keysOk = true → goes { s with dev := { s.dev with keys := true } } 2) ∧ (d.keysOk = false → fails 1))
      ∧ (s.dev.state = 2 → goes s 3 ∧ ∀ s' g, exec (.reset d) s = .next s' → g < 64 →
        (getRegion s' g).excluded = ((getRegion s g).excluded || d.failedRegions.any fun f => f % 64 == g))
      ∧ (s.dev.state = 3 → (d.memOk = true → goes s 4) ∧ (d.memOk = false → fails 3))
      ∧ (s.dev.state = 4 → ∃ s', exec (.reset d) s = .next s' ∧ ready s' = true ∧ s'.dev.id = d.device % 2 ^ 16 ∧ s'.dev.keys = s.dev.keys
        ∧ s'.mem = s.mem ∧ s'.regions = s.regions
        ∧ (∀ l n, l < 63 → (l, n) ∈ d.linksUp → (∀ m, (l, m) ∈ d.linksUp → m = n) →
          getLink s' l = { up := n ≤ flightLimit l, flight := n })
        ∧ (∀ l, (∀ n, (l, n) ∉ d.linksUp) → getLink s' l = getLink s l)
        ∧ ∃ q ∈ s'.pend, q.what = .energyMeter ∧ q.due % 1300 = 0 ∧ s.cycle < q.due))
/-! ### The machine as a whole -/

/-- A step runs what R12 and R59 say: with nothing else to do, the word at the pc of the thread whose issue cycle it is, which has TRAPPEND
cleared and else nothing but the record of its issue (R16, R259), its skid behind a refused access (R312) and the cycle counted for its
context in its region (R305); a word that is no instruction, a pc outside the slice and, where there is a trap vector, a budget trap
are reported in its place (R61, R65, R259, R260). What the outside does, what is due, a waiting thread that goes on and a tile command that
starts are run likewise, and with nothing to run a cycle passes. -/
def Sys2Proof.Safety.StepRunsDecoded : Prop :=
  ∀ (s : State) (t : Thread) (r : Nat) (i : Instr), s.agenda = [] → nextDue s.cycle s.pend = none →
    let w := fetchWord s t
    let part := getPart s t.core t.part
    let runs := fun (i : Instr) => ∃ s1, step s = exec i s1 ∧ s1.focus = .thread t.id ∧ s1.cursor = t.core + 1
      ∧ s1 = { s with focus := s1.focus, cursor := s1.cursor, threads := s1.threads, regions := s1.regions }
      ∧ s1.regions = (countCycles s (regionOf t.core) t.ctx 1).regions ∧ (∀ k, k ≠ t.id → getThread s1 k = getThread s k)
      ∧ ∃ u, getThread s1 t.id = some u ∧ u.issued = some s.cycle ∧ u.regs = t.regs ∧ u.preds = t.preds ∧ u.pc = t.pc ∧ u.wait = .ready
        ∧ u.fpx = t.fpx ∧ (i ≠ .illegalInstruction w → i ≠ .budgetTrap → u = ({ t with
          skid := if t.uac = 0 then none else t.skid.map (· - 1), issued := some s.cycle, word := w }.setTrapPend false))
    ((s.threads.find? fun x => goesOn s x.2) = none → startable s s.parts = none →
      (leastRank s s.threads = none → step s = .next (tick s))
      ∧ (leastRank s s.threads = some (r, t) → t.wait = .ready →
        let inside := inSlice s t.core t.part t.pc.toNat = true
        let trap := part.budgetTrap = true ∧ t.trapc = 0 ∧ ((getCtx s t.ctx).bind (·.tvec)).isSome = true
        (inside → ¬trap → decodeScalar w = .ok i → (detOf s t.ctx = false ∨ detIllegal i = false) → runs i)
        ∧ (inside → ¬trap → (∀ j, decodeScalar w ≠ .ok j) → runs (.illegalInstruction w))
        ∧ (inside → ¬trap → decodeScalar w = .ok i → detOf s t.ctx = true → detIllegal i = true → runs (.illegalInstruction w))
        ∧ (inside → trap → runs .budgetTrap) ∧ (¬inside → runs (.illegalInstruction w))))
    ∧ (∀ n, (s.threads.find? fun x => goesOn s x.2) = some (n, t) → t.place ≠ .engine → decodeScalar t.word = .ok i → detOf s t.ctx = false →
      step s = exec i { s with focus := .thread t.id })
    ∧ (∀ c p e, (s.threads.find? fun x => goesOn s x.2) = none → startable s s.parts = some (c, p, e) → decodeTcw e.word = .ok i →
      step s = exec i { s with focus := .part c p })

/-- What the outside does comes first, then the packet or event with the least due cycle, of those the first put; but a bank of the commons,
a port and an acceptor take the request of the highest priority class first, except before one that has waited 1,024 cycles, and out of no
order that the rules give (R117, R304). A cycle that passes leaves memory, threads and all that is under way. -/
def Sys2Proof.Safety.EventsInOrder : Prop :=
  ∀ (s : State) (h : Happening) (l : List Happening) (p : Pend),
    let beats := fun (p q : Pend) => ∃ v m n, serverOf s p.what = some (v, m) ∧ serverOf s q.what = some (v, n) ∧ q.due ≤ s.cycle
      ∧ classOf s m < classOf s n ∧ s.cycle < p.due + 1024
    let firstOfKey := fun (q : Pend) => (s.pend.find? fun r => r.key = q.key) = some q
    (s.agenda = h :: l → h.wait = 0 → step s = exec h.what { s with agenda := l, focus := h.who })
    ∧ ((∀ x, s.agenda.head? = some x → x.wait ≠ 0) → nextDue s.cycle s.pend = some p →
      p.due ≤ s.cycle ∧ (∃ a b, s.pend = a ++ p :: b ∧ (∀ q ∈ a, p.due < q.due) ∧ ∀ q ∈ b, p.due ≤ q.due)
      ∧ ∃ r a b, dueEvent s = some r ∧ s.pend = a ++ r :: b ∧ r ∉ a ∧ step s = exec r.what { s with pend := a ++ b, focus := r.who }
        ∧ (r = p ∨ (beats p r ∧ (r.key = 0 ∨ firstOfKey r))) ∧ ∀ q ∈ s.pend, beats r q → q.key ≠ 0 ∧ ¬firstOfKey q)
    ∧ ((∀ x, s.agenda.head? = some x → x.wait ≠ 0) → nextDue s.cycle s.pend = none → dueEvent s = none ∧ ∀ q ∈ s.pend, s.cycle < q.due)
    ∧ (tick s).cycle = s.cycle + 1 ∧ (tick s).fresh = [] ∧ (tick s).mem = s.mem ∧ (tick s).threads = s.threads ∧ ∀ q ∈ s.pend, q ∈ (tick s).pend

/-- Every legal scalar word and every legal tile command decodes from its own encoding. -/
def Obligations.DecodeEncode : Prop :=
  ∀ (i : Instr), WellFormed i → (∀ w, encode i = some w → decodeScalar w = .ok i) ∧ ∀ w, encodeTcw i = some w → decodeTcw w = .ok i

/-- Every word that decodes is the encoding of what it decodes to, so that no bit of a legal word is without meaning. -/
def Obligations.EncodeDecode : Prop :=
  ∀ (i : Instr), (∀ w, decodeScalar w = .ok i → encode i = some w ∧ WellFormed i) ∧ ∀ w, decodeTcw w = .ok i → encodeTcw i = some w
    ∧ WellFormed i

/-- Words written out from the spec's encodings decode to what they stand for (R59 to R84). -/
def Obligations.DecodeWords : Prop :=
  decodeScalar 0x00211700 = .ok (.add 0 1 1 7) ∧ decodeScalar 0x00C20100 = .ok (.li 0 2 0x100) ∧ decodeScalar 0x05000007 = .ok (.trap 0 7)
    ∧ decodeScalar 0x05100000 = .ok (.eret 0) ∧ decodeScalar 0x05500000 = .ok (.halt 0) ∧ decodeScalar 0x02900000 = .ok (.fenceD 0)
    ∧ decodeScalar 0x00331200 = .ok (.fadd 0 3 1 2) ∧ decodeScalar 0x05821000 = .ok (.lnch 0 2 1)

/-- The canonical form is kept by every step. The canonical form is the model's own; it carries no rule of the spec (log 3). -/
def Obligations.StepKeepsCanonical : Prop := ∀ (s s' : State), Canonical s → step s = .next s' → Canonical s'

/-- Reset (R358): the state ROM in cycle 0, with no thread, context, partition set, packet or open accord, in canonical form, and every
SRAM byte zero. That unlisted bytes of HBM, LPDDR and the host read zero is the model's choice (log 3), as the values of the host
registers are (log 12). -/
def Obligations.ResetState : Prop :=
  Canonical State.reset ∧ State.reset.cycle = 0 ∧ State.reset.dev.state = 0 ∧ State.reset.threads = [] ∧ State.reset.ctxs = []
    ∧ State.reset.sets = [] ∧ State.reset.pend = [] ∧ (∀ k, memByte State.reset.mem k = 0)
    ∧ (∀ g, (getRegion State.reset g).accs = [] ∧ (getRegion State.reset g).clock = 1300) ∧ ready State.reset = false

/-! ### The obligations that gather several of the statements above -/

/-- Bit operations, immediates, KLD, SEL, TAG, PGET, SEGA and RDS write their value and nothing else. -/
def Obligations.RegisterResults : Prop := BitResults ∧ ImmediateResults ∧ ConstantWindow ∧ SelTagPget ∧ SegaResult ∧ RdsResult

/-- LI and LIS: word and value. -/
def Obligations.Constants : Prop := LiResult ∧ LisResult

/-- CMP, CMPI, PLOG and PSET write their predicates and nothing else. -/
def Obligations.Comparisons : Prop := CompareResults ∧ CompareImmediate ∧ PredicateLogic ∧ PredicateWord

/-- BR, JAL, JR and DBNZ: targets, links, counts and the slice check. -/
def Obligations.Branches : Prop := BranchTargets ∧ CountedBranch ∧ BranchOutside

/-- Special values, minimum and maximum, conversions and floating comparisons. -/
def Obligations.FloatOthers : Prop := FloatSpecials ∧ FloatMinMax ∧ FloatConversions ∧ FloatCompare

/-- NOP, the fences, and what acknowledges the accesses that they wait for. -/
def Obligations.Fences : Prop := NopResult ∧ FencesComplete ∧ Acknowledged

/-- Stores and merges leave for the address that the instruction computes. That a device address with an up link has a home is the model's
choice (log 20). -/
def Obligations.Stores : Prop := StoreIssue ∧ StoreRefused

/-- A store or merge changes exactly its bytes at its home. -/
def Obligations.HomeWrites : Prop := StoreDelivered ∧ MergeApplied ∧ VborApplied

/-- Loads from the own scratchpad. -/
def Obligations.LoadsInline : Prop := LoadInline ∧ LdeInline

/-- Loads from elsewhere: request, service, reply. How long a thread runs on behind an access that its home refuses is the model's reading
(log 5). -/
def Obligations.LoadsRemote : Prop := LoadElsewhere ∧ LoadServed ∧ LoadReplied

/-- Hardware barriers: arrival, release, time-out. The counts that SCOPE reports are the model's reading (log 49). -/
def Obligations.Barriers : Prop := BarrierArrives ∧ BarrierEnds

/-- MIGR and its arrival. -/
def Obligations.Migrations : Prop := Migration ∧ ArrivalTaken

/-- RETIRE, HALT, YIELD, WFM and SPAWN. Which slot and which id are taken is the model's choice (log 7). -/
def Obligations.ThreadLives : Prop := EndingAndWaiting ∧ Spawning

/-- SEND, the message buffer, and the handler. Which thread id is taken is the model's choice (log 7). -/
def Obligations.Messages : Prop := SendIssues ∧ MessageBuffered ∧ HandlerStarts

/-- Taking a trap, returning from it, and the fatal illegal instruction. -/
def Obligations.Traps : Prop := TrapTaken ∧ EretReturns ∧ IllegalIsFatal

/-- RDSW and WRSW of every state word. -/
def Obligations.SystemWords : Prop := RdswResult ∧ WrswResult

/-- The energy budget, CKPT and its table. The shares of the energy are the model's reading (log 76), the measured part a free value (log 4);
the code of a table that cannot be read is the model's reading (log 43). -/
def Obligations.BudgetAndCheckpoints : Prop := Budget ∧ Checkpoints ∧ LiveRangeTable

/-- The order log and its waits. The step in which a record is written and the time of an acknowledgement are the model's choice (log 26), and
so is what a tail that software wrote means (log 79). -/
def Obligations.OrderLog : Prop := OrderLogForms ∧ OrderLogWaits

/-- PROP begins with the ballot of its thread. -/
def Obligations.Proposals : Prop := ProposalStarts

/-- Learning, conversations, RESHAPE and the ACCORD forms. CVSEND's slot 0 on a plain accord, and that CLOSE asks the directory and TRUNC the
gate first, are the model's reading (logs 23, 25). What an undecided slot below a decided one reads as, and an answer of the directory of
another device, are so too (logs 66, 67). -/
def Obligations.Questions : Prop := QuestionsAsked ∧ ConversationStarts ∧ AccordForms

/-- What an acceptor answers and records. Which epoch is compared is the model's reading (log 21). -/
def Obligations.Acceptors : Prop := AcceptorAnswers ∧ DecisionRecorded

/-- What a proposer does with replies and time-outs. The hint after LOST, the discarding of late replies and which replies report a ballot are
the model's reading (logs 21, 25, 64); so is that a back-off after RESHAPED leaves DEFEAT as it is (log 68). -/
def Obligations.AgreementReplies : Prop := RepliesTaken ∧ AgreementTimeouts

/-- Members: answers, registrations, closings, truncation. The order of directory and members, a new member without room, and the takeover at
all members in one step are the model's choice (logs 21, 23, 65). -/
def Obligations.Members : Prop := MemberAnswers ∧ AnswersReturned ∧ AccordsAtMembers

/-- TCMD, TCMD.Q1 and TLOOP. What a TLOOP does during a capture, and the lines counted for SCAT, are the model's choice (logs 11, 31). -/
def Obligations.TileAcceptance : Prop := TileAccepted ∧ TileLoops

/-- ADV, TWAIT, HDEF, WAITT, TSTAT and the missed promise. The fault value of a handle fault is free (log 27). -/
def Obligations.TileHandles : Prop := HandleInstructions ∧ PromisesAndStatus

/-- The vector commands start and complete, and the bitwise ones bit by bit. One byte of mask for each byte of data in 4-bit formats is the
model's reading (log 32). -/
def Obligations.VectorUnit : Prop := VectorCommands ∧ VectorBits

/-- The matrix and accumulator commands, and an exact int8 product. SPLD's time is a free value (log 33). -/
def Obligations.MatrixArray : Prop := MatrixCommands ∧ MatrixProduct

/-- TNOP, RNGK, TMARK, QTLD, TSIG and the copy family start. The pace of a copy is a free value (log 33). -/
def Obligations.OtherTileCommands : Prop := OtherCommands

/-- Tile commands complete, copies go on line by line. Rising order of a copy's lines, and one claim of a handle named twice, are the model's
choice (logs 10, 33). -/
def Obligations.TileCompletion : Prop := TileCompletes ∧ CopyLines

/-- Gang stops, packet lifetimes and soft errors. All cores of a context stop in one step, and the contexts hit by a soft error in a router,
are the model's choice (logs 28, 46). -/
def Obligations.ForcedStops : Prop := GangStop ∧ DeviceFaults

/-- Routers, sweeps, power, alarm and equalisation. Which routers a packet passes for the gating, and the measured powers, margins and gains,
are the model's choice or free values (logs 4, 35, 37, 57). -/
def Obligations.Networks : Prop := Routers ∧ Loops

/-- Avbuak links, drop notices and fence counts. The order of a packet's header bytes and of a flit's trailer is the model's own (logs 36, 56,
58). -/
def Obligations.LinksAndCounts : Prop := Links ∧ FenceCounts

/-- The configuration ring. How payload addresses are taken and several checks of the entries are the model's reading (logs 39, 40). -/
def Obligations.Configuration : Prop := ConfigRing ∧ LaunchAccords ∧ LaunchAccordEnd

/-- The debug function and the dawn sequence. The window's layout and an answer's bytes are the model's own or free (logs 4, 42); the times of
the dawn's steps are free values, and the values that the manual does not give are the model's choice (logs 3, 12, 38). -/
def Obligations.DebugAndDawn : Prop := DebugFunction ∧ DawnSequence

/-- A step runs the decoded instruction of the thread whose cycle it is, or what is due before it. The order of events of one cycle is the
model's choice (log 1), and so is the rotation of a slowed region (log 14). -/
def Obligations.StepOrder : Prop := StepRunsDecoded ∧ EventsInOrder
end

