-- ==== Sys2Proof/Laws/Mem.lean ====
section
/-! SUPPORT. Laws of memory: a read after a write, a write leaves every other byte alone, and every operation keeps the canonical
form. -/

namespace Sys2Proof.Machine

/-! ### The canonical form -/

theorem memSorted_weaken {m : List Host.Cell} {lo lo' : Nat} (h : memSorted lo m = true) (hl : lo' ≤ lo) :
    memSorted lo' m = true := by
  cases m with
  | nil => rfl
  | cons c t =>
    obtain ⟨k, b⟩ := c
    simp only [memSorted, Bool.and_eq_true, decide_eq_true_eq] at h ⊢
    exact ⟨⟨hl.trans h.1.1, h.1.2⟩, h.2⟩

theorem memSorted_cons {k : Nat} {b : Byte} {t : List Host.Cell} {lo : Nat} :
    memSorted lo ((k, b) :: t) = true ↔ lo ≤ k ∧ b ≠ 0 ∧ memSorted (k + 1) t = true := by
  simp [memSorted, and_assoc]

theorem memCons_sorted {i : Nat} {b : Byte} {t : List Host.Cell} {lo : Nat} (hl : lo ≤ i) (h : memSorted (i + 1) t = true) :
    memSorted lo (memCons i b t) = true := by
  unfold memCons
  split
  · exact memSorted_weaken h (by omega)
  · exact memSorted_cons.2 ⟨hl, ‹_›, h⟩

theorem memPut_sorted {m : List Host.Cell} {i : Nat} {b : Byte} {lo : Nat} (hl : lo ≤ i) (h : memSorted lo m = true) :
    memSorted lo (memPut m i b) = true := by
  induction m generalizing lo with
  | nil => exact memCons_sorted hl rfl
  | cons c t ih =>
    obtain ⟨k, v⟩ := c
    obtain ⟨hk, hv, ht⟩ := memSorted_cons.1 h
    simp only [memPut]
    split
    · subst_vars; exact memCons_sorted hl ht
    · split
      · exact memCons_sorted hl (memSorted_cons.2 ⟨by omega, hv, ht⟩)
      · exact memSorted_cons.2 ⟨hk, hv, ih (by omega) ht⟩

/-- Writing a byte keeps the canonical form. -/
theorem memPut_wf {m : List Host.Cell} (i : Nat) (b : Byte) (h : Memory.wf m = true) : Memory.wf (memPut m i b) = true :=
  memPut_sorted (Nat.zero_le _) h

/-- Writing bytes keeps the canonical form. -/
theorem memWrite_wf {m : List Host.Cell} (k : Nat) (bs : List Byte) (h : Memory.wf m = true) : Memory.wf (memWrite m k bs) = true := by
  induction bs generalizing m k with
  | nil => exact h
  | cons b bs ih => exact ih _ (memPut_wf _ _ h)

theorem filter_sorted {m : List Host.Cell} (f : Host.Cell → Bool) {lo : Nat} (h : memSorted lo m = true) :
    memSorted lo (m.filter f) = true := by
  induction m generalizing lo with
  | nil => rfl
  | cons c t ih =>
    obtain ⟨k, b⟩ := c
    obtain ⟨hk, hb, ht⟩ := memSorted_cons.1 h
    rw [List.filter_cons]
    split
    · exact memSorted_cons.2 ⟨hk, hb, ih ht⟩
    · exact ih (memSorted_weaken ht (by omega))

/-- Dropping cells keeps the canonical form. -/
theorem filter_wf {m : List Host.Cell} (f : Host.Cell → Bool) (h : Memory.wf m = true) : Memory.wf (m.filter f) = true :=
  filter_sorted f h

/-- Zeroing a range keeps the canonical form. -/
theorem memZero_wf {m : List Host.Cell} (k n : Nat) (h : Memory.wf m = true) : Memory.wf (memZero m k n) = true := filter_wf _ h

/-- Writing listed bytes keeps the canonical form. -/
theorem memPutAll_wf {m : List Host.Cell} (k : Nat) (cs : List Host.Cell) (h : Memory.wf m = true) :
    Memory.wf (memPutAll m k cs) = true := by
  induction cs generalizing m with
  | nil => exact h
  | cons c cs ih => exact ih (memPut_wf _ _ h)

/-- Copying a range keeps the canonical form. -/
theorem memCopy_wf {m : List Host.Cell} (a b n : Nat) (h : Memory.wf m = true) : Memory.wf (memCopy m a b n) = true :=
  memPutAll_wf _ _ (memZero_wf _ _ h)

/-! ### Reads and writes -/

theorem memByte_sorted_below {m : List Host.Cell} {lo i : Nat} (h : memSorted lo m = true) (hi : i < lo) : memByte m i = 0 := by
  cases m with
  | nil => rfl
  | cons c t =>
    obtain ⟨k, b⟩ := c
    obtain ⟨hk, -, -⟩ := memSorted_cons.1 h
    simp only [memByte]
    rw [if_neg (by omega), if_pos (by omega)]

theorem memByte_memCons {i : Nat} {b : Byte} {t : List Host.Cell} (h : memSorted (i + 1) t = true) (j : Nat) :
    memByte (memCons i b t) j = if j = i then b else memByte t j := by
  unfold memCons
  split
  · subst_vars
    split
    · subst_vars; exact memByte_sorted_below h (by omega)
    · rfl
  · simp only [memByte]
    by_cases hj : j = i
    · simp [hj]
    · rw [if_neg (fun e => hj e.symm), if_neg hj]
      split
      · exact (memByte_sorted_below h (by omega)).symm
      · rfl

theorem memByte_memPut_sorted {m : List Host.Cell} {lo : Nat} (h : memSorted lo m = true) (i : Nat) (b : Byte) (j : Nat) :
    memByte (memPut m i b) j = if j = i then b else memByte m j := by
  induction m generalizing lo with
  | nil => rw [memPut, memByte_memCons rfl]
  | cons c t ih =>
    obtain ⟨k, v⟩ := c
    obtain ⟨hk, hv, ht⟩ := memSorted_cons.1 h
    simp only [memPut]
    split
    · rename_i e
      subst e
      rw [memByte_memCons ht]
      by_cases hj : j = k
      · simp [hj]
      · simp only [if_neg hj, memByte, if_neg (fun e => hj (Eq.symm e))]
        split
        · exact memByte_sorted_below ht (by omega)
        · rfl
    · split
      · rw [memByte_memCons (memSorted_cons.2 ⟨by omega, hv, ht⟩)]
      · simp only [memByte, ih ht]
        split
        · subst_vars; rw [if_neg (by omega)]
        · split
          · rw [if_neg (by omega)]
          · rfl

/-- A byte after a write of one byte: the written one, or what was there. -/
theorem memByte_memPut {m : List Host.Cell} (h : Memory.wf m = true) (i : Nat) (b : Byte) (j : Nat) :
    memByte (memPut m i b) j = if j = i then b else memByte m j := memByte_memPut_sorted h i b j

/-- A byte outside the written ones reads as before. -/
theorem memByte_memWrite_other {m : List Host.Cell} (h : Memory.wf m = true) (k : Nat) (bs : List Byte) (j : Nat)
    (hj : j < k ∨ k + bs.length ≤ j) : memByte (memWrite m k bs) j = memByte m j := by
  induction bs generalizing m k with
  | nil => rfl
  | cons b bs ih =>
    simp only [List.length_cons] at hj
    rw [memWrite, ih (memPut_wf _ _ h) (k + 1) (by omega), memByte_memPut h, if_neg (by omega)]

/-- The written bytes read back. -/
theorem memByte_memWrite_same {m : List Host.Cell} (h : Memory.wf m = true) (k : Nat) (bs : List Byte) (j : Nat) (hj : j < bs.length) :
    memByte (memWrite m k bs) (k + j) = bs[j] := by
  induction bs generalizing m k j with
  | nil => exact absurd hj (by simp)
  | cons b bs ih =>
    cases j with
    | zero =>
      rw [memWrite, memByte_memWrite_other (memPut_wf _ _ h) _ _ _ (by omega), memByte_memPut h]
      simp
    | succ j =>
      have e : k + (j + 1) = (k + 1) + j := by omega
      rw [memWrite, e, ih (memPut_wf _ _ h) (k + 1) j (by simpa using hj)]
      simp

/-- A read after a write to the same place gives what was written. -/
theorem memRead_memWrite {m : List Host.Cell} (h : Memory.wf m = true) (k : Nat) (bs : List Byte) :
    memRead (memWrite m k bs) k bs.length = bs := by
  induction bs generalizing m k with
  | nil => rfl
  | cons b bs ih =>
    simp only [List.length_cons, memRead]
    have h0 := memByte_memWrite_same h k (b :: bs) 0 (by simp)
    rw [Nat.add_zero] at h0
    rw [h0]
    congr 1
    exact ih (memPut_wf _ _ h) (k + 1)

end Sys2Proof.Machine
end

