-- ==== Sys2Proof/Laws/Tables.lean ====
section
/-! SUPPORT. Laws of the sparse tables and of little-endian bytes. -/

namespace Sys2Proof.Machine

/-- A table answers what was put in. -/
@[simp] theorem tblFind_tblSet_same {α : Type} (l : List (Nat × α)) (i : Nat) (a : α) : tblFind (tblSet l i a) i = some a := by
  induction l with
  | nil => simp [tblSet, tblFind]
  | cons c t ih =>
    obtain ⟨k, v⟩ := c
    simp only [tblSet]
    split
    · simp [tblFind]
    · split
      · simp [tblFind]
      · rename_i h1 h2
        simp [tblFind, h1, h2, ih]

/-- A table keeps its other entries. -/
theorem tblFind_tblSet_other {α : Type} (l : List (Nat × α)) (i j : Nat) (a : α) (h : j ≠ i) : tblFind (tblSet l i a) j = tblFind l j := by
  induction l with
  | nil =>
    simp only [tblSet, tblFind, if_neg (Ne.symm h)]
    split <;> rfl
  | cons c t ih =>
    obtain ⟨k, v⟩ := c
    simp only [tblSet]
    split
    · rename_i e
      subst e
      simp only [tblFind, if_neg (Ne.symm h)]
    · split
      · simp only [tblFind, if_neg (Ne.symm h)]
        split
        · rw [if_neg (by omega), if_pos (by omega)]
        · rfl
      · simp only [tblFind, ih]

@[simp] theorem tblGet_tblSet_same {α : Type} (d : α) (l : List (Nat × α)) (i : Nat) (a : α) : tblGet d (tblSet l i a) i = a := by
  induction l with
  | nil => simp [tblSet, tblGet]
  | cons c t ih =>
    obtain ⟨k, v⟩ := c
    simp only [tblSet]
    split
    · simp [tblGet]
    · split
      · simp [tblGet]
      · rename_i h1 h2
        simp [tblGet, h1, h2, ih]

theorem tblGet_tblSet_other {α : Type} (d : α) (l : List (Nat × α)) (i j : Nat) (a : α) (h : j ≠ i) :
    tblGet d (tblSet l i a) j = tblGet d l j := by
  induction l with
  | nil =>
    simp only [tblSet, tblGet, if_neg (Ne.symm h)]
    split <;> rfl
  | cons c t ih =>
    obtain ⟨k, v⟩ := c
    simp only [tblSet]
    split
    · rename_i e
      subst e
      simp only [tblGet, if_neg (Ne.symm h)]
    · split
      · simp only [tblGet, if_neg (Ne.symm h)]
        split
        · rw [if_neg (by omega), if_pos (by omega)]
        · rfl
      · simp only [tblGet, ih]

@[simp] theorem leBytes_length (z v : Nat) : (leBytes z v).length = z := by
  induction z generalizing v with
  | zero => rfl
  | succ z ih => simp [leBytes, ih]

/-- Bytes hold the number they were made from, modulo their width. -/
theorem ofLeBytes_leBytes (z v : Nat) : ofLeBytes (leBytes z v) = v % 2 ^ (8 * z) := by
  induction z generalizing v with
  | zero => simp [leBytes, ofLeBytes, Nat.mod_one]
  | succ z ih =>
    simp only [leBytes, ofLeBytes, ih, BitVec.toNat_ofNat]
    have e : 2 ^ (8 * (z + 1)) = 256 * 2 ^ (8 * z) := by rw [Nat.mul_add, Nat.pow_add]; ring
    rw [e, Nat.mod_mul]

end Sys2Proof.Machine
end

