-- ==== Sys2Proof/Laws/State.lean ====
section
/-! SUPPORT. Every named update of State: its own field holds the new value, every other field keeps its own. -/

namespace Sys2Proof.Machine

open Sys2Proof

@[simp] theorem setThread_cycle (s : State) (t : Thread) : (setThread s t).cycle = s.cycle := rfl
@[simp] theorem setThread_focus (s : State) (t : Thread) : (setThread s t).focus = s.focus := rfl
@[simp] theorem setThread_cursor (s : State) (t : Thread) : (setThread s t).cursor = s.cursor := rfl
@[simp] theorem setThread_nonce (s : State) (t : Thread) : (setThread s t).nonce = s.nonce := rfl
@[simp] theorem setThread_pend (s : State) (t : Thread) : (setThread s t).pend = s.pend := rfl
@[simp] theorem setThread_agenda (s : State) (t : Thread) : (setThread s t).agenda = s.agenda := rfl
@[simp] theorem setThread_outbox (s : State) (t : Thread) : (setThread s t).outbox = s.outbox := rfl
@[simp] theorem setThread_mem (s : State) (t : Thread) : (setThread s t).mem = s.mem := rfl
@[simp] theorem setThread_poison (s : State) (t : Thread) : (setThread s t).poison = s.poison := rfl
@[simp] theorem setThread_fresh (s : State) (t : Thread) : (setThread s t).fresh = s.fresh := rfl
@[simp] theorem setThread_threads (s : State) (t : Thread) : (setThread s t).threads = tblSet s.threads t.id t := rfl
@[simp] theorem setThread_ctxs (s : State) (t : Thread) : (setThread s t).ctxs = s.ctxs := rfl
@[simp] theorem setThread_parts (s : State) (t : Thread) : (setThread s t).parts = s.parts := rfl
@[simp] theorem setThread_cores (s : State) (t : Thread) : (setThread s t).cores = s.cores := rfl
@[simp] theorem setThread_regions (s : State) (t : Thread) : (setThread s t).regions = s.regions := rfl
@[simp] theorem setThread_ports (s : State) (t : Thread) : (setThread s t).ports = s.ports := rfl
@[simp] theorem setThread_trapqs (s : State) (t : Thread) : (setThread s t).trapqs = s.trapqs := rfl
@[simp] theorem setThread_sets (s : State) (t : Thread) : (setThread s t).sets = s.sets := rfl
@[simp] theorem setThread_vds (s : State) (t : Thread) : (setThread s t).vds = s.vds := rfl
@[simp] theorem setThread_grants (s : State) (t : Thread) : (setThread s t).grants = s.grants := rfl
@[simp] theorem setThread_rings (s : State) (t : Thread) : (setThread s t).rings = s.rings := rfl
@[simp] theorem setThread_links (s : State) (t : Thread) : (setThread s t).links = s.links := rfl
@[simp] theorem setThread_counts (s : State) (t : Thread) : (setThread s t).counts = s.counts := rfl
@[simp] theorem setThread_spdm (s : State) (t : Thread) : (setThread s t).spdm = s.spdm := rfl
@[simp] theorem setThread_dev (s : State) (t : Thread) : (setThread s t).dev = s.dev := rfl

@[simp] theorem dropThread_cycle (s : State) (k : Nat) : (dropThread s k).cycle = s.cycle := rfl
@[simp] theorem dropThread_focus (s : State) (k : Nat) : (dropThread s k).focus = s.focus := rfl
@[simp] theorem dropThread_cursor (s : State) (k : Nat) : (dropThread s k).cursor = s.cursor := rfl
@[simp] theorem dropThread_nonce (s : State) (k : Nat) : (dropThread s k).nonce = s.nonce := rfl
@[simp] theorem dropThread_pend (s : State) (k : Nat) : (dropThread s k).pend = s.pend := rfl
@[simp] theorem dropThread_agenda (s : State) (k : Nat) : (dropThread s k).agenda = s.agenda := rfl
@[simp] theorem dropThread_outbox (s : State) (k : Nat) : (dropThread s k).outbox = s.outbox := rfl
@[simp] theorem dropThread_mem (s : State) (k : Nat) : (dropThread s k).mem = s.mem := rfl
@[simp] theorem dropThread_poison (s : State) (k : Nat) : (dropThread s k).poison = s.poison := rfl
@[simp] theorem dropThread_fresh (s : State) (k : Nat) : (dropThread s k).fresh = s.fresh := rfl
@[simp] theorem dropThread_threads (s : State) (k : Nat) : (dropThread s k).threads = tblErase s.threads k := rfl
@[simp] theorem dropThread_ctxs (s : State) (k : Nat) : (dropThread s k).ctxs = s.ctxs := rfl
@[simp] theorem dropThread_parts (s : State) (k : Nat) : (dropThread s k).parts = s.parts := rfl
@[simp] theorem dropThread_cores (s : State) (k : Nat) : (dropThread s k).cores = s.cores := rfl
@[simp] theorem dropThread_regions (s : State) (k : Nat) : (dropThread s k).regions = s.regions := rfl
@[simp] theorem dropThread_ports (s : State) (k : Nat) : (dropThread s k).ports = s.ports := rfl
@[simp] theorem dropThread_trapqs (s : State) (k : Nat) : (dropThread s k).trapqs = s.trapqs := rfl
@[simp] theorem dropThread_sets (s : State) (k : Nat) : (dropThread s k).sets = s.sets := rfl
@[simp] theorem dropThread_vds (s : State) (k : Nat) : (dropThread s k).vds = s.vds := rfl
@[simp] theorem dropThread_grants (s : State) (k : Nat) : (dropThread s k).grants = s.grants := rfl
@[simp] theorem dropThread_rings (s : State) (k : Nat) : (dropThread s k).rings = s.rings := rfl
@[simp] theorem dropThread_links (s : State) (k : Nat) : (dropThread s k).links = s.links := rfl
@[simp] theorem dropThread_counts (s : State) (k : Nat) : (dropThread s k).counts = s.counts := rfl
@[simp] theorem dropThread_spdm (s : State) (k : Nat) : (dropThread s k).spdm = s.spdm := rfl
@[simp] theorem dropThread_dev (s : State) (k : Nat) : (dropThread s k).dev = s.dev := rfl

@[simp] theorem setCtx_cycle (s : State) (c : Nat) (x : Ctx) : (setCtx s c x).cycle = s.cycle := rfl
@[simp] theorem setCtx_focus (s : State) (c : Nat) (x : Ctx) : (setCtx s c x).focus = s.focus := rfl
@[simp] theorem setCtx_cursor (s : State) (c : Nat) (x : Ctx) : (setCtx s c x).cursor = s.cursor := rfl
@[simp] theorem setCtx_nonce (s : State) (c : Nat) (x : Ctx) : (setCtx s c x).nonce = s.nonce := rfl
@[simp] theorem setCtx_pend (s : State) (c : Nat) (x : Ctx) : (setCtx s c x).pend = s.pend := rfl
@[simp] theorem setCtx_agenda (s : State) (c : Nat) (x : Ctx) : (setCtx s c x).agenda = s.agenda := rfl
@[simp] theorem setCtx_outbox (s : State) (c : Nat) (x : Ctx) : (setCtx s c x).outbox = s.outbox := rfl
@[simp] theorem setCtx_mem (s : State) (c : Nat) (x : Ctx) : (setCtx s c x).mem = s.mem := rfl
@[simp] theorem setCtx_poison (s : State) (c : Nat) (x : Ctx) : (setCtx s c x).poison = s.poison := rfl
@[simp] theorem setCtx_fresh (s : State) (c : Nat) (x : Ctx) : (setCtx s c x).fresh = s.fresh := rfl
@[simp] theorem setCtx_threads (s : State) (c : Nat) (x : Ctx) : (setCtx s c x).threads = s.threads := rfl
@[simp] theorem setCtx_ctxs (s : State) (c : Nat) (x : Ctx) : (setCtx s c x).ctxs = tblSet s.ctxs c x := rfl
@[simp] theorem setCtx_parts (s : State) (c : Nat) (x : Ctx) : (setCtx s c x).parts = s.parts := rfl
@[simp] theorem setCtx_cores (s : State) (c : Nat) (x : Ctx) : (setCtx s c x).cores = s.cores := rfl
@[simp] theorem setCtx_regions (s : State) (c : Nat) (x : Ctx) : (setCtx s c x).regions = s.regions := rfl
@[simp] theorem setCtx_ports (s : State) (c : Nat) (x : Ctx) : (setCtx s c x).ports = s.ports := rfl
@[simp] theorem setCtx_trapqs (s : State) (c : Nat) (x : Ctx) : (setCtx s c x).trapqs = s.trapqs := rfl
@[simp] theorem setCtx_sets (s : State) (c : Nat) (x : Ctx) : (setCtx s c x).sets = s.sets := rfl
@[simp] theorem setCtx_vds (s : State) (c : Nat) (x : Ctx) : (setCtx s c x).vds = s.vds := rfl
@[simp] theorem setCtx_grants (s : State) (c : Nat) (x : Ctx) : (setCtx s c x).grants = s.grants := rfl
@[simp] theorem setCtx_rings (s : State) (c : Nat) (x : Ctx) : (setCtx s c x).rings = s.rings := rfl
@[simp] theorem setCtx_links (s : State) (c : Nat) (x : Ctx) : (setCtx s c x).links = s.links := rfl
@[simp] theorem setCtx_counts (s : State) (c : Nat) (x : Ctx) : (setCtx s c x).counts = s.counts := rfl
@[simp] theorem setCtx_spdm (s : State) (c : Nat) (x : Ctx) : (setCtx s c x).spdm = s.spdm := rfl
@[simp] theorem setCtx_dev (s : State) (c : Nat) (x : Ctx) : (setCtx s c x).dev = s.dev := rfl

@[simp] theorem setPart_cycle (s : State) (c p : Nat) (x : Part) : (setPart s c p x).cycle = s.cycle := rfl
@[simp] theorem setPart_focus (s : State) (c p : Nat) (x : Part) : (setPart s c p x).focus = s.focus := rfl
@[simp] theorem setPart_cursor (s : State) (c p : Nat) (x : Part) : (setPart s c p x).cursor = s.cursor := rfl
@[simp] theorem setPart_nonce (s : State) (c p : Nat) (x : Part) : (setPart s c p x).nonce = s.nonce := rfl
@[simp] theorem setPart_pend (s : State) (c p : Nat) (x : Part) : (setPart s c p x).pend = s.pend := rfl
@[simp] theorem setPart_agenda (s : State) (c p : Nat) (x : Part) : (setPart s c p x).agenda = s.agenda := rfl
@[simp] theorem setPart_outbox (s : State) (c p : Nat) (x : Part) : (setPart s c p x).outbox = s.outbox := rfl
@[simp] theorem setPart_mem (s : State) (c p : Nat) (x : Part) : (setPart s c p x).mem = s.mem := rfl
@[simp] theorem setPart_poison (s : State) (c p : Nat) (x : Part) : (setPart s c p x).poison = s.poison := rfl
@[simp] theorem setPart_fresh (s : State) (c p : Nat) (x : Part) : (setPart s c p x).fresh = s.fresh := rfl
@[simp] theorem setPart_threads (s : State) (c p : Nat) (x : Part) : (setPart s c p x).threads = s.threads := rfl
@[simp] theorem setPart_ctxs (s : State) (c p : Nat) (x : Part) : (setPart s c p x).ctxs = s.ctxs := rfl
@[simp] theorem setPart_parts (s : State) (c p : Nat) (x : Part) : (setPart s c p x).parts = tblSet s.parts (partKey c p) x := rfl
@[simp] theorem setPart_cores (s : State) (c p : Nat) (x : Part) : (setPart s c p x).cores = s.cores := rfl
@[simp] theorem setPart_regions (s : State) (c p : Nat) (x : Part) : (setPart s c p x).regions = s.regions := rfl
@[simp] theorem setPart_ports (s : State) (c p : Nat) (x : Part) : (setPart s c p x).ports = s.ports := rfl
@[simp] theorem setPart_trapqs (s : State) (c p : Nat) (x : Part) : (setPart s c p x).trapqs = s.trapqs := rfl
@[simp] theorem setPart_sets (s : State) (c p : Nat) (x : Part) : (setPart s c p x).sets = s.sets := rfl
@[simp] theorem setPart_vds (s : State) (c p : Nat) (x : Part) : (setPart s c p x).vds = s.vds := rfl
@[simp] theorem setPart_grants (s : State) (c p : Nat) (x : Part) : (setPart s c p x).grants = s.grants := rfl
@[simp] theorem setPart_rings (s : State) (c p : Nat) (x : Part) : (setPart s c p x).rings = s.rings := rfl
@[simp] theorem setPart_links (s : State) (c p : Nat) (x : Part) : (setPart s c p x).links = s.links := rfl
@[simp] theorem setPart_counts (s : State) (c p : Nat) (x : Part) : (setPart s c p x).counts = s.counts := rfl
@[simp] theorem setPart_spdm (s : State) (c p : Nat) (x : Part) : (setPart s c p x).spdm = s.spdm := rfl
@[simp] theorem setPart_dev (s : State) (c p : Nat) (x : Part) : (setPart s c p x).dev = s.dev := rfl

@[simp] theorem setCore_cycle (s : State) (c : Nat) (x : CoreSt) : (setCore s c x).cycle = s.cycle := rfl
@[simp] theorem setCore_focus (s : State) (c : Nat) (x : CoreSt) : (setCore s c x).focus = s.focus := rfl
@[simp] theorem setCore_cursor (s : State) (c : Nat) (x : CoreSt) : (setCore s c x).cursor = s.cursor := rfl
@[simp] theorem setCore_nonce (s : State) (c : Nat) (x : CoreSt) : (setCore s c x).nonce = s.nonce := rfl
@[simp] theorem setCore_pend (s : State) (c : Nat) (x : CoreSt) : (setCore s c x).pend = s.pend := rfl
@[simp] theorem setCore_agenda (s : State) (c : Nat) (x : CoreSt) : (setCore s c x).agenda = s.agenda := rfl
@[simp] theorem setCore_outbox (s : State) (c : Nat) (x : CoreSt) : (setCore s c x).outbox = s.outbox := rfl
@[simp] theorem setCore_mem (s : State) (c : Nat) (x : CoreSt) : (setCore s c x).mem = s.mem := rfl
@[simp] theorem setCore_poison (s : State) (c : Nat) (x : CoreSt) : (setCore s c x).poison = s.poison := rfl
@[simp] theorem setCore_fresh (s : State) (c : Nat) (x : CoreSt) : (setCore s c x).fresh = s.fresh := rfl
@[simp] theorem setCore_threads (s : State) (c : Nat) (x : CoreSt) : (setCore s c x).threads = s.threads := rfl
@[simp] theorem setCore_ctxs (s : State) (c : Nat) (x : CoreSt) : (setCore s c x).ctxs = s.ctxs := rfl
@[simp] theorem setCore_parts (s : State) (c : Nat) (x : CoreSt) : (setCore s c x).parts = s.parts := rfl
@[simp] theorem setCore_cores (s : State) (c : Nat) (x : CoreSt) : (setCore s c x).cores = tblSet s.cores c x := rfl
@[simp] theorem setCore_regions (s : State) (c : Nat) (x : CoreSt) : (setCore s c x).regions = s.regions := rfl
@[simp] theorem setCore_ports (s : State) (c : Nat) (x : CoreSt) : (setCore s c x).ports = s.ports := rfl
@[simp] theorem setCore_trapqs (s : State) (c : Nat) (x : CoreSt) : (setCore s c x).trapqs = s.trapqs := rfl
@[simp] theorem setCore_sets (s : State) (c : Nat) (x : CoreSt) : (setCore s c x).sets = s.sets := rfl
@[simp] theorem setCore_vds (s : State) (c : Nat) (x : CoreSt) : (setCore s c x).vds = s.vds := rfl
@[simp] theorem setCore_grants (s : State) (c : Nat) (x : CoreSt) : (setCore s c x).grants = s.grants := rfl
@[simp] theorem setCore_rings (s : State) (c : Nat) (x : CoreSt) : (setCore s c x).rings = s.rings := rfl
@[simp] theorem setCore_links (s : State) (c : Nat) (x : CoreSt) : (setCore s c x).links = s.links := rfl
@[simp] theorem setCore_counts (s : State) (c : Nat) (x : CoreSt) : (setCore s c x).counts = s.counts := rfl
@[simp] theorem setCore_spdm (s : State) (c : Nat) (x : CoreSt) : (setCore s c x).spdm = s.spdm := rfl
@[simp] theorem setCore_dev (s : State) (c : Nat) (x : CoreSt) : (setCore s c x).dev = s.dev := rfl

@[simp] theorem setRegion_cycle (s : State) (g : Nat) (x : Region) : (setRegion s g x).cycle = s.cycle := rfl
@[simp] theorem setRegion_focus (s : State) (g : Nat) (x : Region) : (setRegion s g x).focus = s.focus := rfl
@[simp] theorem setRegion_cursor (s : State) (g : Nat) (x : Region) : (setRegion s g x).cursor = s.cursor := rfl
@[simp] theorem setRegion_nonce (s : State) (g : Nat) (x : Region) : (setRegion s g x).nonce = s.nonce := rfl
@[simp] theorem setRegion_pend (s : State) (g : Nat) (x : Region) : (setRegion s g x).pend = s.pend := rfl
@[simp] theorem setRegion_agenda (s : State) (g : Nat) (x : Region) : (setRegion s g x).agenda = s.agenda := rfl
@[simp] theorem setRegion_outbox (s : State) (g : Nat) (x : Region) : (setRegion s g x).outbox = s.outbox := rfl
@[simp] theorem setRegion_mem (s : State) (g : Nat) (x : Region) : (setRegion s g x).mem = s.mem := rfl
@[simp] theorem setRegion_poison (s : State) (g : Nat) (x : Region) : (setRegion s g x).poison = s.poison := rfl
@[simp] theorem setRegion_fresh (s : State) (g : Nat) (x : Region) : (setRegion s g x).fresh = s.fresh := rfl
@[simp] theorem setRegion_threads (s : State) (g : Nat) (x : Region) : (setRegion s g x).threads = s.threads := rfl
@[simp] theorem setRegion_ctxs (s : State) (g : Nat) (x : Region) : (setRegion s g x).ctxs = s.ctxs := rfl
@[simp] theorem setRegion_parts (s : State) (g : Nat) (x : Region) : (setRegion s g x).parts = s.parts := rfl
@[simp] theorem setRegion_cores (s : State) (g : Nat) (x : Region) : (setRegion s g x).cores = s.cores := rfl
@[simp] theorem setRegion_regions (s : State) (g : Nat) (x : Region) : (setRegion s g x).regions = tblSet s.regions g x := rfl
@[simp] theorem setRegion_ports (s : State) (g : Nat) (x : Region) : (setRegion s g x).ports = s.ports := rfl
@[simp] theorem setRegion_trapqs (s : State) (g : Nat) (x : Region) : (setRegion s g x).trapqs = s.trapqs := rfl
@[simp] theorem setRegion_sets (s : State) (g : Nat) (x : Region) : (setRegion s g x).sets = s.sets := rfl
@[simp] theorem setRegion_vds (s : State) (g : Nat) (x : Region) : (setRegion s g x).vds = s.vds := rfl
@[simp] theorem setRegion_grants (s : State) (g : Nat) (x : Region) : (setRegion s g x).grants = s.grants := rfl
@[simp] theorem setRegion_rings (s : State) (g : Nat) (x : Region) : (setRegion s g x).rings = s.rings := rfl
@[simp] theorem setRegion_links (s : State) (g : Nat) (x : Region) : (setRegion s g x).links = s.links := rfl
@[simp] theorem setRegion_counts (s : State) (g : Nat) (x : Region) : (setRegion s g x).counts = s.counts := rfl
@[simp] theorem setRegion_spdm (s : State) (g : Nat) (x : Region) : (setRegion s g x).spdm = s.spdm := rfl
@[simp] theorem setRegion_dev (s : State) (g : Nat) (x : Region) : (setRegion s g x).dev = s.dev := rfl

@[simp] theorem setPort_cycle (s : State) (p : Nat) (x : Port) : (setPort s p x).cycle = s.cycle := rfl
@[simp] theorem setPort_focus (s : State) (p : Nat) (x : Port) : (setPort s p x).focus = s.focus := rfl
@[simp] theorem setPort_cursor (s : State) (p : Nat) (x : Port) : (setPort s p x).cursor = s.cursor := rfl
@[simp] theorem setPort_nonce (s : State) (p : Nat) (x : Port) : (setPort s p x).nonce = s.nonce := rfl
@[simp] theorem setPort_pend (s : State) (p : Nat) (x : Port) : (setPort s p x).pend = s.pend := rfl
@[simp] theorem setPort_agenda (s : State) (p : Nat) (x : Port) : (setPort s p x).agenda = s.agenda := rfl
@[simp] theorem setPort_outbox (s : State) (p : Nat) (x : Port) : (setPort s p x).outbox = s.outbox := rfl
@[simp] theorem setPort_mem (s : State) (p : Nat) (x : Port) : (setPort s p x).mem = s.mem := rfl
@[simp] theorem setPort_poison (s : State) (p : Nat) (x : Port) : (setPort s p x).poison = s.poison := rfl
@[simp] theorem setPort_fresh (s : State) (p : Nat) (x : Port) : (setPort s p x).fresh = s.fresh := rfl
@[simp] theorem setPort_threads (s : State) (p : Nat) (x : Port) : (setPort s p x).threads = s.threads := rfl
@[simp] theorem setPort_ctxs (s : State) (p : Nat) (x : Port) : (setPort s p x).ctxs = s.ctxs := rfl
@[simp] theorem setPort_parts (s : State) (p : Nat) (x : Port) : (setPort s p x).parts = s.parts := rfl
@[simp] theorem setPort_cores (s : State) (p : Nat) (x : Port) : (setPort s p x).cores = s.cores := rfl
@[simp] theorem setPort_regions (s : State) (p : Nat) (x : Port) : (setPort s p x).regions = s.regions := rfl
@[simp] theorem setPort_ports (s : State) (p : Nat) (x : Port) : (setPort s p x).ports = tblSet s.ports p x := rfl
@[simp] theorem setPort_trapqs (s : State) (p : Nat) (x : Port) : (setPort s p x).trapqs = s.trapqs := rfl
@[simp] theorem setPort_sets (s : State) (p : Nat) (x : Port) : (setPort s p x).sets = s.sets := rfl
@[simp] theorem setPort_vds (s : State) (p : Nat) (x : Port) : (setPort s p x).vds = s.vds := rfl
@[simp] theorem setPort_grants (s : State) (p : Nat) (x : Port) : (setPort s p x).grants = s.grants := rfl
@[simp] theorem setPort_rings (s : State) (p : Nat) (x : Port) : (setPort s p x).rings = s.rings := rfl
@[simp] theorem setPort_links (s : State) (p : Nat) (x : Port) : (setPort s p x).links = s.links := rfl
@[simp] theorem setPort_counts (s : State) (p : Nat) (x : Port) : (setPort s p x).counts = s.counts := rfl
@[simp] theorem setPort_spdm (s : State) (p : Nat) (x : Port) : (setPort s p x).spdm = s.spdm := rfl
@[simp] theorem setPort_dev (s : State) (p : Nat) (x : Port) : (setPort s p x).dev = s.dev := rfl

@[simp] theorem setTrapQ_cycle (s : State) (q : Nat) (x : TrapQ) : (setTrapQ s q x).cycle = s.cycle := rfl
@[simp] theorem setTrapQ_focus (s : State) (q : Nat) (x : TrapQ) : (setTrapQ s q x).focus = s.focus := rfl
@[simp] theorem setTrapQ_cursor (s : State) (q : Nat) (x : TrapQ) : (setTrapQ s q x).cursor = s.cursor := rfl
@[simp] theorem setTrapQ_nonce (s : State) (q : Nat) (x : TrapQ) : (setTrapQ s q x).nonce = s.nonce := rfl
@[simp] theorem setTrapQ_pend (s : State) (q : Nat) (x : TrapQ) : (setTrapQ s q x).pend = s.pend := rfl
@[simp] theorem setTrapQ_agenda (s : State) (q : Nat) (x : TrapQ) : (setTrapQ s q x).agenda = s.agenda := rfl
@[simp] theorem setTrapQ_outbox (s : State) (q : Nat) (x : TrapQ) : (setTrapQ s q x).outbox = s.outbox := rfl
@[simp] theorem setTrapQ_mem (s : State) (q : Nat) (x : TrapQ) : (setTrapQ s q x).mem = s.mem := rfl
@[simp] theorem setTrapQ_poison (s : State) (q : Nat) (x : TrapQ) : (setTrapQ s q x).poison = s.poison := rfl
@[simp] theorem setTrapQ_fresh (s : State) (q : Nat) (x : TrapQ) : (setTrapQ s q x).fresh = s.fresh := rfl
@[simp] theorem setTrapQ_threads (s : State) (q : Nat) (x : TrapQ) : (setTrapQ s q x).threads = s.threads := rfl
@[simp] theorem setTrapQ_ctxs (s : State) (q : Nat) (x : TrapQ) : (setTrapQ s q x).ctxs = s.ctxs := rfl
@[simp] theorem setTrapQ_parts (s : State) (q : Nat) (x : TrapQ) : (setTrapQ s q x).parts = s.parts := rfl
@[simp] theorem setTrapQ_cores (s : State) (q : Nat) (x : TrapQ) : (setTrapQ s q x).cores = s.cores := rfl
@[simp] theorem setTrapQ_regions (s : State) (q : Nat) (x : TrapQ) : (setTrapQ s q x).regions = s.regions := rfl
@[simp] theorem setTrapQ_ports (s : State) (q : Nat) (x : TrapQ) : (setTrapQ s q x).ports = s.ports := rfl
@[simp] theorem setTrapQ_trapqs (s : State) (q : Nat) (x : TrapQ) : (setTrapQ s q x).trapqs = tblSet s.trapqs q x := rfl
@[simp] theorem setTrapQ_sets (s : State) (q : Nat) (x : TrapQ) : (setTrapQ s q x).sets = s.sets := rfl
@[simp] theorem setTrapQ_vds (s : State) (q : Nat) (x : TrapQ) : (setTrapQ s q x).vds = s.vds := rfl
@[simp] theorem setTrapQ_grants (s : State) (q : Nat) (x : TrapQ) : (setTrapQ s q x).grants = s.grants := rfl
@[simp] theorem setTrapQ_rings (s : State) (q : Nat) (x : TrapQ) : (setTrapQ s q x).rings = s.rings := rfl
@[simp] theorem setTrapQ_links (s : State) (q : Nat) (x : TrapQ) : (setTrapQ s q x).links = s.links := rfl
@[simp] theorem setTrapQ_counts (s : State) (q : Nat) (x : TrapQ) : (setTrapQ s q x).counts = s.counts := rfl
@[simp] theorem setTrapQ_spdm (s : State) (q : Nat) (x : TrapQ) : (setTrapQ s q x).spdm = s.spdm := rfl
@[simp] theorem setTrapQ_dev (s : State) (q : Nat) (x : TrapQ) : (setTrapQ s q x).dev = s.dev := rfl

@[simp] theorem modVd_cycle (s : State) (v : Nat) (f : Vd → Vd) : (modVd s v f).cycle = s.cycle := rfl
@[simp] theorem modVd_focus (s : State) (v : Nat) (f : Vd → Vd) : (modVd s v f).focus = s.focus := rfl
@[simp] theorem modVd_cursor (s : State) (v : Nat) (f : Vd → Vd) : (modVd s v f).cursor = s.cursor := rfl
@[simp] theorem modVd_nonce (s : State) (v : Nat) (f : Vd → Vd) : (modVd s v f).nonce = s.nonce := rfl
@[simp] theorem modVd_pend (s : State) (v : Nat) (f : Vd → Vd) : (modVd s v f).pend = s.pend := rfl
@[simp] theorem modVd_agenda (s : State) (v : Nat) (f : Vd → Vd) : (modVd s v f).agenda = s.agenda := rfl
@[simp] theorem modVd_outbox (s : State) (v : Nat) (f : Vd → Vd) : (modVd s v f).outbox = s.outbox := rfl
@[simp] theorem modVd_mem (s : State) (v : Nat) (f : Vd → Vd) : (modVd s v f).mem = s.mem := rfl
@[simp] theorem modVd_poison (s : State) (v : Nat) (f : Vd → Vd) : (modVd s v f).poison = s.poison := rfl
@[simp] theorem modVd_fresh (s : State) (v : Nat) (f : Vd → Vd) : (modVd s v f).fresh = s.fresh := rfl
@[simp] theorem modVd_threads (s : State) (v : Nat) (f : Vd → Vd) : (modVd s v f).threads = s.threads := rfl
@[simp] theorem modVd_ctxs (s : State) (v : Nat) (f : Vd → Vd) : (modVd s v f).ctxs = s.ctxs := rfl
@[simp] theorem modVd_parts (s : State) (v : Nat) (f : Vd → Vd) : (modVd s v f).parts = s.parts := rfl
@[simp] theorem modVd_cores (s : State) (v : Nat) (f : Vd → Vd) : (modVd s v f).cores = s.cores := rfl
@[simp] theorem modVd_regions (s : State) (v : Nat) (f : Vd → Vd) : (modVd s v f).regions = s.regions := rfl
@[simp] theorem modVd_ports (s : State) (v : Nat) (f : Vd → Vd) : (modVd s v f).ports = s.ports := rfl
@[simp] theorem modVd_trapqs (s : State) (v : Nat) (f : Vd → Vd) : (modVd s v f).trapqs = s.trapqs := rfl
@[simp] theorem modVd_sets (s : State) (v : Nat) (f : Vd → Vd) : (modVd s v f).sets = s.sets := rfl
@[simp] theorem modVd_vds (s : State) (v : Nat) (f : Vd → Vd) : (modVd s v f).vds = tblSet s.vds v (f (getVd s v)) := rfl
@[simp] theorem modVd_grants (s : State) (v : Nat) (f : Vd → Vd) : (modVd s v f).grants = s.grants := rfl
@[simp] theorem modVd_rings (s : State) (v : Nat) (f : Vd → Vd) : (modVd s v f).rings = s.rings := rfl
@[simp] theorem modVd_links (s : State) (v : Nat) (f : Vd → Vd) : (modVd s v f).links = s.links := rfl
@[simp] theorem modVd_counts (s : State) (v : Nat) (f : Vd → Vd) : (modVd s v f).counts = s.counts := rfl
@[simp] theorem modVd_spdm (s : State) (v : Nat) (f : Vd → Vd) : (modVd s v f).spdm = s.spdm := rfl
@[simp] theorem modVd_dev (s : State) (v : Nat) (f : Vd → Vd) : (modVd s v f).dev = s.dev := rfl

@[simp] theorem bump_cycle (s : State) : (bump s).cycle = s.cycle := rfl
@[simp] theorem bump_focus (s : State) : (bump s).focus = s.focus := rfl
@[simp] theorem bump_cursor (s : State) : (bump s).cursor = s.cursor := rfl
@[simp] theorem bump_nonce (s : State) : (bump s).nonce = s.nonce + 1 := rfl
@[simp] theorem bump_pend (s : State) : (bump s).pend = s.pend := rfl
@[simp] theorem bump_agenda (s : State) : (bump s).agenda = s.agenda := rfl
@[simp] theorem bump_outbox (s : State) : (bump s).outbox = s.outbox := rfl
@[simp] theorem bump_mem (s : State) : (bump s).mem = s.mem := rfl
@[simp] theorem bump_poison (s : State) : (bump s).poison = s.poison := rfl
@[simp] theorem bump_fresh (s : State) : (bump s).fresh = s.fresh := rfl
@[simp] theorem bump_threads (s : State) : (bump s).threads = s.threads := rfl
@[simp] theorem bump_ctxs (s : State) : (bump s).ctxs = s.ctxs := rfl
@[simp] theorem bump_parts (s : State) : (bump s).parts = s.parts := rfl
@[simp] theorem bump_cores (s : State) : (bump s).cores = s.cores := rfl
@[simp] theorem bump_regions (s : State) : (bump s).regions = s.regions := rfl
@[simp] theorem bump_ports (s : State) : (bump s).ports = s.ports := rfl
@[simp] theorem bump_trapqs (s : State) : (bump s).trapqs = s.trapqs := rfl
@[simp] theorem bump_sets (s : State) : (bump s).sets = s.sets := rfl
@[simp] theorem bump_vds (s : State) : (bump s).vds = s.vds := rfl
@[simp] theorem bump_grants (s : State) : (bump s).grants = s.grants := rfl
@[simp] theorem bump_rings (s : State) : (bump s).rings = s.rings := rfl
@[simp] theorem bump_links (s : State) : (bump s).links = s.links := rfl
@[simp] theorem bump_counts (s : State) : (bump s).counts = s.counts := rfl
@[simp] theorem bump_spdm (s : State) : (bump s).spdm = s.spdm := rfl
@[simp] theorem bump_dev (s : State) : (bump s).dev = s.dev := rfl

@[simp] theorem post_cycle (s : State) (n k : Nat) (i : Instr) (w : Focus) : (post s n k i w).cycle = s.cycle := rfl
@[simp] theorem post_focus (s : State) (n k : Nat) (i : Instr) (w : Focus) : (post s n k i w).focus = s.focus := rfl
@[simp] theorem post_cursor (s : State) (n k : Nat) (i : Instr) (w : Focus) : (post s n k i w).cursor = s.cursor := rfl
@[simp] theorem post_nonce (s : State) (n k : Nat) (i : Instr) (w : Focus) : (post s n k i w).nonce = s.nonce := rfl
@[simp] theorem post_agenda (s : State) (n k : Nat) (i : Instr) (w : Focus) : (post s n k i w).agenda = s.agenda := rfl
@[simp] theorem post_outbox (s : State) (n k : Nat) (i : Instr) (w : Focus) : (post s n k i w).outbox = s.outbox := rfl
@[simp] theorem post_mem (s : State) (n k : Nat) (i : Instr) (w : Focus) : (post s n k i w).mem = s.mem := rfl
@[simp] theorem post_poison (s : State) (n k : Nat) (i : Instr) (w : Focus) : (post s n k i w).poison = s.poison := rfl
@[simp] theorem post_fresh (s : State) (n k : Nat) (i : Instr) (w : Focus) : (post s n k i w).fresh = s.fresh := rfl
@[simp] theorem post_threads (s : State) (n k : Nat) (i : Instr) (w : Focus) : (post s n k i w).threads = s.threads := rfl
@[simp] theorem post_ctxs (s : State) (n k : Nat) (i : Instr) (w : Focus) : (post s n k i w).ctxs = s.ctxs := rfl
@[simp] theorem post_parts (s : State) (n k : Nat) (i : Instr) (w : Focus) : (post s n k i w).parts = s.parts := rfl
@[simp] theorem post_cores (s : State) (n k : Nat) (i : Instr) (w : Focus) : (post s n k i w).cores = s.cores := rfl
@[simp] theorem post_regions (s : State) (n k : Nat) (i : Instr) (w : Focus) : (post s n k i w).regions = s.regions := rfl
@[simp] theorem post_ports (s : State) (n k : Nat) (i : Instr) (w : Focus) : (post s n k i w).ports = s.ports := rfl
@[simp] theorem post_trapqs (s : State) (n k : Nat) (i : Instr) (w : Focus) : (post s n k i w).trapqs = s.trapqs := rfl
@[simp] theorem post_sets (s : State) (n k : Nat) (i : Instr) (w : Focus) : (post s n k i w).sets = s.sets := rfl
@[simp] theorem post_vds (s : State) (n k : Nat) (i : Instr) (w : Focus) : (post s n k i w).vds = s.vds := rfl
@[simp] theorem post_grants (s : State) (n k : Nat) (i : Instr) (w : Focus) : (post s n k i w).grants = s.grants := rfl
@[simp] theorem post_rings (s : State) (n k : Nat) (i : Instr) (w : Focus) : (post s n k i w).rings = s.rings := rfl
@[simp] theorem post_links (s : State) (n k : Nat) (i : Instr) (w : Focus) : (post s n k i w).links = s.links := rfl
@[simp] theorem post_counts (s : State) (n k : Nat) (i : Instr) (w : Focus) : (post s n k i w).counts = s.counts := rfl
@[simp] theorem post_spdm (s : State) (n k : Nat) (i : Instr) (w : Focus) : (post s n k i w).spdm = s.spdm := rfl
@[simp] theorem post_dev (s : State) (n k : Nat) (i : Instr) (w : Focus) : (post s n k i w).dev = s.dev := rfl

/-! ### Reading what was written -/

@[simp] theorem getThread_setThread (s : State) (t : Thread) : getThread (setThread s t) t.id = some t := tblFind_tblSet_same _ _ _

theorem getThread_setThread_other (s : State) (t : Thread) (k : Nat) (h : k ≠ t.id) : getThread (setThread s t) k = getThread s k :=
  tblFind_tblSet_other _ _ _ _ h

@[simp] theorem getCtx_setCtx (s : State) (c : Nat) (x : Ctx) : getCtx (setCtx s c x) c = some x := tblFind_tblSet_same _ _ _

theorem getCtx_setCtx_other (s : State) (c k : Nat) (x : Ctx) (h : k ≠ c) : getCtx (setCtx s c x) k = getCtx s k :=
  tblFind_tblSet_other _ _ _ _ h

@[simp] theorem getPart_setPart (s : State) (c p : Nat) (x : Part) : getPart (setPart s c p x) c p = x := tblGet_tblSet_same _ _ _ _

theorem getPart_setPart_other (s : State) (c p c' p' : Nat) (x : Part) (h : partKey c' p' ≠ partKey c p) :
    getPart (setPart s c p x) c' p' = getPart s c' p' := tblGet_tblSet_other _ _ _ _ _ h

@[simp] theorem getCore_setCore (s : State) (c : Nat) (x : CoreSt) : getCore (setCore s c x) c = x := tblGet_tblSet_same _ _ _ _

theorem getCore_setCore_other (s : State) (c k : Nat) (x : CoreSt) (h : k ≠ c) : getCore (setCore s c x) k = getCore s k :=
  tblGet_tblSet_other _ _ _ _ _ h

@[simp] theorem getRegion_setRegion (s : State) (g : Nat) (x : Region) : getRegion (setRegion s g x) g = x := tblGet_tblSet_same _ _ _ _

theorem getRegion_setRegion_other (s : State) (g k : Nat) (x : Region) (h : k ≠ g) : getRegion (setRegion s g x) k = getRegion s k :=
  tblGet_tblSet_other _ _ _ _ _ h

@[simp] theorem getPort_setPort (s : State) (p : Nat) (x : Port) : getPort (setPort s p x) p = x := tblGet_tblSet_same _ _ _ _

@[simp] theorem getTrapQ_setTrapQ (s : State) (q : Nat) (x : TrapQ) : getTrapQ (setTrapQ s q x) q = x := tblGet_tblSet_same _ _ _ _

end Sys2Proof.Machine
end

