-- ==== Sys2Proof/Laws/Ops.lean ====
section
/-! SUPPORT. What each shared operation of Ops.lean does, said once: registers, predicates, retiring, the frame of scalar words, traps
and their return. -/

namespace Sys2Proof.Machine

open Sys2Proof

/-! ### Registers and predicates (R14, R15) -/

/-- A register reads what was written, except that codes past g9 discard the write. -/
theorem readReg_writeReg (r : Regs) (d c : BitVec 4) (v : Word) :
    readReg (writeReg r d v) c = if c = d ∧ d.toNat < 10 then v else readReg r c := by
  have hd := d.isLt
  have hc := c.isLt
  have e : c = d ↔ c.toNat = d.toNat := BitVec.toNat_inj.symm
  simp only [e, readReg, writeReg]
  generalize c.toNat = m at *
  generalize d.toNat = n at *
  interval_cases n <;> interval_cases m <;> rfl

/-- zr reads zero. -/
@[simp] theorem readReg_zr (r : Regs) : readReg r 10 = 0 := rfl

/-- Predicate p0 reads 1. -/
theorem pred_zero (t : Thread) : t.pred 0 = true := by
  unfold Thread.pred Thread.predWord
  simp

theorem one_shift_getLsbD (p q : BitVec 4) : ((1 : BitVec 16) <<< p.toNat).getLsbD q.toNat = decide (q = p) := by
  revert p q
  decide

/-- A predicate reads what was written; p0 keeps its 1. -/
theorem pred_setPred (t : Thread) (p q : BitVec 4) (b : Bool) :
    (t.setPred p b).pred q = if q = 0 then true else if q = p then b else t.pred q := by
  have h1 : (1 : BitVec 16).getLsbD q.toNat = decide (q = 0) := by
    revert q
    decide
  have hq : q.toNat < 16 := q.isLt
  have hs := one_shift_getLsbD p q
  unfold Thread.setPred Thread.pred Thread.predWord
  cases b
  · simp only [Bool.false_eq_true, if_false, BitVec.getLsbD_or, BitVec.getLsbD_and, BitVec.getLsbD_not, h1, hs]
    by_cases h0 : q = 0
    · simp [h0]
    · by_cases hp : q = p
      · simp [hp]
      · simp only [h0, hp, decide_false, Bool.or_false, hq, decide_true, Bool.not_false, Bool.and_true, if_false]
  · simp only [if_true, BitVec.getLsbD_or, h1, hs]
    by_cases h0 : q = 0
    · simp [h0]
    · by_cases hp : q = p
      · simp [hp]
      · simp only [h0, hp, decide_false, Bool.or_false, if_false]

/-! ### The frame of scalar words -/

/-- A scalar word whose guard holds does what its body says. -/
theorem scalar_ready {s : State} {t : Thread} {g : BitVec 5} (f : State → Thread → State) (hf : s.focus = .thread t.id)
    (ht : getThread s t.id = some t) (hg : guardHolds t g = true) : scalar g s f = .next (f s t) := by
  simp [scalar, hf, ht, hg]

/-- A scalar word whose guard is false is retired without effect. -/
theorem scalar_unguarded {s : State} {t : Thread} {g : BitVec 5} (f : State → Thread → State) (hf : s.focus = .thread t.id)
    (ht : getThread s t.id = some t) (hw : t.wait.resumes = false) (hg : guardHolds t g = false) :
    scalar g s f = .next (retire s t) := by
  simp [scalar, hf, ht, hg, hw]

/-- A scalar word never stops the machine while a thread is in focus. -/
theorem scalar_next {s : State} {t : Thread} {g : BitVec 5} (f : State → Thread → State) (hf : s.focus = .thread t.id)
    (ht : getThread s t.id = some t) : ∃ s', scalar g s f = .next s' := by
  simp only [scalar, hf, ht]
  split
  · exact ⟨_, rfl⟩
  · exact ⟨_, rfl⟩

/-- A retired instruction leaves its thread at the next word. -/
theorem retire_step {s : State} {t : Thread} (hm : t.mism = none) (hp : inSlice s t.core t.part (t.pc.toNat + 4) = true) :
    retire s t = setThread s { t with wait := .ready, counted := false, held := [], kept := [], mism := none,
                                      pc := BitVec.ofNat 14 (t.pc.toNat + 4) } := by
  simp [retire, hm, hp]

/-- `retire` with a result register. -/
theorem retireReg_step {s : State} {t : Thread} (d : BitVec 4) (v : Word) (hm : t.mism = none)
    (hp : inSlice s t.core t.part (t.pc.toNat + 4) = true) :
    retireReg s t d v = setThread s { t with regs := writeReg t.regs d v, wait := .ready, counted := false, held := [], kept := [],
                                             mism := none, pc := BitVec.ofNat 14 (t.pc.toNat + 4) } := by
  have := retire_step (s := s) (t := t.setReg d v) hm hp
  simpa [retireReg, Thread.setReg] using this

/-! ### Traps (R256, R258) -/

/-- Taking a trap with a vector: the trap words, TRAPPEND and the vector's pc. -/
theorem takeTrap_vector {s : State} {t : Thread} {x : Ctx} {v : Nat} (cause : Nat) (value : Word) (ret : BitVec 14)
    (hx : getCtx s t.ctx = some x) (hv : x.tvec = some v) :
    takeTrap s t cause value ret =
      setThread s ({ t with trapc := BitVec.ofNat 8 cause, trapv := value, trappc := ret,
                            pc := BitVec.ofNat 14 (sliceBase s t.core t.part + v), wait := .ready, counted := false, held := [], kept := [], mism := none }.setTrapPend true) := by
  simp [takeTrap, hx, hv]

/-- Returning from a trap: the saved pc, and sw.TRAPC is clear. -/
theorem returnFromTrap_step {s : State} {t : Thread} (hc : t.trapc ≠ 0) (hp : inSlice s t.core t.part t.trappc.toNat = true) :
    returnFromTrap s t = setThread s { t with trapc := 0, pc := t.trappc, wait := .ready, counted := false } := by
  rw [returnFromTrap, if_neg hc, hp]
  rfl

end Sys2Proof.Machine
end

