-- ==== Sys2Proof/Laws/PerInstr.lean ====
section
/-! SUPPORT. Decoding takes back what the encoders wrote: the family RoundTrip, one lemma a constructor. -/

namespace Sys2Proof.Laws

open Sys2Proof Sys2Proof.Machine

/-- The decoder reads the fields that the encoder joined. -/
theorem fieldsOf_wordOf (x : Fields) : fieldsOf (wordOf x) = x := by
  obtain ⟨g, o, d, a, b, f⟩ := x
  simp only [fieldsOf, wordOf, Fields.mk.injEq]
  refine ⟨?_, ?_, ?_, ?_, ?_, ?_⟩
  all_goals
    ext i hi
    rw [BitVec.getElem_extractLsb', ← BitVec.getLsbD_eq_getElem hi]
    change BitVec.getLsbD (w := 5 + 7 + 4 + 4 + 4 + 8) (g ++ o ++ d ++ a ++ b ++ f) _ = _
    simp only [BitVec.getLsbD_append]
    interval_cases i <;> simp

@[simp] theorem imm12_ofImm12 (g : BitVec 5) (o : BitVec 7) (d a : BitVec 4) (i : BitVec 12) : (ofImm12 g o d a i).imm12 = i := by
  simp only [Fields.imm12, ofImm12]
  ext k hk
  rw [← BitVec.getLsbD_eq_getElem hk]
  rw [BitVec.getLsbD_append]
  interval_cases k <;> simp

@[simp] theorem imm16_ofImm16 (g : BitVec 5) (o : BitVec 7) (d : BitVec 4) (i : BitVec 16) : (ofImm16 g o d i).imm16 = i := by
  simp only [Fields.imm16, ofImm16]
  ext k hk
  rw [← BitVec.getLsbD_eq_getElem hk]
  simp only [BitVec.getLsbD_append]
  interval_cases k <;> simp

@[simp] theorem off20_ofOff20 (g : BitVec 5) (o : BitVec 7) (i : BitVec 20) : (ofOff20 g o i).off20 = i := by
  simp only [Fields.off20, ofOff20]
  ext k hk
  rw [← BitVec.getLsbD_eq_getElem hk]
  simp only [BitVec.getLsbD_append]
  interval_cases k <;> simp

theorem join_low {n m : Nat} (a : BitVec n) (b : BitVec m) : (a ++ b).extractLsb' 0 m = b := by
  ext i hi
  simp [BitVec.getLsbD_append, hi]

theorem join_high {n m : Nat} (a : BitVec n) (b : BitVec m) : (a ++ b).extractLsb' m n = a := by
  ext i hi
  simp [BitVec.getLsbD_append, BitVec.getLsbD_eq_getElem hi]

theorem join_mid {n m k : Nat} (a : BitVec n) (b : BitVec m) (c : BitVec k) : (a ++ b ++ c).extractLsb' k m = b := by
  ext i hi
  simp [BitVec.getLsbD_append, hi]

theorem join_top {n m k : Nat} (a : BitVec n) (b : BitVec m) (c : BitVec k) : (a ++ b ++ c).extractLsb' (k + m) n = a := by
  ext i hi
  simp [BitVec.getLsbD_append, BitVec.getLsbD_eq_getElem hi, Nat.add_assoc]

theorem join_four (a b c : BitVec 1) (x : BitVec 9) : (a ++ b ++ c ++ x : BitVec 12).extractLsb' 10 1 = b := by
  ext i hi
  rw [BitVec.getElem_extractLsb', ← BitVec.getLsbD_eq_getElem hi]
  simp only [BitVec.getLsbD_append]
  interval_cases i
  simp

theorem join_four1 (a b c : BitVec 1) (x : BitVec 9) : (a ++ b ++ c ++ x : BitVec 12).extractLsb' 11 1 = a := by
  ext i hi
  rw [BitVec.getElem_extractLsb', ← BitVec.getLsbD_eq_getElem hi]
  simp only [BitVec.getLsbD_append]
  interval_cases i
  simp

theorem join_four3 (a b c : BitVec 1) (x : BitVec 9) : (a ++ b ++ c ++ x : BitVec 12).extractLsb' 9 1 = c := by
  ext i hi
  rw [BitVec.getElem_extractLsb', ← BitVec.getLsbD_eq_getElem hi]
  simp only [BitVec.getLsbD_append]
  interval_cases i
  simp

theorem append_right {n m : Nat} (a : BitVec n) (b : BitVec m) (k l : Nat) (h : k + l ≤ m) :
    (a ++ b).extractLsb' k l = b.extractLsb' k l := by
  ext i hi
  have : k + i < m := by omega
  simp [BitVec.getLsbD_append, this]

theorem append_left {n m : Nat} (a : BitVec n) (b : BitVec m) (k l : Nat) :
    (a ++ b).extractLsb' (m + k) l = a.extractLsb' k l := by
  ext i hi
  have h1 : ¬ m + k + i < m := by omega
  have h2 : m + k + i - m = k + i := by omega
  simp [BitVec.getLsbD_append, h1, h2]

theorem append_all {n : Nat} (a : BitVec n) : a.extractLsb' 0 n = a := by
  ext i hi
  simp

theorem packTcw_q3 (o : BitVec 8) (c : Tcw) : (packTcw o c).extractLsb' 192 64 = c.q3 := by
  unfold packTcw
  refine (append_left _ c.wout 188 64).trans ?_
  refine (append_left _ c.win 184 64).trans ?_
  refine (append_left _ c.count 176 64).trans ?_
  refine (append_left _ c.rm 173 64).trans ?_
  refine (append_left _ c.fmtOut 169 64).trans ?_
  refine (append_left _ c.fmtB 165 64).trans ?_
  refine (append_left _ c.fmtA 161 64).trans ?_
  refine (append_left _ c.acc 159 64).trans ?_
  refine (append_left _ c.hB 154 64).trans ?_
  refine (append_left _ c.hA 149 64).trans ?_
  refine (append_left _ c.dst 144 64).trans ?_
  refine (append_left _ c.flags 136 64).trans ?_
  refine (append_left _ o 128 64).trans ?_
  refine (append_left _ c.q1 64 64).trans ?_
  refine (append_left _ c.q2 0 64).trans ?_
  exact append_all _

theorem packTcw_q2 (o : BitVec 8) (c : Tcw) : (packTcw o c).extractLsb' 128 64 = c.q2 := by
  unfold packTcw
  refine (append_left _ c.wout 124 64).trans ?_
  refine (append_left _ c.win 120 64).trans ?_
  refine (append_left _ c.count 112 64).trans ?_
  refine (append_left _ c.rm 109 64).trans ?_
  refine (append_left _ c.fmtOut 105 64).trans ?_
  refine (append_left _ c.fmtB 101 64).trans ?_
  refine (append_left _ c.fmtA 97 64).trans ?_
  refine (append_left _ c.acc 95 64).trans ?_
  refine (append_left _ c.hB 90 64).trans ?_
  refine (append_left _ c.hA 85 64).trans ?_
  refine (append_left _ c.dst 80 64).trans ?_
  refine (append_left _ c.flags 72 64).trans ?_
  refine (append_left _ o 64 64).trans ?_
  refine (append_left _ c.q1 0 64).trans ?_
  exact (append_right _ _ 0 64 (Nat.le_refl _)).trans (append_all _)

theorem packTcw_q1 (o : BitVec 8) (c : Tcw) : (packTcw o c).extractLsb' 64 64 = c.q1 := by
  unfold packTcw
  refine (append_left _ c.wout 60 64).trans ?_
  refine (append_left _ c.win 56 64).trans ?_
  refine (append_left _ c.count 48 64).trans ?_
  refine (append_left _ c.rm 45 64).trans ?_
  refine (append_left _ c.fmtOut 41 64).trans ?_
  refine (append_left _ c.fmtB 37 64).trans ?_
  refine (append_left _ c.fmtA 33 64).trans ?_
  refine (append_left _ c.acc 31 64).trans ?_
  refine (append_left _ c.hB 26 64).trans ?_
  refine (append_left _ c.hA 21 64).trans ?_
  refine (append_left _ c.dst 16 64).trans ?_
  refine (append_left _ c.flags 8 64).trans ?_
  refine (append_left _ o 0 64).trans ?_
  exact (append_right _ _ 0 64 (Nat.le_refl _)).trans (append_all _)

theorem packTcw_opcode (o : BitVec 8) (c : Tcw) : (packTcw o c).extractLsb' 56 8 = o := by
  unfold packTcw
  refine (append_left _ c.wout 52 8).trans ?_
  refine (append_left _ c.win 48 8).trans ?_
  refine (append_left _ c.count 40 8).trans ?_
  refine (append_left _ c.rm 37 8).trans ?_
  refine (append_left _ c.fmtOut 33 8).trans ?_
  refine (append_left _ c.fmtB 29 8).trans ?_
  refine (append_left _ c.fmtA 25 8).trans ?_
  refine (append_left _ c.acc 23 8).trans ?_
  refine (append_left _ c.hB 18 8).trans ?_
  refine (append_left _ c.hA 13 8).trans ?_
  refine (append_left _ c.dst 8 8).trans ?_
  refine (append_left _ c.flags 0 8).trans ?_
  exact (append_right _ _ 0 8 (Nat.le_refl _)).trans (append_all _)

theorem packTcw_flags (o : BitVec 8) (c : Tcw) : (packTcw o c).extractLsb' 48 8 = c.flags := by
  unfold packTcw
  refine (append_left _ c.wout 44 8).trans ?_
  refine (append_left _ c.win 40 8).trans ?_
  refine (append_left _ c.count 32 8).trans ?_
  refine (append_left _ c.rm 29 8).trans ?_
  refine (append_left _ c.fmtOut 25 8).trans ?_
  refine (append_left _ c.fmtB 21 8).trans ?_
  refine (append_left _ c.fmtA 17 8).trans ?_
  refine (append_left _ c.acc 15 8).trans ?_
  refine (append_left _ c.hB 10 8).trans ?_
  refine (append_left _ c.hA 5 8).trans ?_
  refine (append_left _ c.dst 0 8).trans ?_
  exact (append_right _ _ 0 8 (Nat.le_refl _)).trans (append_all _)

theorem packTcw_dst (o : BitVec 8) (c : Tcw) : (packTcw o c).extractLsb' 43 5 = c.dst := by
  unfold packTcw
  refine (append_left _ c.wout 39 5).trans ?_
  refine (append_left _ c.win 35 5).trans ?_
  refine (append_left _ c.count 27 5).trans ?_
  refine (append_left _ c.rm 24 5).trans ?_
  refine (append_left _ c.fmtOut 20 5).trans ?_
  refine (append_left _ c.fmtB 16 5).trans ?_
  refine (append_left _ c.fmtA 12 5).trans ?_
  refine (append_left _ c.acc 10 5).trans ?_
  refine (append_left _ c.hB 5 5).trans ?_
  refine (append_left _ c.hA 0 5).trans ?_
  exact (append_right _ _ 0 5 (Nat.le_refl _)).trans (append_all _)

theorem packTcw_hA (o : BitVec 8) (c : Tcw) : (packTcw o c).extractLsb' 38 5 = c.hA := by
  unfold packTcw
  refine (append_left _ c.wout 34 5).trans ?_
  refine (append_left _ c.win 30 5).trans ?_
  refine (append_left _ c.count 22 5).trans ?_
  refine (append_left _ c.rm 19 5).trans ?_
  refine (append_left _ c.fmtOut 15 5).trans ?_
  refine (append_left _ c.fmtB 11 5).trans ?_
  refine (append_left _ c.fmtA 7 5).trans ?_
  refine (append_left _ c.acc 5 5).trans ?_
  refine (append_left _ c.hB 0 5).trans ?_
  exact (append_right _ _ 0 5 (Nat.le_refl _)).trans (append_all _)

theorem packTcw_hB (o : BitVec 8) (c : Tcw) : (packTcw o c).extractLsb' 33 5 = c.hB := by
  unfold packTcw
  refine (append_left _ c.wout 29 5).trans ?_
  refine (append_left _ c.win 25 5).trans ?_
  refine (append_left _ c.count 17 5).trans ?_
  refine (append_left _ c.rm 14 5).trans ?_
  refine (append_left _ c.fmtOut 10 5).trans ?_
  refine (append_left _ c.fmtB 6 5).trans ?_
  refine (append_left _ c.fmtA 2 5).trans ?_
  refine (append_left _ c.acc 0 5).trans ?_
  exact (append_right _ _ 0 5 (Nat.le_refl _)).trans (append_all _)

theorem packTcw_acc (o : BitVec 8) (c : Tcw) : (packTcw o c).extractLsb' 31 2 = c.acc := by
  unfold packTcw
  refine (append_left _ c.wout 27 2).trans ?_
  refine (append_left _ c.win 23 2).trans ?_
  refine (append_left _ c.count 15 2).trans ?_
  refine (append_left _ c.rm 12 2).trans ?_
  refine (append_left _ c.fmtOut 8 2).trans ?_
  refine (append_left _ c.fmtB 4 2).trans ?_
  refine (append_left _ c.fmtA 0 2).trans ?_
  exact (append_right _ _ 0 2 (Nat.le_refl _)).trans (append_all _)

theorem packTcw_fmtA (o : BitVec 8) (c : Tcw) : (packTcw o c).extractLsb' 27 4 = c.fmtA := by
  unfold packTcw
  refine (append_left _ c.wout 23 4).trans ?_
  refine (append_left _ c.win 19 4).trans ?_
  refine (append_left _ c.count 11 4).trans ?_
  refine (append_left _ c.rm 8 4).trans ?_
  refine (append_left _ c.fmtOut 4 4).trans ?_
  refine (append_left _ c.fmtB 0 4).trans ?_
  exact (append_right _ _ 0 4 (Nat.le_refl _)).trans (append_all _)

theorem packTcw_fmtB (o : BitVec 8) (c : Tcw) : (packTcw o c).extractLsb' 23 4 = c.fmtB := by
  unfold packTcw
  refine (append_left _ c.wout 19 4).trans ?_
  refine (append_left _ c.win 15 4).trans ?_
  refine (append_left _ c.count 7 4).trans ?_
  refine (append_left _ c.rm 4 4).trans ?_
  refine (append_left _ c.fmtOut 0 4).trans ?_
  exact (append_right _ _ 0 4 (Nat.le_refl _)).trans (append_all _)

theorem packTcw_fmtOut (o : BitVec 8) (c : Tcw) : (packTcw o c).extractLsb' 19 4 = c.fmtOut := by
  unfold packTcw
  refine (append_left _ c.wout 15 4).trans ?_
  refine (append_left _ c.win 11 4).trans ?_
  refine (append_left _ c.count 3 4).trans ?_
  refine (append_left _ c.rm 0 4).trans ?_
  exact (append_right _ _ 0 4 (Nat.le_refl _)).trans (append_all _)

theorem packTcw_rm (o : BitVec 8) (c : Tcw) : (packTcw o c).extractLsb' 16 3 = c.rm := by
  unfold packTcw
  refine (append_left _ c.wout 12 3).trans ?_
  refine (append_left _ c.win 8 3).trans ?_
  refine (append_left _ c.count 0 3).trans ?_
  exact (append_right _ _ 0 3 (Nat.le_refl _)).trans (append_all _)

theorem packTcw_count (o : BitVec 8) (c : Tcw) : (packTcw o c).extractLsb' 8 8 = c.count := by
  unfold packTcw
  refine (append_left _ c.wout 4 8).trans ?_
  refine (append_left _ c.win 0 8).trans ?_
  exact (append_right _ _ 0 8 (Nat.le_refl _)).trans (append_all _)

theorem packTcw_win (o : BitVec 8) (c : Tcw) : (packTcw o c).extractLsb' 4 4 = c.win := by
  unfold packTcw
  refine (append_left _ c.wout 0 4).trans ?_
  exact (append_right _ _ 0 4 (Nat.le_refl _)).trans (append_all _)

theorem packTcw_wout (o : BitVec 8) (c : Tcw) : (packTcw o c).extractLsb' 0 4 = c.wout := by
  unfold packTcw
  exact (append_right _ _ 0 4 (Nat.le_refl _)).trans (append_all _)

/-- The fields of a tile command word are those that were packed. -/
theorem tcwOf_packTcw (o : BitVec 8) (c : Tcw) : tcwOf (packTcw o c) = c := by
  simp only [tcwOf, packTcw_q3, packTcw_q2, packTcw_q1, packTcw_flags, packTcw_dst, packTcw_hA, packTcw_hB, packTcw_acc, packTcw_fmtA,
    packTcw_fmtB, packTcw_fmtOut, packTcw_rm, packTcw_count, packTcw_win, packTcw_wout]

@[simp] theorem ofImm12_g (g : BitVec 5) (o : BitVec 7) (d a : BitVec 4) (i : BitVec 12) : (ofImm12 g o d a i).g = g := rfl
@[simp] theorem ofImm12_o (g : BitVec 5) (o : BitVec 7) (d a : BitVec 4) (i : BitVec 12) : (ofImm12 g o d a i).o = o := rfl
@[simp] theorem ofImm12_d (g : BitVec 5) (o : BitVec 7) (d a : BitVec 4) (i : BitVec 12) : (ofImm12 g o d a i).d = d := rfl
@[simp] theorem ofImm12_a (g : BitVec 5) (o : BitVec 7) (d a : BitVec 4) (i : BitVec 12) : (ofImm12 g o d a i).a = a := rfl
@[simp] theorem ofImm16_g (g : BitVec 5) (o : BitVec 7) (d : BitVec 4) (i : BitVec 16) : (ofImm16 g o d i).g = g := rfl
@[simp] theorem ofImm16_o (g : BitVec 5) (o : BitVec 7) (d : BitVec 4) (i : BitVec 16) : (ofImm16 g o d i).o = o := rfl
@[simp] theorem ofImm16_d (g : BitVec 5) (o : BitVec 7) (d : BitVec 4) (i : BitVec 16) : (ofImm16 g o d i).d = d := rfl
@[simp] theorem ofOff20_g (g : BitVec 5) (o : BitVec 7) (i : BitVec 20) : (ofOff20 g o i).g = g := rfl
@[simp] theorem ofOff20_o (g : BitVec 5) (o : BitVec 7) (i : BitVec 20) : (ofOff20 g o i).o = o := rfl

namespace RoundTrip

/-- A legal instruction comes back from its word. -/
def Statement (i : Instr) : Prop :=
  WellFormed i → (∀ w, encode i = some w → decodeScalar w = .ok i) ∧ ∀ w, encodeTcw i = some w → decodeTcw w = .ok i

theorem of_scalar {i : Instr} {x : Fields} (he : encodeFields i = some x) (hd : decodeFields x = .ok i) (ht : encodeTcw i = none) :
    Statement i := by
  intro hw
  refine ⟨fun w h => ?_, fun w h => by simp [ht] at h⟩
  simp only [encode, he, Option.map_some, Option.some.injEq] at h
  subst h
  simp [decodeScalar, fieldsOf_wordOf, hd, checked, hw]

theorem of_tile {i : Instr} {o : BitVec 8} {c : Tcw} (he : encodeFields i = none) (ht : encodeTcw i = some (packTcw o c))
    (hd : tileOp o.toNat c = .ok i) : Statement i := by
  intro hw
  refine ⟨fun w h => by simp [encode, he] at h, fun w h => ?_⟩
  rw [ht, Option.some.injEq] at h
  subst h
  simp [decodeTcw, packTcw_opcode, tcwOf_packTcw, hd, checked, hw]

theorem of_none {i : Instr} (he : encodeFields i = none) (ht : encodeTcw i = none) : Statement i := by
  intro _
  exact ⟨fun w h => by simp [encode, he] at h, fun w h => by simp [ht] at h⟩


theorem nop (g : BitVec 5) : Statement (.nop g) := of_scalar rfl rfl rfl

theorem add (g : BitVec 5) (d : BitVec 4) (a : BitVec 4) (b : BitVec 4) : Statement (.add g d a b) := of_scalar rfl rfl rfl

theorem sub (g : BitVec 5) (d : BitVec 4) (a : BitVec 4) (b : BitVec 4) : Statement (.sub g d a b) := of_scalar rfl rfl rfl

theorem and (g : BitVec 5) (d : BitVec 4) (a : BitVec 4) (b : BitVec 4) : Statement (.and g d a b) := of_scalar rfl rfl rfl

theorem or (g : BitVec 5) (d : BitVec 4) (a : BitVec 4) (b : BitVec 4) : Statement (.or g d a b) := of_scalar rfl rfl rfl

theorem xor (g : BitVec 5) (d : BitVec 4) (a : BitVec 4) (b : BitVec 4) : Statement (.xor g d a b) := of_scalar rfl rfl rfl

theorem andn (g : BitVec 5) (d : BitVec 4) (a : BitVec 4) (b : BitVec 4) : Statement (.andn g d a b) := of_scalar rfl rfl rfl

theorem shl (g : BitVec 5) (d : BitVec 4) (a : BitVec 4) (b : BitVec 4) : Statement (.shl g d a b) := of_scalar rfl rfl rfl

theorem shr (g : BitVec 5) (d : BitVec 4) (a : BitVec 4) (b : BitVec 4) : Statement (.shr g d a b) := of_scalar rfl rfl rfl

theorem sra (g : BitVec 5) (d : BitVec 4) (a : BitVec 4) (b : BitVec 4) : Statement (.sra g d a b) := of_scalar rfl rfl rfl

theorem rol (g : BitVec 5) (d : BitVec 4) (a : BitVec 4) (b : BitVec 4) : Statement (.rol g d a b) := of_scalar rfl rfl rfl

theorem min (g : BitVec 5) (d : BitVec 4) (a : BitVec 4) (b : BitVec 4) : Statement (.min g d a b) := of_scalar rfl rfl rfl

theorem max (g : BitVec 5) (d : BitVec 4) (a : BitVec 4) (b : BitVec 4) : Statement (.max g d a b) := of_scalar rfl rfl rfl

theorem minn (g : BitVec 5) (d : BitVec 4) (a : BitVec 4) (b : BitVec 4) : Statement (.minn g d a b) := of_scalar rfl rfl rfl

theorem maxn (g : BitVec 5) (d : BitVec 4) (a : BitVec 4) (b : BitVec 4) : Statement (.maxn g d a b) := of_scalar rfl rfl rfl

theorem mul (g : BitVec 5) (d : BitVec 4) (a : BitVec 4) (b : BitVec 4) : Statement (.mul g d a b) := of_scalar rfl rfl rfl

theorem mulh (g : BitVec 5) (d : BitVec 4) (a : BitVec 4) (b : BitVec 4) : Statement (.mulh g d a b) := of_scalar rfl rfl rfl

theorem mulhn (g : BitVec 5) (d : BitVec 4) (a : BitVec 4) (b : BitVec 4) : Statement (.mulhn g d a b) := of_scalar rfl rfl rfl

theorem div (g : BitVec 5) (d : BitVec 4) (a : BitVec 4) (b : BitVec 4) : Statement (.div g d a b) := of_scalar rfl rfl rfl

theorem divn (g : BitVec 5) (d : BitVec 4) (a : BitVec 4) (b : BitVec 4) : Statement (.divn g d a b) := of_scalar rfl rfl rfl

theorem rem (g : BitVec 5) (d : BitVec 4) (a : BitVec 4) (b : BitVec 4) : Statement (.rem g d a b) := of_scalar rfl rfl rfl

theorem remn (g : BitVec 5) (d : BitVec 4) (a : BitVec 4) (b : BitVec 4) : Statement (.remn g d a b) := of_scalar rfl rfl rfl

theorem clz (g : BitVec 5) (d : BitVec 4) (a : BitVec 4) : Statement (.clz g d a) := of_scalar rfl rfl rfl

theorem ctz (g : BitVec 5) (d : BitVec 4) (a : BitVec 4) : Statement (.ctz g d a) := of_scalar rfl rfl rfl

theorem popc (g : BitVec 5) (d : BitVec 4) (a : BitVec 4) : Statement (.popc g d a) := of_scalar rfl rfl rfl

theorem sext (g : BitVec 5) (d : BitVec 4) (a : BitVec 4) (b : BitVec 4) : Statement (.sext g d a b) := of_scalar rfl (by simp [decodeFields]) rfl

theorem zext (g : BitVec 5) (d : BitVec 4) (a : BitVec 4) (b : BitVec 4) : Statement (.zext g d a b) := of_scalar rfl (by simp [decodeFields]) rfl

theorem brev (g : BitVec 5) (d : BitVec 4) (a : BitVec 4) : Statement (.brev g d a) := of_scalar rfl rfl rfl

theorem fadd (g : BitVec 5) (d : BitVec 4) (a : BitVec 4) (b : BitVec 4) : Statement (.fadd g d a b) := of_scalar rfl rfl rfl

theorem fsub (g : BitVec 5) (d : BitVec 4) (a : BitVec 4) (b : BitVec 4) : Statement (.fsub g d a b) := of_scalar rfl rfl rfl

theorem fmul (g : BitVec 5) (d : BitVec 4) (a : BitVec 4) (b : BitVec 4) : Statement (.fmul g d a b) := of_scalar rfl rfl rfl

theorem fmin (g : BitVec 5) (d : BitVec 4) (a : BitVec 4) (b : BitVec 4) : Statement (.fmin g d a b) := of_scalar rfl rfl rfl

theorem fmax (g : BitVec 5) (d : BitVec 4) (a : BitVec 4) (b : BitVec 4) : Statement (.fmax g d a b) := of_scalar rfl rfl rfl

theorem fcvti (g : BitVec 5) (d : BitVec 4) (a : BitVec 4) : Statement (.fcvti g d a) := of_scalar rfl rfl rfl

theorem fcvtf (g : BitVec 5) (d : BitVec 4) (a : BitVec 4) : Statement (.fcvtf g d a) := of_scalar rfl rfl rfl

theorem addi (g : BitVec 5) (d : BitVec 4) (a : BitVec 4) (i : BitVec 12) : Statement (.addi g d a i) := by
  refine of_scalar rfl ?_ rfl
  simp [decodeFields]

theorem andi (g : BitVec 5) (d : BitVec 4) (a : BitVec 4) (i : BitVec 12) : Statement (.andi g d a i) := by
  refine of_scalar rfl ?_ rfl
  simp [decodeFields]

theorem ori (g : BitVec 5) (d : BitVec 4) (a : BitVec 4) (i : BitVec 12) : Statement (.ori g d a i) := by
  refine of_scalar rfl ?_ rfl
  simp [decodeFields]

theorem xori (g : BitVec 5) (d : BitVec 4) (a : BitVec 4) (i : BitVec 12) : Statement (.xori g d a i) := by
  refine of_scalar rfl ?_ rfl
  simp [decodeFields]

theorem shli (g : BitVec 5) (d : BitVec 4) (a : BitVec 4) (c : BitVec 6) : Statement (.shli g d a c) := by
  have h0 : (0#6 ++ c : BitVec 12).extractLsb' 6 6 = 0 := join_high _ _
  have h1 : (0#6 ++ c : BitVec 12).extractLsb' 0 6 = c := join_low _ _
  refine of_scalar rfl ?_ rfl
  simp [decodeFields, h0, h1]

theorem shri (g : BitVec 5) (d : BitVec 4) (a : BitVec 4) (c : BitVec 6) : Statement (.shri g d a c) := by
  have h0 : (0#6 ++ c : BitVec 12).extractLsb' 6 6 = 0 := join_high _ _
  have h1 : (0#6 ++ c : BitVec 12).extractLsb' 0 6 = c := join_low _ _
  refine of_scalar rfl ?_ rfl
  simp [decodeFields, h0, h1]

theorem srai (g : BitVec 5) (d : BitVec 4) (a : BitVec 4) (c : BitVec 6) : Statement (.srai g d a c) := by
  have h0 : (0#6 ++ c : BitVec 12).extractLsb' 6 6 = 0 := join_high _ _
  have h1 : (0#6 ++ c : BitVec 12).extractLsb' 0 6 = c := join_low _ _
  refine of_scalar rfl ?_ rfl
  simp [decodeFields, h0, h1]

theorem muli (g : BitVec 5) (d : BitVec 4) (a : BitVec 4) (i : BitVec 12) : Statement (.muli g d a i) := by
  refine of_scalar rfl ?_ rfl
  simp [decodeFields]

theorem li (g : BitVec 5) (d : BitVec 4) (i : BitVec 16) : Statement (.li g d i) := by
  refine of_scalar rfl ?_ rfl
  simp [decodeFields]

theorem lis (g : BitVec 5) (d : BitVec 4) (i : BitVec 16) : Statement (.lis g d i) := by
  refine of_scalar rfl ?_ rfl
  simp [decodeFields]

theorem kld (g : BitVec 5) (d : BitVec 4) (k : BitVec 8) : Statement (.kld g d k) := of_scalar rfl rfl rfl

theorem kldX (g : BitVec 5) (d : BitVec 4) (a : BitVec 4) (k : BitVec 8) : Statement (.kldX g d a k) := of_scalar rfl (by simp [decodeFields]) rfl

theorem sel (g : BitVec 5) (d : BitVec 4) (a : BitVec 4) (b : BitVec 4) (n : BitVec 4) : Statement (.sel g d a b n) := by
  have h0 : (0#4 ++ n : BitVec 8).extractLsb' 4 4 = 0 := join_high _ _
  have h1 : (0#4 ++ n : BitVec 8).extractLsb' 0 4 = n := join_low _ _
  refine of_scalar rfl ?_ rfl
  simp [decodeFields, h0, h1]

theorem tag (g : BitVec 5) (d : BitVec 4) (a : BitVec 4) (t : BitVec 8) : Statement (.tag g d a t) := by
  have h0 : (0#4 ++ t : BitVec 12).extractLsb' 8 4 = 0 := join_high _ _
  have h1 : (0#4 ++ t : BitVec 12).extractLsb' 0 8 = t := join_low _ _
  refine of_scalar rfl ?_ rfl
  simp [decodeFields, h0, h1]

theorem sega (g : BitVec 5) (d : BitVec 4) (a : BitVec 4) : Statement (.sega g d a) := of_scalar rfl rfl rfl

theorem rds (g : BitVec 5) (d : BitVec 4) (v : BitVec 12) : Statement (.rds g d v) := by
  refine of_scalar rfl ?_ rfl
  simp [decodeFields]

theorem cmp (g : BitVec 5) (p : BitVec 4) (a : BitVec 4) (b : BitVec 4) (c : BitVec 4) (m : BitVec 4) : Statement (.cmp g p a b c m) := by
  have h0 : (c ++ m : BitVec 8).extractLsb' 4 4 = c := join_high _ _
  have h1 : (c ++ m : BitVec 8).extractLsb' 0 4 = m := join_low _ _
  refine of_scalar rfl ?_ rfl
  simp [decodeFields, h0, h1]

theorem cmpi (g : BitVec 5) (p : BitVec 4) (a : BitVec 4) (c : BitVec 4) (i : BitVec 8) : Statement (.cmpi g p a c i) := of_scalar rfl rfl rfl

theorem pand (g : BitVec 5) (p : BitVec 4) (q : BitVec 4) (r : BitVec 4) : Statement (.pand g p q r) := of_scalar rfl rfl rfl

theorem por (g : BitVec 5) (p : BitVec 4) (q : BitVec 4) (r : BitVec 4) : Statement (.por g p q r) := of_scalar rfl rfl rfl

theorem pxor (g : BitVec 5) (p : BitVec 4) (q : BitVec 4) (r : BitVec 4) : Statement (.pxor g p q r) := of_scalar rfl rfl rfl

theorem pandn (g : BitVec 5) (p : BitVec 4) (q : BitVec 4) (r : BitVec 4) : Statement (.pandn g p q r) := of_scalar rfl rfl rfl

theorem pnot (g : BitVec 5) (p : BitVec 4) (q : BitVec 4) : Statement (.pnot g p q) := of_scalar rfl rfl rfl

theorem pmov (g : BitVec 5) (p : BitVec 4) (q : BitVec 4) : Statement (.pmov g p q) := of_scalar rfl rfl rfl

theorem pget (g : BitVec 5) (d : BitVec 4) : Statement (.pget g d) := of_scalar rfl rfl rfl

theorem pset (g : BitVec 5) (a : BitVec 4) : Statement (.pset g a) := of_scalar rfl (by simp [decodeFields]) rfl

theorem br (g : BitVec 5) (o : BitVec 20) : Statement (.br g o) := by
  refine of_scalar rfl ?_ rfl
  simp [decodeFields]

theorem jal (g : BitVec 5) (o : BitVec 20) : Statement (.jal g o) := by
  refine of_scalar rfl ?_ rfl
  simp [decodeFields]

theorem jr (g : BitVec 5) (d : BitVec 4) (a : BitVec 4) : Statement (.jr g d a) := of_scalar rfl rfl rfl

theorem dbnz (g : BitVec 5) (d : BitVec 4) (o : BitVec 16) : Statement (.dbnz g d o) := by
  refine of_scalar rfl ?_ rfl
  simp [decodeFields]

theorem ld (g : BitVec 5) (d : BitVec 4) (a : BitVec 4) (w : BitVec 3) (x : BitVec 9) : Statement (.ld g d a w x) := by
  have h0 : (w ++ x : BitVec 12).extractLsb' 9 3 = w := join_high _ _
  have h1 : (w ++ x : BitVec 12).extractLsb' 0 9 = x := join_low _ _
  refine of_scalar rfl ?_ rfl
  simp [decodeFields, h0, h1]

theorem st (g : BitVec 5) (v : BitVec 4) (a : BitVec 4) (w : BitVec 2) (x : BitVec 9) : Statement (.st g v a w x) := by
  have h0 : (w ++ 0#1 ++ x : BitVec 12).extractLsb' 9 1 = 0 := join_mid _ _ _
  have h1 : (w ++ 0#1 ++ x : BitVec 12).extractLsb' 10 2 = w := join_top _ _ _
  have h2 : (w ++ 0#1 ++ x : BitVec 12).extractLsb' 0 9 = x := join_low _ _
  refine of_scalar rfl ?_ rfl
  simp [decodeFields, h0, h1, h2]

theorem lda (g : BitVec 5) (d : BitVec 4) (a : BitVec 4) (w : BitVec 1) (x : BitVec 9) : Statement (.lda g d a w x) := by
  have h0 : (1#1 ++ w ++ 0#1 ++ x : BitVec 12).extractLsb' 11 1 = 1 := join_four1 _ _ _ _
  have h1 : (1#1 ++ w ++ 0#1 ++ x : BitVec 12).extractLsb' 9 1 = 0 := join_four3 _ _ _ _
  have h2 : (1#1 ++ w ++ 0#1 ++ x : BitVec 12).extractLsb' 10 1 = w := join_four _ _ _ _
  have h3 : (1#1 ++ w ++ 0#1 ++ x : BitVec 12).extractLsb' 0 9 = x := join_low _ _
  refine of_scalar rfl ?_ rfl
  simp [decodeFields, h0, h1, h2, h3]

theorem str (g : BitVec 5) (v : BitVec 4) (a : BitVec 4) (w : BitVec 1) (x : BitVec 9) : Statement (.str g v a w x) := by
  have h0 : (1#1 ++ w ++ 0#1 ++ x : BitVec 12).extractLsb' 11 1 = 1 := join_four1 _ _ _ _
  have h1 : (1#1 ++ w ++ 0#1 ++ x : BitVec 12).extractLsb' 9 1 = 0 := join_four3 _ _ _ _
  have h2 : (1#1 ++ w ++ 0#1 ++ x : BitVec 12).extractLsb' 10 1 = w := join_four _ _ _ _
  have h3 : (1#1 ++ w ++ 0#1 ++ x : BitVec 12).extractLsb' 0 9 = x := join_low _ _
  refine of_scalar rfl ?_ rfl
  simp [decodeFields, h0, h1, h2, h3]

theorem lde (g : BitVec 5) (d : BitVec 4) (a : BitVec 4) (x : BitVec 9) : Statement (.lde g d a x) := by
  have h0 : (0#3 ++ x : BitVec 12).extractLsb' 9 3 = 0 := join_high _ _
  have h1 : (0#3 ++ x : BitVec 12).extractLsb' 0 9 = x := join_low _ _
  refine of_scalar rfl ?_ rfl
  simp [decodeFields, h0, h1]

theorem mrg (g : BitVec 5) (a : BitVec 4) (b : BitVec 4) (w : BitVec 1) (o : BitVec 4) : Statement (.mrg g a b w o) := by
  have h0 : (0#3 ++ w ++ o : BitVec 8).extractLsb' 5 3 = 0 := join_top _ _ _
  have h1 : (0#3 ++ w ++ o : BitVec 8).extractLsb' 4 1 = w := join_mid _ _ _
  have h2 : (0#3 ++ w ++ o : BitVec 8).extractLsb' 0 4 = o := join_low _ _
  refine of_scalar rfl ?_ rfl
  simp [decodeFields, h0, h1, h2]

theorem fmrg (g : BitVec 5) (d : BitVec 4) (a : BitVec 4) (b : BitVec 4) (w : BitVec 1) (o : BitVec 4) : Statement (.fmrg g d a b w o) := by
  have h0 : (0#3 ++ w ++ o : BitVec 8).extractLsb' 5 3 = 0 := join_top _ _ _
  have h1 : (0#3 ++ w ++ o : BitVec 8).extractLsb' 4 1 = w := join_mid _ _ _
  have h2 : (0#3 ++ w ++ o : BitVec 8).extractLsb' 0 4 = o := join_low _ _
  refine of_scalar rfl ?_ rfl
  simp [decodeFields, h0, h1, h2]

theorem vbor (g : BitVec 5) (a : BitVec 4) (b : BitVec 4) : Statement (.vbor g a b) := of_scalar rfl rfl rfl

theorem vbtst (g : BitVec 5) (d : BitVec 4) (a : BitVec 4) (b : BitVec 4) : Statement (.vbtst g d a b) := of_scalar rfl rfl rfl

theorem fenceD (g : BitVec 5) : Statement (.fenceD g) := of_scalar rfl rfl rfl

theorem fenceT (g : BitVec 5) : Statement (.fenceT g) := of_scalar rfl rfl rfl

theorem fenceA (g : BitVec 5) : Statement (.fenceA g) := of_scalar rfl rfl rfl

theorem fenceI (g : BitVec 5) : Statement (.fenceI g) := of_scalar rfl rfl rfl

theorem barRegion (g : BitVec 5) (d : BitVec 4) (a : BitVec 4) : Statement (.barRegion g d a) := of_scalar rfl rfl rfl

theorem barRow (g : BitVec 5) (d : BitVec 4) (a : BitVec 4) : Statement (.barRow g d a) := of_scalar rfl rfl rfl

theorem barCol (g : BitVec 5) (d : BitVec 4) (a : BitVec 4) : Statement (.barCol g d a) := of_scalar rfl rfl rfl

theorem prop (g : BitVec 5) (d : BitVec 3) (a : BitVec 4) (b : BitVec 4) : Statement (.prop g d a b) := by
  have h0 : (d ++ 0#1 : BitVec 4).extractLsb' 0 1 = 0 := join_low _ _
  have h1 : (d ++ 0#1 : BitVec 4).extractLsb' 1 3 = d := join_high _ _
  refine of_scalar rfl ?_ rfl
  simp [decodeFields, h0, h1]

theorem propRun (g : BitVec 5) (d : BitVec 3) (a : BitVec 4) (b : BitVec 4) : Statement (.propRun g d a b) := by
  have h0 : (d ++ 0#1 : BitVec 4).extractLsb' 0 1 = 0 := join_low _ _
  have h1 : (d ++ 0#1 : BitVec 4).extractLsb' 1 3 = d := join_high _ _
  refine of_scalar rfl ?_ rfl
  simp [decodeFields, h0, h1]

theorem learn (g : BitVec 5) (d : BitVec 3) (a : BitVec 4) : Statement (.learn g d a) := by
  have h0 : (d ++ 0#1 : BitVec 4).extractLsb' 0 1 = 0 := join_low _ _
  have h1 : (d ++ 0#1 : BitVec 4).extractLsb' 1 3 = d := join_high _ _
  refine of_scalar rfl ?_ rfl
  simp [decodeFields, h0, h1]

theorem learnPoll (g : BitVec 5) (d : BitVec 3) (a : BitVec 4) : Statement (.learnPoll g d a) := by
  have h0 : (d ++ 0#1 : BitVec 4).extractLsb' 0 1 = 0 := join_low _ _
  have h1 : (d ++ 0#1 : BitVec 4).extractLsb' 1 3 = d := join_high _ _
  refine of_scalar rfl ?_ rfl
  simp [decodeFields, h0, h1]

theorem learnt (g : BitVec 5) (d : BitVec 3) (a : BitVec 4) (b : BitVec 4) : Statement (.learnt g d a b) := by
  have h0 : (d ++ 0#1 : BitVec 4).extractLsb' 0 1 = 0 := join_low _ _
  have h1 : (d ++ 0#1 : BitVec 4).extractLsb' 1 3 = d := join_high _ _
  refine of_scalar rfl ?_ rfl
  simp [decodeFields, h0, h1]

theorem ballot (g : BitVec 5) (d : BitVec 4) (a : BitVec 4) : Statement (.ballot g d a) := of_scalar rfl rfl rfl

theorem reshape (g : BitVec 5) (d : BitVec 3) (a : BitVec 4) (b : BitVec 4) : Statement (.reshape g d a b) := by
  have h0 : (d ++ 0#1 : BitVec 4).extractLsb' 0 1 = 0 := join_low _ _
  have h1 : (d ++ 0#1 : BitVec 4).extractLsb' 1 3 = d := join_high _ _
  refine of_scalar rfl ?_ rfl
  simp [decodeFields, h0, h1]

theorem accordOpen (g : BitVec 5) (d : BitVec 4) (a : BitVec 4) (b : BitVec 4) : Statement (.accordOpen g d a b) := of_scalar rfl rfl rfl

theorem accordClose (g : BitVec 5) (d : BitVec 4) (a : BitVec 4) (b : BitVec 4) : Statement (.accordClose g d a b) := of_scalar rfl rfl rfl

theorem accordTrunc (g : BitVec 5) (d : BitVec 4) (a : BitVec 4) (b : BitVec 4) : Statement (.accordTrunc g d a b) := of_scalar rfl rfl rfl

theorem accordStat (g : BitVec 5) (d : BitVec 4) (a : BitVec 4) (b : BitVec 4) : Statement (.accordStat g d a b) := of_scalar rfl rfl rfl

theorem accordNext (g : BitVec 5) (d : BitVec 4) (a : BitVec 4) (b : BitVec 4) : Statement (.accordNext g d a b) := of_scalar rfl rfl rfl

theorem send (g : BitVec 5) (a : BitVec 4) (b : BitVec 4) (n : BitVec 4) : Statement (.send g a b n) := by
  have h0 : (0#4 ++ n : BitVec 8).extractLsb' 4 4 = 0 := join_high _ _
  have h1 : (0#4 ++ n : BitVec 8).extractLsb' 0 4 = n := join_low _ _
  refine of_scalar rfl ?_ rfl
  simp [decodeFields, h0, h1]

theorem spawn (g : BitVec 5) (d : BitVec 4) (a : BitVec 4) (b : BitVec 4) (n : BitVec 4) : Statement (.spawn g d a b n) := by
  have h0 : (0#4 ++ n : BitVec 8).extractLsb' 4 4 = 0 := join_high _ _
  have h1 : (0#4 ++ n : BitVec 8).extractLsb' 0 4 = n := join_low _ _
  refine of_scalar rfl ?_ rfl
  simp [decodeFields, h0, h1]

theorem migr (g : BitVec 5) (a : BitVec 4) : Statement (.migr g a) := of_scalar rfl rfl rfl

theorem chsend (g : BitVec 5) (a : BitVec 4) (b : BitVec 4) : Statement (.chsend g a b) := of_scalar rfl rfl rfl

theorem chrecv (g : BitVec 5) (d : BitVec 4) (a : BitVec 4) : Statement (.chrecv g d a) := of_scalar rfl rfl rfl

theorem cvsend (g : BitVec 5) (d : BitVec 4) (a : BitVec 4) (b : BitVec 4) (r : BitVec 3) (k : BitVec 4) : Statement (.cvsend g d a b r k) := by
  have h0 : (0#1 ++ r ++ k : BitVec 8).extractLsb' 7 1 = 0 := join_top _ _ _
  have h1 : (0#1 ++ r ++ k : BitVec 8).extractLsb' 4 3 = r := join_mid _ _ _
  have h2 : (0#1 ++ r ++ k : BitVec 8).extractLsb' 0 4 = k := join_low _ _
  refine of_scalar rfl ?_ rfl
  simp [decodeFields, h0, h1, h2]

theorem cvrecv (g : BitVec 5) (d : BitVec 3) (a : BitVec 4) : Statement (.cvrecv g d a) := by
  have h0 : (d ++ 0#1 : BitVec 4).extractLsb' 0 1 = 0 := join_low _ _
  have h1 : (d ++ 0#1 : BitVec 4).extractLsb' 1 3 = d := join_high _ _
  refine of_scalar rfl ?_ rfl
  simp [decodeFields, h0, h1]

theorem cvopJoin (g : BitVec 5) (d : BitVec 4) (a : BitVec 4) : Statement (.cvopJoin g d a) := of_scalar rfl rfl rfl

theorem cvopDlg (g : BitVec 5) (d : BitVec 4) (a : BitVec 4) (b : BitVec 4) : Statement (.cvopDlg g d a b) := of_scalar rfl (by simp [decodeFields]) rfl

theorem cvopLeave (g : BitVec 5) (d : BitVec 4) (a : BitVec 4) : Statement (.cvopLeave g d a) := of_scalar rfl rfl rfl

theorem cvopState (g : BitVec 5) (d : BitVec 4) (a : BitVec 4) (b : BitVec 4) : Statement (.cvopState g d a b) := of_scalar rfl (by simp [decodeFields]) rfl

theorem tcmd (g : BitVec 5) (d : BitVec 4) (a : BitVec 4) : Statement (.tcmd g d a) := of_scalar rfl rfl rfl

theorem tcmdQ1 (g : BitVec 5) (d : BitVec 4) (a : BitVec 4) (b : BitVec 4) : Statement (.tcmdQ1 g d a b) := of_scalar rfl (by simp [decodeFields]) rfl

theorem tloop (g : BitVec 5) (a : BitVec 4) (b : BitVec 4) : Statement (.tloop g a b) := of_scalar rfl rfl rfl

theorem adv (g : BitVec 5) (a : BitVec 4) (b : BitVec 4) : Statement (.adv g a b) := of_scalar rfl rfl rfl

theorem twait (g : BitVec 5) (a : BitVec 4) (b : BitVec 4) : Statement (.twait g a b) := of_scalar rfl rfl rfl

theorem waitt (g : BitVec 5) (a : BitVec 4) : Statement (.waitt g a) := of_scalar rfl rfl rfl

theorem tstat (g : BitVec 5) (d : BitVec 4) : Statement (.tstat g d) := of_scalar rfl rfl rfl

theorem hdef (g : BitVec 5) (a : BitVec 4) (b : BitVec 4) : Statement (.hdef g a b) := of_scalar rfl rfl rfl

theorem bagpop (g : BitVec 5) (d : BitVec 4) : Statement (.bagpop g d) := of_scalar rfl rfl rfl

theorem bagins (g : BitVec 5) (a : BitVec 4) (b : BitVec 4) : Statement (.bagins g a b) := of_scalar rfl rfl rfl

theorem rewrite (g : BitVec 5) : Statement (.rewrite g) := of_scalar rfl rfl rfl

theorem nalloc (g : BitVec 5) (d : BitVec 4) (a : BitVec 4) : Statement (.nalloc g d a) := of_scalar rfl rfl rfl

theorem nfree (g : BitVec 5) (a : BitVec 4) : Statement (.nfree g a) := of_scalar rfl rfl rfl

theorem link (g : BitVec 5) (a : BitVec 4) (b : BitVec 4) : Statement (.link g a b) := of_scalar rfl rfl rfl

theorem rules (g : BitVec 5) (a : BitVec 4) : Statement (.rules g a) := of_scalar rfl rfl rfl

theorem trap (g : BitVec 5) (c : BitVec 12) : Statement (.trap g c) := by
  refine of_scalar rfl ?_ rfl
  simp [decodeFields]

theorem eret (g : BitVec 5) : Statement (.eret g) := of_scalar rfl rfl rfl

theorem rdsw (g : BitVec 5) (d : BitVec 4) (v : BitVec 12) : Statement (.rdsw g d v) := by
  refine of_scalar rfl ?_ rfl
  simp [decodeFields]

theorem wrsw (g : BitVec 5) (a : BitVec 4) (v : BitVec 12) : Statement (.wrsw g a v) := by
  refine of_scalar rfl ?_ rfl
  simp [decodeFields]

theorem yield (g : BitVec 5) : Statement (.yield g) := of_scalar rfl rfl rfl

theorem halt (g : BitVec 5) : Statement (.halt g) := of_scalar rfl rfl rfl

theorem ckpt (g : BitVec 5) (a : BitVec 4) : Statement (.ckpt g a) := of_scalar rfl rfl rfl

theorem ologMark (g : BitVec 5) (a : BitVec 4) : Statement (.ologMark g a) := of_scalar rfl rfl rfl

theorem ologPause (g : BitVec 5) : Statement (.ologPause g) := of_scalar rfl rfl rfl

theorem ologResume (g : BitVec 5) : Statement (.ologResume g) := of_scalar rfl rfl rfl

theorem ologFlush (g : BitVec 5) : Statement (.ologFlush g) := of_scalar rfl rfl rfl

theorem lnch (g : BitVec 5) (d : BitVec 4) (a : BitVec 4) : Statement (.lnch g d a) := of_scalar rfl rfl rfl

theorem wfm (g : BitVec 5) : Statement (.wfm g) := of_scalar rfl rfl rfl

theorem snap (g : BitVec 5) (d : BitVec 4) (a : BitVec 4) : Statement (.snap g d a) := of_scalar rfl rfl rfl

theorem tnop (c : Tcw) : Statement (.tnop c) := of_tile rfl rfl rfl

theorem mma (c : Tcw) : Statement (.mma c) := of_tile rfl rfl rfl

theorem mmas (c : Tcw) : Statement (.mmas c) := of_tile rfl rfl rfl

theorem mmaz (c : Tcw) : Statement (.mmaz c) := of_tile rfl rfl rfl

theorem spld (c : Tcw) : Statement (.spld c) := of_tile rfl rfl rfl

theorem aclr (c : Tcw) : Statement (.aclr c) := of_tile rfl rfl rfl

theorem acld (c : Tcw) : Statement (.acld c) := of_tile rfl rfl rfl

theorem acst (c : Tcw) : Statement (.acst c) := of_tile rfl rfl rfl

theorem acsc (c : Tcw) : Statement (.acsc c) := of_tile rfl rfl rfl

theorem vadd (c : Tcw) : Statement (.vadd c) := of_tile rfl rfl rfl

theorem vsub (c : Tcw) : Statement (.vsub c) := of_tile rfl rfl rfl

theorem vmul (c : Tcw) : Statement (.vmul c) := of_tile rfl rfl rfl

theorem vfma (c : Tcw) : Statement (.vfma c) := of_tile rfl rfl rfl

theorem vmin (c : Tcw) : Statement (.vmin c) := of_tile rfl rfl rfl

theorem vmax (c : Tcw) : Statement (.vmax c) := of_tile rfl rfl rfl

theorem vexp2 (c : Tcw) : Statement (.vexp2 c) := of_tile rfl rfl rfl

theorem vlog2 (c : Tcw) : Statement (.vlog2 c) := of_tile rfl rfl rfl

theorem vrcp (c : Tcw) : Statement (.vrcp c) := of_tile rfl rfl rfl

theorem vrsq (c : Tcw) : Statement (.vrsq c) := of_tile rfl rfl rfl

theorem vcvt (c : Tcw) : Statement (.vcvt c) := of_tile rfl rfl rfl

theorem vcmp (c : Tcw) : Statement (.vcmp c) := of_tile rfl rfl rfl

theorem vsel (c : Tcw) : Statement (.vsel c) := of_tile rfl rfl rfl

theorem vand (c : Tcw) : Statement (.vand c) := of_tile rfl rfl rfl

theorem vor (c : Tcw) : Statement (.vor c) := of_tile rfl rfl rfl

theorem vxor (c : Tcw) : Statement (.vxor c) := of_tile rfl rfl rfl

theorem vred (c : Tcw) : Statement (.vred c) := of_tile rfl rfl rfl

theorem vtrn (c : Tcw) : Statement (.vtrn c) := of_tile rfl rfl rfl

theorem vbcast (c : Tcw) : Statement (.vbcast c) := of_tile rfl rfl rfl

theorem vscl (c : Tcw) : Statement (.vscl c) := of_tile rfl rfl rfl

theorem copy (c : Tcw) : Statement (.copy c) := of_tile rfl rfl rfl

theorem copyr (c : Tcw) : Statement (.copyr c) := of_tile rfl rfl rfl

theorem gath (c : Tcw) : Statement (.gath c) := of_tile rfl rfl rfl

theorem scat (c : Tcw) : Statement (.scat c) := of_tile rfl rfl rfl

theorem mcast (c : Tcw) : Statement (.mcast c) := of_tile rfl rfl rfl

theorem zero (c : Tcw) : Statement (.zero c) := of_tile rfl rfl rfl

theorem qtld (c : Tcw) : Statement (.qtld c) := of_tile rfl rfl rfl

theorem rngk (c : Tcw) : Statement (.rngk c) := of_tile rfl rfl rfl

theorem tsig (c : Tcw) : Statement (.tsig c) := of_tile rfl rfl rfl

theorem tmark (c : Tcw) : Statement (.tmark c) := of_tile rfl rfl rfl

theorem tileCommandComplete : Statement .tileCommandComplete := of_none rfl rfl

theorem tloopPush : Statement .tloopPush := of_none rfl rfl

theorem promiseMissed : Statement .promiseMissed := of_none rfl rfl

theorem remoteAdvance (p : AdvPkt) : Statement (.remoteAdvance p) := of_none rfl rfl

theorem storeDelivery (a : Access) : Statement (.storeDelivery a) := of_none rfl rfl

theorem mergeApply (a : Access) : Statement (.mergeApply a) := of_none rfl rfl

theorem loadRequest (a : Access) : Statement (.loadRequest a) := of_none rfl rfl

theorem loadReply (tid op : Nat) (r : LoadRes) : Statement (.loadReply tid op r) := of_none rfl rfl

theorem acknowledgement (a : Access) (st : AckStatus) : Statement (.acknowledgement a st) := of_none rfl rfl

theorem fetchMergeReply (a : Access) (old : Word) (flags : Nat) (st : AckStatus) (oseq : Nat) : Statement (.fetchMergeReply a old flags st oseq) := of_none rfl rfl

theorem copyShadowRelease : Statement .copyShadowRelease := of_none rfl rfl

theorem codeOrderRelease : Statement .codeOrderRelease := of_none rfl rfl

theorem messageArrival (m : Msg) : Statement (.messageArrival m) := of_none rfl rfl

theorem handlerStart : Statement .handlerStart := of_none rfl rfl

theorem spawnRequest (m : Msg) : Statement (.spawnRequest m) := of_none rfl rfl

theorem spawnReply (tid op : Nat) (status : Machine.SpawnRes) : Statement (.spawnReply tid op status) := of_none rfl rfl

theorem migrationArrival (p : MigPkt) : Statement (.migrationArrival p) := of_none rfl rfl

theorem arrivalTaken : Statement .arrivalTaken := of_none rfl rfl

theorem channelWord (p : ChPkt) : Statement (.channelWord p) := of_none rfl rfl

theorem channelCredit (p : ChPkt) : Statement (.channelCredit p) := of_none rfl rfl

theorem linkExchange (p : GraphPkt) : Statement (.linkExchange p) := of_none rfl rfl

theorem nfreeAtHome (p : GraphPkt) : Statement (.nfreeAtHome p) := of_none rfl rfl

theorem pairPush (p : GraphPkt) : Statement (.pairPush p) := of_none rfl rfl

theorem quarantineExpiry (core part node : Nat) : Statement (.quarantineExpiry core part node) := of_none rfl rfl

theorem prepare (m : AMsg) : Statement (.prepare m) := of_none rfl rfl

theorem accept (m : AMsg) : Statement (.accept m) := of_none rfl rfl

theorem prepacc (m : AMsg) : Statement (.prepacc m) := of_none rfl rfl

theorem decided (m : AMsg) : Statement (.decided m) := of_none rfl rfl

theorem promise (r : ARep) : Statement (.promise r) := of_none rfl rfl

theorem accepted (r : ARep) : Statement (.accepted r) := of_none rfl rfl

theorem nack (r : ARep) : Statement (.nack r) := of_none rfl rfl

theorem norun (r : ARep) : Statement (.norun r) := of_none rfl rfl

theorem decidednow (r : ARep) : Statement (.decidednow r) := of_none rfl rfl

theorem decidedReply (r : ARep) : Statement (.decidedReply r) := of_none rfl rfl

theorem truncReply (r : ARep) : Statement (.truncReply r) := of_none rfl rfl

theorem phaseTimeout (tid op bal : Nat) : Statement (.phaseTimeout tid op bal) := of_none rfl rfl

theorem backoffEnd : Statement .backoffEnd := of_none rfl rfl

theorem lease (m : AMsg) : Statement (.lease m) := of_none rfl rfl

theorem leaseGrant (m : AMsg) : Statement (.leaseGrant m) := of_none rfl rfl

theorem freeze (m : AMsg) (expiry : Nat) : Statement (.freeze m expiry) := of_none rfl rfl

theorem freezeReport (r : ARep) : Statement (.freezeReport r) := of_none rfl rfl

theorem seniorReportTimeout : Statement .seniorReportTimeout := of_none rfl rfl

theorem leaseRelease (m : AMsg) : Statement (.leaseRelease m) := of_none rfl rfl

theorem leaseExpiry (region acc holder op : Nat) : Statement (.leaseExpiry region acc holder op) := of_none rfl rfl

theorem accordTableFill : Statement .accordTableFill := of_none rfl rfl

theorem learnRequest (q : LReq) : Statement (.learnRequest q) := of_none rfl rfl

theorem memberQuery (q : LReq) : Statement (.memberQuery q) := of_none rfl rfl

theorem keepalive (q : LReq) : Statement (.keepalive q) := of_none rfl rfl

theorem learnerFailover : Statement .learnerFailover := of_none rfl rfl

theorem learntDeadline : Statement .learntDeadline := of_none rfl rfl

theorem quorumTakeover (acc : Nat) : Statement (.quorumTakeover acc) := of_none rfl rfl

theorem accordRegister (m : AMsg) (cfg : Quorum) (next : Option Quorum) (size : Nat) (darr : Nat) (proto : Option Proto) (owner : Nat) (strict : Bool) (wsen desc : Nat) : Statement (.accordRegister m cfg next size darr proto owner strict wsen desc) := of_none rfl rfl

theorem openTimeout : Statement .openTimeout := of_none rfl rfl

theorem accordCloseAtMember (m : AMsg) : Statement (.accordCloseAtMember m) := of_none rfl rfl

theorem accordTruncAtMember (m : AMsg) : Statement (.accordTruncAtMember m) := of_none rfl rfl

theorem barRelease (region part kind idx : Nat) : Statement (.barRelease region part kind idx) := of_none rfl rfl

theorem barTimeout : Statement .barTimeout := of_none rfl rfl

theorem budgetExhausted : Statement .budgetExhausted := of_none rfl rfl

theorem budgetTrap : Statement .budgetTrap := of_none rfl rfl

theorem energyMeter : Statement .energyMeter := of_none rfl rfl

theorem trapRecordInsert (q : Nat) : Statement (.trapRecordInsert q) := of_none rfl rfl

theorem pageZeroingDone (port page : Nat) : Statement (.pageZeroingDone port page) := of_none rfl rfl

theorem pageMigrationDone (ctx cls va : Nat) : Statement (.pageMigrationDone ctx cls va) := of_none rfl rfl

theorem scrubPass (port corrected : Nat) (bad : List Nat) : Statement (.scrubPass port corrected bad) := of_none rfl rfl

theorem softError : Statement .softError := of_none rfl rfl

theorem epochNotice (ctx e : Nat) : Statement (.epochNotice ctx e) := of_none rfl rfl

theorem imagePageWrite : Statement .imagePageWrite := of_none rfl rfl

theorem imageComplete : Statement .imageComplete := of_none rfl rfl

theorem ckptPeriodTrigger : Statement .ckptPeriodTrigger := of_none rfl rfl

theorem ckptStepTrigger : Statement .ckptStepTrigger := of_none rfl rfl

theorem launchStart (vd : Nat) : Statement (.launchStart vd) := of_none rfl rfl

theorem launchComplete : Statement .launchComplete := of_none rfl rfl

theorem quantumDuskProposal (set part : Nat) : Statement (.quantumDuskProposal set part) := of_none rfl rfl

theorem duskStop : Statement .duskStop := of_none rfl rfl

theorem quantumRestore (set part : Nat) : Statement (.quantumRestore set part) := of_none rfl rfl

theorem gangStop : Statement .gangStop := of_none rfl rfl

theorem ologHeadRecheck : Statement .ologHeadRecheck := of_none rfl rfl

theorem replayTurn : Statement .replayTurn := of_none rfl rfl

theorem replayStall : Statement .replayStall := of_none rfl rfl

theorem cicadaSweep : Statement .cicadaSweep := of_none rfl rfl

theorem cicadaSweepEnd : Statement .cicadaSweepEnd := of_none rfl rfl

theorem sweepPrewake : Statement .sweepPrewake := of_none rfl rfl

theorem packetLifetimeExpired : Statement .packetLifetimeExpired := of_none rfl rfl

theorem routerGate : Statement .routerGate := of_none rfl rfl

theorem fireflyWake : Statement .fireflyWake := of_none rfl rfl

theorem routerOn : Statement .routerOn := of_none rfl rfl

theorem flitReceive (link : Nat) (f : Flit) : Statement (.flitReceive link f) := of_none rfl rfl

theorem nakReceive (link seq : Nat) : Statement (.nakReceive link seq) := of_none rfl rfl

theorem linkDown : Statement .linkDown := of_none rfl rfl

theorem linkRetrain (link : Nat) (ok : Bool) (farLast : Nat) : Statement (.linkRetrain link ok farLast) := of_none rfl rfl

theorem dropNotice (tid dev iv : Nat) : Statement (.dropNotice tid dev iv) := of_none rfl rfl

theorem countQuery (dev tid iv : Nat) : Statement (.countQuery dev tid iv) := of_none rfl rfl

theorem fenceCountTimeout : Statement .fenceCountTimeout := of_none rfl rfl

theorem vfLoopInterval : Statement .vfLoopInterval := of_none rfl rfl

theorem alarmEntry : Statement .alarmEntry := of_none rfl rfl

theorem alarmClear : Statement .alarmClear := of_none rfl rfl

theorem regulatorAlarm (on : Bool) : Statement (.regulatorAlarm on) := of_none rfl rfl

theorem eqAdapt : Statement .eqAdapt := of_none rfl rfl

theorem laneMarginFail : Statement .laneMarginFail := of_none rfl rfl

theorem wake (v : Word) : Statement (.wake v) := of_none rfl rfl

theorem tqhead (q : Nat) (v : Word) : Statement (.tqhead q v) := of_none rfl rfl

theorem cereg (g : Nat) : Statement (.cereg g) := of_none rfl rfl

theorem ceport (i : Nat) : Statement (.ceport i) := of_none rfl rfl

theorem registerWrite (fn offset : Nat) (v : Word) : Statement (.registerWrite fn offset v) := of_none rfl rfl

theorem migrate : Statement .migrate := of_none rfl rfl

theorem evict : Statement .evict := of_none rfl rfl

theorem inval : Statement .inval := of_none rfl rfl

theorem frames : Statement .frames := of_none rfl rfl

theorem configPset : Statement .configPset := of_none rfl rfl

theorem openl : Statement .openl := of_none rfl rfl

theorem kill : Statement .kill := of_none rfl rfl

theorem release : Statement .release := of_none rfl rfl

theorem grant : Statement .grant := of_none rfl rfl

theorem areas : Statement .areas := of_none rfl rfl

theorem dbgkey : Statement .dbgkey := of_none rfl rfl

theorem hostSubmission : Statement .hostSubmission := of_none rfl rfl

theorem getVersion : Statement .getVersion := of_none rfl rfl

theorem getCapabilities : Statement .getCapabilities := of_none rfl rfl

theorem negotiateAlgorithms : Statement .negotiateAlgorithms := of_none rfl rfl

theorem getDigests : Statement .getDigests := of_none rfl rfl

theorem getCertificate (slot : Nat) : Statement (.getCertificate slot) := of_none rfl rfl

theorem challenge (slot : Nat) (nonce : List Byte) : Statement (.challenge slot nonce) := of_none rfl rfl

theorem getMeasurements (index : Nat) : Statement (.getMeasurements index) := of_none rfl rfl

theorem keyExchange (nonce : List Byte) : Statement (.keyExchange nonce) := of_none rfl rfl

theorem finish (leafDigest : List Byte) (good : Bool) : Statement (.finish leafDigest good) := of_none rfl rfl

theorem debugWindowRead (vd space offset : Nat) : Statement (.debugWindowRead vd space offset) := of_none rfl rfl

theorem reset (d : Dawn) : Statement (.reset d) := of_none rfl rfl

theorem illegalInstruction (w : BitVec 32) : Statement (.illegalInstruction w) := of_none rfl rfl

theorem countReply (tid op dev total : Nat) : Statement (.countReply tid op dev total) := of_none rfl rfl

theorem memberReply (tid op member : Nat) (b : MBody) : Statement (.memberReply tid op member b) := of_none rfl rfl

theorem zeroingEnd : Statement .zeroingEnd := of_none rfl rfl

theorem debugSessionEnd : Statement .debugSessionEnd := of_none rfl rfl

end RoundTrip

end Sys2Proof.Laws
end

