-- ==== Sys2Proof/Tests/Slice0.lean ====
section
/-! SUPPORT. Tests: words written out from the spec's encodings, an ill-formed term for each legality check, small steps, and for each
statement states that meet its hypotheses. -/

open Sys2Proof Sys2Proof.Machine Sys2Proof.Safety

namespace Sys2Proof.Tests

/-! ### Words written out from the encodings of chapters 3 to 10 and the worked examples -/

/-- R90: word of the ring-queue example in 03 (ADD g1, g1, g7). -/
theorem test_decode_add : (decodeScalar 0x00211700).toOption = some (.add 0 1 1 7) := by decide
/-- R90: 0x02<<20 | 5<<16 | 6<<12 | 0x15. -/
theorem test_decode_clz : (decodeScalar 0x00256015).toOption = some (.clz 0 5 6) := by decide
/-- R92: 0x03<<20 | 3<<16 | 1<<12 | 2<<8. -/
theorem test_decode_fadd : (decodeScalar 0x00331200).toOption = some (.fadd 0 3 1 2) := by decide
/-- R93: 0x04<<20 | 1<<16 | 2<<12 | 0xFFF (ADDI g1, g2, −1). -/
theorem test_decode_addi : (decodeScalar 0x00412FFF).toOption = some (.addi 0 1 2 0xFFF) := by decide
/-- R93: a shift needs imm12[11:6] = 0; 0x08<<20 | 1<<16 | 2<<12 | 63. -/
theorem test_decode_shli : (decodeScalar 0x0081203F).toOption = some (.shli 0 1 2 63) := by decide
/-- R94: 0x0C<<20 | 2<<16 | 0x0100. -/
theorem test_decode_li : (decodeScalar 0x00C20100).toOption = some (.li 0 2 0x100) := by decide
/-- R96: 0x0E<<20 | 3<<16 | 4<<12 | 1<<8 | 0x20. -/
theorem test_decode_kldx : (decodeScalar 0x00E34120).toOption = some (.kldX 0 3 4 0x20) := by decide
/-- R97: 0x0F<<20 | 1<<16 | 2<<12 | 3<<8 | 15. -/
theorem test_decode_sel : (decodeScalar 0x00F1230F).toOption = some (.sel 0 1 2 3 15) := by decide
/-- R100: 0x12<<20 | 7<<16 | 8. -/
theorem test_decode_rds : (decodeScalar 0x01270008).toOption = some (.rds 0 7 8) := by decide
/-- R102: the rule's own example, CMPI.LT p3, g2, 10. -/
theorem test_decode_cmpi : (decodeScalar 0x0143220A).toOption = some (.cmpi 0 3 2 2 10) := by decide
/-- R101: 0x13<<20 | 1<<16 | 2<<12 | 3<<8 | 8<<4 | 2 (CMP.GTN.OR p1, g2, g3). -/
theorem test_decode_cmp : (decodeScalar 0x01312382).toOption = some (.cmp 0 1 2 3 8 2) := by decide
/-- R103: 0x15<<20 | 1<<16 | 2<<12 | 3. -/
theorem test_decode_pandn : (decodeScalar 0x01512303).toOption = some (.pandn 0 1 2 3) := by decide
/-- R105: 0x18<<20 | 0xFFFFE, two words back, under guard !p3 (G = 0b10011). -/
theorem test_decode_br : (decodeScalar 0x998FFFFE).toOption = some (.br 0x13 0xFFFFE) := by decide
/-- R107: 0x1B<<20 | 4<<16 | 0x0002. -/
theorem test_decode_dbnz : (decodeScalar 0x01B40002).toOption = some (.dbnz 0 4 2) := by decide
/-- R109: the rule's own example, LD.wn g6, 8(g1). -/
theorem test_decode_ld : (decodeScalar 0x02061A02).toOption = some (.ld 0 6 1 5 2) := by decide
/-- R122: 0x26<<20 | 4<<16 | 2<<12 | 3<<8 | 1<<4 (FMRG.ADD.d g4, g2, g3). -/
theorem test_decode_fmrg : (decodeScalar 0x02642310).toOption = some (.fmrg 0 4 2 3 1 0) := by decide
/-- R121: 0x24<<20 | 3<<16 | 1<<12 | 2. -/
theorem test_decode_lde : (decodeScalar 0x02431002).toOption = some (.lde 0 3 1 2) := by decide
/-- R130: 0x29<<20 | 3. -/
theorem test_decode_fencei : (decodeScalar 0x02900003).toOption = some (.fenceI 0) := by decide
/-- R132: 0x2A<<20 | 6<<16 | 7<<12 | 2. -/
theorem test_decode_bar : (decodeScalar 0x02A67002).toOption = some (.barCol 0 6 7) := by decide
/-- R143: the rule's own examples, PROP g2, g4, g5 and PROP.RUN g2, g4, g5. -/
theorem test_decode_prop : (decodeScalar 0x03024500).toOption = some (.prop 0 1 4 5) ∧ (decodeScalar 0x03024501).toOption = some (.propRun 0 1 4 5) := by decide
/-- R154: 0x31<<20 | 2<<16 | 4<<12. -/
theorem test_decode_learn : (decodeScalar 0x03124000).toOption = some (.learn 0 1 4) := by decide
/-- R170: 0x38<<20 | 0xA<<16 | 2<<12 | 3<<8 | 14. -/
theorem test_decode_send : (decodeScalar 0x038A230E).toOption = some (.send 0 2 3 14) := by decide
/-- R187: 0x3F<<20 | 5<<16 | 6<<12 | 0xA<<8 (CVOP.JOIN). -/
theorem test_decode_join : (decodeScalar 0x03F56A00).toOption = some (.cvopJoin 0 5 6) := by decide
/-- R193: the rule's own example, TCMD.Q1 g7, g1, g2. -/
theorem test_decode_tcmd : (decodeScalar 0x04071201).toOption = some (.tcmdQ1 0 7 1 2) := by decide
/-- R228: 0x45<<20 | 6<<16. -/
theorem test_decode_tstat : (decodeScalar 0x04560000).toOption = some (.tstat 0 6) := by decide
/-- R245: 0x4D<<20 | 6<<12 | 7<<8. -/
theorem test_decode_link : (decodeScalar 0x04D06700).toOption = some (.link 0 6 7) := by decide
/-- R257: 0x50<<20 | 7. -/
theorem test_decode_trap : (decodeScalar 0x05000007).toOption = some (.trap 0 7) := by decide
/-- R252: 0x52<<20 | 9<<16 | 0x005 and 0x53<<20 | 0xA<<12 | 0x003 lies with a in bits [15:12]. -/
theorem test_decode_words : (decodeScalar 0x05290005).toOption = some (.rdsw 0 9 5) ∧ (decodeScalar 0x0530A003).toOption = some (.wrsw 0 10 3) := by decide
/-- R264 to R268: LNCH g2, g1 and SNAP g2, g1. -/
theorem test_decode_lnch : (decodeScalar 0x05821000).toOption = some (.lnch 0 2 1) ∧ (decodeScalar 0x05A21000).toOption = some (.snap 0 2 1) := by decide
/-- R78: the worked Q0 of chapter 3, an MMA. -/
theorem test_decode_mma : ∃ c, decodeTcw 0x10000086A2000410#256 = .ok (.mma c) ∧ c.dst = 0 ∧ c.hA = 2 ∧ c.hB = 3 ∧ c.acc = 1 ∧ c.fmtA = 4
    ∧ c.fmtB = 4 ∧ c.fmtOut = 0 ∧ c.count = 4 ∧ c.win = 1 ∧ c.wout = 0 := ⟨_, by rfl, by decide⟩
/-- R205: the MMAZ of chapter 8. -/
theorem test_decode_mmaz : ∃ c, decodeTcw 0x1200010B45000210#256 = .ok (.mmaz c) ∧ c.hA = 4 ∧ c.hB = 5 ∧ c.acc = 2 ∧ c.count = 2 ∧ c.win = 1 :=
  ⟨_, by rfl, by decide⟩
/-- R210: the VADD of chapter 8. -/
theorem test_decode_vadd : ∃ c, decodeTcw 0x3000100208900111#256 = .ok (.vadd c) ∧ c.dst = 2 ∧ c.hA = 0 ∧ c.hB = 1 ∧ c.count = 1 ∧ c.win = 1
    ∧ c.wout = 1 := ⟨_, by rfl, by decide⟩

/-! ### An ill-formed term for each check -/

def mma : Tcw := tcwOf 0x10000086A2000410#256

def vadd : Tcw := tcwOf 0x3000100208900111#256

theorem test_refuses_short : (decodeBytes [0x00, 0x11, 0x21]).toOption = none := by decide
theorem test_refuses_guard : checkInstr (.nop 16) = some .guard := by decide
theorem test_refuses_major : (decodeScalar 0x00000000).toOption = none ∧ (decodeScalar 0x01700000).toOption = none := by decide
theorem test_refuses_field : (decodeScalar 0x00100001).toOption = none ∧ (decodeScalar 0x00812040).toOption = none := by decide
theorem test_refuses_register : checkInstr (.add 0 11 0 0) = some .register := by decide
theorem test_refuses_pair : checkInstr (.prop 0 5 0 1) = some .pair := by decide
theorem test_refuses_sub : checkInstr (.cmp 0 1 2 3 0 3) = some .sub ∧ checkInstr (.mrg 0 1 2 1 8) = some .sub := by decide
theorem test_refuses_width : checkInstr (.ld 0 1 2 7 0) = some .width := by decide
theorem test_refuses_selector : checkInstr (.rds 0 1 9) = some .selector ∧ checkInstr (.wrsw 0 1 0) = some .selector := by decide
theorem test_refuses_opcode : (decodeTcw 0#256).toOption = none := by decide
theorem test_refuses_flag : checkInstr (.mma { mma with flags := 3 }) = some .flag := by decide
theorem test_refuses_tileField : checkInstr (.mma { mma with dst := 1 }) = some .tileField := by decide
theorem test_refuses_rounding : checkInstr (.mma { mma with rm := 6 }) = some .rounding := by decide
theorem test_refuses_format : checkInstr (.mma { mma with fmtA := 11 }) = some .format := by decide
theorem test_refuses_count : checkInstr (.mma { mma with count := 5 }) = some .count := by decide
theorem test_refuses_quad : checkInstr (.vadd { vadd with q2 := 1 }) = some .quad := by decide
theorem test_refuses_tag : checkInstr (.mma { mma with q2 := 1 }) = some .tag := by decide
theorem test_legal : WellFormed (.mma mma) ∧ WellFormed (.vadd vadd) ∧ WellFormed (.mrg 0 1 2 0 8) := by decide

/-! ### Small states -/

/-- Six segments: the own scratchpad view, HBM, commons of region 0, host memory, the instruction store, one without rights, and the cores
of the block. -/
def segs : List Seg :=
  [{ base := 0, limit := 65536, r := true, w := true, m := true, a := true }, { base := 4 * 2 ^ 52, limit := 2 ^ 30, r := true, w := true, m := true },
   { base := 3 * 2 ^ 52, limit := 2 ^ 20, r := true, w := true, m := true, a := true }, { base := 6 * 2 ^ 52, limit := 2 ^ 20, r := true, w := true },
   { base := 2 * 2 ^ 52, limit := 4096, r := true, w := true, x := true }, {},
   { base := 7 * 2 ^ 52, limit := 2 ^ 30, r := true, w := true, m := true, a := true }, {}]

def ctx1 : Ctx := { fetchCtx with segs := segs, tvec := some 0x100 }

/-- Segment n at offset x as a program address. -/
def pa (n x : Nat) : Word := BitVec.ofNat 64 (n * 2 ^ 53 + x)

/-- The thread that acts. -/
def th : Thread := { id := 1, ctx := 1, core := 0, part := 0, place := .slot 0, op := 5 }

/-- A READY device with a thread `t` in focus on core 0. -/
def at1 (t : Thread) : State := { fetchBase State.reset with focus := .thread 1, threads := [(1, t)], ctxs := [(1, ctx1)] }

/-- The same with a block of two cores. -/
def at2 (t : Thread) : State := { at1 t with ctxs := [(1, { ctx1 with w := 2 })], parts := [(0, { owner := 1 }), (4, { owner := 1 })] }

/-- The thread with g1 = a, g2 = b, g3 = c. -/
def th3 (a b c : Word) : Thread := { th with regs := { g1 := a, g2 := b, g3 := c } }

/-- Register `c` of thread 1 after an instruction. -/
def regAfter (r : Host.Outcome State Fault Refusal) (c : BitVec 4) : Option Word :=
  match r with
  | .next s => (getThread s 1).map (·.reg c)
  | _ => none

/-- What thread 1 is after an instruction. -/
def threadAfter (r : Host.Outcome State Fault Refusal) : Option Thread :=
  match r with
  | .next s => getThread s 1
  | _ => none

/-- One memory byte after an instruction. -/
def byteAfter (r : Host.Outcome State Fault Refusal) (k : Nat) : Option Byte :=
  match r with
  | .next s => some (memByte s.mem k)
  | _ => none

/-- The code of context 1's fatal fault. -/
def faultAfter (r : Host.Outcome State Fault Refusal) : Option Nat :=
  match r with
  | .next s => (getCtx s 1).bind fun x => x.fault.map (·.code)
  | _ => none

/-- The steps that an instruction put on their way. -/
def sentAfter (r : Host.Outcome State Fault Refusal) : List Instr :=
  match r with
  | .next s => s.pend.map (·.what)
  | _ => []

/-! ### Steps: the expected values are the rules' own, or worked out from them by hand -/

/-- R26: ADD keeps the tag byte and carries only within 56 bits. -/
theorem test_add_tag : regAfter (exec (.add 0 3 1 2) (at1 (th3 0x37FFFFFFFFFFFFFF 1 0))) 3 = some 0x3700000000000000 := by decide
/-- R91: a quotient by zero is −1, the most negative number by −1 is itself. -/
theorem test_div_zero : regAfter (exec (.div 0 3 1 2) (at1 (th3 5 0 0))) 3 = some 0xFFFFFFFFFFFFFFFF := by decide
theorem test_div_min : regAfter (exec (.div 0 3 1 2) (at1 (th3 0x8000000000000000 0xFFFFFFFFFFFFFFFF 0))) 3 = some 0x8000000000000000 := by
  decide
/-- R90: REM takes the sign of the dividend. -/
theorem test_rem_sign : regAfter (exec (.rem 0 3 1 2) (at1 (th3 (-7) 2 0))) 3 = some (-1) := by decide
/-- R90: the upper half of a signed product. -/
theorem test_mulh : regAfter (exec (.mulh 0 3 1 2) (at1 (th3 (-1) 1 0))) 3 = some (-1) := by decide
/-- R95: LIS shifts the old bits out at the top. -/
theorem test_lis : regAfter (exec (.lis 0 1 0x4444) (at1 (th3 0x1111222233330000 0 0))) 1 = some 0x2222333300004444 := by decide
/-- R14: a write to zr is discarded. -/
theorem test_zr : (threadAfter (exec (.li 0 10 7) (at1 th))).map (·.regs) = some {} := by decide
/-- R57: 1.0 + 2^−24 rounds to even. -/
theorem test_fadd_tie : regAfter (exec (.fadd 0 3 1 2) (at1 (th3 0x3F800000 0x33800000 0))) 3 = some 0x3F800000 := by decide +kernel
/-- R101: CMP.LT of −1 and 1 sets the predicate, CMP.LTN does not. -/
theorem test_cmp_signed : (threadAfter (exec (.cmp 0 1 1 2 2 0) (at1 (th3 (-1) 1 0)))).map (·.pred 1) = some true := by decide
theorem test_cmp_unsigned : (threadAfter (exec (.cmp 0 1 1 2 4 0) (at1 (th3 (-1) 1 0)))).map (·.pred 1) = some false := by decide
/-- R60: under a false guard (p1 is 0) only pc moves. -/
theorem test_guard_false : threadAfter (exec (.li 1 1 7) (at1 th)) = some { th with pc := 4 } := by decide
/-- R105: BR to the second word ahead. -/
theorem test_br : (threadAfter (exec (.br 0 2) (at1 th))).map (·.pc) = some 8 := by decide
/-- R65: a branch before the slice is a fatal illegal instruction. -/
theorem test_br_outside : faultAfter (exec (.br 0 0xFFFFF) (at1 th)) = some 1 := by decide
/-- R106: JR reads a before it links in the same register. -/
theorem test_jr : (threadAfter (exec (.jr 0 1 1) (at1 (th3 0x20 0 0)))).map (fun t => (t.pc, t.reg 1)) = some (0x20, 4) := by decide
/-- R111: LD.h sign-extends, LD.hn zero-extends (the two bytes at 0x1800 are 0xFE 0xFF). -/
def mem2 (t : Thread) : State := { at1 t with mem := [(0x1800, 0xFE), (0x1801, 0xFF)] }
theorem test_ld_signed : regAfter (exec (.ld 0 3 1 2 0) (mem2 (th3 (pa 0 0x1800) 0 0))) 3 = some (-2) := by decide
theorem test_ld_unsigned : regAfter (exec (.ld 0 3 1 3 0) (mem2 (th3 (pa 0 0x1800) 0 0))) 3 = some 0xFFFE := by decide
/-- R25: an offset whose last byte lies past the limit is a segment fault, a misaligned one within it an alignment fault. -/
theorem test_limit : faultAfter (exec (.ld 0 3 1 6 0) (at1 (th3 (pa 0 65529) 0 0))) = some 2 := by decide
theorem test_align : faultAfter (exec (.ld 0 3 1 6 0) (at1 (th3 (pa 0 0x1804) 0 0))) = some 3 := by decide
/-- R114, R115: a store retires with one unacknowledged access and is delivered as its low bytes, lowest first. -/
theorem test_st : (threadAfter (exec (.st 0 2 1 1 0) (at1 (th3 (pa 0 0x1800) 0xABCD 0)))).map (fun t => (t.uac, t.pc)) = some (1, 4) := by decide
def acc2 (act : Act) : Access := ⟨.thread 1, 6, 1, 0, 0, 0, 0x1800, 2, 0, act, none, none⟩
theorem test_store_low : byteAfter (exec (.storeDelivery (acc2 (.store [0xCD, 0xAB]))) (at1 th)) 0x1800 = some 0xCD := by decide
theorem test_store_high : byteAfter (exec (.storeDelivery (acc2 (.store [0xCD, 0xAB]))) (at1 th)) 0x1801 = some 0xAB := by decide
/-- R123: MRG.ADD wraps in its width (0xFF + 1 in the lowest of four bytes carries). -/
theorem test_mrg_carry : byteAfter (exec (.mergeApply { acc2 (.merge false 0 false 1) with z := 4 }) { at1 th with mem := [(0x1800, 0xFF)] }) 0x1801
    = some 1 := by decide
/-- R130: FENCE.D holds its thread while an access is unacknowledged. -/
theorem test_fence_waits : (threadAfter (exec (.fenceD 0) (at1 { th with uac := 1 }))).map (·.wait) = some (.until .uacZero) := by decide
/-- R255, R256: TRAP 7 gives cause 1 with the value 7, the next pc as the return, and the vector. -/
theorem test_trap : (threadAfter (exec (.trap 0 7) (at1 th))).map (fun t => (t.trapc, t.trapv, t.trappc, t.pc, t.status))
    = some (1, 7, 4, 0x100, 0x10) := by decide
/-- R258: ERET outside a trap is fatal (0x06), inside it returns. -/
theorem test_eret_fatal : faultAfter (exec (.eret 0) (at1 th)) = some 6 := by decide
theorem test_eret : (threadAfter (exec (.eret 0) (at1 { th with trapc := 1, trappc := 0x40 }))).map (fun t => (t.pc, t.trapc)) = some (0x40, 0) := by
  decide
/-- R260: without a vector TRAP is the unhandled-trap fault 0x07. -/
theorem test_trap_unhandled : faultAfter (exec (.trap 0 7) { at1 th with ctxs := [(1, fetchCtx)] }) = some 7 := by decide
/-- R252: RDSW of sw.UAC, and of sw.CYCLE. -/
theorem test_rdsw : regAfter (exec (.rdsw 0 3 2) (at1 { th with uac := 3 })) 3 = some 3 := by decide
/-- R234: graph instructions before RULES are graph faults. -/
theorem test_graph_unset : faultAfter (exec (.bagpop 0 1) (at1 th)) = some 9 := by decide
/-- R261: HALT ends its thread. -/
theorem test_halt : threadAfter (exec (.halt 0) (at1 th)) = none := by decide
/-- R100: selector 2 on core (0, 0). -/
theorem test_rds_core : regAfter (exec (.rds 0 3 2) (at1 th)) 3 = some 0 := by decide

/-! ### States that meet the hypotheses of each statement, clause by clause

Where a clause needs no more than a thread that issues, `runs` is its witness. -/

/-- Thread `t` issues in `s` under the guard p0, and its next word lies in its slice. -/
def Runs (s : State) (t : Thread) : Prop := Issues s t 0 ∧ Ahead s t

theorem runs : Runs (at1 th) th := ⟨⟨⟨rfl, rfl⟩, rfl, rfl⟩, rfl, rfl⟩

/-- A thread of core 0 at its first word has its next word in its slice. -/
theorem ahead_of (s : State) (t : Thread) (h : s.sets = (at1 th).sets) (c : t.core = 0) (p : t.part = 0) (pc : t.pc = 0) (m : t.mism = none) :
    Ahead s t := by
  refine ⟨m, ?_⟩
  rw [c, p, pc]
  have e : partCount s 0 = 1 := by simp only [partCount, psetOf, h]; decide
  simp [inSlice, sliceBase, sliceSize, e]

/-- One that is ready there issues. -/
theorem runs_at1 (t : Thread) (h : t.id = 1) (c : t.core = 0) (p : t.part = 0) (pc : t.pc = 0) (w : t.wait = .ready) (m : t.mism = none) :
    Runs (at1 t) t :=
  ⟨⟨⟨by rw [h]; rfl, by rw [h]; rfl⟩, w, by simp [guardHolds, Thread.pred, Thread.predWord]⟩, ahead_of _ _ rfl c p pc m⟩

theorem runs3 (a b c : Word) : Runs (at1 (th3 a b c)) (th3 a b c) := runs_at1 _ rfl rfl rfl rfl rfl rfl

theorem canonical_at1 (t : Thread) : Canonical (at1 t) :=
  ⟨rfl, List.pairwise_singleton _ _, List.pairwise_singleton _ _⟩

/-- Without an order log, context 1 neither logs nor replays. -/
theorem plain_at1 (t : Thread) (h : t.ctx = 1) : Plain (at1 t) t := ⟨ctx1, by rw [h]; rfl, rfl, rfl⟩

theorem meets_AluResults : Runs (at1 (th3 5 0 0)) (th3 5 0 0) ∧ aluFields (.div 0 3 1 2) = some (0, 3, 1, 2)
    ∧ aluValue (.div 0 3 1 2) ((th3 5 0 0).reg 1) ((th3 5 0 0).reg 2) = some (-1) := ⟨runs3 _ _ _, rfl, by decide⟩

/-- Entries 0 and 255 of the constant window, by KLD and by KLD.X with g1 = 255, the same poisoned; index 256 faults. -/
theorem meets_ConstantWindow : Runs (at1 (th3 255 256 0)) (th3 255 256 0)
    ∧ poisoned (at1 (th3 255 256 0)) (scratchKey 0 (viewBase (at1 (th3 255 256 0)) 0 0 + 8 * 0)) 8 = false
    ∧ (0 : BitVec 8).toNat + ((th3 255 256 0).reg 1).toNat < 256
    ∧ poisoned (at1 (th3 255 256 0)) (scratchKey 0 (viewBase (at1 (th3 255 256 0)) 0 0 + 8 * 255)) 8 = false
    ∧ 256 ≤ (0 : BitVec 8).toNat + ((th3 255 256 0).reg 2).toNat
    ∧ Runs { at1 (th3 255 0 0) with poison := [0, 8 * 255 + 7] } (th3 255 0 0)
    ∧ poisoned { at1 (th3 255 0 0) with poison := [0, 8 * 255 + 7] } (scratchKey 0 (viewBase (at1 (th3 255 0 0)) 0 0 + 8 * 0)) 8 = true
    ∧ poisoned { at1 (th3 255 0 0) with poison := [0, 8 * 255 + 7] } (scratchKey 0 (viewBase (at1 (th3 255 0 0)) 0 0 + 8 * 255)) 8 = true :=
  ⟨runs3 _ _ _, by decide, by decide, by decide, by decide, runs3 _ _ _, by decide, by decide⟩

/-- SEGA at the last byte of segment 0 and one past it. -/
theorem meets_SegaResult : Runs (at1 (th3 (pa 0 65535) (pa 0 65536) 0)) (th3 (pa 0 65535) (pa 0 65536) 0) ∧ getCtx (at1 th) 1 = some ctx1
    ∧ (pa 0 65535).toNat % 2 ^ 53 < (segOf ctx1 (pa 0 65535)).limit ∧ (segOf ctx1 (pa 0 65536)).limit ≤ (pa 0 65536).toNat % 2 ^ 53 :=
  ⟨runs3 _ _ _, rfl, by decide⟩

theorem meets_RdsResult : Runs (at1 th) th ∧ th.place = .slot 0 := ⟨runs, rfl⟩

theorem meets_CompareResults : Runs (at1 (th3 (-1) 1 0)) (th3 (-1) 1 0) ∧ intTest 2 ((th3 (-1) 1 0).reg 1) ((th3 (-1) 1 0).reg 2) = some true
    ∧ intTest 11 ((th3 (-1) 1 0).reg 1) ((th3 (-1) 1 0).reg 2) = some false := ⟨runs3 _ _ _, by decide⟩

theorem meets_CompareImmediate : Runs (at1 (th3 255 0 0)) (th3 255 0 0) ∧ intTest 9 ((th3 255 0 0).reg 1) ((255 : BitVec 8).setWidth 64) = some true
    ∧ intTest 2 ((th3 255 0 0).reg 1) ((255 : BitVec 8).signExtend 64) = some false := ⟨runs3 _ _ _, by decide⟩

/-- BR and JAL to the last word of the slice, JR to its first. -/
theorem meets_BranchTargets : Issues (at1 th) th 0 ∧ th.part < partCount (at1 th) th.core ∧ inSlice (at1 th) 0 0 16380 = true
    ∧ (th.pc.toNat : Int) + 4 * (4095 : BitVec 20).toInt = 16380 ∧ inSlice (at1 th) 0 0 0 = true ∧ (th.reg 1).toNat = 0 := ⟨runs.1, by decide⟩

/-- DBNZ with a count of 0 and 1. -/
theorem meets_CountedBranch : Runs (at1 (th3 0 1 0)) (th3 0 1 0) ∧ (th3 0 1 0).part < partCount (at1 (th3 0 1 0)) 0 ∧ (th3 0 1 0).reg 1 ≠ 1
    ∧ ((th3 0 1 0).pc.toNat : Int) + 4 * (3 : BitVec 16).toInt = 12 ∧ inSlice (at1 (th3 0 1 0)) 0 0 12 = true ∧ (th3 0 1 0).reg 2 = 1 :=
  ⟨runs3 _ _ _, by decide⟩

/-- One word before the slice, the word after it, a register that is no multiple of 4. -/
theorem meets_BranchOutside : Issues (at1 (th3 2 0 0)) (th3 2 0 0) 0 ∧ (0 : Int) + 4 * (-1 : BitVec 20).toInt < 0
    ∧ inSlice (at1 (th3 2 0 0)) 0 0 ((0 : Int) + 4 * (4096 : BitVec 20).toInt).toNat = false
    ∧ inSlice (at1 (th3 2 0 0)) 0 0 ((th3 2 0 0).reg 1).toNat = false ∧ (th3 2 0 0).reg 2 ≠ 1 ∧ (0 : Int) + 4 * (-1 : BitVec 16).toInt < 0 :=
  ⟨⟨⟨rfl, rfl⟩, rfl, rfl⟩, by decide⟩

/-- The largest number and the least, and their signs. -/
theorem meets_FloatRounding : Runs (at1 (th3 0x7F7FFFFF 0x80000001 0)) (th3 0x7F7FFFFF 0x80000001 0) ∧ fpFinite (low 0x7F7FFFFF)
    ∧ fpFinite (low 0x80000001) := ⟨runs3 _ _ _, by unfold fpFinite; decide, by unfold fpFinite; decide⟩

/-- A signalling NaN, a quiet one, infinities, zero. -/
theorem meets_FloatSpecials : Runs (at1 (th3 0x7F800001 0x7FC00000 0)) (th3 0x7F800001 0x7FC00000 0) ∧ fpSignals (low 0x7F800001)
    ∧ fpNan (low 0x7FC00000) ∧ ¬fpSignals (low 0x7FC00000) ∧ fpAbs (low 0x7F800000) = 0x7F800000 ∧ low 0xFF800000 = low 0x7F800000 ^^^ 0x80000000
    ∧ fpFinite (low 0) ∧ fpAbs (low 0) = 0 ∧ ¬fpNan (low 0x7F800000) := by
  refine ⟨runs3 _ _ _, ?_⟩
  unfold fpSignals fpNan fpFinite
  decide

theorem meets_FloatMinMax : Runs (at1 (th3 0x80000000 0 0)) (th3 0x80000000 0 0) ∧ ¬fpNan (low 0x80000000) ∧ ¬fpNan (low 0)
    ∧ fpKey (low 0x80000000) < fpKey (low 0) ∧ fpNan (low 0xFFC00001) := by
  refine ⟨runs3 _ _ _, ?_⟩
  unfold fpNan
  decide

/-- FCVTF at 2^63, at −2^63, just below 2^63, and of a NaN. -/
theorem meets_FloatConversions : Runs (at1 (th3 0x5F000000 0 0)) (th3 0x5F000000 0 0) ∧ fpMag (fpAbs (low 0x5F000000)) = 2 ^ 212
    ∧ (low 0xDF000000).msb = true ∧ fpMag (fpAbs (low 0xDF000000)) = 2 ^ 212 ∧ 2 ^ 212 < fpMag (fpAbs (low 0xDF000001))
    ∧ fpMag (fpAbs (low 0x5EFFFFFF)) < 2 ^ 212 ∧ ¬fpNan (low 0x5F000000) ∧ fpNan (low 0x7FC00000) := by
  refine ⟨runs3 _ _ _, ?_⟩
  unfold fpNan
  decide

theorem meets_FloatCompare : Runs (at1 (th3 0x7FC00000 0x7F800001 0)) (th3 0x7FC00000 0x7F800001 0) ∧ fpNan (low 0x7FC00000)
    ∧ fpSignals (low 0x7F800001) ∧ ¬(fpNan (low 0) ∨ fpNan (low 0x80000000)) := by
  refine ⟨runs3 _ _ _, ?_⟩
  unfold fpSignals fpNan
  decide

/-- A LINK under the guard p1, which is 0. -/
theorem meets_GuardFalse : encode (.link 1 6 7) = some 0x0CD06700 ∧ Acts (at1 th) th ∧ th.wait = .ready
    ∧ guardHolds th ((0x0CD06700 : BitVec 32).extractLsb' 27 5) = false ∧ Ahead (at1 th) th := ⟨by decide, runs.1.1, rfl, by decide, runs.2⟩


/-- Scratchpad: the last eight bytes pass, one byte later does not; a right is missing (host memory without M, the instruction store by a
segment without X, for which right A does not ask); an address within the limit that is no multiple of 8. -/
theorem meets_SegmentChecks : (segOf ctx1 (pa 0 65529)).limit < 65529 + 8 ∧ 65528 + 8 ≤ (segOf ctx1 (pa 0 65528)).limit
    ∧ (segOf ctx1 (pa 3 0)).m = false ∧ rightM.m = true ∧ (segOf ctx1 (pa 5 0)).w = false ∧ rightW.w = true
    ∧ ((segOf ctx1 (pa 0 65524)).base + 65524) % 2 ^ 56 % 8 ≠ 0 ∧ 65524 + 8 ≤ (segOf ctx1 (pa 0 65524)).limit
    ∧ ((segOf ctx1 (pa 0 65528)).base + 65528) % 2 ^ 56 % 8 = 0 ∧ addrClass ((segOf ctx1 (pa 4 0)).base + 0) = 2 ∧ (segOf ctx1 (pa 4 0)).x = true
    ∧ rightARW.a = true ∧ rightARW.w = true ∧ rightW.a = false := by decide

/-- A store of each width at the first byte after the constant window; a word of the own instruction store. -/
theorem meets_StoreIssue :
    let t := th3 (pa 0 0x800) 7 0
    Runs (at1 t) t ∧ getCtx (at1 t) t.ctx = some ctx1
    ∧ (∀ w : BitVec 2, (segCheck ctx1 (effAddr (t.reg 1) 0 (2 ^ w.toNat)) (2 ^ w.toNat) (2 ^ w.toNat) rightW).toOption = some 0x800)
    ∧ (∀ v : BitVec 1, (segCheck ctx1 (effAddr (t.reg 1) 0 (4 * 2 ^ v.toNat)) (4 * 2 ^ v.toNat) (4 * 2 ^ v.toNat) rightW).toOption = some 0x800)
    ∧ (∀ v : BitVec 1, (segCheck ctx1 (t.reg 1) (4 * 2 ^ v.toNat) (4 * 2 ^ v.toNat) rightM).toOption = some 0x800)
    ∧ (∀ v : BitVec 1, (segCheck ctx1 (t.reg 1) (4 * 2 ^ v.toNat) (4 * 2 ^ v.toNat) rightRM).toOption = some 0x800)
    ∧ (segCheck ctx1 (t.reg 1) 32 32 rightM).toOption = some 0x800
    ∧ ownWindow (at1 t) t 0x800 = false ∧ addrClass 0x800 ≠ 2 ∧ storeRoom (at1 t) t 0x800 = true ∧ t.peers = [] ∧ t.uac = 0 ∧ t.owed = none
    ∧ replaying ctx1 = false :=
  ⟨runs3 _ _ _, rfl, by decide⟩

theorem meets_StoreIssue_code :
    let t := th3 (pa 4 0) 7 0
    Runs (at1 t) t ∧ (segCheck ctx1 (effAddr (t.reg 1) 0 4) 4 4 rightW).toOption = some (2 * 2 ^ 52) ∧ addrClass (2 * 2 ^ 52) = 2
    ∧ ownWindow (at1 t) t (2 * 2 ^ 52) = false ∧ storeRoom (at1 t) t (2 * 2 ^ 52) = true :=
  ⟨runs3 _ _ _, by decide⟩

/-- A store past the limit, one at the last quad of the constant window, a byte of the instruction store. -/
theorem meets_StoreRefused :
    let t := th3 (pa 0 65536) (pa 0 0x7F8) (pa 4 0)
    Issues (at1 t) t 0 ∧ getCtx (at1 t) t.ctx = some ctx1
    ∧ segCheck ctx1 (effAddr (t.reg 1) 0 1) 1 1 rightW = .error 2 ∧ segCheck ctx1 (effAddr (t.reg 2) 0 8) 8 8 rightW = .ok 0x7F8
    ∧ ownWindow (at1 t) t 0x7F8 = true ∧ segCheck ctx1 (effAddr (t.reg 3) 0 1) 1 1 rightW = .ok (2 * 2 ^ 52)
    ∧ ownWindow (at1 t) t (2 * 2 ^ 52) = false ∧ addrClass (2 * 2 ^ 52) = 2 :=
  ⟨(runs3 _ _ _).1, rfl, rfl, rfl, by decide, rfl, by decide, by decide⟩

/-- Two bytes at the scratchpad key 0x1800. -/
theorem meets_StoreDelivered : Canonical (at1 th) ∧ FromThread (at1 th) (acc2 (.store [0xCD, 0xAB])) 1
    ∧ (acc2 (.store [0xCD, 0xAB])).act = .store [0xCD, 0xAB] ∧ [(0xCD : Byte), 0xAB].length = (acc2 (.store [0xCD, 0xAB])).z
    ∧ homeOf (at1 th) 1 0 0 0x1800 = .scratch 0 0x1800 ∧ sramKey (.scratch 0 0x1800) = some 0x1800
    ∧ Open (at1 th) (acc2 (.store [0xCD, 0xAB])) (.scratch 0 0x1800) :=
  ⟨canonical_at1 _, ⟨rfl, rfl, by decide⟩, rfl, rfl, by decide, rfl, ⟨by decide, by decide⟩⟩

/-- MRG.ADD and MRG.SWAP of a word at the same place, and their fetch forms. -/
theorem meets_MergeApplied (fetch : Bool) (o : Nat) :
    let a := { acc2 (.merge fetch o false 1) with z := 4 }
    Canonical (at1 th) ∧ FromThread (at1 th) a 1 ∧ a.act = .merge fetch o false 1 ∧ a.z = 4 ∧ homeOf (at1 th) 1 0 0 0x1800 = .scratch 0 0x1800
    ∧ sramKey (.scratch 0 0x1800) = some 0x1800 ∧ Open (at1 th) a (.scratch 0 0x1800) ∧ (∀ c off, Home.scratch 0 0x1800 ≠ .istore c off)
    ∧ poisoned (at1 th) 0x1800 4 = false ∧ mergeValue 0 32 0xFFFFFFFF 1 = some 0 ∧ mergeValue 10 32 5 1 = some 1 :=
  ⟨canonical_at1 _, ⟨rfl, rfl, rfl⟩, rfl, rfl, by decide, rfl, ⟨Nat.le_of_ble_eq_true rfl, by simp [at1, fetchBase, State.reset, getCore, tblGet]⟩, by simp,
    by decide⟩

theorem meets_VborApplied :
    let a := { acc2 (.vbor 0xFF00) with z := 32 }
    Canonical (at1 th) ∧ FromThread (at1 th) a 1 ∧ a.act = .vbor 0xFF00 ∧ a.z = 32 ∧ homeOf (at1 th) 1 0 0 0x1800 = .scratch 0 0x1800
    ∧ sramKey (.scratch 0 0x1800) = some 0x1800 ∧ Open (at1 th) a (.scratch 0 0x1800) ∧ (∀ c off, Home.scratch 0 0x1800 ≠ .istore c off)
    ∧ poisoned (at1 th) 0x1800 32 = false :=
  ⟨canonical_at1 _, ⟨rfl, rfl, by decide⟩, rfl, rfl, by decide, rfl, ⟨by decide, by decide⟩, by simp, by decide⟩

/-- Loads at the last bytes of the view, and from the own instruction store. -/
theorem meets_LoadInline :
    let t := th3 (pa 0 65504) 0 0
    Runs (at1 t) t ∧ getCtx (at1 t) t.ctx = some ctx1 ∧ homeOf (at1 t) t.ctx t.core t.part 65504 = .scratch t.core 65504
    ∧ sramKey (.scratch t.core 65504) = some 65504 ∧ addrClass 65504 ≠ 2
    ∧ (∀ w : BitVec 3, w ≠ 7 → (segCheck ctx1 (effAddr (t.reg 1) 0 (2 ^ (w.toNat / 2))) (2 ^ (w.toNat / 2)) (2 ^ (w.toNat / 2))
        rightR).toOption = some 65504)
    ∧ (∀ v : BitVec 1, (segCheck ctx1 (effAddr (t.reg 1) 0 (4 * 2 ^ v.toNat)) (4 * 2 ^ v.toNat) (4 * 2 ^ v.toNat) rightR).toOption = some 65504)
    ∧ (segCheck ctx1 (t.reg 1) 32 32 rightR).toOption = some 65504 ∧ poisoned (at1 t) 65504 32 = false :=
  ⟨runs3 _ _ _, rfl, by decide⟩

theorem meets_LoadInline_code :
    let t := th3 (pa 4 0) 0 0
    Runs (at1 t) t ∧ homeOf (at1 t) t.ctx t.core t.part (2 * 2 ^ 52) = .istore t.core 0 ∧ sramKey (.istore t.core 0) = some (istoreKey 0 0)
    ∧ (segCheck ctx1 (effAddr (t.reg 1) 0 4) 4 4 rightR).toOption = some (2 * 2 ^ 52) ∧ poisoned (at1 t) (istoreKey 0 0) 4 = false :=
  ⟨runs3 _ _ _, by decide, rfl, by decide⟩

/-- An int4 element, an int8 one, an fp32 one, an s8 one, a pointer without a format, and one with blog 8, all at 0x1800. -/
theorem meets_LdeInline :
    let t := th3 0x9000000000001800 0x1000000000001800 0xB000000000001800
    Runs (at1 t) t ∧ getCtx (at1 t) t.ctx = some ctx1 ∧ homeOf (at1 t) t.ctx t.core t.part 0x1800 = .scratch t.core 0x1800
    ∧ (t.reg 1).toNat / 2 ^ 60 = 9 ∧ (t.reg 1).toNat / 2 ^ 56 % 16 < 8 ∧ (2 * ((t.reg 1).toNat % 2 ^ 53 : Nat) + (0 : BitVec 9).toInt : Int) / 2 = 0x1800
    ∧ (segCheck ctx1 (t.reg 1) 1 1 rightR).toOption = some 0x1800 ∧ (t.reg 2).toNat / 2 ^ 60 = 1 ∧ (t.reg 2).toNat / 2 ^ 56 % 16 = 0
    ∧ (segCheck ctx1 (t.reg 2) 4 4 rightR).toOption = some 0x1800 ∧ (t.reg 3).toNat / 2 ^ 60 = 11
    ∧ (segCheck ctx1 (t.reg 3) 1 1 rightR).toOption = some 0x1800 ∧ poisoned (at1 t) (scratchKey 0 0x1800) 4 = false
    ∧ elemValue 1 0x3F800000 = .fin false (2 ^ 23) (-23) ∧ elemValue 1 (ofLeBytes (memRead (at1 t).mem (scratchKey 0 0x1800) 4)) = .fin false 0 (-149)
    ∧ elemValue 7 15 = .fin true 3 1 ∧ ofLeBytes (memRead (at1 t).mem (scratchKey 0 0x1800) 1) < 255
    ∧ (0x0000000000001800 : Word).toNat / 2 ^ 60 = 0 ∧ (0x9800000000001800 : Word).toNat / 2 ^ 56 % 16 = 8 :=
  ⟨runs3 _ _ _, rfl, by decide⟩

/-- Commons, and HBM. -/
theorem meets_LoadElsewhere_sent :
    let t := th3 (pa 2 0) (pa 1 0) 0
    Issues (at1 t) t 0 ∧ getCtx (at1 t) t.ctx = some ctx1 ∧ t.place = .slot 0 ∧ homeOf (at1 t) t.ctx t.core t.part (3 * 2 ^ 52) = .commons 0 0
    ∧ (segCheck ctx1 (effAddr (t.reg 1) 0 8) 8 8 rightR).toOption = some (3 * 2 ^ 52) ∧ addrClass (3 * 2 ^ 52) ≠ 2
    ∧ homeOf (at1 t) t.ctx t.core t.part (4 * 2 ^ 52) = .port 0 4 0
    ∧ (segCheck ctx1 (effAddr (t.reg 2) 0 8) 8 8 rightR).toOption = some (4 * 2 ^ 52) :=
  ⟨(runs3 _ _ _).1, rfl, rfl, by decide⟩

/-- The scratchpad view of the core to the right. -/
theorem meets_LoadElsewhere :
    let t := th3 (pa 6 65536) 0 0
    Issues (at2 t) t 0 ∧ (getCtx (at2 t) t.ctx).isSome = true ∧ t.place = .slot 0
    ∧ homeOf (at2 t) t.ctx t.core t.part (7 * 2 ^ 52 + 2 ^ 16) = .scratch 1 0 ∧ 1 ≠ t.core
    ∧ (segCheck { ctx1 with w := 2 } (effAddr (t.reg 1) 0 8) 8 8 rightR).toOption = some (7 * 2 ^ 52 + 2 ^ 16) ∧ inHandler (at2 t) t = false
    ∧ t.peers = [] ∧ t.uac = 0 ∧ t.owed = none :=
  ⟨⟨⟨rfl, rfl⟩, rfl, rfl⟩, by decide⟩

theorem meets_LoadServed : FromThread (at1 th) (acc2 .load) 1 ∧ (acc2 .load).act = .load ∧ homeOf (at1 th) 1 0 0 0x1800 = .scratch 0 0x1800
    ∧ sramKey (.scratch 0 0x1800) = some 0x1800 ∧ poisoned (at1 th) 0x1800 2 = false ∧ FromThread { at1 th with poison := [0x1800] } (acc2 .load) 1
    ∧ poisoned { at1 th with poison := [0x1800] } 0x1800 2 = true :=
  ⟨⟨rfl, rfl, by decide⟩, rfl, by decide, rfl, by decide, ⟨rfl, rfl, by decide⟩, by decide⟩

/-- A thread that waits for a quad; the same on a core that a gang stop has stopped. -/
theorem meets_LoadReplied :
    let t := { th with wait := .load (.ld 3 6) 0x1800 }
    let s := { at1 t with focus := .idle }
    let s' := { s with parts := [(0, { owner := 1, stopCycle := some 0 })] }
    getThread s t.id = some t ∧ t.place ≠ .engine ∧ Alive s t ∧ Ahead s t ∧ (List.replicate 8 (0 : Byte)).length = 2 ^ (6 / 2) ∧ 4 ≠ t.op
    ∧ getThread s' t.id = some t ∧ (getPart s' t.core t.part).stopCycle.isSome = true :=
  ⟨rfl, by decide, rfl, ⟨rfl, rfl⟩, rfl, by decide, rfl, rfl⟩

/-- A thread with a store under way, and one that waits for an FMRG of a word. -/
theorem meets_Acknowledged :
    let t := { th with wait := .fetch 3 0 false 0x1800 none, op := 6, uac := 1 }
    getThread (at1 { th with uac := 1 }) 1 = some { th with uac := 1 } ∧ (acc2 .load).who = .thread 1 ∧ addrClass (acc2 .load).da ≠ 8
    ∧ (∀ l, ({ th with uac := 1 }).wait ≠ .link l) ∧ getThread (at1 t) 1 = some t ∧ Alive (at1 t) t ∧ t.op = (acc2 .load).op
    ∧ Ahead (at1 t) t ∧ getCtx (at1 t) t.ctx = some ctx1 ∧ logging ctx1 = false :=
  ⟨rfl, rfl, by decide, by simp [th], rfl, rfl, rfl, ⟨rfl, rfl⟩, rfl, rfl⟩

/-- A thread with nothing to wait for, one with a store and code on their way, and both with a command in the queue. -/
theorem meets_FencesComplete :
    let u := { th with uac := 1, codeUac := 1 }
    let busy := fun (t : Thread) => { at1 t with parts := [(0, { owner := 1, queue := [{ seq := 1, tid := 1, pc := 0, word := 0 }] })] }
    Runs (at1 th) th ∧ th.peers = [] ∧ th.owed = none ∧ th.counted = false ∧ th.uac = 0 ∧ th.codeUac = 0 ∧ tileIdle (getPart (at1 th) 0 0) = true
    ∧ Runs (at1 u) u ∧ u.peers = [] ∧ u.uac ≠ 0 ∧ u.codeUac ≠ 0 ∧ Runs (busy th) th ∧ tileIdle (getPart (busy th) 0 0) = false :=
  ⟨runs, rfl, rfl, rfl, rfl, rfl, by decide, runs_at1 _ rfl rfl rfl rfl rfl rfl, rfl, by decide, by decide, ⟨⟨⟨rfl, rfl⟩, rfl, rfl⟩, rfl, rfl⟩,
    by decide⟩

/-- The row of sixteen cores, held by context 1. -/
def row (t : Thread) : State := { at1 t with parts := (List.range 16).map fun c => (4 * c, { owner := 1 }) }

/-- BAR.ROW with the deadlines 1 and 2 in cycle 1: a row that is not held, a deadline that is just over, one that is not, the last core. -/
theorem meets_BarrierArrives :
    let t := th3 1 2 0
    let s := { row t with cycle := 1 }
    let alone := { at1 t with cycle := 1 }
    let last := { s with regions := [(0, { bars := [(barKey 0 1 0, { arrived := List.range' 1 15 })] })] }
    Issues s t 0 ∧ Ahead s t ∧ Issues alone t 0 ∧ Ahead alone t ∧ t.held = [] ∧ t.deadline = 0 ∧ getCtx s t.ctx = some ctx1
    ∧ getCtx alone t.ctx = some ctx1 ∧ logging ctx1 = false ∧ replaying ctx1 = false ∧ ctx1.det = false ∧ Fenced t
    ∧ (∀ c ∈ barScope 1 (barIndex 1 0) 0, holds s 1 c 0 = true) ∧ ¬(∀ c ∈ barScope 1 (barIndex 1 0) 0, holds alone 1 c 0 = true)
    ∧ (t.reg 1).toNat ≠ 0 ∧ (t.reg 1).toNat ≤ s.cycle ∧ s.cycle < (t.reg 2).toNat ∧ (t.reg 3).toNat = 0
    ∧ (getBar last 0 0 1 0).releasing = false ∧ (∀ c ∈ barScope 1 0 0, c = 0 ∨ c ∈ (getBar last 0 0 1 0).arrived) :=
  ⟨⟨⟨rfl, rfl⟩, rfl, rfl⟩, ⟨rfl, rfl⟩, ⟨⟨rfl, rfl⟩, rfl, rfl⟩, ⟨rfl, rfl⟩, rfl, rfl, rfl, rfl, rfl, rfl, rfl, ⟨rfl, rfl, rfl⟩, by decide, by decide,
    by decide, by decide, by decide, by decide, by decide, by decide⟩

/-- A thread in BAR.ROW: its release, and its deadline, one cycle ago. -/
theorem meets_BarrierEnds :
    let t := { th with wait := .bar 1 0 3, deadline := 4 }
    let s := { row t with focus := .op 1 5, cycle := 5 }
    getThread s t.id = some t ∧ regionOf t.core = 0
    ∧ (∀ w ∈ barWaiters 0 0 1 0 s.threads, getThread s w.1.id = some w.1 ∧ Plain s w.1 ∧ Ahead s w.1) ∧ s.focus = .op t.id t.op ∧ t.deadline ≠ 0
    ∧ t.deadline < s.cycle ∧ (getBar s 0 0 1 0).releasing = false := by
  refine ⟨rfl, rfl, ?_, rfl, by decide, by decide, rfl⟩
  intro w h
  have e : w.1 = { th with wait := .bar 1 0 3, deadline := 4 } := by revert w; decide
  rw [e]
  exact ⟨rfl, ⟨ctx1, rfl, rfl, rfl⟩, rfl, rfl⟩

/-- MIGR to the own core and to the one on its right. -/
theorem meets_Migration :
    let t := th3 (7 * 2 ^ 52) (7 * 2 ^ 52 + 2 ^ 16) 0
    Runs (at2 t) t ∧ Fenced t ∧ coreRef (at2 t) t.ctx (t.reg 1) = .core 0 0 ∧ holds (at2 t) t.ctx 0 t.part = true ∧ t.core = 0
    ∧ coreRef (at2 t) t.ctx (t.reg 2) = .core 1 0 ∧ holds (at2 t) t.ctx 1 t.part = true ∧ 1 ≠ t.core ∧ inHandler (at2 t) t = false :=
  ⟨⟨⟨⟨rfl, rfl⟩, rfl, rfl⟩, rfl, rfl⟩, ⟨rfl, rfl, rfl⟩, by decide⟩

def moved : MigPkt := { tid := 1, ctx := 1, part := 0, core := 1, st := travelState th, load := none, mism := none }

/-- An arrival at the last free place of the queue. -/
theorem meets_Migration_arrives :
    let t := { th with place := .flight, wait := .moving }
    let s := { at2 t with focus := .idle, parts := [(0, { owner := 1 }), (4, { owner := 1, arrivals := List.range' 2 7 })] }
    getThread s moved.tid = some t ∧ t.id = moved.tid ∧ t.place = .flight ∧ descheduled s moved.ctx = false ∧ (getPart s 1 0).stopCycle = none
    ∧ (getCtx s moved.ctx).isSome = true ∧ holds s moved.ctx 1 0 = true ∧ (getPart s 1 0).arrivals.length < 8 ∧ moved.load = none
    ∧ moved.mism = none ∧ inSlice s 1 0 (moved.st.pc.toNat + 4) = true := by decide

theorem meets_ArrivalTaken :
    let t := { th with place := .arrivalQ }
    let s := { at1 t with focus := .part 0 0, parts := [(0, { owner := 1, arrivals := [1], flags := 1 })] }
    s.focus = .part t.core t.part ∧ getThread s t.id = some t ∧ Plain s t ∧ t.place = .arrivalQ ∧ t.held = [] ∧ t.ctx = (getPart s 0 0).owner
    ∧ freeSlot s 0 0 = some 0 ∧ (getPart s 0 0).arrivals = t.id :: [] ∧ ∀ e ∈ s.threads, e.2.place ≠ .held :=
  ⟨rfl, rfl, ⟨ctx1, rfl, rfl, rfl⟩, rfl, rfl, rfl, by decide, rfl, by decide⟩

/-- All fifteen work slots of core 0 taken. -/
def full : State := { at2 th with threads := (List.range 15).map fun n => (n + 1, { th with id := n + 1, place := .slot n }) }

/-- A thread in slot 0, with its flag set and not, with nobody and somebody who waits, and one in the handler slot 15. -/
theorem meets_EndingAndWaiting :
    let h := { th with place := .slot 15 }
    let waited := { full with focus := .thread 1, parts := [(0, { owner := 1, arrivals := [99], flags := 1 })] }
    Canonical (at1 th) ∧ Runs (at1 th) th ∧ th.place = .slot 0 ∧ Fenced th ∧ yields (at1 th) th = false ∧ inHandler (at1 th) th = false
    ∧ eventFlag (at1 th) th = false ∧ Canonical (at1 h) ∧ Runs (at1 h) h ∧ h.place = .slot 15 ∧ inHandler (at1 h) h = true
    ∧ handlerSlot (at1 h) 0 0 = 15 ∧ Memory.wf waited.mem = true ∧ Runs waited th ∧ yields waited th = true ∧ inHandler waited th = false
    ∧ eventFlag waited th = true :=
  ⟨canonical_at1 _, runs, rfl, ⟨rfl, rfl, rfl⟩, by decide, by decide, by decide, canonical_at1 _, runs_at1 _ rfl rfl rfl rfl rfl rfl, rfl, by decide,
    by decide, rfl, ⟨⟨⟨rfl, rfl⟩, rfl, rfl⟩, rfl, rfl⟩, by decide, by decide, by decide⟩

/-- One word from the last quad of the view, to the core on the right. -/
theorem meets_SendIssues :
    let t := { th3 (7 * 2 ^ 52 + 2 ^ 16) 65528 0 with uac := 4094 }
    Runs (at2 t) t ∧ (readOwn (at2 t) t (t.reg 2) 8 8).toOption = some (List.replicate 8 0) ∧ coreRef (at2 t) t.ctx (t.reg 1) = .core 1 0
    ∧ holds (at2 t) t.ctx 1 t.part = true ∧ t.uac < 4095 ∧ (getPart (at2 t) 0 0).codeOut = [] ∧ (getPart (at2 t) 0 0).held = [] :=
  ⟨⟨⟨⟨rfl, rfl⟩, rfl, rfl⟩, rfl, rfl⟩, by decide⟩

def msgTo (c n : Nat) : Msg := { tid := 1, op := 1, ctx := 1, part := 0, src := 0, dst := c, iv := 0, words := List.replicate n 0 }

/-- What core 1 keeps of messages, and its region. -/
def boxes (buffer spill : List Msg) : State :=
  { at2 th with parts := [(0, { owner := 1 }), (4, { owner := 1, msgs := buffer })], regions := [(0, { spill := [(0, spill)] })] }

/-- A message of 16 words that fills a buffer's second half, one that finds it full, and one that finds the spill queue full too. -/
theorem meets_MessageBuffered :
    let m := msgTo 1 16
    let ok := fun s => holds s m.ctx m.dst m.part = true ∧ descheduled s m.ctx = false ∧ (getPart s m.dst m.part).stopCycle = none
    let words := fun s => (msgWords (getPart s 1 0).msgs + 16, msgWords (tblGet [] (getRegion s 0).spill 0) + 16)
    m.dev = none ∧ ok (boxes [m] []) ∧ words (boxes [m] []) = (32, 16) ∧ ok (boxes [m, m] []) ∧ words (boxes [m, m] []) = (48, 16)
    ∧ ok (boxes [] (List.replicate 15 m)) ∧ words (boxes [] (List.replicate 15 m)) = (16, 256) ∧ ok (boxes [] (List.replicate 16 m))
    ∧ words (boxes [] (List.replicate 16 m)) = (16, 272) := by decide

/-- A message held until its store is acknowledged. -/
theorem meets_MessageBuffered_held :
    let h : HeldMsg := ⟨msgTo 1 1, false, [7]⟩
    let s := { at1 th with focus := .part 0 0, parts := [(0, { owner := 1, held := [h], codeOut := [(1, 8)] })] }
    s.focus = .part 0 0 ∧ (getPart s 0 0).held = [h] ∧ ∀ i ∈ h.after, ∀ c ∈ (getPart s 0 0).codeOut, c.2 ≠ i := by decide

theorem meets_HandlerStarts :
    let m := msgTo 0 16
    let s := { at1 th with focus := .part 0 0, parts := [(0, { owner := 1, msgs := [m] })] }
    Canonical s ∧ s.focus = .part 0 0 ∧ slotThread s 0 (handlerSlot s 0 0) = none ∧ (getPart s 0 0).owner = m.ctx ∧ getCtx s m.ctx = some ctx1
    ∧ logging ctx1 = false ∧ replaying ctx1 = false ∧ (getPart s 0 0).msgs = m :: [] ∧ m.dst = 0 ∧ m.part = 0 ∧ (newTid s 0).isSome = true
    ∧ m.words.length ≤ 16 :=
  ⟨⟨rfl, List.pairwise_singleton _ _, List.pairwise_singleton _ _⟩, rfl, by decide, rfl, rfl, rfl, rfl, rfl, rfl, rfl, by decide, by decide⟩

/-- SPAWN to the core on the right. -/
theorem meets_Spawning :
    let t := th3 (7 * 2 ^ 52 + 2 ^ 16) 65528 0
    Issues (at2 t) t 0 ∧ t.held = [] ∧ Fenced t ∧ Plain (at2 t) t ∧ (readOwn (at2 t) t (t.reg 2) 8 8).toOption = some (List.replicate 8 0)
    ∧ coreRef (at2 t) t.ctx (t.reg 1) = .core 1 0 ∧ holds (at2 t) t.ctx 1 t.part = true ∧ (getPart (at2 t) 0 0).codeOut = []
    ∧ (getPart (at2 t) 0 0).held = [] :=
  ⟨⟨⟨rfl, rfl⟩, rfl, rfl⟩, rfl, ⟨rfl, rfl, rfl⟩, ⟨{ ctx1 with w := 2 }, rfl, rfl, rfl⟩, by decide, by decide, by decide, rfl, rfl⟩

/-- A request at a core with a free slot, at one whose fifteen slots and queue are taken. -/
theorem meets_Spawning_request :
    let ok := fun s (m : Msg) => m.dev = none ∧ m.force = none ∧ holds s m.ctx m.dst m.part = true ∧ descheduled s m.ctx = false
      ∧ (getPart s m.dst m.part).stopCycle = none
    let taken := { full with parts := [(0, { owner := 1, arrivals := List.range 8 })] }
    ok (at2 th) (msgTo 1 1) ∧ (newTid (at2 th) 1).isSome = true ∧ freeSlot (at2 th) 1 0 = some 0 ∧ ok taken (msgTo 0 1)
    ∧ (newTid taken 0).isSome = true ∧ freeSlot taken 0 0 = none ∧ 8 ≤ (getPart taken 0 0).arrivals.length := by decide

/-- The thread that waits for the reply, on a live core and on a stopped one. -/
theorem meets_Spawning_reply :
    let t := { th with wait := .spawn 3 0 0 }
    let s := { at1 t with focus := .idle }
    let s' := { s with parts := [(0, { owner := 1, stopCycle := some 0 })] }
    getThread s t.id = some t ∧ t.place ≠ .engine ∧ Alive s t ∧ Ahead s t ∧ Plain s t ∧ getThread s' t.id = some t
    ∧ (getPart s' t.core t.part).stopCycle.isSome = true :=
  ⟨rfl, by decide, rfl, ⟨rfl, rfl⟩, ⟨ctx1, rfl, rfl, rfl⟩, rfl, rfl⟩

/-- CHSEND with room on channel 15, CHRECV of a word on channel 0, of one by another writer on channel 1, and of none on channel 15. -/
theorem meets_Channels :
    let t := th3 (7 * 2 ^ 52 + 2 ^ 16) (7 * 2 ^ 52 + 2 ^ 16 + 1) (7 * 2 ^ 52 + 2 ^ 16 + 15)
    let s := { at2 t with parts := [(0, { owner := 1, rd := [(0, { valid := 1, writer := some 1 }), (1, { valid := 1, writer := some 2 })] }),
      (4, { owner := 1 })] }
    let alone := { at2 t with parts := [(0, { owner := 1 })] }
    Runs s t ∧ coreRef s t.ctx (t.reg 1) = .core 1 0 ∧ coreRef s t.ctx (t.reg 2) = .core 1 1 ∧ coreRef s t.ctx (t.reg 3) = .core 1 15
    ∧ holds s t.ctx 1 t.part = true ∧ chRoom (getPart s 0 0) 1 15 = true ∧ Fenced t
    ∧ bitAt (tblGet {} (getPart s 0 0).rd 0).valid 0 = true ∧ (tblGet {} (getPart s 0 0).rd 0).writer = some 1
    ∧ poisoned s (scratchKey 0 (viewBase s 0 0 + 0x1000)) 8 = false ∧ bitAt (tblGet {} (getPart s 0 0).rd 1).valid 0 = true
    ∧ (tblGet {} (getPart s 0 0).rd 1).writer ≠ some 1 ∧ bitAt (tblGet {} (getPart s 0 0).rd 15).valid 0 = false
    ∧ Runs alone t ∧ coreRef alone t.ctx (t.reg 1) = .core 1 0 ∧ holds alone t.ctx 1 t.part = false :=
  ⟨⟨⟨⟨rfl, rfl⟩, rfl, rfl⟩, rfl, rfl⟩, by decide, by decide, by decide, by decide, by decide, ⟨rfl, rfl, rfl⟩, by decide, by decide, by decide,
    by decide, by decide, by decide, ⟨⟨⟨rfl, rfl⟩, rfl, rfl⟩, rfl, rfl⟩, by decide, by decide⟩

/-- A word in flight that finds its channel free, and one that finds it in use by another writer; a credit. -/
theorem meets_Channels_packets :
    let p : ChPkt := { tid := 1, ctx := 1, part := 0, src := 0, dst := 1, idx := 15, q := 3, w := 9 }
    let s := { at2 th with parts := [(0, { owner := 1, wr := [⟨1, 15, 4, 1⟩] }), (4, { owner := 1 })] }
    let other := { at2 th with parts := [(0, { owner := 1 }), (4, { owner := 1, rd := [(15, { valid := 8, writer := some 2 })] })] }
    let ok := fun s => p.dev = none ∧ descheduled s p.ctx = false ∧ (getPart s p.dst p.part).stopCycle = none ∧ p.idx < 16
      ∧ holds s p.ctx p.dst p.part = true
    Memory.wf s.mem = true ∧ ok s ∧ (tblGet {} (getPart s 1 0).rd 15).valid = 0 ∧ ok other ∧ (tblGet {} (getPart other 1 0).rd 15).valid ≠ 0
    ∧ (tblGet {} (getPart other 1 0).rd 15).writer ≠ some p.src
    ∧ findWr (getPart { s with parts := [(4, { owner := 1, wr := [⟨0, 15, 4, 1⟩] })] } 1 0).wr 0 15 = some ⟨0, 15, 4, 1⟩ := by decide

/-- TRAP with a vector, without one, and in a trap. -/
theorem meets_TrapTaken :
    let s := { at1 th with ctxs := [(1, fetchCtx)] }
    let t := { th with trapc := 1 }
    Issues (at1 th) th 0 ∧ getCtx (at1 th) th.ctx = some ctx1 ∧ th.trapc = 0 ∧ ctx1.tvec = some 0x100 ∧ Issues s th 0
    ∧ getCtx s th.ctx = some fetchCtx ∧ fetchCtx.tvec = none ∧ Issues (at1 t) t 0 ∧ getCtx (at1 t) t.ctx = some ctx1 ∧ t.trapc ≠ 0 :=
  ⟨runs.1, rfl, rfl, rfl, ⟨⟨rfl, rfl⟩, rfl, rfl⟩, rfl, rfl, ⟨⟨rfl, rfl⟩, rfl, rfl⟩, rfl, by decide⟩

/-- Back to the last word of the slice, to a pc that no word has, and outside a trap. -/
theorem meets_EretReturns :
    let t := { th with trapc := 1, trappc := 16380 }
    let u := { th with trapc := 1, trappc := 16383 }
    Issues (at1 t) t 0 ∧ t.trapc ≠ 0 ∧ inSlice (at1 t) t.core t.part t.trappc.toNat = true ∧ Issues (at1 u) u 0 ∧ u.trapc ≠ 0
    ∧ inSlice (at1 u) u.core u.part u.trappc.toNat = false ∧ Issues (at1 th) th 0 ∧ th.trapc = 0 :=
  ⟨⟨⟨rfl, rfl⟩, rfl, rfl⟩, by decide, by decide, ⟨⟨rfl, rfl⟩, rfl, rfl⟩, by decide, by decide, runs.1, rfl⟩

theorem meets_IllegalIsFatal : Acts (at1 th) th := ⟨rfl, rfl⟩

theorem meets_GuardReserved : (0x80100000 : BitVec 32).extractLsb' 27 5 = 16 ∧ (0x87FFFFFF : BitVec 32).extractLsb' 27 5 = 16 := by decide

/-- Context 1 as a system context. -/
def asSys (t : Thread) : State := { at1 t with ctxs := [(1, { ctx1 with sys := true })] }

/-- The first and the last selector, in a system context and outside one. -/
theorem meets_RdswResult : Runs (asSys th) th ∧ getCtx (asSys th) th.ctx = some { ctx1 with sys := true } ∧ Runs (at1 th) th
    ∧ getCtx (at1 th) th.ctx = some ctx1 ∧ ¬ctx1.sys = true ∧ (0x104 : BitVec 12).toNat = 0x104 ∧ (0 : BitVec 12).toNat = 0 :=
  ⟨⟨⟨⟨rfl, rfl⟩, rfl, rfl⟩, rfl, rfl⟩, rfl, runs, rfl, by decide⟩

/-- sw.TQHEAD of the last queue, sw.WAKE of a queue that is empty. -/
theorem meets_WrswResult :
    let t := th3 0xFFFFFF 0 0
    Runs (asSys t) t ∧ getCtx (asSys t) t.ctx = some { ctx1 with sys := true } ∧ (t.reg 1).toNat / 2 ^ 16 % 256 = 255
    ∧ tblFind (getTrapQ (asSys t) ((t.reg 2).toNat / 2 ^ 48 % 256)).recs ((t.reg 2).toNat / 2 ^ 40 % 256) = none ∧ Runs (at1 t) t
    ∧ getCtx (at1 t) t.ctx = some ctx1 ∧ ¬ctx1.sys = true :=
  ⟨⟨⟨⟨rfl, rfl⟩, rfl, rfl⟩, rfl, rfl⟩, rfl, by decide, rfl, runs3 _ _ _, rfl, by decide⟩

/-- A context on its cores and one off them; a thread of a context with a trap vector, and without one; what two contexts used of region 0.
-/
theorem meets_Budget :
    let s := { at1 th with focus := .ctx 1 }
    let x := { ctx1 with saved := some { parts := [(0, {})] } }
    let off := { s with ctxs := [(1, x)] }
    let bare := { at1 th with ctxs := [(1, fetchCtx)] }
    let used := { at1 th with regions := [(0, { used := [(1, 3), (2, 5)] })] }
    s.focus = .ctx 1 ∧ getCtx s 1 = some ctx1 ∧ ctx1.saved = none ∧ off.focus = .ctx 1 ∧ getCtx off 1 = some x ∧ x.saved.isSome = true
    ∧ Acts (at1 th) th ∧ getCtx (at1 th) th.ctx = some ctx1 ∧ ctx1.tvec = some 0x100 ∧ Acts bare th ∧ getCtx bare th.ctx = some fetchCtx
    ∧ fetchCtx.tvec = none ∧ Canonical used ∧ getCtx used 1 = some ctx1 ∧ ((getRegion used 0).used.map (·.2)).sum = 8
    ∧ tblGet 0 (getRegion used 0).used 1 = 3 :=
  ⟨rfl, rfl, rfl, rfl, rfl, rfl, ⟨rfl, rfl⟩, rfl, rfl, ⟨rfl, rfl⟩, rfl, rfl, ⟨rfl, List.pairwise_singleton _ _, List.pairwise_singleton _ _⟩, rfl,
    by decide⟩

/-- CKPT with an empty table: nothing asked, a request, a dusk stop ahead; a table that is misaligned. -/
theorem meets_Checkpoints :
    let t := th3 0x1800 0x1801 0
    let asked := { at1 t with parts := [(0, { owner := 1, ckptTimer := true })] }
    let y := { ctx1 with dusk := some 0 }
    let ahead := { at1 t with ctxs := [(1, y)] }
    Runs (at1 t) t ∧ getCtx (at1 t) t.ctx = some ctx1 ∧ (readTable (at1 t) t (t.reg 1)).toOption = some [0]
    ∧ (getPart (at1 t) 0 0).ckptTimer = false ∧ (getPart (at1 t) 0 0).ckptStep = false ∧ duskAhead (at1 t) ctx1 = false
    ∧ Runs asked t ∧ getCtx asked t.ctx = some ctx1 ∧ (readTable asked t (t.reg 1)).toOption = some [0] ∧ (getPart asked 0 0).ckptTimer = true
    ∧ t.trapc = 0 ∧ ctx1.tvec = some 0x100 ∧ logging ctx1 = false ∧ replaying ctx1 = false ∧ Runs ahead t ∧ getCtx ahead t.ctx = some y
    ∧ (readTable ahead t (t.reg 1)).toOption = some [0] ∧ (getPart ahead 0 0).ckptTimer = false ∧ (getPart ahead 0 0).ckptStep = false
    ∧ duskAhead ahead y = true ∧ Fenced t ∧ (readTable (at1 t) t (t.reg 2)).toOption = none :=
  ⟨runs3 _ _ _, rfl, by decide, rfl, rfl, rfl, ⟨⟨⟨rfl, rfl⟩, rfl, rfl⟩, rfl, rfl⟩, rfl, by decide, rfl, rfl, rfl, rfl, rfl,
    ⟨⟨⟨rfl, rfl⟩, rfl, rfl⟩, rfl, rfl⟩, rfl, by decide, rfl, rfl, by decide, ⟨rfl, rfl, rfl⟩, by decide⟩

/-- The step count at a partition, and the period at sw.VTIME 8. -/
theorem meets_Checkpoints_triggers :
    let x := { ctx1 with vtSince := some 0, period := 4 }
    let s := { at1 th with focus := .ctx 1, cycle := 8, ctxs := [(1, x)] }
    { at1 th with focus := .part 0 0 }.focus = .part 0 0 ∧ s.focus = .ctx 1 ∧ getCtx s 1 = some x ∧ x.life = .running ∧ x.vtSince.isSome = true
    ∧ x.period ≠ 0 ∧ vtimeOf s x ≠ 0 ∧ vtimeOf s x % x.period = 0 := by decide

/-- Context 1 with an order log of sixteen records per segment in the commons, so many of which are appended. -/
def logCtx : Ctx := { ctx1 with log := { on := true, lseg := 4, ring := 3 * 2 ^ 52 } }

def logs (t : Thread) (n : Byte) : State :=
  { at1 t with ctxs := [(1, logCtx)], mem := if n = 0 then [] else [(commonsKey 0 0, n)] }

/-- A log with room for its last record. -/
theorem meets_OrderLogForms_room :
    let s := logs th 15
    Acts s th ∧ Ahead s th ∧ getCtx s th.ctx = some logCtx ∧ th.wait = .ready ∧ guardHolds th 0 = true ∧ th.held = [] ∧ logging logCtx = true
    ∧ logTail s th.ctx logCtx (regionOf th.core) + 1 ≤ logHead s th.ctx logCtx (regionOf th.core) + 2 ^ logCtx.log.lseg
    ∧ ∀ e ∈ s.threads, e.2.ctx = th.ctx → ringWaits e.2 = false :=
  ⟨⟨rfl, rfl⟩, ⟨rfl, rfl⟩, rfl, rfl, rfl, rfl, rfl, by decide, by decide⟩

/-- No log, and one that is full. -/
theorem meets_OrderLogForms :
    let s := logs th 16
    Acts (at1 th) th ∧ Ahead (at1 th) th ∧ getCtx (at1 th) th.ctx = some ctx1 ∧ th.wait = .ready ∧ guardHolds th 0 = true ∧ th.held = []
    ∧ ctx1.log.on = false ∧ Acts s th ∧ Ahead s th ∧ getCtx s th.ctx = some logCtx ∧ logging logCtx = true
    ∧ ¬(logTail s th.ctx logCtx (regionOf th.core) + 1 ≤ logHead s th.ctx logCtx (regionOf th.core) + 2 ^ logCtx.log.lseg) :=
  ⟨⟨rfl, rfl⟩, ⟨rfl, rfl⟩, rfl, rfl, rfl, rfl, rfl, ⟨rfl, rfl⟩, ⟨rfl, rfl⟩, rfl, rfl, by decide⟩

/-- A log that is paused. -/
theorem meets_OrderLogForms_paused :
    let x := { logCtx with log := { logCtx.log with paused := true } }
    let s := { logs th 0 with ctxs := [(1, x)] }
    Acts s th ∧ Ahead s th ∧ getCtx s th.ctx = some x ∧ th.wait = .ready ∧ guardHolds th 0 = true ∧ th.held = [] ∧ x.log.on = true
    ∧ x.log.rpl = false ∧ x.log.paused = true := ⟨⟨rfl, rfl⟩, ⟨rfl, rfl⟩, rfl, rfl, rfl, rfl, rfl, rfl, rfl⟩

/-- FLUSH while thread 2 waits for room; after what it waited for is delivered; PAUSE and RESUME after their acknowledgements. -/
theorem meets_OrderLogForms_waits :
    let u := { th with id := 2, place := .slot 1, wait := .ring ⟨0x10, 0, 0, 0, none, none⟩ {} }
    let s := { logs th 16 with threads := [(1, th), (2, u)] }
    let f := { th with wait := .until .logDone, held := [2, 5] }
    let d := { logs f 0 with threads := [(1, f), (2, { u with wait := .ready })] }
    let p := { th with wait := .until (.cycle 0), held := [1] }
    Acts s th ∧ Ahead s th ∧ getCtx s th.ctx = some logCtx ∧ th.wait = .ready ∧ guardHolds th 0 = true ∧ th.held = [] ∧ logCtx.log.on = true
    ∧ (2, u) ∈ s.threads ∧ u.ctx = th.ctx ∧ ringWaits u = true ∧ getThread s 2 = some u ∧ Acts d f ∧ Ahead d f ∧ getCtx d f.ctx = some logCtx
    ∧ f.wait = .until .logDone ∧ logDone d f.held = true ∧ Acts (logs p 0) p ∧ Ahead (logs p 0) p ∧ getCtx (logs p 0) p.ctx = some logCtx
    ∧ p.held ≠ [] ∧ p.wait = .until (.cycle 0) ∧ logging logCtx = true
    ∧ logTail (logs p 0) p.ctx logCtx (regionOf p.core) + 1 ≤ logHead (logs p 0) p.ctx logCtx (regionOf p.core) + 2 ^ logCtx.log.lseg :=
  ⟨⟨rfl, rfl⟩, ⟨rfl, rfl⟩, rfl, rfl, rfl, rfl, rfl, by simp, rfl, rfl, rfl, ⟨rfl, rfl⟩, ⟨rfl, rfl⟩, rfl, rfl, by decide, ⟨rfl, rfl⟩, ⟨rfl, rfl⟩, rfl,
    by decide, rfl, rfl, by decide⟩

/-- The heads are read again: nothing waits; an outcome now fits. -/
theorem meets_OrderLogWaits_recheck :
    let q : LogRec := ⟨0x10, 0, 7, 0, none, none⟩
    let t := { th with wait := .ring q { r1 := 3, v1 := 9 } }
    let s := { logs t 15 with focus := .ctx 1 }
    let n := { logs th 15 with focus := .ctx 1 }
    getCtx n 1 = some logCtx ∧ th.ctx = 1 ∧ getThread n th.id = some th ∧ n.focus = .ctx 1 ∧ (∀ e ∈ n.threads, ringWaits e.2 = false)
    ∧ getCtx s 1 = some logCtx ∧ t.ctx = 1 ∧ getThread s t.id = some t ∧ s.focus = .ctx 1 ∧ Ahead s t ∧ t.place ≠ .held
    ∧ (∀ e ∈ s.threads, e.1 ≠ t.id → ringWaits e.2 = false)
    ∧ logFits (touchHeads 1 logCtx (blockRegions logCtx) s) 1 logCtx (regionOf t.core) q = true :=
  ⟨rfl, rfl, rfl, rfl, by decide, rfl, rfl, rfl, rfl, ⟨rfl, rfl⟩, by decide, by decide, by decide⟩

/-- A thread that waits for its turn in a replay: the ring has nothing left (it diverges), or has the record of another thread (not yet);
the last cycle before a replay counts as standing still, and the first one after. -/
theorem meets_OrderLogWaits :
    let x := { logCtx with log := { logCtx.log with rpl := true } }
    let t := { th with wait := .turn 0x10 0 7 0 }
    let s := { logs t 0 with focus := .op 1 5, ctxs := [(1, x)] }
    let s' := { s with mem := [(commonsKey 0 0, 1), (commonsKey 0 4096, 2), (commonsKey 0 4103, 0x10), (commonsKey 0 4104, 7)] }
    getCtx s 1 = some x ∧ t.ctx = 1 ∧ getThread s t.id = some t ∧ s.focus = .op t.id t.op ∧ t.wait = .turn 0x10 0 7 0
    ∧ turnOf s 1 x 0 t.id 0x10 0 7 ≠ .later ∧ turnOf s' 1 x 0 t.id 0x10 0 7 = .later
    ∧ max 0 x.log.lastTurn + 2 ^ 24 ≤ { s with cycle := 2 ^ 24 }.cycle ∧ { s with cycle := 2 ^ 24 - 1 }.cycle < max 0 x.log.lastTurn + 2 ^ 24 := by
  refine ⟨rfl, rfl, rfl, rfl, rfl, ?_, ?_, by decide, by decide⟩ <;> decide

/-! Agreement: accord 7 of this device, with n members in the regions 0 to n − 1. -/

def qOf (n : Nat) : Quorum := ⟨0, n / 2 + 1, n / 2 + 1, (List.range n).map fun i => (0, i)⟩

def tabOf (n : Nat) (conv : Bool) : AccTab := ⟨7, 1, 1, qOf n, none, 6, 4 * 2 ^ 52, conv, false, 1⟩

/-- The thread's partition has the accord in its table. -/
def agree (t : Thread) (n : Nat) (conv : Bool) : State := { at1 t with parts := [(0, { owner := 1, accTab := [tabOf n conv] })] }

/-- A thread that is ready at its first word may begin on accord 7. -/
theorem readyFor (t : Thread) (n : Nat) (conv : Bool) (hid : t.id = 1) (hx : t.ctx = 1) (c : t.core = 0) (p : t.part = 0) (w : t.wait = .ready)
    (k : t.kept = []) (e : t.place ≠ .engine) (h : 0 < n) : AgreeReady (agree t n conv) t 0 7 (tabOf n conv) := by
  refine ⟨⟨⟨by rw [hid]; rfl, by rw [hid]; rfl⟩, w, by simp [guardHolds, Thread.pred, Thread.predWord]⟩, k, e, ⟨ctx1, by rw [hx]; rfl, rfl, rfl⟩,
    by rw [c, p]; rfl, fun _ => ?_⟩
  show (qOf n).members ≠ [] ∧ ∀ m ∈ (qOf n).members, m.1 = 0
  constructor
  · simpa [qOf] using Nat.ne_of_gt h
  · simp [qOf]

/-- PROP on three members: a fresh attempt, one with the hint of a LOST round and one with that of the round before the last, in g3. -/
theorem meets_ProposalStarts (hint : Word) (h : hint = 0 ∨ hint = 2 ∨ hint = 0xFFFFFD0000000002) :
    let t := th3 (7 * 2 ^ 32) 5 hint
    AgreeReady (agree t 3 false) t 0 7 (tabOf 3 false) ∧ (t.reg 1).toNat / 2 ^ 32 = 7 ∧ (tabOf 3 false).conv = false
    ∧ 2 ≤ (governing (tabOf 3 false).qa (tabOf 3 false).qb 0).members.length ∧ t.defeat < 3 ∧ t.reg (pairHi 1) = hint ∧ hint.toNat % 256 ≠ 0x10
    ∧ (if hint.toNat % 16 = 2 then hint.toNat / 2 ^ 40 + 1 else 1) < 2 ^ 24 := by
  refine ⟨readyFor _ 3 false rfl rfl rfl rfl rfl rfl (by simp [th3, th]) (by decide), ?_⟩
  rcases h with h | h | h <;> subst h <;> decide

/-- Its own run's hint; three defeats; one member; a hint of the last round; a conversation. -/
theorem meets_ProposalStarts_others :
    let run := th3 (7 * 2 ^ 32) 5 0x10
    let lost := { th3 (7 * 2 ^ 32) 5 0 with status := 3 }
    let last := th3 (7 * 2 ^ 32) 5 0xFFFFFF0000000002
    AgreeReady (agree run 3 false) run 0 7 (tabOf 3 false) ∧ run.defeat < 3 ∧ (run.reg (pairHi 1)).toNat % 256 = 0x10
    ∧ (run.reg (pairHi 1)).toNat / 256 % 2 ^ 32 = run.id / 256 ∧ Fenced run ∧ AgreeReady (agree lost 3 false) lost 0 7 (tabOf 3 false)
    ∧ 3 ≤ lost.defeat ∧ Fenced lost ∧ AgreeReady (agree run 1 false) run 0 7 (tabOf 1 false)
    ∧ (governing (tabOf 1 false).qa (tabOf 1 false).qb 0).members.length = 1 ∧ AgreeReady (agree last 3 false) last 0 7 (tabOf 3 false)
    ∧ last.defeat < 3 ∧ (last.reg (pairHi 1)).toNat % 256 ≠ 0x10 ∧ (last.reg (pairHi 1)).toNat % 16 = 2
    ∧ 2 ^ 24 ≤ (last.reg (pairHi 1)).toNat / 2 ^ 40 + 1 ∧ AgreeReady (agree run 3 true) run 0 7 (tabOf 3 true) ∧ (tabOf 3 true).conv = true
    ∧ Ahead (agree run 3 true) run :=
  ⟨readyFor _ 3 false rfl rfl rfl rfl rfl rfl (by simp [th3, th]) (by decide), by decide, by decide, by decide, ⟨rfl, rfl, rfl⟩,
    readyFor _ 3 false rfl rfl rfl rfl rfl rfl (by simp [th3, th]) (by decide), by decide, ⟨rfl, rfl, rfl⟩,
    readyFor _ 1 false rfl rfl rfl rfl rfl rfl (by simp [th3, th]) (by decide), by decide,
    readyFor _ 3 false rfl rfl rfl rfl rfl rfl (by simp [th3, th]) (by decide), by decide, by decide, by decide, by decide,
    readyFor _ 3 true rfl rfl rfl rfl rfl rfl (by simp [th3, th]) (by decide), rfl, rfl, rfl⟩

theorem meets_QuestionsAsked :
    let t := th3 (7 * 2 ^ 32 + 7) 0 0
    AgreeReady (agree t 3 false) t 0 7 (tabOf 3 false) ∧ (t.reg 1).toNat / 2 ^ 32 = 7 ∧ t.reg 2 = 0 ∧ (t.reg 1).toNat % 2 ^ 32 = 7 :=
  ⟨readyFor _ 3 false rfl rfl rfl rfl rfl rfl (by simp [th3, th]) (by decide), by decide⟩

/-- CVSEND on a conversation, fresh and after a PENDING one, and on a plain accord. -/
theorem meets_ConversationStarts :
    let t := th3 (7 * 2 ^ 32) 5 0x508
    AgreeReady (agree t 3 true) t 0 7 (tabOf 3 true) ∧ (t.reg 1).toNat / 2 ^ 32 = 7 ∧ (t.reg 4).toNat % 16 ≠ 8 ∧ (t.reg 3).toNat % 16 = 8
    ∧ (tabOf 3 true).conv = true ∧ AgreeReady (agree t 3 false) t 0 7 (tabOf 3 false) ∧ (tabOf 3 false).conv = false ∧ Ahead (agree t 3 false) t :=
  ⟨readyFor _ 3 true rfl rfl rfl rfl rfl rfl (by simp [th3, th]) (by decide), by decide, by decide, by decide, rfl,
    readyFor _ 3 false rfl rfl rfl rfl rfl rfl (by simp [th3, th]) (by decide), rfl, rfl, rfl⟩

/-- A descriptor at 0x1800, and bytes that are none. -/
theorem meets_AccordForms :
    let t := th3 (pa 0 0x1800) (pa 0 0x1800) 0
    let u := { t with wait := .gathered [] 1 }
    Issues (at1 t) t 0 ∧ getCtx (at1 t) t.ctx = some ctx1 ∧ t.kept = [] ∧ t.held = [] ∧ replaying ctx1 = false ∧ logging ctx1 = false
    ∧ (segCheck ctx1 (t.reg 2) 128 128 rightR).toOption = some 0x1800 ∧ (segCheck ctx1 (t.reg 1) 384 128 rightARW).toOption = some 0x1800
    ∧ Acts (at1 u) u ∧ u.wait = .gathered [] 1 ∧ u.kept = [] ∧ getCtx (at1 u) u.ctx = some ctx1 ∧ validQuorum [] = false ∧ Ahead (at1 u) u
    ∧ fieldAt [] 32 8 = 0 ∧ openCheck (at1 u) ctx1 [] = false :=
  ⟨(runs3 _ _ _).1, rfl, rfl, rfl, rfl, rfl, by decide, by decide, ⟨rfl, rfl⟩, rfl, rfl, rfl, by decide, ⟨rfl, rfl⟩, by decide, by decide⟩

/-- CLOSE with the flags 1 and 2 by the owner, and by another context; TRUNC. -/
theorem meets_AccordForms_close :
    let t := th3 7 1 2
    let e := { tabOf 3 false with owner := 2 }
    let other := { at1 t with parts := [(0, { owner := 1, accTab := [e] })] }
    AgreeReady (agree t 3 false) t 0 7 (tabOf 3 false) ∧ (t.reg 1).toNat % 2 ^ 32 = 7 ∧ getCtx (agree t 3 false) t.ctx = some ctx1
    ∧ (tabOf 3 false).owner = t.ctx ∧ 7 / 65536 = (agree t 3 false).dev.id ∧ (t.reg 2).toNat < 2 ∧ 2 ≤ (t.reg 3).toNat ∧ Ahead (agree t 3 false) t
    ∧ (tabOf 3 false).qa.members ≠ [] ∧ (∀ m ∈ (tabOf 3 false).qa.members, m.1 = (agree t 3 false).dev.id) ∧ AgreeReady other t 0 7 e
    ∧ getCtx other t.ctx = some ctx1 ∧ e.owner ≠ t.ctx :=
  ⟨readyFor _ 3 false rfl rfl rfl rfl rfl rfl (by simp [th3, th]) (by decide), by decide, rfl, rfl, by decide, by decide, by decide, ⟨rfl, rfl⟩,
    by decide, by decide, ⟨⟨⟨rfl, rfl⟩, rfl, rfl⟩, rfl, by decide, ⟨ctx1, rfl, rfl, rfl⟩, rfl, fun _ => ⟨(by decide : (qOf 3).members ≠ []),
    (by decide : ∀ m ∈ (qOf 3).members, m.1 = 0)⟩⟩, rfl, by decide⟩

/-- CLOSE of an accord that another device has opened. -/
theorem meets_AccordForms_foreign :
    let t := th3 65543 1 2
    let e := { tabOf 3 false with acc := 65543 }
    let s := { at1 t with parts := [(0, { owner := 1, accTab := [e] })] }
    AgreeReady s t 0 65543 e ∧ (t.reg 1).toNat % 2 ^ 32 = 65543 ∧ getCtx s t.ctx = some ctx1 ∧ 65543 / 65536 ≠ s.dev.id :=
  ⟨⟨⟨⟨rfl, rfl⟩, rfl, rfl⟩, rfl, by decide, ⟨ctx1, rfl, rfl, rfl⟩, rfl, fun _ => ⟨(by decide : (qOf 3).members ≠ []),
    (by decide : ∀ m ∈ (qOf 3).members, m.1 = 0)⟩⟩, by decide, rfl, by decide⟩

/-- The accord at its member in region 0. -/
def cfg0 : AccCfg :=
  { acc := 7, gen := 1, epoch := 1, trunc := 0, front := 0, llen := 6, darr := 0, desc := 0, owner := 1, part := 0, qa := qOf 3, qb := none,
    strict := false, wsen := 0, proto := none }

def member0 (c : AccCfg) : State := { at1 th with regions := [(0, { accs := [c] })] }

def msg0 : AMsg :=
  { region := 0, member := 0, acc := 7, gen := 1, epoch := 1, slot := 0, bal := 2 ^ 40 + 1, flag := false, v := 5, orig := 1, tid := 1, op := 5,
    core := 0, dev := 0 }

/-- PREPARE, ACCEPT and PREPACC at a fresh slot, at the last one in the window, and where the promise is the ballot. -/
theorem meets_AcceptorAnswers :
    let m := { msg0 with slot := 15 }
    let e : SlotEntry := { slot := 0, p := 2 ^ 40 + 1 }
    let c := { cfg0 with entries := [e] }
    Passes (member0 cfg0) msg0 cfg0 { slot := 0 } ∧ (0 : Nat) < msg0.bal ∧ cfg0.proto = none ∧ msg0.flag = false
    ∧ max 0 (runBallot cfg0 msg0.slot) ≤ msg0.bal ∧ ({ slot := 0 } : SlotEntry).ab = 0 ∧ Passes (member0 cfg0) m cfg0 { slot := 15 }
    ∧ Passes (member0 c) msg0 c e ∧ msg0.bal ≤ e.p ∧ c.proto = none ∧ Passes (member0 c) { msg0 with flag := true } c e ∧ e.p = msg0.bal
    ∧ max e.p (runBallot c msg0.slot) ≤ msg0.bal :=
  ⟨by unfold Passes; decide, by decide, rfl, rfl, by decide, rfl, by unfold Passes; decide, by unfold Passes; decide, by decide, rfl,
    by unfold Passes; decide, rfl, by decide⟩

/-- A higher promise; a run flag without a run; no accord; a decided entry. -/
theorem meets_AcceptorAnswers_refused :
    let e : SlotEntry := { slot := 0, p := 2 ^ 41 }
    let c := { cfg0 with entries := [e] }
    let d : SlotEntry := { slot := 0, decided := true }
    let cd := { cfg0 with entries := [d] }
    Passes (member0 c) msg0 c e ∧ msg0.bal ≤ e.p ∧ c.proto = none ∧ msg0.flag = false ∧ msg0.bal < max e.p (runBallot c msg0.slot)
    ∧ Passes (member0 c) { msg0 with flag := true } c e ∧ e.p ≠ msg0.bal ∧ (∀ r ∈ c.runs, r.bal ≠ msg0.bal ∨ msg0.slot < r.lo ∨ r.hi < msg0.slot)
    ∧ msg0.dev = (at1 th).dev.id ∧ findAcc (at1 th) msg0.region msg0.acc = none ∧ findAcc (member0 cd) msg0.region msg0.acc = some cd
    ∧ cd.frozen = none ∧ msg0.gen = cd.gen ∧ msg0.epoch = epochFor cd msg0.slot ∧ cd.trunc ≤ msg0.slot ∧ slotEntry cd msg0.slot = some d
    ∧ d.decided = true :=
  ⟨by unfold Passes; decide, by decide, rfl, rfl, by decide, by unfold Passes; decide, by decide, by decide, rfl, rfl, rfl, rfl, rfl, rfl,
    by decide, rfl, rfl⟩

theorem meets_DecisionRecorded :
    let d := { cfg0 with entries := [{ slot := 0, decided := true }] }
    findAcc (member0 cfg0) msg0.region msg0.acc = some cfg0 ∧ msg0.gen = cfg0.gen ∧ knownDecided cfg0 msg0.slot = false
    ∧ cfg0.trunc ≤ msg0.slot ∧ cfg0.waits = [] ∧ cfg0.darr = 0 ∧ isControl (member0 cfg0) msg0.acc = false
    ∧ ({ msg0 with gen := 2 } : AMsg).gen ≠ cfg0.gen ∧ findAcc (member0 d) msg0.region msg0.acc = some d
    ∧ (slotEntry d msg0.slot).any (·.decided) = true := by decide

/-- A PROP in a phase on slot 0 of accord 7. -/
def prop0 (ph : Phase) : PropOp :=
  { outer := .plain, form := 0, d := 4, acc := 7, slot := 0, v0 := 5, v := 5, orig := 1, gen := 1, epoch := 1, q := qOf 3,
    phase := ph, bal := 2 ^ 40 + 1, sop := 5, cur := 5 }

/-- The thread that waits in a proposal. -/
def waitsIn (p : PropOp) : Thread := { th with wait := .op (.prop p) }

def proposing (ph : Phase) : Thread := waitsIn (prop0 ph)

def rep0 : ARep := { tid := 1, op := 5, member := 0, bal := 2 ^ 40 + 1 }

theorem awaits_at1 (p : PropOp) (r : ARep) (hs : p.sop = 5) (ht : r.tid = 1) (ho : r.op = 5) : Awaits (at1 (waitsIn p)) (waitsIn p) p r := by
  refine ⟨rfl, rfl, ht, rfl, by omega, by omega, ?_, rfl⟩
  rw [ho]
  exact Nat.le_refl 5

/-- What every clause of RepliesTaken asks of the state, the proposal and the reply. -/
def TakesReplies (s : State) (t : Thread) (p : PropOp) (r : ARep) : Prop :=
  Awaits s t p r ∧ p.outer = .plain ∧ p.senior = false ∧ Plain s t ∧ Ahead s t ∧ t.kept = [] ∧ p.d < 9 ∧ (∀ m ∈ p.q.members, m.1 = s.dev.id)

theorem takes_at1 (p : PropOp) (r : ARep) (hs : p.sop = 5) (ht : r.tid = 1) (ho : r.op = 5) (hu : p.outer = .plain) (hn : p.senior = false)
    (hd : p.d = 4) (hq : p.q = qOf 3) : TakesReplies (at1 (waitsIn p)) (waitsIn p) p r := by
  refine ⟨awaits_at1 p r hs ht ho, hu, hn, plain_at1 _ rfl, ahead_of _ _ rfl rfl rfl rfl rfl, rfl, by omega, ?_⟩
  rw [hq]
  exact (by decide : ∀ m ∈ (qOf 3).members, m.1 = 0)

/-- Promises: of another ballot, the first of two, the second, and one after phase 2 began. -/
theorem meets_RepliesTaken_promise :
    let p := prop0 .prep
    let two := { p with grants := [1] }
    let late := prop0 .acc
    let other := { rep0 with bal := 9 }
    TakesReplies (at1 (waitsIn p)) (waitsIn p) p other ∧ p.bal ≠ other.bal ∧ TakesReplies (at1 (waitsIn p)) (waitsIn p) p rep0 ∧ p.phase = .prep
    ∧ p.bal = rep0.bal ∧ (natInsert p.grants rep0.member).length < p.q.q1 ∧ TakesReplies (at1 (waitsIn two)) (waitsIn two) two rep0
    ∧ two.phase = .prep ∧ two.bal = rep0.bal ∧ two.q.q1 ≤ (natInsert two.grants rep0.member).length ∧ Fenced (waitsIn two)
    ∧ TakesReplies (at1 (waitsIn late)) (waitsIn late) late rep0 ∧ late.phase = .acc ∧ late.bal = rep0.bal :=
  ⟨takes_at1 _ _ rfl rfl rfl rfl rfl rfl rfl, by decide, takes_at1 _ _ rfl rfl rfl rfl rfl rfl rfl, rfl, rfl, by decide,
    takes_at1 _ _ rfl rfl rfl rfl rfl rfl rfl, rfl, rfl, by decide, ⟨rfl, rfl, rfl⟩, takes_at1 _ _ rfl rfl rfl rfl rfl rfl rfl, rfl, rfl⟩

/-- Acceptances: the first of two, the second of its own value, and the second of a value of another. -/
theorem meets_RepliesTaken_accepted :
    let p := prop0 .acc
    let two := { p with grants := [2] }
    let other := { p with grants := [1, 2], orig := 9, best := 4 }
    TakesReplies (at1 (waitsIn p)) (waitsIn p) p rep0 ∧ p.phase = .acc ∧ rep0.op = p.cur ∧ (natInsert p.grants rep0.member).length < p.q.q2
    ∧ TakesReplies (at1 (waitsIn two)) (waitsIn two) two rep0 ∧ two.phase = .acc ∧ rep0.op = two.cur
    ∧ two.q.q2 ≤ (natInsert two.grants rep0.member).length ∧ two.orig = (waitsIn two).id
    ∧ TakesReplies (at1 (waitsIn other)) (waitsIn other) other rep0 ∧ other.phase = .acc ∧ rep0.op = other.cur
    ∧ other.q.q2 ≤ (natInsert other.grants rep0.member).length ∧ other.orig ≠ (waitsIn other).id :=
  ⟨takes_at1 _ _ rfl rfl rfl rfl rfl rfl rfl, rfl, rfl, by decide, takes_at1 _ _ rfl rfl rfl rfl rfl rfl rfl, rfl, rfl, by decide, rfl,
    takes_at1 _ _ rfl rfl rfl rfl rfl rfl rfl, rfl, rfl, by decide, by decide⟩

/-- DECIDEDNOW and DECIDED of the own value and of another's; TRUNC with and without the value; NACK of every reason; NORUN: in the phase
that asked, with one member of three refusing, the others can still make the quorum. -/
theorem meets_RepliesTaken (num ao : Nat) (config : Bool) :
    let p := prop0 .acc
    let r := { rep0 with num := num, ao := ao, config := config }
    TakesReplies (at1 (waitsIn p)) (waitsIn p) p r ∧ r.num = num ∧ r.ao = ao ∧ r.config = config ∧ (waitsIn p).id = 1
    ∧ r.op = p.cur ∧ p.phase = .acc ∧ phaseNeed p ≤ p.q.members.length - (natInsert p.refusals r.member).length :=
  ⟨takes_at1 _ _ rfl rfl rfl rfl rfl rfl rfl, rfl, rfl, rfl, rfl, rfl, rfl, Nat.le_of_ble_eq_true rfl⟩

def learn0 (f : LForm) : LearnOp := { form := f, d := 4, acc := 7, slot := 0, n := 1 }

def learns (f : LForm) : Thread := { th with wait := .op (.learn (learn0 f)) }

/-- The time-out of each phase, of this operation and of an earlier one; the end of a hold. -/
theorem meets_AgreementTimeouts (ph : Phase) :
    let t := proposing ph
    let s := { at1 t with focus := .op 1 5 }
    getThread s t.id = some t ∧ Plain s t ∧ Ahead s t ∧ t.wait = .op (.prop (prop0 ph)) ∧ (prop0 ph).outer = .plain ∧ (prop0 ph).senior = false
    ∧ (prop0 ph).d < 9 ∧ (prop0 ph).phase = ph ∧ 4 ≠ t.op ∧ s.focus = .op t.id t.op :=
  ⟨rfl, ⟨ctx1, rfl, rfl, rfl⟩, ahead_of _ _ rfl rfl rfl rfl rfl, rfl, rfl, rfl,
    Nat.lt_of_lt_of_le (by decide : 4 < 9) (Nat.le_refl 9), rfl, by simp [proposing, waitsIn, th], rfl⟩

/-- LEARNT one cycle past its deadline; a LEARN whose last member is silent for 524,288 cycles; an OPEN without answers. -/
theorem meets_AgreementTimeouts_questions :
    let t := { learns .learnt with deadline := 4 }
    let s := { at1 t with cycle := 5 }
    let u := learns .learn
    let s2 := { at1 u with focus := .op 1 5, cycle := 524288 }
    let o : AccOp := { form := 0, d := 4, acc := 7 }
    let v := { th with wait := .op (.acc o) }
    let s3 := { at1 v with focus := .op 1 5 }
    getThread s t.id = some t ∧ Plain s t ∧ Ahead s t ∧ t.wait = .op (.learn (learn0 .learnt)) ∧ (learn0 .learnt).d < 9 ∧ t.kept = []
    ∧ s.focus = .thread t.id ∧ t.deadline ≠ 0 ∧ t.deadline < s.cycle ∧ getThread s2 u.id = some u ∧ Plain s2 u ∧ Ahead s2 u
    ∧ u.wait = .op (.learn (learn0 .learn)) ∧ u.kept = [] ∧ s2.focus = .op u.id u.op ∧ (learn0 .learn).heard + 524288 ≤ s2.cycle
    ∧ (learn0 .learn).n ≤ (learn0 .learn).tried + 1 ∧ getThread s3 v.id = some v ∧ Plain s3 v ∧ Ahead s3 v ∧ v.wait = .op (.acc o)
    ∧ s3.focus = .op v.id v.op ∧ o.undo = false :=
  ⟨rfl, ⟨ctx1, rfl, rfl, rfl⟩, ⟨rfl, rfl⟩, rfl, by decide, rfl, rfl, by decide, by decide, rfl, ⟨ctx1, rfl, rfl, rfl⟩, ⟨rfl, rfl⟩, rfl, rfl, rfl,
    by decide, by decide, rfl, ⟨ctx1, rfl, rfl, rfl⟩, ⟨rfl, rfl⟩, rfl, rfl, rfl⟩

/-- A request at the gate of accord 7, a freeze that ends in this cycle. -/
theorem meets_Leases :
    let s := member0 cfg0
    findAcc s msg0.region msg0.acc = some cfg0 ∧ msg0.dev = s.dev.id ∧ msg0.gen = cfg0.gen ∧ msg0.epoch = epochFor cfg0 msg0.slot
    ∧ cfg0.lease = none ∧ (∀ x ∈ (governing cfg0.qa cfg0.qb msg0.slot).members, x.1 = s.dev.id) ∧ s.cycle ≤ 0 := by decide

/-- The grant, a report, and the end of the wait for reports. -/
theorem meets_Leases_holder :
    let t := proposing .lease
    let s := at1 t
    let u := proposing .reports
    let s2 := { at1 u with focus := .op 1 5 }
    getThread s t.id = some t ∧ Alive s t ∧ msg0.tid = t.id ∧ t.wait = .op (.prop (prop0 .lease)) ∧ t.op = msg0.op ∧ (prop0 .lease).phase = .lease
    ∧ (prop0 .lease).reports.length < (prop0 .lease).q.members.length ∧ Awaits s t (prop0 .lease) rep0 ∧ getThread s2 u.id = some u
    ∧ u.wait = .op (.prop (prop0 .reports)) ∧ (prop0 .reports).phase = .reports ∧ s2.focus = .op u.id u.op
    ∧ (∀ x ∈ (prop0 .reports).q.members, x.1 = s2.dev.id) ∧ (prop0 .reports).topRound + 1 < 2 ^ 24 ∧ (prop0 .reports).hint = 0
    ∧ (prop0 .reports).fall = false :=
  ⟨rfl, rfl, rfl, rfl, rfl, rfl, by decide, awaits_at1 _ _ rfl rfl rfl, rfl, rfl, rfl, rfl, by decide, by decide, rfl, rfl⟩

def req0 (f : LForm) (slot : Nat) : LReq :=
  { region := 0, member := 0, acc := 7, gen := 1, epoch := 1, slot := slot, form := f, tid := 1, op := 5, core := 0, dev := 0 }

/-- A question of the wrong generation; a decided slot. -/
theorem meets_MemberAnswers_decided :
    let q := req0 .learn 0
    let old := { q with gen := 2 }
    let e : SlotEntry := { slot := 0, decided := true }
    let c := { cfg0 with entries := [e] }
    findAcc (member0 cfg0) old.region old.acc = some cfg0 ∧ old.dev = (member0 cfg0).dev.id ∧ old.gen ≠ cfg0.gen ∧ old.form ≠ .cancel
    ∧ old.form ≠ .directory ∧ findAcc (member0 c) q.region q.acc = some c ∧ q.dev = (member0 c).dev.id ∧ sameEpoch c q = true ∧ c.trunc ≤ q.slot
    ∧ ((c.entries ++ c.late).find? fun e => e.slot == q.slot && e.decided) = some e := by decide

/-- A poll and a learner at an undecided slot; the queries; a slot with a promise; a record that waits and one that does not. -/
theorem meets_MemberAnswers :
    let s := member0 cfg0
    let q := req0 .learn 0
    let e : SlotEntry := { slot := 0, p := 2 ^ 40 }
    let c := { cfg0 with entries := [e] }
    let w := { cfg0 with waits := [q] }
    findAcc s q.region q.acc = some cfg0 ∧ q.dev = s.dev.id ∧ sameEpoch cfg0 q = true ∧ sameEpoch cfg0 (req0 .poll 0) = true
    ∧ cfg0.trunc ≤ q.slot ∧ ((cfg0.entries ++ cfg0.late).find? fun e => e.slot == q.slot && e.decided) = none ∧ knownDecided cfg0 q.slot = false
    ∧ shareRoom s q.region cfg0.part 0 1 = true ∧ (∀ p ∈ s.pend, p.what ≠ .keepalive q) ∧ sameEpoch cfg0 (req0 (.stat 0) 0) = true
    ∧ sameEpoch cfg0 (req0 (.stat 1) 0) = true ∧ sameEpoch cfg0 (req0 (.stat 2) 0) = true ∧ sameEpoch cfg0 (req0 .frontier 0) = true
    ∧ (7 : Word).toNat < 8 ∧ sameEpoch cfg0 (req0 (.cvstate 7) 0) = true ∧ findAcc (member0 c) q.region q.acc = some c
    ∧ sameEpoch c (req0 .ballot 0) = true ∧ c.trunc ≤ (req0 .ballot 0).slot ∧ slotEntry c (req0 .ballot 0).slot = some e ∧ e.decided = false
    ∧ ((c.entries ++ c.late).find? fun e => e.slot == (req0 .ballot 0).slot && e.decided) = none ∧ findAcc (member0 w) q.region q.acc = some w
    ∧ q ∈ w.waits ∧ q ∉ cfg0.waits ∧ cfg0.reads = [] := by decide

/-- A LEARN that waits. -/
theorem meets_AnswersReturned :
    let t := learns .learn
    getThread (at1 t) t.id = some t ∧ Alive (at1 t) t ∧ t.id < 2 ^ 40 ∧ t.wait = .op (.learn (learn0 .learn)) ∧ (learn0 .learn).form = .learn
    ∧ (learn0 .learn).d < 9 ∧ t.kept = [] ∧ Plain (at1 t) t ∧ Ahead (at1 t) t ∧ 4 ≠ t.op ∧ ∀ k, MBody.ack ≠ .closed k :=
  ⟨rfl, rfl, by decide, rfl, rfl, by decide, rfl, plain_at1 _ rfl, ⟨rfl, rfl⟩, by decide, by simp⟩

/-- An OPEN that is taken back and waits for its last member; a fill of an accord that its directory has open. -/
theorem meets_AnswersReturned_others :
    let a : AccOp := { form := 0, d := 4, acc := 7, first := false, undo := true, waiting := [2], code := 3 }
    let t := { th with wait := .op (.acc a) }
    let u := { th with wait := .op (.fill 7) }
    let s := { at1 u with focus := .op 1 5, regions := [(7, { dir := [(7, { desc := 4 * 2 ^ 52, owner := 1, isOpen := true })] })] }
    getThread (at1 t) t.id = some t ∧ Alive (at1 t) t ∧ t.id < 2 ^ 40 ∧ t.wait = .op (.acc a) ∧ a.first = false ∧ a.undo = true
    ∧ a.waiting = [2] ∧ Ahead (at1 t) t ∧ getThread s u.id = some u ∧ Alive s u ∧ u.wait = .op (.fill 7) ∧ s.focus = .op u.id u.op
    ∧ 7 / 65536 = s.dev.id ∧ isControl s 7 = false ∧ (dirGet s 7).isOpen = true ∧ (dirGet s 7).poisoned = false ∧ (dirGet s 7).owner = u.ctx
    ∧ u.ctx ≠ 0 :=
  ⟨rfl, rfl, by decide, rfl, rfl, rfl, rfl, ⟨rfl, rfl⟩, rfl, rfl, rfl, rfl, by decide, by decide, by decide, by decide, by decide, by decide⟩

/-- The directory of accord 7, closed and open. -/
def directory (isOpen : Bool) : State := { at1 th with regions := [(7, { dir := [(7, { gen := 1, owner := 1, isOpen := isOpen })] })] }

/-- A registration and a close at the directory of a closed accord and of an open one. -/
theorem meets_AccordsAtMembers_directory :
    let m := { msg0 with member := 255 }
    m.dev = (directory false).dev.id ∧ m.member = 255 ∧ m.flag = false ∧ (getRegion (directory false) (m.acc % 64)).excluded = false
    ∧ (dirGet (directory false) m.acc).isOpen = false ∧ m.dev = (directory true).dev.id
    ∧ (getRegion (directory true) (m.acc % 64)).excluded = false ∧ (dirGet (directory true) m.acc).isOpen = true
    ∧ ({ m with v := 0, flag := true } : AMsg).v = 0 ∧ (dirGet (directory true) m.acc).gen = m.gen
    ∧ (dirGet (directory true) m.acc).gen ≠ ({ m with gen := 2 } : AMsg).gen := by decide

/-- A member whose share is taken: 16,256 entries. -/
def fullShare : State := member0 { cfg0 with acc := 8, part := 1, entries := List.replicate 16255 { slot := 0 } }

theorem share_room (l : List SlotEntry) (h : l.length = 16255) :
    shareRoom (member0 { cfg0 with acc := 8, part := 1, entries := l }) 0 1 1 0 = false := by
  have e : psetOf (member0 { cfg0 with acc := 8, part := 1, entries := l }) 0 = psetOf (at1 th) 0 := rfl
  have f : (psetOf (at1 th) 0).map (·.n) = some 1 := by decide
  cases hp : psetOf (at1 th) 0 with
  | none => rw [hp] at f; cases f
  | some x =>
    rw [hp] at f e
    simp only [Option.map_some, Option.some.injEq] at f
    simp only [shareRoom, e]
    simp [f, member0, getRegion, tblGet, accSize, ceilDiv, cfg0, h]

theorem share_acc (l : List SlotEntry) : findAcc (member0 { cfg0 with acc := 8, part := 1, entries := l }) 0 7 = none := rfl

/-- A member with room and one without; one that has the accord; a takeover whose first slot the frontier
has just reached. -/
theorem meets_AccordsAtMembers :
    let m := { msg0 with v := 0 }
    let one := { cfg0 with qa := ⟨0, 1, 1, [(0, 0)]⟩, qb := some ⟨1, 1, 1, [(0, 0)]⟩, front := 1, owner := 0 }
    let s := member0 one
    m.dev = (at1 th).dev.id ∧ m.member ≠ 255 ∧ m.flag = false ∧ findAcc (at1 th) m.region m.acc = none
    ∧ ((at1 th).dev.id, m.region) ∈ (qOf 3).members ∧ m.carry = {} ∧ shareRoom (at1 th) m.region m.orig 1 0 = true ∧ m.dev = fullShare.dev.id
    ∧ findAcc fullShare m.region m.acc = none ∧ shareRoom fullShare m.region m.orig 1 0 = false ∧ m.v = 0
    ∧ (∀ x ∈ (getRegion (member0 cfg0) m.region).accs, x.acc = m.acc → x.gen = m.gen) ∧ ({ m with flag := true } : AMsg).flag = true
    ∧ findAcc (member0 cfg0) m.region m.acc = some cfg0 ∧ cfg0.gen = m.gen ∧ m.dev = s.dev.id ∧ accordView s 7 = some (0, one) ∧ one.acc = 7
    ∧ one.qa.members = [(s.dev.id, 0)] ∧ one.qb = some ⟨1, 1, 1, [(s.dev.id, 0)]⟩ ∧ s.regions.map (·.1) = [0] ∧ 1 ≤ one.front ∧ one.owner = 0
    ∧ getCtx s 0 = none ∧ launchVd s 7 = none ∧ 7 / 65536 = s.dev.id :=
  ⟨by decide, by decide, rfl, by decide, by decide, by decide, by decide, rfl, share_acc _, share_room _ (List.length_replicate ..), by decide⟩

/-! Tile commands: a queue and handles of partition 0 of core 0. -/

def tcw0 : Tcw := { mma with flags := 0, dst := 0, hA := 0, hB := 0, acc := 0, fmtA := 8, fmtB := 8, fmtOut := 8, rm := 0, count := 1, win := 1, wout := 1,
                             q1 := 0, q2 := 0, q3 := 0 }

def ent (w : BitVec 256) : QEntry := { seq := 0, tid := 1, pc := 0, word := w }

def tiles (q : List QEntry) (h : List (Nat × Handle)) : State :=
  { at1 th with focus := .part 0 0, parts := [(0, { owner := 1, queue := q, seqCtr := q.length, handles := h })] }

/-- A thread with a command block at 0x1820: TNOP when its byte 7 is 1, ZERO when it is 0x55, nothing legal when it is 0; `n` commands
before it, and as many entries kept for other threads. -/
def offers (b : Byte) (n : Nat) (kept : List Nat) : State :=
  { at1 (th3 0x1820 0 0) with
    mem := if b = 0 then [] else [(0x1827, b)], parts := [(0, { owner := 1, queue := List.replicate n (ent 0), seqCtr := n, reserved := kept })] }

/-- TCMD into the last free entry, of a legal command and of an illegal one; the same with that entry kept for another thread. -/
theorem meets_TileAccepted (b : Byte) (h : b = 0 ∨ b = 1) :
    let t := th3 0x1820 0 0
    let s := offers b 63 []
    Runs s t ∧ t.held = [] ∧ ownKey s t (t.reg 1) 32 32 = .ok 0x1820 ∧ tcmdRoom (getPart s 0 0) t.id = true ∧ (getPart s 0 0).loop = .idle
    ∧ tileLegal s 0 0 (tcwBits (toQuads 4 (readBefore s 0x1820 32))) = decide (b = 1)
    ∧ getCtx s (getPart s 0 0).owner = some ctx1 ∧ ctx1.fault = none ∧ Runs (offers b 63 [2]) t
    ∧ ownKey (offers b 63 [2]) t (t.reg 1) 32 32 = .ok 0x1820 ∧ tcmdRoom (getPart (offers b 63 [2]) 0 0) t.id = false := by
  rcases h with h | h <;> subst h <;>
    exact ⟨⟨⟨⟨rfl, rfl⟩, rfl, rfl⟩, rfl, rfl⟩, rfl, rfl, by decide, rfl, by decide, rfl, rfl, ⟨⟨⟨rfl, rfl⟩, rfl, rfl⟩, rfl, rfl⟩, rfl, by decide⟩

/-- TLOOP of one iteration and eight commands, with the least and the largest stride word; of 0 iterations; with an entry kept for another
thread. -/
theorem meets_TileLoops :
    let t := th3 0x10007 0x3FFFFF 7
    let s := at1 t
    let kept := { s with parts := [(0, { owner := 1, reserved := [2] })] }
    Runs s t ∧ (t.reg 1).toNat < 2 ^ 32 ∧ (t.reg 1).toNat / 8 % 2 ^ 13 = 0 ∧ (t.reg 2).toNat < 2 ^ 22 ∧ (t.reg 4).toNat < 2 ^ 22
    ∧ (t.reg 1).toNat / 2 ^ 16 ≠ 0 ∧ (getPart s 0 0).loop = .idle ∧ (getPart s 0 0).reserved.erase t.id = [] ∧ (t.reg 3).toNat / 2 ^ 16 = 0
    ∧ Runs kept t ∧ (getPart kept 0 0).loop = .idle ∧ (getPart kept 0 0).reserved.erase t.id ≠ [] :=
  ⟨runs3 _ _ _, by decide, by decide, by decide, by decide, by decide, rfl, by decide, by decide, ⟨⟨⟨rfl, rfl⟩, rfl, rfl⟩, rfl, rfl⟩, rfl, by decide⟩

/-- A push of the second of three iterations, and of the last, into the last free entry. -/
theorem meets_TileLoops_push (m : Nat) (h : m = 3 ∨ m = 2) :
    let e := ent 0x0100000000000000#256
    let p : Part := { owner := 1, queue := List.replicate 62 (ent 0), reserved := [2], loop := .pushing m 0 1 0 [e] }
    let s := { at1 th with focus := .part 0 0, parts := [(0, p)] }
    s.focus = .part 0 0 ∧ (getPart s 0 0).loop = .pushing m 0 1 0 [e]
    ∧ (getPart s 0 0).queue.length + (getPart s 0 0).reserved.length + [e].length ≤ 64
    ∧ (∀ x ∈ [e], tileLegal s 0 0 (loopWord s 0 0 x.word 0 1) = true) ∧ (1 + 1 < m ↔ m = 3) := by
  rcases h with h | h <;> subst h <;> exact ⟨rfl, rfl, by decide, by decide, by decide⟩

/-- A handle with one of two slots filled. -/
def h1 : Handle := { base := 0x800, size := 1024, n := 2, p := 1, pe := 1 }

/-- ADV and TWAIT on either side, by 1 and by 2. -/
theorem meets_HandleInstructions :
    let t := th3 0x100 1 2
    let s := { tiles [] [(0, h1)] with focus := .thread 1, threads := [(1, t)] }
    Runs s t ∧ NamesHandle s t (t.reg 4) 0 h1 ∧ NamesHandle s t (t.reg 1) 0 h1 ∧ (t.reg 2).toNat ≤ 16 ∧ (t.reg 3).toNat ≤ 16 ∧ Fenced t
    ∧ (sextNat 16 (h1.ce + (t.reg 2).toNat + 65536 - h1.p) : Int) ≤ 0 ∧ ¬((sextNat 16 (h1.ce + (t.reg 3).toNat + 65536 - h1.p) : Int) ≤ 0)
    ∧ countDiff (h1.pe + (t.reg 2).toNat) h1.c ≤ h1.n ∧ (t.reg 3).toNat ≤ h1.n ∧ (t.reg 2).toNat ≤ h1.free ∧ h1.free < (t.reg 3).toNat
    ∧ (t.reg 2).toNat ≤ h1.filled ∧ h1.filled < (t.reg 3).toNat :=
  ⟨⟨⟨⟨rfl, rfl⟩, rfl, rfl⟩, rfl, rfl⟩, by unfold NamesHandle; decide, by unfold NamesHandle; decide, by decide, by decide, ⟨rfl, rfl, rfl⟩, by decide⟩

/-- HDEF of handle 1 at the first byte after the constant window, and 32 bytes before it. -/
theorem meets_HandleInstructions_hdef :
    let t := th3 1 0x104000800 0x1040007E0
    let s := at1 t
    let ok := fun y : Nat => (t.reg 1).toNat < 32 ∧ inHandles s 0 0 (t.reg 1).toNat = true ∧ y / 2 ^ 32 ≤ 16 ∧ 1 ≤ y / 2 ^ 32
      ∧ y % 2 ^ 16 % 32 = 0 ∧ 0x800 ≤ y % 2 ^ 16 ∧ y / 2 ^ 16 % 2 ^ 16 % 32 = 0 ∧ y / 2 ^ 16 % 2 ^ 16 ≠ 0
      ∧ y % 2 ^ 16 + y / 2 ^ 16 % 2 ^ 16 * (y / 2 ^ 32) ≤ viewSize s 0
    Runs s t ∧ ok (t.reg 2).toNat ∧ handleFree (getPart s 0 0) (t.reg 1).toNat = true ∧ ¬ok (t.reg 3).toNat :=
  ⟨runs3 _ _ _, by decide⟩

/-- A word that names nothing; a ticket of an unfinished command, and its promise, ahead and in the past. -/
theorem meets_PromisesAndStatus :
    let t := th3 0x8000000000000000 9 0x100000000000000
    let s := { tiles [ent 0] [] with focus := .thread 1, threads := [(1, t)] }
    let x := { ctx1 with vtSince := some 0 }
    let late := { s with cycle := 10, ctxs := [(1, x)] }
    Runs s t ∧ getCtx s t.ctx = some ctx1 ∧ namedCommand (getPart s 0 0) (t.reg 3) = none ∧ namedCommand (getPart s 0 0) (t.reg 1) = some (ent 0)
    ∧ (t.reg 1).getLsbD 63 = true ∧ namedCommand (getPart s 0 0) (t.reg 2) = some (ent 0) ∧ (getPart s 0 0).loop = .idle
    ∧ (t.reg 2).getLsbD 63 = false ∧ t.trapc = 0 ∧ ctx1.det = false ∧ vtimeOf s ctx1 ≤ (t.reg 2).toNat % 2 ^ 56 ∧ Runs late t
    ∧ getCtx late t.ctx = some x ∧ namedCommand (getPart late 0 0) (t.reg 2) = some (ent 0) ∧ (getPart late 0 0).loop = .idle ∧ x.det = false
    ∧ (t.reg 2).toNat % 2 ^ 56 < vtimeOf late x ∧ x.tvec = some 0x100 :=
  ⟨⟨⟨⟨rfl, rfl⟩, rfl, rfl⟩, rfl, rfl⟩, rfl, by decide, by decide, by decide, by decide, rfl, by decide, rfl, rfl, by decide,
    ⟨⟨⟨rfl, rfl⟩, rfl, rfl⟩, rfl, rfl⟩, rfl, by decide, rfl, rfl, by decide, rfl⟩

/-- A promise that is missed while its thread waits. -/
theorem meets_PromisesAndStatus_missed :
    let t := { th with wait := .until (.cmdDone 0 (some 9)) }
    let x := { ctx1 with vtSince := some 0 }
    let s := { tiles [ent 0] [] with focus := .op 1 5, cycle := 10, ctxs := [(1, x)], threads := [(1, t)] }
    Ahead s t ∧ getCtx s t.ctx = some x ∧ s.focus = .op t.id t.op ∧ getThread s t.id = some t
    ∧ ((getPart s 0 0).queue.find? fun y => y.seq == (ent 0).seq) = some (ent 0) ∧ x.tvec = some 0x100 ∧ 9 < vtimeOf s x :=
  ⟨⟨rfl, rfl⟩, rfl, rfl, rfl, by decide, rfl, by decide⟩

def h0 : Handle := { base := 0x800, size := 1024, n := 2 }

theorem head0 (c : Tcw) (op : Nat) (h : ∀ i ∈ tileHandles op c, i = 0) : AtHead (tiles [ent 0] [(0, h0)]) 0 0 op c (ent 0) :=
  ⟨rfl, rfl, rfl, fun i hi => by rw [h i hi]; decide⟩

theorem tile0 (n : Nat) (hn : n ≤ 1024) : TileIn (tiles [ent 0] [(0, h0)]) 0 0 0 0 n (memRead [] 0x800 n) := ⟨hn, by decide, rfl, rfl⟩

/-- VADD of 64 int8 elements whose three handles are one; the same where the slots hold 32 bytes. -/
theorem meets_VectorCommands :
    let s := tiles [ent 0] [(0, h0)]
    let small := tiles [ent 0] [(0, { h0 with size := 32 })]
    vecForm (.vadd tcw0) = some (0x30, tcw0, 64, 64, 0, 64, 1) ∧ AtHead s 0 0 0x30 tcw0 (ent 0) ∧ TileIn s 0 0 0 tcw0.hA.toNat 64 (memRead [] 0x800 64)
    ∧ TileIn s 0 0 0 tcw0.hB.toNat 64 (memRead [] 0x800 64) ∧ 64 ≤ (getHandle (getPart s 0 0) tcw0.dst.toNat).size
    ∧ small.focus = .part 0 0 ∧ ((getPart small 0 0).queue.find? fun x => !x.started) = some (ent 0)
    ∧ (getRegion small (regionOf 0)).clock = 1300 ∧ (∀ h ∈ tileHandles 0x30 tcw0, (getHandle (getPart small 0 0) h).n ≠ 0)
    ∧ getCtx small (getPart small 0 0).owner = some ctx1 ∧ ctx1.fault = none ∧ (getPart small 0 0).dead = none
    ∧ (getHandle (getPart small 0 0) tcw0.hA.toNat).size < 64 :=
  ⟨rfl, head0 _ _ (by decide), tile0 _ (by decide), tile0 _ (by decide), by decide⟩

/-- VFMA with its third tile, VRED with no output, VSCL with its scales, VTRN of 1,024 elements. -/
theorem meets_VectorCommands_others :
    let s := tiles [ent 0] [(0, h0)]
    let c := { tcw0 with q2 := 0x1800 }
    vecForm (.vfma tcw0) = some (0x33, tcw0, 64, 64, 64, 64, 1) ∧ AtHead s 0 0 0x33 tcw0 (ent 0)
    ∧ TileIn s 0 0 0 (handleC tcw0) 64 (memRead [] 0x800 64) ∧ vecForm (.vred tcw0) = some (0x40, tcw0, 64, 0, 0, 0, 9)
    ∧ AtHead s 0 0 0x40 tcw0 (ent 0) ∧ vecForm (.vscl c) = some (0x43, c, 64, 0, 0, 64, 1) ∧ AtHead s 0 0 0x43 c (ent 0)
    ∧ (ownBytes s 0 0 c.q2 (ceilDiv (vecLen c) (2 ^ tagBlog c.q2))).isSome = true :=
  ⟨rfl, head0 _ _ (by decide), tile0 _ (by decide), rfl, head0 _ _ (by decide), rfl, head0 _ _ (by decide), by decide⟩

theorem meets_VectorBits :
    let s := tiles [ent 0] [(0, h0)]
    let c := { tcw0 with count := 16 }
    let d := { tcw0 with count := 129 }
    vecForm (.vtrn c) = some (0x41, c, 1024, 0, 0, 1024, 32) ∧ AtHead s 0 0 0x41 c (ent 0)
    ∧ TileIn s 0 0 0 c.hA.toNat 1024 (memRead [] 0x800 1024) ∧ 1024 ≤ (getHandle (getPart s 0 0) c.dst.toNat).size ∧ c.fmtA = 8 ∧ c.fmtOut = 8
    ∧ 64 * (c.count.toNat % 64) = 1024 ∧ vecForm (.vsel tcw0) = some (0x3C, tcw0, 64, 64, 64, 64, 1) ∧ AtHead s 0 0 0x3C tcw0 (ent 0)
    ∧ TileIn s 0 0 0 tcw0.hA.toNat 64 (memRead [] 0x800 64) ∧ TileIn s 0 0 0 tcw0.hB.toNat 64 (memRead [] 0x800 64)
    ∧ TileIn s 0 0 0 (handleC tcw0) 64 (memRead [] 0x800 64) ∧ 64 ≤ (getHandle (getPart s 0 0) tcw0.dst.toNat).size ∧ tcw0.fmtB = 8
    ∧ vecForm (.vcmp d) = some (0x3B, d, 64, 64, 0, 64, 1) ∧ AtHead s 0 0 0x3B d (ent 0) ∧ d.count.toNat / 64 = 2 :=
  ⟨rfl, head0 _ _ (by decide), tile0 _ (by decide), by decide, rfl, rfl, by decide, rfl, head0 _ _ (by decide), tile0 _ (by decide),
    tile0 _ (by decide), tile0 _ (by decide), by decide, rfl, rfl, head0 _ _ (by decide), by decide⟩

/-- MMA of one block of 32, and MMAS with groups that keep the elements 0 and 1. -/
theorem meets_MatrixCommands :
    let s := tiles [ent 0] [(0, h0)]
    let groups := { s with cores := [(0, { side := (List.range 512).map fun b => (b, 0x44) })] }
    matForm (.mma tcw0) = some (0x10, tcw0, false) ∧ AtHead s 0 0 0x10 tcw0 (ent 0) ∧ tcw0.q2 = 0 ∧ tcw0.q3 = 0 ∧ tcw0.flags = 0
    ∧ blocked (getPart s 0 0).queue (ent 0) = false ∧ TileIn s 0 0 0 tcw0.hA.toNat (tileBytes tcw0.fmtA.toNat 1024) (memRead [] 0x800 1024)
    ∧ TileIn s 0 0 0 tcw0.hB.toNat (tileBytes tcw0.fmtB.toNat 1024) (memRead [] 0x800 1024) ∧ matForm (.mmas tcw0) = some (0x11, tcw0, true)
    ∧ AtHead groups 0 0 0x11 tcw0 (ent 0) ∧ tcw0.count.toNat ≤ 4 ∧ (0x44 : Nat) % 4 < 0x44 / 4 % 4 ∧ (0x44 : Nat) / 16 % 4 < 0x44 / 64 % 4 :=
  ⟨rfl, head0 _ _ (by decide), rfl, rfl, rfl, by decide, tile0 _ (by decide), tile0 _ (by decide), rfl, ⟨rfl, rfl, rfl, by decide⟩, by decide⟩

/-- An MMA behind one that is not complete. -/
theorem meets_MatrixCommands_late :
    let f := { ent (packTcw 0x10 tcw0) with started := true, finish := some 40 }
    let e := { ent (packTcw 0x10 tcw0) with seq := 1 }
    let s := tiles [f, e] [(0, h0)]
    AtHead s 0 0 0x10 tcw0 e ∧ tcw0.q2 = 0 ∧ tcw0.q3 = 0 ∧ blocked (getPart s 0 0).queue e = true ∧ AtHead s 0 0 0x22 tcw0 e
    ∧ AtHead s 0 0 0x23 tcw0 e :=
  ⟨⟨rfl, by decide, rfl, by decide⟩, rfl, rfl, by decide, ⟨rfl, by decide, rfl, by decide⟩, ⟨rfl, by decide, rfl, by decide⟩⟩

/-- The accumulator commands. -/
theorem meets_MatrixCommands_acc :
    let s := tiles [ent 0] [(0, h0)]
    let c := { tcw0 with q2 := 0x1800 }
    AtHead s 0 0 0x18 tcw0 (ent 0) ∧ TileIn s 0 0 0 tcw0.hA.toNat 512 (memRead [] 0x800 512) ∧ AtHead s 0 0 0x20 tcw0 (ent 0)
    ∧ AtHead s 0 0 0x21 tcw0 (ent 0) ∧ TileIn s 0 0 0 tcw0.hA.toNat (tileBytes tcw0.fmtA.toNat 1024) (memRead [] 0x800 1024)
    ∧ AtHead s 0 0 0x22 tcw0 (ent 0) ∧ blocked (getPart s 0 0).queue (ent 0) = false
    ∧ tileBytes 8 1024 ≤ (getHandle (getPart s 0 0) tcw0.dst.toNat).size ∧ AtHead s 0 0 0x23 c (ent 0)
    ∧ getCtx s (getPart s 0 0).owner = some ctx1 ∧ (segCheck ctx1 c.q2 32 32 rightW).toOption = some 0x1800 ∧ homeOf s 1 0 0 0x1800 ≠ .none
    ∧ tileBytes 8 (1024 * c.count.toNat) ≤ (getHandle (getPart s 0 0) c.dst.toNat).size :=
  ⟨head0 _ _ (by decide), tile0 _ (by decide), head0 _ _ (by decide), head0 _ _ (by decide), tile0 _ (by decide), head0 _ _ (by decide), by decide,
    by decide, head0 _ _ (by decide), rfl, by decide⟩

theorem meets_MatrixProduct : AtHead (tiles [ent 0] [(0, h0)]) 0 0 0x12 tcw0 (ent 0) ∧ tcw0.fmtA = 8 ∧ tcw0.fmtB = 8 ∧ tcw0.q2 = 0 ∧ tcw0.q3 = 0
    ∧ tcw0.flags = 0 ∧ 1 ≤ tcw0.count.toNat ∧ tcw0.count.toNat ≤ 32
    ∧ TileIn (tiles [ent 0] [(0, h0)]) 0 0 0 tcw0.hA.toNat (32 * (32 * 1)) (memRead [] 0x800 1024)
    ∧ TileIn (tiles [ent 0] [(0, h0)]) 0 0 0 tcw0.hB.toNat (32 * (32 * 1)) (memRead [] 0x800 1024) :=
  ⟨head0 _ _ (by decide), rfl, rfl, rfl, rfl, rfl, by decide, by decide, tile0 _ (by decide), tile0 _ (by decide)⟩

/-- A copy of one row of 64 bytes inside the scratchpad (addresses 0x1800 and 0x2000). -/
def copy0 : Tcw := { tcw0 with win := 0, wout := 0, count := 0, q1 := 0x1800, q2 := 0x2000, q3 := 64 <<< 42 }

/-- The copy forms, and the three commands that complete at once. -/
theorem meets_OtherCommands :
    let s := tiles [ent 0] [(0, h0)]
    let gath := { copy0 with q3 := 64 <<< 42 ||| 0x1800 }
    let cast := { copy0 with q2 := pa 6 0x2000, q3 := 1 <<< 56 ||| 1 <<< 48 ||| 64 <<< 24 }
    AtHead s 0 0 0x50 copy0 (ent 0) ∧ copyFieldsOk 0x50 copy0 = true ∧ copyIndex s 0 0 0x50 copy0 = some [] ∧ AtHead s 0 0 0x51 copy0 (ent 0)
    ∧ copyFieldsOk 0x51 copy0 = true ∧ (copyIndex s 0 0 0x51 copy0).isSome = true ∧ AtHead s 0 0 0x52 gath (ent 0) ∧ copyFieldsOk 0x52 gath = true
    ∧ (copyIndex s 0 0 0x52 gath).isSome = true ∧ AtHead s 0 0 0x53 gath (ent 0) ∧ copyFieldsOk 0x53 gath = true
    ∧ (copyIndex s 0 0 0x53 gath).isSome = true ∧ AtHead s 0 0 0x54 cast (ent 0) ∧ copyFieldsOk 0x54 cast = true
    ∧ (copyIndex s 0 0 0x54 cast).isSome = true ∧ AtHead s 0 0 0x55 copy0 (ent 0) ∧ copyFieldsOk 0x55 copy0 = true
    ∧ (copyIndex s 0 0 0x55 copy0).isSome = true ∧ AtHead s 0 0 0x01 copy0 (ent 0) ∧ AtHead s 0 0 0x61 copy0 (ent 0)
    ∧ AtHead s 0 0 0x71 copy0 (ent 0) :=
  ⟨head0 _ _ (by decide), by decide, by decide, head0 _ _ (by decide), by decide, by decide, head0 _ _ (by decide), by decide, by decide,
    head0 _ _ (by decide), by decide, by decide, head0 _ _ (by decide), by decide, by decide, head0 _ _ (by decide), by decide, by decide,
    head0 _ _ (by decide), head0 _ _ (by decide), head0 _ _ (by decide)⟩

/-- QTLD, and TSIG of a quad and of an advance. -/
theorem meets_OtherCommands_signals :
    let s := tiles [ent 0] [(0, h0)]
    let s1 := tiles [ent 0] [(0, h1)]
    let c := { copy0 with flags := 1, q1 := 0x100, q2 := 1 }
    AtHead s 0 0 0x60 copy0 (ent 0) ∧ tileAddr s 0 0 (q1dev copy0) copy0.q1 0 16 16 rightR = some 0x1800 ∧ homeOf s 1 0 0 0x1800 = .scratch 0 0x1800
    ∧ poisoned s (scratchKey 0 0x1800) 16 = false ∧ AtHead s 0 0 0x70 copy0 (ent 0) ∧ copy0.flags.getLsbD 0 = false
    ∧ tileAddr s 0 0 (q1dev copy0) copy0.q1 0 8 8 rightW = some 0x1800 ∧ inWindow s 0 0 0x1800 = false ∧ c.flags.getLsbD 0 = true
    ∧ AtHead s1 0 0 0x70 c (ent 0) ∧ c.q1.toNat < 512 ∧ c.q1.toNat / 32 % 8 = 0 ∧ holds s1 1 0 0 = true ∧ inHandles s1 0 0 (c.q1.toNat % 32) = true
    ∧ advance (getHandle (getPart s1 0 0) (c.q1.toNat % 32)) (bitAt c.q1.toNat 8) c.q2.toNat = some { h1 with c := 1, ce := 1 } :=
  ⟨head0 _ _ (by decide), by decide, by decide, by decide, head0 _ _ (by decide), by decide, by decide, by decide, by decide,
    ⟨rfl, rfl, rfl, by decide⟩, by decide⟩

/-- A VADD whose unit is done, alone in its queue. -/
theorem meets_TileCompletes :
    let e := { ent 0x3000100208900111#256 with started := true, finish := some 0, outBytes := [(0x800, [1, 2])] }
    let s := { tiles [e] [(0, h0)] with focus := .cmd 0 0 0 }
    Canonical s ∧ s.focus = .cmd 0 0 e.seq ∧ ((getPart s 0 0).queue.find? fun x => x.seq == e.seq) = some e ∧ e.started = true ∧ e.finish = some 0
    ∧ 0 ≤ s.cycle ∧ e.allRead = true ∧ (getPart s 0 0).stopCycle = none ∧ e.outDev = [] ∧ e.unacked = 0
    ∧ blocked (getPart s 0 0).queue e = false ∧ e.outBytes = [(0x800, [1, 2])] ∧ (∀ x ∈ (getPart s 0 0).queue, x.cost = 0)
    ∧ ((getCore s 0).acc.map (·.1)).Pairwise (· < ·) ∧ (∀ r ∈ e.outAcc, r.2.length = 1024) ∧ (e.outAcc.map (·.1)).Nodup :=
  ⟨⟨rfl, List.pairwise_singleton _ _, List.pairwise_singleton _ _⟩, rfl, by decide, rfl, rfl, by decide, rfl, rfl, rfl, rfl, by decide, rfl,
    by decide, List.Pairwise.nil, by decide, by decide⟩

/-- A running copy at its one line. -/
def running (op : Nat) : QEntry := { ent (packTcw op copy0) with started := true, allRead := false }

/-- The one line of a ZERO and of a COPY. -/
theorem meets_CopyLines (op : Nat) (h : op = 0x50 ∨ op = 0x55) :
    let e := running op
    let s := { tiles [e] [(0, h0)] with focus := .cmd 0 0 0 }
    let c := tcwOf e.word
    s.focus = .cmd 0 0 e.seq ∧ ((getPart s 0 0).queue.find? fun x => x.seq == e.seq) = some e ∧ e.started = true ∧ e.allRead = false
    ∧ e.reading = false ∧ e.parked = false ∧ e.carry = [] ∧ (getPart s 0 0).stopCycle = none
    ∧ e.next % 2 ^ 24 < (copyGeom (tileOpcode e.word) c).dbytes ∧ duskDue s (getPart s 0 0).owner = false
    ∧ (∀ n, unackedTo (getCore s 0) n < 255) ∧ dstRow s 0 0 (tileOpcode e.word) c e (e.next / 2 ^ 24) = some [0x2000]
    ∧ tileOpcode e.word = op ∧ c.fmtA = c.fmtOut ∧ (op = 0x50 → srcRow s 0 0 op c e (e.next / 2 ^ 24) = some 0x1800)
    ∧ (0x1800 + e.next % 2 ^ 24) % 64 = (0x2000 + e.next % 2 ^ 24) % 64 ∧ homeOf s (getPart s 0 0).owner 0 0 0x1800 = .scratch 0 0x1800
    ∧ poisoned s (scratchKey 0 0x1800) 64 = false ∧ ∀ n, ∀ x ∈ (getCore s n).shadows, x.held = [] := by
  rcases h with h | h <;> subst h <;>
    exact ⟨rfl, by decide, rfl, rfl, rfl, rfl, rfl, rfl, by decide, by decide, fun n => by simp [unackedTo, getCore, tiles, at1, fetchBase, State.reset, tblGet],
      by decide, by decide, by decide, by decide, by decide, by decide, by decide,
      fun n x hx => by simp [getCore, tiles, at1, fetchBase, State.reset, tblGet] at hx⟩

/-- An advance within the slots, and one past them. -/
theorem meets_CopyLines_advance :
    let q : AdvPkt := { src := 1, part := 0, seq := 0, ctx := 1, dst := 0, h := 0, consume := false, n := 2 }
    let s := tiles [] [(0, h0)]
    q.dev = none ∧ descheduled s q.ctx = false ∧ (getPart s 0 0).stopCycle = none ∧ holds s 1 0 0 = true ∧ inHandles s 0 0 q.h = true
    ∧ (advance (getHandle (getPart s 0 0) q.h) q.consume q.n).isSome = true
    ∧ advance (getHandle (getPart s 0 0) q.h) q.consume 3 = none := by decide

/-! Launches and graphs: partition 0 of region 0 belongs to virtual device 0, in whose quantum it runs. -/

def sched (t : Thread) : State :=
  { at1 t with sets := [{ rx := 0, ry := 0, rw := 1, rh := 1, n := 1, holder := 0, entries := [⟨0, 0, 1, 0, 16, 16⟩], turns := [], raw := [] }],
               vds := [(0, {})] }

/-- A launch record of one core (0, 0): accord 9, code of 8 bytes at commons address 0x400, no trap vector, one level of one tile. -/
def rec1 : List Byte :=
  quadBytes [0x0001_0000_0000_0009, 0x0030_0000_0000_0400, 0x8_FFFF_0000] ++ List.replicate 232 0 ++ quadBytes [0x1_0000_0100] ++ List.replicate 56 0

def recDa : Nat := 3 * 2 ^ 52

def deep (t : Thread) (sys : Bool) : State :=
  { sched t with ctxs := [(1, { ctx1 with sys := sys })], parts := [(0, { owner := 1, accTab := [{ tabOf 1 false with acc := 9 }] })],
                 regions := [(9, { dir := [(9, { isOpen := true, owner := 1, vd := some 0 })] })] }

/-- The thread at its record with stage `n` read. -/
def launcher (bs : List Byte) (n : Nat) : Thread := { th3 (pa 2 0) 0 0 with wait := .gathered bs n }

theorem ok_of {e : Except Nat Nat} {v : Nat} (h : e.toOption = some v) : e = .ok v := by
  cases e <;> simp_all [Except.toOption]

theorem ahead_sched (s : State) (t : Thread) (h : s.sets = (sched th).sets) (c : t.core = 0) (p : t.part = 0) (pc : t.pc = 0) (m : t.mism = none) :
    Ahead s t := by
  refine ⟨m, ?_⟩
  rw [c, p, pc]
  have e : partCount s 0 = 1 := by simp only [partCount, psetOf, h]; decide
  simp [inSlice, sliceBase, sliceSize, e]

theorem deep_ready (bs : List Byte) (n : Nat) :
    let t := launcher bs n
    Fenced t ∧ t.kept = [] ∧ t.place ≠ .engine ∧ getCtx (deep t false) t.ctx = some { ctx1 with sys := false } ∧ logging ctx1 = false
    ∧ replaying ctx1 = false ∧ Acts (deep t false) t ∧ Ahead (deep t false) t ∧ t.wait = .gathered bs n
    ∧ segCheck ctx1 (t.reg 1) 320 64 rightR = .ok recDa ∧ segCheck ctx1 (t.reg 1) 64 64 rightR = .ok recDa :=
  ⟨⟨rfl, rfl, rfl⟩, rfl, nofun, rfl, rfl, rfl, ⟨rfl, rfl⟩, ahead_sched _ _ rfl rfl rfl rfl rfl, rfl,
    ok_of (by decide : (segCheck ctx1 (pa 2 0) 320 64 rightR).toOption = some recDa),
    ok_of (by decide : (segCheck ctx1 (pa 2 0) 64 64 rightR).toOption = some recDa)⟩

/-- LNCH and SNAP at their first line. -/
theorem meets_LaunchForms :
    let t := th3 (pa 2 0) 0 0
    Fenced t ∧ t.kept = [] ∧ t.place ≠ .engine ∧ getCtx (at1 t) t.ctx = some ctx1 ∧ logging ctx1 = false ∧ replaying ctx1 = false
    ∧ Issues (at1 t) t 0 ∧ segCheck ctx1 (t.reg 1) 320 64 rightR = .ok recDa ∧ segCheck ctx1 (t.reg 1) 64 64 rightR = .ok recDa :=
  ⟨⟨rfl, rfl, rfl⟩, rfl, nofun, rfl, rfl, rfl, ⟨⟨rfl, rfl⟩, rfl, rfl⟩, ok_of (by decide), ok_of (by decide)⟩

/-- A good record proposed (its thread is `launcher rec1 2`, its rest is read as that of `launcher rec1 1`); refused forms of it: shorter
code, a closed accord, a system context, a block without an entry. -/
theorem meets_LaunchForms_ends :
    let s := deep (launcher rec1 2) false
    let t := launcher rec1 2
    let e := { tabOf 1 false with acc := 9 }
    recLen (recNk rec1) = 320 ∧ recordOk s recDa rec1 = true ∧ recordOk s recDa (rec1.set 20 2) = false ∧ recAccord rec1 = 9
    ∧ (dirGet s 9).vd = some 0 ∧ (dirGet (sched t) 9).vd = none ∧ recordOk (sched t) recDa rec1 = true ∧ usable s t 9 = true
    ∧ recSys rec1 = false ∧ recSys (rec1.set 7 0x80) = true ∧ recordOk s recDa (rec1.set 7 0x80) = true ∧ recAccord (rec1.set 7 0x80) = 9
    ∧ blockPart s 0 rec1 = some 0 ∧ ((getPart s t.core t.part).accTab.find? fun y => y.acc == 9) = some e
    ∧ (∀ n, governing e.qa e.qb n = qOf 1) ∧ (qOf 1).members ≠ [] ∧ ∀ m ∈ (qOf 1).members, m.1 = s.dev.id :=
  ⟨by decide, by decide, by decide, by decide, by decide, by decide, by decide, by decide, by decide, by decide, by decide, by decide, by decide,
    by decide, fun _ => rfl, by decide, by decide⟩

/-- No entry of the schedule names virtual device 0. -/
theorem meets_LaunchForms_config :
    let t := launcher rec1 2
    let s := { deep t false with sets := (at1 t).sets }
    Fenced t ∧ t.kept = [] ∧ t.place ≠ .engine ∧ getCtx s t.ctx = some { ctx1 with sys := false } ∧ Acts s t ∧ Ahead s t
    ∧ recordOk s recDa rec1 = true ∧ (dirGet s (recAccord rec1)).vd = some 0 ∧ usable s t (recAccord rec1) = true ∧ recSys rec1 = false
    ∧ blockPart s 0 rec1 = none :=
  ⟨⟨rfl, rfl, rfl⟩, rfl, nofun, rfl, ⟨rfl, rfl⟩, ahead_of _ _ rfl rfl rfl rfl rfl, by decide, by decide, by decide, by decide, by decide⟩

/-- An image of one segment of sixteen bytes in the commons, to the pages above. -/
def imgJob : ImageJob := { epoch := 1, req := 1, label := 0, dest := 4 * 2 ^ 52, tid := 1, cyc := 0, vt := 0, todo := [(0, 0)] }

/-- SNAP of segment 0 with its block read: bad, while an image is made, and in a control accord of one member. -/
theorem meets_LaunchForms_snap :
    let bs := quadBytes [1, 1 <<< 53] ++ List.replicate 48 0
    let t := launcher bs 1
    let ctl := controlAcc (at1 t) (trapQueueOf (at1 t) t.core t.part)
    let s := { at1 t with regions := [(0, { accs := [{ cfg0 with acc := ctl, qa := qOf 1 }] })] }
    let img := { at1 t with ctxs := [(1, { ctx1 with image := some imgJob })] }
    Fenced t ∧ t.kept = [] ∧ t.place ≠ .engine ∧ getCtx s t.ctx = some ctx1 ∧ Acts s t ∧ Ahead s t ∧ snapOk ctx1 [] = false
    ∧ snapOk ctx1 bs = true ∧ ctx1.image = none ∧ accordView s ctl = some (0, { cfg0 with acc := ctl, qa := qOf 1 })
    ∧ (∀ n, governing (qOf 1) none n = qOf 1) ∧ Acts img t ∧ Ahead img t :=
  ⟨⟨rfl, rfl, rfl⟩, rfl, nofun, rfl, ⟨rfl, rfl⟩, ahead_of _ _ rfl rfl rfl rfl rfl, by decide, by decide, rfl, by decide, fun _ => rfl,
    ⟨rfl, rfl⟩, ahead_of _ _ rfl rfl rfl rfl rfl⟩

/-- A device on which the record stands at commons address 0 (its nonzero bytes), decided in slot 0. -/
def launchable : State :=
  { sched th with threads := [], ctxs := [], parts := [], vds := [(0, { decided := [(0, BitVec.ofNat 64 recDa)] })],
                  mem := [(0, 9), (6, 1), (9, 4), (14, 0x30), (18, 0xFF), (19, 0xFF), (20, 8), (257, 1), (260, 1)].map fun b => (commonsKey 0 0 + b.1, b.2) }

/-- Its record is good and nothing holds it up; with its code length spoilt it is refused; a held core makes it wait. -/
theorem meets_LaunchStarts : Canonical launchable
    ∧ tblFind (getVd launchable 0).decided (getVd launchable 0).next = some (BitVec.ofNat 64 recDa)
    ∧ ((getVd launchable 0).decided.map (·.1)).Pairwise (· < ·)
    ∧ ((readRecord launchable 0 recDa).any fun bs => recordWhy launchable 0 recDa bs == 0 && blockPart launchable 0 bs == some 0
        && !mustWait launchable 0 0 bs && (readImage launchable 0 bs).isSome && recCores bs == [(0, 0, 0)] && !bitAt (recQ bs 0) 61) = true
    ∧ firstFree (launchable.ctxs.map (·.1)) 65535 1 = some 1 :=
  ⟨⟨by decide, List.Pairwise.nil, List.Pairwise.nil⟩, by decide, List.pairwise_singleton _ _, by decide +kernel, by decide⟩

theorem meets_LaunchStarts_waits :
    let s := { launchable with parts := [(0, { owner := 2 })] }
    Canonical s ∧ tblFind (getVd s 0).decided (getVd s 0).next = some (BitVec.ofNat 64 recDa) ∧ ((getVd s 0).decided.map (·.1)).Pairwise (· < ·)
    ∧ ((readRecord s 0 recDa).any fun bs => recordWhy s 0 recDa bs == 0 && blockPart s 0 bs == some 0 && mustWait s 0 0 bs) = true :=
  ⟨⟨by decide, List.Pairwise.nil, List.Pairwise.nil⟩, by decide, List.pairwise_singleton _ _, by decide +kernel⟩

/-- Its code is 0 bytes long. -/
theorem meets_LaunchStarts_bad :
    let s := { launchable with mem := launchable.mem.filter fun b => b.1 != commonsKey 0 20 }
    Canonical s ∧ tblFind (getVd s 0).decided (getVd s 0).next = some (BitVec.ofNat 64 recDa) ∧ ((getVd s 0).decided.map (·.1)).Pairwise (· < ·)
    ∧ ((readRecord s 0 recDa).any fun bs => recordWhy s 0 recDa bs == 1) = true :=
  ⟨⟨by decide, List.Pairwise.nil, List.Pairwise.nil⟩, by decide, List.pairwise_singleton _ _, by decide +kernel⟩

def ctxDone : Ctx := { ctx1 with done := 3 * 2 ^ 52 + 0x7EFFF8 }

/-- Context 1 without threads. -/
def ended (x : Ctx) : State := { at1 th with threads := [], focus := .ctx 1, ctxs := [(1, x)] }

/-- A context without threads: work left in its queue, a completion word to write, none. -/
theorem meets_LaunchEnds_busy :
    let s := { tiles [ent 0] [] with threads := [], focus := .ctx 1 }
    Canonical s ∧ s.focus = .ctx 1 ∧ getCtx s 1 = some ctx1 ∧ ctx1.life = .running ∧ ctx1.fault = none ∧ ctx1.zeroing = false
    ∧ (∀ e ∈ s.threads, e.2.ctx ≠ 1) ∧ launchBusy s 1 ctx1 = true :=
  ⟨⟨rfl, .nil, List.pairwise_singleton _ _⟩, rfl, rfl, rfl, rfl, rfl, by decide, by decide⟩

theorem meets_LaunchEnds_word :
    let s := ended ctxDone
    Canonical s ∧ s.focus = .ctx 1 ∧ getCtx s 1 = some ctxDone ∧ ctxDone.life = .running ∧ ctxDone.fault = none ∧ ctxDone.zeroing = false
    ∧ (∀ e ∈ s.threads, e.2.ctx ≠ 1) ∧ launchBusy s 1 ctxDone = false ∧ ctxDone.done ≠ 0
    ∧ homeOf s 1 (coreAt ctxDone.ox ctxDone.oy) ctxDone.part ctxDone.done = .commons 0 0x7EFFF8 :=
  ⟨⟨rfl, .nil, List.pairwise_singleton _ _⟩, rfl, rfl, rfl, rfl, rfl, by decide, by decide, by decide, by decide⟩

theorem meets_LaunchEnds_bare :
    let s := ended ctx1
    Canonical s ∧ s.focus = .ctx 1 ∧ getCtx s 1 = some ctx1 ∧ (∀ e ∈ s.threads, e.2.ctx ≠ 1) ∧ launchBusy s 1 ctx1 = false ∧ ctx1.done = 0
    ∧ ctx1.saved = none ∧ graphsOf s ctx1 = [] :=
  ⟨⟨rfl, .nil, List.pairwise_singleton _ _⟩, rfl, rfl, by decide, by decide, rfl, rfl, by decide⟩

/-- One whose cores are being zeroed; nobody's zeroing; the launch engine busy and free; a ring whose head is answered. -/
theorem meets_LaunchEnds_rest :
    let z := ended { ctx1 with zeroing := true }
    let busy := { at1 th with focus := .ring 0, threads := [(engineTid (at1 th), th)] }
    let free := { at1 th with focus := .ring 0 }
    let t := { th with tq := some 1, held := [0] }
    Canonical z ∧ getCtx z 1 = some { ctx1 with zeroing := true } ∧ (z.parts.map (·.1)).Pairwise (· < ·)
    ∧ Canonical { at1 th with focus := .idle } ∧ Canonical busy ∧ (getThread busy (engineTid busy)).isSome = true
    ∧ Canonical free ∧ getThread free (engineTid free) = none ∧ readRecord free (submitVd free 0 (headQuad free 0 0)) (headQuad free 0 0) = none
    ∧ Canonical (at1 t) ∧ Acts (at1 t) t ∧ t.tq = some 1 :=
  ⟨⟨rfl, .nil, List.pairwise_singleton _ _⟩, rfl, by decide, ⟨rfl, List.pairwise_singleton _ _, List.pairwise_singleton _ _⟩,
    ⟨rfl, List.pairwise_singleton _ _, List.pairwise_singleton _ _⟩, by decide, ⟨rfl, List.pairwise_singleton _ _, List.pairwise_singleton _ _⟩,
    by decide, by decide, canonical_at1 _, ⟨rfl, rfl⟩, rfl⟩

/-- A graph descriptor in 64 bytes: rules in segment 1, a pool of 2^4 nodes a core at 0, a bag of one block at 0x20000. -/
def rules1 : List Byte := quadBytes [pa 1 0, 4 <<< 24, 1 <<< 32 ||| 0x20000] ++ List.replicate 40 0

def graph1 : GraphSt := ⟨pa 1 0, 4, 0, 1, 0x20000⟩

/-- The partition has its graph state set. -/
def graphs (t : Thread) (p : Part) : State := { sched t with parts := [(0, { p with owner := 1, graph := some graph1 })] }

/-- A thread at its first word in a partition with its graph state set. -/
theorem graph_runs (t : Thread) (p : Part) (h : t.id = 1) (c : t.core = 0) (q : t.part = 0) (pc : t.pc = 0) (w : t.wait = .ready) (m : t.mism = none) :
    Runs (graphs t p) t :=
  ⟨⟨⟨by rw [h]; rfl, by rw [h]; rfl⟩, w, by simp [guardHolds, Thread.pred, Thread.predWord]⟩, ahead_sched _ _ rfl c q pc m⟩

theorem graph_canonical (t : Thread) (p : Part) : Canonical (graphs t p) :=
  ⟨rfl, List.pairwise_singleton _ _, List.pairwise_singleton _ _⟩

/-- RULES with good rules in the own scratchpad, and with bad ones; no rules. -/
theorem meets_NodePool_rules :
    let t := th3 (pa 0 0x1800) 0 0
    let s := { sched t with mem := [(0x1806, 0x20), (0x180B, 4), (0x1812, 2), (0x1814, 1)] }
    Runs s t ∧ getCtx s t.ctx = some ctx1 ∧ segCheck ctx1 (t.reg 1) 64 64 rightR = .ok 0x1800
    ∧ homeOf s t.ctx t.core t.part 0x1800 = .scratch 0 0x1800 ∧ poisoned s (scratchKey 0 0x1800) 64 = false
    ∧ memRead s.mem (scratchKey 0 0x1800) 64 = rules1 ∧ rulesOk s ctx1 rules1 = true ∧ (getPart s t.core t.part).graph = none
    ∧ rulesOk (sched t) ctx1 (memRead (sched t).mem (scratchKey 0 0x1800) 64) = false :=
  ⟨⟨⟨⟨rfl, rfl⟩, rfl, rfl⟩, ahead_sched _ _ rfl rfl rfl rfl rfl⟩, rfl,
    ok_of (by decide : (segCheck ctx1 (pa 0 0x1800) 64 64 rightR).toOption = some 0x1800), by decide, by decide, by decide, by decide, rfl, by decide⟩

/-- NALLOC of a free node, of the last fresh one, of none. -/
theorem meets_NodePool_alloc :
    let t := { th3 0x0100000000000000 0 0 with uac := 4091 }
    let n := Sys2Proof.Safety.poolNode graph1 0 15
    let listed := graphs t { free := [n] }
    let fresh := graphs t { bump := 15 }
    let none' := graphs t { bump := 16 }
    let busy := { listed with cores := [(0, { lines := [(lineOf listed 1 n, ⟨false, 0, 251, true⟩)] })] }
    Runs listed t ∧ Runs fresh t ∧ Runs none' t ∧ Runs busy t ∧ (getPart listed t.core t.part).graph = some graph1 ∧ 2 ^ 56 ≤ (t.reg 1).toNat
    ∧ (t.reg 1).toNat / 2 ^ 54 % 4 ≠ 3 ∧ t.uac ≤ 4091 ∧ unackedTo (getCore busy t.core) (lineOf busy t.ctx n) = 251
    ∧ homeOf listed t.ctx t.core t.part n ≠ .none ∧ addrClass n = 3 ∧ n % 32 = 0 ∧ (getPart fresh t.core t.part).free = []
    ∧ (getPart fresh t.core t.part).bump < 2 ^ graph1.cl ∧ 2 ^ graph1.cl ≤ (getPart none' t.core t.part).bump :=
  ⟨graph_runs _ _ rfl rfl rfl rfl rfl rfl, graph_runs _ _ rfl rfl rfl rfl rfl rfl, graph_runs _ _ rfl rfl rfl rfl rfl rfl,
    ⟨⟨⟨rfl, rfl⟩, rfl, rfl⟩, ahead_sched _ _ rfl rfl rfl rfl rfl⟩, rfl, by decide, by decide, by decide, by decide, by decide, by decide, by decide,
    by decide, by decide, by decide⟩

/-- NFREE of a node of the arena, live and free at its home; one whose quarantine is over and one whose quarantine is not. -/
theorem meets_NodePool_free :
    let t := { th3 (BitVec.ofNat 64 (3 * 2 ^ 52 + 32)) 0 0 with uac := 4094 }
    let node := 3 * 2 ^ 52 + 32
    let s := graphs t { quarantine := [(node, 0)] }
    let live := { s with mem := [(commonsKey 0 39, 1)] }
    let past := { s with cycle := 4194304, ctxs := [(1, { ctx1 with vtSince := some 0 })] }
    let soon := { past with cycle := 4194303 }
    Runs s t ∧ (t.reg 1).toNat % 2 ^ 56 / 32 * 32 = node ∧ inArena s 1 graph1 node = true ∧ t.uac < 4095
    ∧ unackedTo (getCore s 0) (lineOf s 1 node) < 255 ∧ Canonical live ∧ Canonical s
    ∧ (getPart live 0 0).graph = some graph1 ∧ descheduled live 1 = false ∧ nodeCore graph1 node = 0 ∧ (getPart live 0 0).stopCycle = none
    ∧ poisoned live (commonsKey 0 32) 8 = false ∧ memByte live.mem (commonsKey 0 39) ≠ 0 ∧ memByte s.mem (commonsKey 0 39) = 0
    ∧ ((getPart past 0 0).quarantine.find? fun q => q.1 == node) = some (node, 0)
    ∧ getCtx past (getPart past 0 0).owner = some { ctx1 with vtSince := some 0 } ∧ 0 + 4194304 ≤ vtimeOf past { ctx1 with vtSince := some 0 }
    ∧ vtimeOf soon { ctx1 with vtSince := some 0 } < 0 + 4194304 :=
  ⟨graph_runs _ _ rfl rfl rfl rfl rfl rfl, by decide, by decide, by decide, by decide,
    ⟨by decide, List.pairwise_singleton _ _, List.pairwise_singleton _ _⟩, graph_canonical _ _, rfl, by decide, by decide, rfl, by decide, by decide,
    by decide, by decide, rfl, by decide, by decide⟩

/-- Bags of 0, 1, 191, 192, 255 and 256 entries. -/
theorem meets_PairBag (n : Nat) :
    let s := graphs th { bag := n }
    Canonical s ∧ Runs s th ∧ (getPart s th.core th.part).graph = some graph1 ∧ (getPart s th.core th.part).bag = n
    ∧ (getPart s th.core th.part).bounced = [] ∧ Plain s th ∧ poisoned s (bagKey s 0 0 (n - 1)) 16 = false ∧ (3 : BitVec 4) ≠ 8 ∧ (3 : BitVec 4) ≠ 9 :=
  ⟨graph_canonical _ _, graph_runs _ _ rfl rfl rfl rfl rfl rfl, rfl, rfl, rfl, ⟨ctx1, rfl, rfl, rfl⟩, rfl, by decide, by decide⟩

/-- The bag that spills, into the first block of its region. -/
theorem meets_PairBag_spill :
    let s := graphs th { bag := 192 }
    (getPart s th.core th.part).bag = 192 ∧ bagKey s 0 0 0 + 4096 ≤ 2 ^ 48
    ∧ firstFree (((tblGet [] (getRegion s (regionOf 0)).bags 0).filter fun k => k.boff == graph1.boff).map (·.index)) graph1.bsz 0 = some 0 := by decide

/-- A pair push at the home of its node, which has room or not. -/
theorem meets_PairBag_push (n : Nat) :
    let s := graphs th { bag := n }
    let k : GraphPkt := ⟨1, 5, 1, 0, 0, 3 * 2 ^ 52, 0, 0⟩
    Canonical s ∧ descheduled s k.ctx = false ∧ (getPart s k.src k.part).graph = some graph1 ∧ k.w.getLsbD 2 = false ∧ nodeCore graph1 k.da = 0
    ∧ (getPart s 0 k.part).stopCycle = none ∧ (getPart s 0 k.part).bounced = [] ∧ (getPart s 0 k.part).bag = n :=
  ⟨graph_canonical _ _, rfl, rfl, rfl, rfl, rfl, rfl, rfl⟩

/-- A pair of arena nodes with port 0 in g8 and g9, and in g1 and g2. -/
def pair : Thread :=
  { th with regs := { g1 := BitVec.ofNat 64 (3 * 2 ^ 52), g2 := BitVec.ofNat 64 (3 * 2 ^ 52 + 32), g3 := BitVec.ofNat 64 (3 * 2 ^ 52 + 36),
                      g8 := BitVec.ofNat 64 (3 * 2 ^ 52), g9 := BitVec.ofNat 64 (3 * 2 ^ 52 + 32) } }

/-- REWRITE of the pair, LINK of it, and LINK of two words of different R. -/
theorem meets_Rewriting :
    let s := graphs pair {}
    let ok := fun (w : Word) => w.getLsbD 2 = false ∧ w.toNat % 4 ≠ 3 ∧ nodeOk s pair.ctx pair.part graph1 (w.toNat % 2 ^ 56 / 32 * 32) = true
    (getPart s pair.core pair.part).graph = some graph1 ∧ getCtx s pair.ctx = some ctx1 ∧ Issues s pair 0 ∧ pair.held = [] ∧ Fenced pair
    ∧ ok (pair.reg 8) ∧ ok (pair.reg 9) ∧ (pair.reg 8).toNat % 4 = 0 ∧ (pair.reg 9).toNat % 4 = 0 ∧ ok (pair.reg 1) ∧ ok (pair.reg 2)
    ∧ (pair.reg 1).getLsbD 2 ≠ (pair.reg 3).getLsbD 2 :=
  ⟨rfl, rfl, (graph_runs _ _ rfl rfl rfl rfl rfl rfl).1, rfl, ⟨rfl, rfl, rfl⟩, by decide, by decide, by decide, by decide, by decide, by decide, by decide⟩

/-- Two nodes that name each other, of kinds 2 and 1 (which swap). -/
def both : List Byte :=
  quadBytes [0x0200000000000000, pair.regs.g9, 0, 0, 0x0100000000000000, pair.regs.g8, 0, 0]

/-- Their rules lie in segment 1. -/
theorem meets_Rewriting_nodes :
    let t := { pair with wait := .gathered both 2 }
    let s := graphs t {}
    let kind := fun i => (nodeWord both i).toNat / 2 ^ 56
    (getPart s t.core t.part).graph = some graph1 ∧ getCtx s t.ctx = some ctx1 ∧ Acts s t ∧ t.wait = .gathered both 2 ∧ kind 0 = 2 ∧ kind 4 = 1
    ∧ nodeWord both 1 = t.reg 9 ∧ nodeWord both 5 = t.reg 8
    ∧ segCheck ctx1 (graph1.rtab + BitVec.ofNat 64 (4 * (min (kind 0) (kind 4) * 256 + max (kind 0) (kind 4)))) 4 4 rightR = .ok (4 * 2 ^ 52 + 1032) :=
  ⟨rfl, rfl, ⟨rfl, rfl⟩, rfl, by decide, by decide, by decide, by decide, ok_of (by decide)⟩

/-- Their entry: a rule at 0x40 with E, without and with TP. -/
def entry (tp : Bool) : List Byte := both ++ leBytes 4 (if tp then 0xC0000040 else 0x80000040)

def ruled (tp : Bool) : Thread := { pair with wait := .gathered (entry tp) 3 }

/-- The words that follow from it. -/
def ruleWords (tp : Bool) : List Word := toQuads 8 both ++ [if tp then 0xC0000040 else 0x80000040]

/-- The entry without TP; with TP where the queue has room, and where it is full. -/
theorem meets_Rewriting_entry (tp : Bool) (l : List Nat) :
    let s := graphs (ruled tp) { reserved := l }
    (getPart s (ruled tp).core (ruled tp).part).graph = some graph1 ∧ getCtx s (ruled tp).ctx = some ctx1 ∧ Acts s (ruled tp)
    ∧ (ruled tp).wait = .gathered (entry tp) 3 :=
  ⟨rfl, rfl, ⟨rfl, rfl⟩, rfl⟩

theorem meets_Rewriting_words :
    (∀ tp, ruleWords tp = toQuads 8 ((entry tp).take 64) ++ [BitVec.ofNat 64 (fieldAt (entry tp) 64 4)])
    ∧ (∀ tp, let e := (nth 0 (ruleWords tp) 8).toNat
      bitAt e 31 = true ∧ bitAt e 30 = tp ∧ (nth 0 (ruleWords tp) 0).toNat < 0xF0 * 2 ^ 56 ∧ (nth 0 (ruleWords tp) 4).toNat < 0xF0 * 2 ^ 56)
    ∧ tcmdRoom (getPart (graphs (ruled true) { reserved := List.range' 2 63 }) 0 0) 1 = true
    ∧ tcmdRoom (getPart (graphs (ruled true) { reserved := List.range' 2 64 }) 0 0) 1 = false := by decide

/-- The thread that waited for room, with a node of kind 0xF0. -/
theorem meets_Rewriting_room :
    let q := 0xF000000000000000 :: (ruleWords true).drop 1
    let t := { pair with held := q, wait := .until .tileEntry }
    let s := graphs t {}
    (getPart s t.core t.part).graph = some graph1 ∧ getCtx s t.ctx = some ctx1 ∧ Acts s t ∧ t.wait = .until .tileEntry ∧ t.held = q
    ∧ bitAt (nth 0 q 8).toNat 31 = true ∧ ¬(nth 0 q 0).toNat < 0xF0 * 2 ^ 56 ∧ bitAt (nth 0 q 8).toNat 30 = true
    ∧ tcmdRoom (getPart s t.core t.part) t.id = true :=
  ⟨rfl, rfl, ⟨rfl, rfl⟩, rfl, rfl, by decide, by decide, by decide, by decide⟩

/-- An exchange at a word of an arena node, and the reply to a LINK's last one. -/
theorem meets_Rewriting_link :
    let k : GraphPkt := ⟨1, 5, 1, 0, 0, 3 * 2 ^ 52 + 8, 4, 0⟩
    let l : LinkOp := { a := pair.regs.g1, b := pair.regs.g2, x := pair.regs.g1 ||| 1, y := pair.regs.g2, stage := .joinY }
    let t := { pair with wait := .link l }
    let s := graphs t {}
    let c : Access := ⟨.thread 1, 5, 1, 0, 0, 0, 3 * 2 ^ 52 + 40, 8, 0, .load, none, none⟩
    (getPart s t.core t.part).graph = some graph1 ∧ getCtx s t.ctx = some ctx1 ∧ Canonical s ∧ homeOf s k.ctx k.src k.part k.da = .commons 0 8
    ∧ coreClass k.da = false ∧ poisoned s (commonsKey 0 8) 8 = false ∧ getThread s t.id = some t ∧ t.place ≠ .engine ∧ Alive s t ∧ Ahead s t
    ∧ t.wait = .link l ∧ l.stage = .joinY ∧ l.pushes = [] ∧ l.extra = [] ∧ l.x.toNat % 4 ≠ 0 ∧ c.who = .thread t.id ∧ c.op = t.op
    ∧ (0 : Word).getLsbD 2 = false :=
  ⟨rfl, rfl, graph_canonical _ _, by decide, by decide, by decide, rfl, nofun, rfl, ahead_sched _ _ rfl rfl rfl rfl rfl, rfl, rfl, rfl, rfl,
    by decide, rfl, rfl, by decide⟩

/-! Stops, quanta and pages. -/

def inCtx (t : Thread) (x : Ctx) : State := { at1 t with focus := .ctx 1, ctxs := [(1, x)] }

theorem canonical_inCtx (t : Thread) (x : Ctx) : Canonical (inCtx t x) := ⟨rfl, List.pairwise_singleton _ _, List.pairwise_singleton _ _⟩

/-- A running context with a completion word in the commons, and a descheduled one. -/
theorem meets_GangStop :
    let x := ctxDone
    let y := { ctxDone with life := .descheduled }
    Canonical (inCtx th x) ∧ (inCtx th x).focus = .ctx 1 ∧ getCtx (inCtx th x) 1 = some x ∧ x.zeroing = false ∧ x.life = .running
    ∧ Canonical (inCtx th y) ∧ getCtx (inCtx th y) 1 = some y ∧ y.zeroing = false ∧ y.life = .descheduled :=
  ⟨canonical_inCtx _ _, rfl, rfl, rfl, rfl, canonical_inCtx _ _, rfl, rfl, rfl⟩

/-- One that has ended by a fault or by KILL: without a completion word, and with one, at the last place of the commons, while a packet of
it is on its way and when none is. -/
theorem meets_GangStop_ended (b : Bool) :
    let x := { ctx1 with life := .stopped b }
    let y := { ctxDone with life := .stopped b }
    let s := { inCtx th y with pend := [⟨9, 0, .messageArrival (msgTo 0 1), .idle, none⟩] }
    Canonical (inCtx th x) ∧ getCtx (inCtx th x) 1 = some x ∧ x.zeroing = false ∧ x.life = .stopped b ∧ x.done = 0
    ∧ Canonical s ∧ getCtx s 1 = some y ∧ y.zeroing = false ∧ y.life = .stopped b ∧ y.done ≠ 0 ∧ inTransit s 1 = true
    ∧ Canonical (inCtx th y) ∧ getCtx (inCtx th y) 1 = some y ∧ inTransit (inCtx th y) 1 = false
    ∧ homeOf (inCtx th y) 1 (coreAt y.ox y.oy) y.part y.done = .commons 0 0x7EFFF8 ∧ 0x7EFFF8 + 8 ≤ 0x7F0000 :=
  ⟨canonical_inCtx _ _, rfl, rfl, rfl, rfl, canonical_inCtx _ _, rfl, rfl, rfl, by simp [ctxDone], rfl, canonical_inCtx _ _, rfl, rfl,
    by cases b <;> decide, by decide⟩

def duskCtx : Ctx := { ctx1 with dusk := some 4 }

/-- Context 1 with its dusk cycle, in cycle `n`. -/
def dusk (t : Thread) (n : Nat) (l : List Pend) : State := { inCtx t duskCtx with cycle := n, pend := l }

theorem dusk_ready (t : Thread) (n : Nat) (l : List Pend) : Canonical (dusk t n l) ∧ (dusk t n l).focus = .ctx 1
    ∧ getCtx (dusk t n l) 1 = some duskCtx ∧ duskCtx.dusk = some 4 ∧ duskCtx.life = .running ∧ duskCtx.zeroing = false :=
  ⟨⟨rfl, List.pairwise_singleton _ _, List.pairwise_singleton _ _⟩, rfl, rfl, rfl, rfl, rfl⟩

/-- The cycle before its dusk cycle, and that cycle with a gang stop begun, with a thread in a LINK, and with neither. -/
theorem meets_DuskStop :
    let u := { th with wait := .link { a := 0, b := 0, x := 0, y := 0, stage := .claimA } }
    (dusk th 3 []).cycle < 4 ∧ stopping (dusk th 4 [⟨4, 0, .gangStop, .ctx 1, none⟩]) 1 duskCtx = true
    ∧ 4 ≤ (dusk u 4 []).cycle ∧ stopping (dusk u 4 []) 1 duskCtx = false ∧ busyAtDusk (dusk u 4 []) 1 duskCtx = true
    ∧ stopping (dusk th 4 []) 1 duskCtx = false ∧ busyAtDusk (dusk th 4 []) 1 duskCtx = false
    ∧ ((dusk th 4 []).parts.map (·.1)).Pairwise (· < ·) ∧ getThread (dusk th 4 []) 1 = some th ∧ isSaved 1 th = true
    ∧ isSaved 1 { th with place := .flight } = false ∧ th.wait = .ready :=
  ⟨by decide, by decide, by decide, by decide, by decide, by decide, by decide, by decide, rfl, by decide, by decide, rfl⟩

/-- A set whose partition 0 has two schedule entries, in a turn and at its switch. -/
def set2 (sw : Bool) (left : Nat) : Machine.PSet :=
  { rx := 0, ry := 0, rw := 1, rh := 1, n := 1, holder := 0, entries := [⟨0, 0, 1, 0, 16, 16⟩, ⟨0, 1, 2, 16, 16, 16⟩],
    turns := [(0, { idx := 0, left := left, start := 0, switching := sw })], raw := [] }

def saved1 : Saved := { threads := [(1, th)], parts := [(0, {})] }

def back1 : Ctx := { ctx1 with vd := 1, life := .descheduled, saved := some saved1 }

def turns (sw : Bool) (left : Nat) (x : Ctx) (p : List (Nat × Part)) : State :=
  { at1 th with threads := [], sets := [set2 sw left], ctxs := [(1, x)], parts := p }

/-- Its stop is proposed; by a control accord of this region alone, with a context that has no stop yet. -/
theorem meets_Quanta :
    let a := { cfg0 with acc := controlAcc (turns false 1 ctx1 []) 0, qa := qOf 1 }
    let s := { turns false 1 ctx1 [(0, { owner := 1 })] with regions := [(0, { accs := [a] })] }
    Canonical s ∧ setOf s 0 = some (set2 false 1) ∧ 2 ≤ (entriesOf (set2 false 1) 0).length ∧ (tblGet {} (set2 false 1).turns 0).switching = false
    ∧ findAcc s 0 (controlAcc s 0) = some a ∧ knownDecided a a.front = false ∧ a.darr = 0 ∧ psetOf s 0 = some (set2 false 1)
    ∧ nth (0, 64) (governing a.qa a.qb a.front).members 0 = (s.dev.id, 0) ∧ s.cycle % 2 ^ 60 + 4096 < 2 ^ 60
    ∧ 1 ∈ holdersOf s (set2 false 1) 0 ∧ getCtx s 1 = some ctx1 ∧ ctx1.dusk = none ∧ ctx1.fault = none :=
  ⟨⟨rfl, .nil, List.pairwise_singleton _ _⟩, rfl, by decide, rfl, by decide, rfl, rfl, by decide, by decide, by decide +kernel, by decide, rfl, rfl, rfl⟩

/-- The switch: its turn over, contexts still to stop, the next entry's context back on its core, or that core not free. -/
theorem meets_Quanta_switch :
    let done := turns false 1 ctx1 [(0, { owner := 1 })]
    let stops := turns true 1 ctx1 [(0, { owner := 1 })]
    let back := turns true 0 back1 []
    let held := turns true 0 back1 [(0, { owner := 2 })]
    let inn := fun s => (tenants s (set2 true 0) 0 1).filter fun c => c.2.life == .descheduled
      && inQuantum (setTurn s 0 0 { idx := 1 }) 1 0 (blockCores c.2)
    Canonical done ∧ setOf done 0 = some (set2 false 1) ∧ (entriesOf (set2 false 1) 0)[0]? = some ⟨0, 0, 1, 0, 16, 16⟩
    ∧ (1, ctx1) ∈ tenants done (set2 false 1) 0 0 ∧ ctx1.life = .running ∧ ctx1.dusk = none ∧ stopping done 1 ctx1 = false
    ∧ Canonical stops ∧ setOf stops 0 = some (set2 true 1) ∧ (tblGet {} (set2 true 1).turns 0).switching = true
    ∧ (tblGet {} (set2 true 1).turns 0).left ≠ 0 ∧ Canonical back ∧ setOf back 0 = some (set2 true 0) ∧ (tblGet {} (set2 true 0).turns 0).left = 0
    ∧ (entriesOf (set2 true 0) 0)[1]? = some ⟨0, 1, 2, 16, 16, 16⟩ ∧ inn back = [(1, back1)] ∧ (inn back).all (fun c => coresFree back c.2) = true
    ∧ Canonical held ∧ setOf held 0 = some (set2 true 0) ∧ (inn held).all (fun c => coresFree held c.2) = false ∧ back1.saved = some saved1
    ∧ areaCells back back1 = saved1.area ∧ (saved1.threads.map (·.1)).Pairwise (· < ·) ∧ (∀ e ∈ saved1.threads, e.2.id = e.1) :=
  ⟨⟨rfl, .nil, List.pairwise_singleton _ _⟩, rfl, rfl, by decide, rfl, rfl, rfl, ⟨rfl, .nil, List.pairwise_singleton _ _⟩, rfl, rfl, by decide,
    ⟨rfl, .nil, List.pairwise_singleton _ _⟩, rfl, rfl, rfl, by decide, by decide, ⟨rfl, .nil, List.pairwise_singleton _ _⟩, rfl, by decide, rfl, rfl,
    List.pairwise_singleton _ _, by decide⟩

/-- A packet of context 1 on its way since cycle 0 from core 4, at its last cycle and past it. -/
def late : Pend := ⟨524289, 0, .messageArrival (msgTo 0 1), .idle, some ⟨4, 0, 0, false⟩⟩

/-- A thread, a context, a partition, a router that the packet passes: whether the packet stands in it then is free. -/
theorem meets_DeviceFaults :
    let s := fun n => { at1 th with cycle := n, pend := [late] }
    let c := fun n => { s n with focus := .ctx 1 }
    (∀ n, Acts (s n) th ∧ getCtx (s n) 1 = some ctx1 ∧ (c n).focus = .ctx 1 ∧ getCtx (c n) 1 = some ctx1) ∧ ctx1.fault = none
    ∧ expired (s 524288) th.ctx = true ∧ expired (s 524287) th.ctx = false ∧ expired (c 524288) 1 = true ∧ expired (c 524287) 1 = false
    ∧ (getPart { s 1 with focus := .part 0 0 } 0 0).owner = 1 ∧ ({ s 1 with focus := .core 0 } : State).pend[0]? = some late ∧ passes 0 late = true
    ∧ packetCtx late.what = some 1 :=
  ⟨fun _ => ⟨⟨rfl, rfl⟩, rfl, rfl, rfl⟩, rfl, by decide +kernel, by decide +kernel, by decide +kernel, by decide +kernel, by decide,
    by decide, by decide, rfl⟩

def trapRec (type : Nat) : TrapRec := ⟨0, type, 1, 2, 4, 0, true, 0, 0, 1, 0, 0x1800, 0, 0, true, 9⟩

/-- A record that waits for an empty queue, whose thread has RECPEND, and for one whose next position is in use. -/
theorem meets_TrapQueues :
    let s := { at1 th with trapqs := [(0, { waiting := [trapRec 1] })] }
    let f := { at1 th with trapqs := [(0, { waiting := [trapRec 1], ins := 256, recs := [(0, trapRec 1)] })] }
    Canonical s ∧ (getTrapQ s 0).waiting = [trapRec 1] ∧ (trapRec 1).type ≠ 5 ∧ posInUse (getTrapQ s 0) 0 = false ∧ posInUse (getTrapQ s 0) 1 = false
    ∧ (getTrapQ s 0).window = 0 ∧ getThread s (trapRec 1).tid = some th ∧ th.id = (trapRec 1).tid
    ∧ Canonical f ∧ (getTrapQ f 0).waiting = [trapRec 1] ∧ posInUse (getTrapQ f 0) ((getTrapQ f 0).ins % 256) = true :=
  ⟨canonical_at1 _, rfl, by decide, rfl, rfl, rfl, rfl, rfl, canonical_at1 _, rfl, by decide⟩

/-- A wake of record 0 of queue 0 for thread 1, without and with SKIP. -/
def wakes (skip : Bool) : Word := if skip then 0x8000000000000001 else 1

theorem wakes_fields : ∀ b, (wakes b).toNat / 2 ^ 56 % 128 = 0 ∧ (wakes b).toNat / 2 ^ 48 % 256 = 0 ∧ (wakes b).toNat / 2 ^ 40 % 256 = 0
    ∧ (wakes b).toNat % 2 ^ 40 = 1 ∧ (wakes b).toNat / 2 ^ 63 = b.toNat := by decide +kernel

/-- A wake of nothing, of a parked thread; a device that is not ready. -/
theorem meets_TrapQueues_parked :
    let t := { th with wait := .xfault }
    let s := { at1 t with trapqs := [(0, { recs := [(0, trapRec 1)], ins := 1 })] }
    Canonical s ∧ ready s = true ∧ Canonical State.reset ∧ ready State.reset = false ∧ isTrapQueue s 0 = true
    ∧ tblFind (getTrapQ s 0).recs 0 = some (trapRec 1) ∧ (trapRec 1).live = true ∧ (trapRec 1).tid = 1 ∧ (trapRec 1).type = 1
    ∧ (trapRec 1).kind ≠ 2 ∧ (s.dev.parked.find? fun y => y.1 == (trapRec 1).uid) = none ∧ getThread s (trapRec 1).tid = some t
    ∧ t.id = (trapRec 1).tid ∧ t.wait = .xfault ∧ tblFind (getTrapQ (at1 th) 0).recs 0 = none :=
  ⟨canonical_at1 _, rfl, ⟨rfl, .nil, .nil⟩, rfl, by decide, rfl, rfl, rfl, rfl, by decide, rfl, rfl, rfl, rfl, rfl⟩

/-- A store of two bytes that a port holds. -/
def heldStore : Access := { acc2 (.store [1, 2]) with da := 4 * 2 ^ 52 }

theorem meets_TrapQueues_held :
    let s := { at1 th with trapqs := [(0, { recs := [(0, trapRec 2)], ins := 1 })], ports := [(0, { held := [⟨heldStore, some 9, false⟩] })] }
    Canonical s ∧ ready s = true ∧ isTrapQueue s 0 = true ∧ tblFind (getTrapQ s 0).recs 0 = some (trapRec 2) ∧ (trapRec 2).live = true
    ∧ (trapRec 2).tid = 1 ∧ (trapRec 2).type = 2 ∧ heldBy s (trapRec 2).uid = some (0, heldStore) ∧ heldStore.who = .thread 1
    ∧ heldStore.act = .store [1, 2] ∧ ((getPort s 0).held.filter (standsBehind heldStore)) = [] ∧ addrClass heldStore.da = 4 ∧ heldStore.via = none
    ∧ heldStore.key = none ∧ (trapRec 2).skipOk = true :=
  ⟨canonical_at1 _, rfl, by decide, rfl, rfl, rfl, rfl, by decide, rfl, rfl, by decide, by decide, rfl, rfl, rfl⟩

/-- Class 0x4 of context 1 by three tables, with 64 KiB pages 0 and 1 in frames at 0x10000 and 0x20000. -/
def paged (q : List Host.Cell) (x : Ctx) : State :=
  { inCtx th { x with root4 := 0x1000 } with
    mem := ([(0x1001, 0x30), (0x1007, 0x80), (0x3001, 0x50), (0x3007, 0x80), (0x5002, 1), (0x5007, 0xF8), (0x500A, 2), (0x500F, 0xF8)].map fun b =>
             (tierKey 0 b.1, b.2)) ++ q,
    focus := .ring 0 }

def leaf0 : Leaf := ⟨0x5000, 0xF800000000010000, 65536, 0, 0x10000⟩

/-- An entry of the memory ring: quad 0, quad 1, quad 2. -/
def memRing (q va f : Nat) : List Host.Cell :=
  [(0, leBytes 8 q), (8, leBytes 8 va), (16, leBytes 8 f)].flatMap fun p =>
    ((List.range 8).map fun i => (tierKey 2 (p.1 + i), nth 0 p.2 i)).filter fun c => c.2 != 0

def pageCtx : Ctx := { ctx1 with root4 := 0x1000 }

/-- MIGRATE of page 0 to LPDDR frame 0x30000 and to an unaligned one, of page 2, which is not mapped, of a context that is none. -/
theorem meets_MemoryRing :
    let good := paged (memRing (1 <<< 32 ||| 4) 0 (1 <<< 54 ||| 0x30000)) ctx1
    let bad := paged (memRing (1 <<< 32 ||| 4) 0 (1 <<< 54 ||| 0x30100)) ctx1
    let away := paged (memRing (1 <<< 32 ||| 4) 0x20000 (1 <<< 54 ||| 0x30000)) ctx1
    let worse := paged (memRing (1 <<< 32 ||| 3) 0 (1 <<< 54 ||| 0x30000)) ctx1
    let none' := paged (memRing (2 <<< 32 ||| 4) 0 (1 <<< 54 ||| 0x30000)) ctx1
    (∀ s ∈ [good, bad, away, worse, none'], Memory.wf s.mem = true ∧ s.threads = [(1, th)] ∧ s.ctxs.map (·.1) = [1] ∧ s.focus = .ring 0
      ∧ headQuad s 0 0 / 2 ^ 48 % 2 ^ 8 = 0 ∧ headQuad s 0 0 % 2 ^ 32 / 2 ^ 4 = 0 ∧ headQuad s 0 2 / 2 ^ 56 = 0 ∧ headQuad s 0 2 / 2 ^ 48 % 2 ^ 6 = 0
      ∧ headQuad s 0 2 % 2 ^ 8 = 0 ∧ headQuad s 0 1 / 2 ^ 39 = 0 ∧ tierAllowed 4 (headQuad s 0 2 / 2 ^ 54 % 4) = true)
    ∧ headQuad good 0 0 / 2 ^ 32 % 2 ^ 16 = 1 ∧ headQuad good 0 0 % 16 = 4 ∧ getCtx good 1 = some pageCtx ∧ leafOf good pageCtx 4 0 = some leaf0
    ∧ headQuad good 0 2 % 2 ^ 48 % leaf0.size = 0 ∧ frameInTier 1 (headQuad good 0 2 % 2 ^ 48) leaf0.size = true
    ∧ findJob good.dev.migrating 1 4 (headQuad good 0 1) = none ∧ leafOf bad pageCtx 4 0 = some leaf0 ∧ ¬headQuad bad 0 2 % 2 ^ 48 % leaf0.size = 0
    ∧ leafOf away pageCtx 4 (headQuad away 0 1) = none ∧ headQuad worse 0 0 % 16 = 3 ∧ getCtx none' (headQuad none' 0 0 / 2 ^ 32 % 2 ^ 16) = none := by
  decide +kernel

/-- FRAMES of two frames and of a misaligned one; EVICT of one page of HBM: none can go, page 0 can go to the LPDDR frame 0x40000; bad ones;
one of no pages. -/
theorem meets_MemoryRing_frames :
    let f := paged (memRing (4 <<< 56) 0x40000 2) ctx1
    let g := paged (memRing (4 <<< 56) 0x40100 2) ctx1
    let v := paged (memRing (1 <<< 50 ||| 1) 0 0) ctx1
    let n := { v with ctxs := [(1, ctx1)] }
    let z := paged (memRing (1 <<< 50) 0 0) ctx1
    (∀ s ∈ [f, g, v, n, z], Memory.wf s.mem = true ∧ s.threads = [(1, th)] ∧ s.ctxs.map (·.1) = [1] ∧ s.focus = .ring 0)
    ∧ headQuad f 0 0 = 4 <<< 56 ∧ headQuad f 0 1 = 0x40000 ∧ headQuad f 0 2 = 2 ∧ frameInTier 0 0x40000 (2 * 65536) = true
    ∧ headQuad g 0 0 = 4 <<< 56 ∧ headQuad g 0 1 % 65536 ≠ 0
    ∧ headQuad v 0 0 = 1 <<< 50 ||| 1 ∧ headQuad v 0 1 = 0 ∧ headQuad v 0 2 = 0 ∧ headQuad n 0 0 = 1 <<< 50 ||| 1 ∧ evictable n 0 = []
    ∧ headQuad z 0 0 = 1 <<< 50 ∧ headQuad f 0 0 / 2 ^ 50 % 4 ≠ 1 - headQuad f 0 0 / 2 ^ 48 % 4 := by
  decide +kernel

/-- One page that can go. -/
theorem meets_MemoryRing_evict :
    let v := paged (memRing (1 <<< 50 ||| 1) 0 0) ctx1
    let e := { v with mem := v.mem.filter fun c => c.1 < tierKey 0 0x5008 || tierKey 0 0x5010 ≤ c.1, dev := { v.dev with frames := [(4, [0x40000])] } }
    Memory.wf e.mem = true ∧ e.threads = [(1, th)] ∧ e.ctxs.map (·.1) = [1] ∧ e.focus = .ring 0 ∧ headQuad e 0 0 = 1 <<< 50 ||| 1
    ∧ headQuad e 0 1 = 0 ∧ headQuad e 0 2 = 0 ∧ evictable e 0 = [(1, 4, 0, leaf0)] ∧ bitAt leaf0.e 57 = false
    ∧ tblGet [] e.dev.frames (4 * 1 + sizeIndex leaf0.size) = [0x40000] := by
  decide +kernel

/-- An access of context 1 to page 0 of class 0x4. -/
def toPage : Access := { acc2 .load with da := 4 * 2 ^ 52 }

/-- A page being zeroed, one on its way, each with an access that waits, and the latter with one that a port sent on to the old frame. -/
theorem meets_PagesDone :
    let j : PageJob := ⟨1, 4, 0, 65536, 0, 0x10000, 0x5000, 1, 0x30000, [toPage], some (1 <<< 32)⟩
    let s := { paged [] ctx1 with dev := { (at1 th).dev with zeroing := [j], migrating := [j] } }
    let b := { s with pend := [⟨9, 0, .loadRequest { toPage with key := some (tierKey 0 0x10000) }, .idle, none⟩] }
    Memory.wf s.mem = true ∧ s.threads = [(1, th)] ∧ s.ctxs.map (·.1) = [1] ∧ b.mem = s.mem ∧ b.dev = s.dev ∧ b.threads = s.threads ∧ b.ctxs = s.ctxs
    ∧ (s.dev.zeroing.find? fun j => tierKey j.tier j.pa == tierKey 0 0x10000) = some j
    ∧ (∀ a ∈ j.waiting, 4 ≤ addrClass a.da ∧ addrClass a.da ≤ 6 ∧ a.via = none ∧ a.key = none)
    ∧ (s.dev.migrating.find? fun j => j.ctx == 1 && j.cls == 4 && j.va == 0) = some j
    ∧ (s.pend.any fun p => towardsPage (tierKey j.tier j.pa) j.size p.what) = false
    ∧ (b.pend.any fun p => towardsPage (tierKey j.tier j.pa) j.size p.what) = true
    ∧ j.newTier < 4 ∧ j.newPa % 2 ^ 8 = 0 ∧ j.newPa < 2 ^ 48 ∧ (∀ i ∈ s.dev.migrating, i.cmd = j.cmd → i = j)
    ∧ (∀ i, i < 8 → ¬(tierKey 0 0x5000 + i = ringKey s 0 0 + 24)) ∧ tierKey 1 0x30000 + 0 < tierKey 1 0x30000 + j.size := by decide +kernel

/-- Errors of an HBM port, and of the SRAMs of a region. -/
theorem meets_PagesDone_scrub : Canonical (at1 th) ∧ (0 : Nat) < 64 ∧ (63 : Nat) < 64 ∧ servesFrame 0 0 = true ∧ servesFrame 1 0 = false
    ∧ sramOf 0 (commonsKey 0 8) = true ∧ sramOf 1 (commonsKey 0 8) = false :=
  ⟨canonical_at1 _, by decide⟩

def imgCtx : Ctx :=
  { ctx1 with segs := [{ base := 3 * 2 ^ 52, limit := 16, r := true }], root4 := 0x1000, image := some imgJob }

def imaging : State := { paged [] imgCtx with focus := .ctx 1, dev := { (at1 th).dev with owners := [(ownerKey 0 0x10000, 1), (ownerKey 0 0x20000, 1)] } }

/-- Whatever the choice between a completed translation and a walk, with none completed an access walks. -/
theorem image_translates (da : Nat) (bs : List Byte) (h : da = imgJob.dest ∨ da = imgJob.dest + 8) :
    ∃ s1, Machine.translate imaging 0 ⟨.unit, 0, 1, 0, 0, 0, da, bs.length, 0, .store bs, none, none⟩ 1 4 (da % 2 ^ 52) ⟨false, true, false⟩
      = (s1, .key (tierKey 0 (0x10000 + da % 2 ^ 52)) 0 3) := by
  obtain rfl | rfl := h
  all_goals
    refine ⟨_, Prod.ext rfl ?_⟩
    unfold Machine.translate
    generalize Config.useTlb _ = b
    cases b <;> rfl

def imgDone : ImageJob := { imgJob with begun := true, todo := [] }

def imagesAt (j : ImageJob) : State := { imaging with ctxs := [(1, { imgCtx with image := some j })] }

/-- The notice of this epoch and of another; the header's WRITING; a page; nothing left. -/
theorem meets_ImageWriter :
    let j := { imgJob with writing := false }
    let b := { imgJob with begun := true }
    Canonical imaging ∧ imaging.focus = .ctx 1 ∧ getCtx imaging 1 = some imgCtx ∧ imgCtx.image = some imgJob ∧ imgJob.parked = false
    ∧ imgJob.writing = true ∧ imgJob.held = [] ∧ imgJob.begun = false ∧ imgJob.dest % 8 = 0
    ∧ homeOf imaging 1 (coreAt imgCtx.ox imgCtx.oy) imgCtx.part imgJob.dest = .port 0 4 0 ∧ (2 : Nat) ≠ imgJob.epoch
    ∧ Canonical (imagesAt j) ∧ getCtx (imagesAt j) 1 = some { imgCtx with image := some j } ∧ j.epoch = 1 ∧ j.writing = false
    ∧ getCtx (imagesAt b) 1 = some { imgCtx with image := some b } ∧ b.begun = true ∧ nextPage imgCtx b = some (0, 0) ∧ bitAt b.req 8 = false
    ∧ getCtx (imagesAt imgDone) 1 = some { imgCtx with image := some imgDone } ∧ imgDone.begun = true ∧ imgDone.todo = [] :=
  ⟨⟨by decide, List.pairwise_singleton _ _, List.pairwise_singleton _ _⟩, rfl, rfl, rfl, rfl, rfl, rfl, rfl, by decide, by decide, by decide,
    ⟨by decide, List.pairwise_singleton _ _, List.pairwise_singleton _ _⟩, rfl, rfl, rfl, rfl, rfl, by decide, by decide, rfl, rfl, rfl⟩

/-- Without pages left: the header's quads, a store of the image that waits for its page, and none. -/
theorem meets_ImageWriter_end :
    let h := { imgDone with headed := true }
    let w := { imagesAt h with dev := { (imagesAt h).dev with
      migrating := [⟨1, 4, 0, 65536, 0, 0x10000, 0x5000, 1, 0x30000, [{ toPage with who := .unit }], none⟩] } }
    Canonical (imagesAt imgDone) ∧ imgDone.parked = false ∧ imgDone.todo = [] ∧ imgDone.held = [] ∧ imgDone.dest % 4096 = 0 ∧ imgDone.headed = false
    ∧ homeOf (imagesAt imgDone) 1 (coreAt imgCtx.ox imgCtx.oy) imgCtx.part (imgDone.dest + 8) = .port 0 4 8
    ∧ getCtx (imagesAt h) 1 = some { imgCtx with image := some h } ∧ h.headed = true ∧ imageWaits (imagesAt h) 1 = false
    ∧ getCtx w 1 = some { imgCtx with image := some h } ∧ imageWaits w 1 = true :=
  ⟨⟨by decide, List.pairwise_singleton _ _, List.pairwise_singleton _ _⟩, rfl, rfl, rfl, by decide, rfl, by decide, rfl, rfl, by decide, rfl, by decide⟩

/-! Networks, links, loops and the host port. -/

/-- The machine with the router of core `c` in a state, in cycle `n`. -/
def routers (c : Nat) (r : Nat) (n : Nat) (l : List Pend) : State :=
  { at1 th with focus := .core c, cycle := n, cores := [(c, { router := r })], pend := l }

/-- A gated, a waking and an idle router of core 1; one whose core holds a thread, one a cycle too early, and one that a packet under way
passes. -/
theorem meets_Routers :
    (∀ c r n l, (routers c r n l).focus = .core c ∧ (c < 2 → getCore (routers c r n l) c = { router := r }))
    ∧ (0 : Nat) + 4096 ≤ (routers 1 0 4096 []).cycle ∧ (routers 1 0 4095 []).cycle < 0 + 4096
    ∧ (∀ t ∈ (routers 1 0 4096 []).threads, t.2.core = 1 → t.2.slot? = none) ∧ regionHub (regionOf 1) ≠ 1 ∧ inFlight (routers 1 0 4096 []) = false
    ∧ (∀ p ∈ (routers 1 0 4096 []).pend, passes 1 p = false)
    ∧ (∃ t ∈ (routers 0 0 4096 []).threads, t.2.core = 0 ∧ t.2.slot?.isSome = true) ∧ ∃ p ∈ (routers 4 0 4096 [late]).pend, passes 4 p = true := by
  refine ⟨?_, by decide, by decide, by decide, by decide, by decide, by decide, ⟨(1, th), by decide, by decide, by decide⟩, late, by decide, by decide⟩
  intro c r n l
  refine ⟨rfl, fun h => ?_⟩
  simp [getCore, routers, tblGet]

/-- A flit of a whole packet of 56 bytes in sequence number `seq`, with the header fields destination, source and kind; its CRC checks. -/
def flit (dst src kind seq ack : Nat) : Flit :=
  let f : Flit := ⟨0, false, true, true, 0, ack, seq,
    leBytes 2 dst ++ leBytes 2 src ++ [BitVec.ofNat 8 kind, 0] ++ leBytes 5 1 ++ [0] ++ leBytes 2 1 ++ [1] ++ List.replicate 41 0⟩
  { f with crc := crc32 f.bytes }

/-- Link 0 in a state. -/
def linked (k : Link) : State := { at1 th with focus := .link 0, links := [(0, k)], cycle := 65536 }

theorem linked_link (k : Link) : getLink (linked k) 0 = k := rfl

/-- A damaged flit; good ones in sequence, again, and after a gap; each frees flit 4095 of the replay buffer or not. -/
theorem meets_Links :
    let passed := fun (a b : Nat) => (b + 4096 - a % 4096) % 4096 < 2048
    ({ flit 3 0 1 5 0 with crc := (flit 3 0 1 5 0).crc + 1 } : Flit).good = false ∧ (flit 3 0 1 5 0).good = true ∧ (flit 3 0 1 5 0).seq = 5
    ∧ (flit 3 0 1 4 0).good = true ∧ passed 4 5 ∧ (flit 3 0 1 6 4094).good = true ∧ ¬passed 6 5 ∧ passed 4095 0 ∧ ¬passed 4095 4094 := by
  decide +kernel

/-- A packet for another device, and one of a kind that is none, whose sender is this device. -/
theorem meets_Links_packets :
    let field := fun (f : Flit) (off n : Nat) => ofLeBytes ((f.body.drop off).take n)
    let f := flit 3 9 1 5 0
    let g := flit 3 0 17 5 0
    let s := { linked { up := true, expect := 5 } with dev := { (at1 th).dev with groups := 1025 } }
    getLink s 0 = { up := true, expect := 5 } ∧ f.head = true ∧ f.tail = true ∧ 16 ≤ f.body.length ∧ f.good = true ∧ f.seq = 5 ∧ field f 4 1 = 1 ∧ field f 5 1 = 0
    ∧ inFabric s (field f 0 2) = true ∧ field f 0 2 = 3 ∧ s.dev.id = 0 ∧ g.good = true ∧ g.seq = 5 ∧ field g 4 1 = 17 ∧ field g 2 2 = 0 ∧ field g 12 2 = 1
    ∧ getCtx s 1 = some ctx1 ∧ ctx1.fault = none := by
  decide +kernel

/-- A NAK of the only flit; the eighth resend; 65,536 cycles without an acknowledgement and one fewer; a link with nothing to send again. -/
theorem meets_Links_resends :
    let passed := fun (a b : Nat) => (b + 4096 - a % 4096) % 4096 < 2048
    let f := flit 3 0 1 4095 0
    f.seq = 4095 ∧ ¬passed 4095 (4095 % 4096 + 4095) ∧ passed 4095 (0 % 4096 + 4095)
    ∧ 7 ≤ ({ up := true, replay := [f], resends := 7 } : Link).resends ∧ 8 ≤ ({ up := true, replay := [f], resends := 8 } : Link).resends
    ∧ ({ up := true, replay := [f], lastAck := 0 } : Link).lastAck + 65536 ≤ (linked {}).cycle ∧ (linked {}).cycle < 1 + 65536 := by
  decide +kernel

/-- A link that is down, with one packet unacknowledged, at its longest flight time and past it; a thread that counts the drop. -/
theorem meets_Links_retrain :
    let f := flit 3 0 1 4095 0
    let k : Link := { replay := [f], flight := 512 }
    let passed := fun (a b : Nat) => (b + 4096 - a % 4096) % 4096 < 2048
    let p : Peer := { iv := 0, dev := 3, src := 2, acked := 1, dropped := 0 }
    k.up = false ∧ k.flight ≤ flightLimit 0 ∧ (linked k).dev.backlog = [] ∧ ofLeBytes ((f.body.drop 14).take 1) ≠ 0 ∧ ¬passed f.seq (4094 % 4096)
    ∧ flightLimit 0 < ({ flight := 513 } : Link).flight ∧ getThread (at1 { th with peers := [p] }) 1 = some { th with peers := [p] }
    ∧ th.interval = 0 := by
  decide +kernel

def peer0 : Peer := { iv := 0, dev := 3, src := 2, acked := 1, dropped := 0 }

/-- One peer, whose total agrees or not; the first of two peers. -/
theorem meets_FenceCounts :
    let t := { th with wait := .count [], peers := [peer0] }
    let u := { th with wait := .count [], peers := [peer0, { peer0 with dev := 4 }] }
    getThread (at1 t) t.id = some t ∧ Alive (at1 t) t ∧ t.wait = .count [] ∧ t.peers = [peer0] ∧ peer0.iv = 0 ∧ peer0.dev = 3 ∧ t.owed = none
    ∧ getThread (at1 u) u.id = some u ∧ Alive (at1 u) u ∧ u.wait = .count [] ∧ peerIndex 0 3 0 u.peers = some 0
    ∧ (tblSet ([] : List (Nat × Nat)) 0 2).length < u.peers.length :=
  ⟨rfl, rfl, rfl, rfl, rfl, rfl, rfl, rfl, rfl, rfl, by decide, by decide⟩

/-- A fence that asked, one that waits for remote accesses alone, one that waits for a local one. -/
theorem meets_FenceCounts_time (w : Wait) (n : Nat) :
    let t := { th with wait := w, peers := [peer0], uac := n }
    let s := { at1 t with focus := .op 1 5 }
    getThread s t.id = some t ∧ s.focus = .op t.id t.op ∧ t.op < checkOp 0 ∧ remoteUnacked t = 1 ∧ t.uac = n ∧ t.wait = w :=
  ⟨rfl, rfl, (by decide : th.op < checkOp 0), rfl, rfl, rfl⟩

/-- A closed interval of the thread, not yet asked for and asked for. -/
theorem meets_FenceCounts_closed :
    let t := { th with peers := [peer0], interval := 9 }
    let u := { th with peers := [{ peer0 with asked := true }], interval := 9 }
    let s := { at1 t with focus := .op 1 (checkOp 0) }
    let v := { at1 u with focus := .op 1 (totalOp 0) }
    getThread s t.id = some t ∧ s.focus = .op t.id (checkOp 0) ∧ 0 ≠ t.interval ∧ peersOf t 0 ≠ [] ∧ (peersOf t 0).any (·.asked) = false
    ∧ getThread v u.id = some u ∧ v.focus = .op u.id (totalOp 0) ∧ (peersOf u 0).any (·.asked) = true := by
  decide +kernel

/-- The greatest region; a link that is up, with a lane that has been low for 15 intervals and for 16; the alarm on, with its count full. -/
theorem meets_Loops :
    let k : Link := { up := true, low := [15], taps := [[0, 15, -15, 0]] }
    let s := { at1 th with links := [(0, k)] }
    let a := { at1 th with dev := { (at1 th).dev with alarm := true, clearCnt := 64 } }
    let m := { at1 th with focus := .link 0, links := [(0, { up := true, low := [16] })] }
    (63 : Nat) < 64 ∧ ready s = true ∧ 1000 ≤ s.dev.pcap ∧ s.dev.alarm = false ∧ (s.links.map (·.1)).Pairwise (· < ·)
    ∧ tblFind s.links 0 = some k ∧ 0 < lanesOf 0 ∧ 15 ≤ nth 0 k.low 0 ∧ (nth [0, 0, 0, 0] k.taps 0).length = 4
    ∧ (∀ v ∈ nth [0, 0, 0, 0] k.taps 0, -15 ≤ v ∧ v ≤ 15) ∧ a.dev.alarm = true ∧ 64 ≤ a.dev.clearCnt ∧ a.dev.regulator = false
    ∧ m.focus = .link 0 ∧ (getLink m 0).up = true ∧ (∃ c ∈ (getLink m 0).low, 16 ≤ c) :=
  ⟨by decide, by decide, by decide, rfl, List.pairwise_singleton _ _, rfl, by decide, by decide, rfl, by decide, rfl, by decide, rfl, rfl, rfl,
    16, by simp [getLink, tblGet], by decide⟩

/-- Before READY and in it; rings whose HEAD and TAIL agree and not; sizes 4 and 16; the last ring, core region and port; an offset that
names nothing. -/
theorem meets_Registers : ready State.reset = false ∧ ready (at1 th) = true ∧ (getRing (at1 th) 18).head = (getRing (at1 th) 18).tail
    ∧ (getRing { at1 th with rings := [(0, { tail := 1 })] } 0).head ≠ (getRing { at1 th with rings := [(0, { tail := 1 })] } 0).tail
    ∧ 4 ≤ (4 : Word).toNat ∧ (16 : Word).toNat ≤ 16 ∧ (2 : Nat) < 3 ∧ (15 : Nat) < 16 ∧ (63 : Nat) < 64 ∧ (11 : Nat) < 12 ∧ 0x10 % 8 = 0
    ∧ 0x2FF8 % 8 = 0 ∧ (0x808 ≤ 0x2FF8 ∧ 0x2FF8 < 0x3000) ∧ (4 : Nat) % 8 ≠ 0 ∧ (17 : Nat) ≤ 17 := by decide

/-- The head entry of the configuration ring with a payload address and an argument, and the payload's nonzero bytes at host address
0x1000. -/
def asks1 (arg : Nat) (bs : List Byte) : State :=
  let put := fun (k : Nat) (l : List Byte) => ((List.range l.length).map fun i => (tierKey 2 (k + i), nth 0 l i)).filter fun c => c.2 != 0
  { at1 th with focus := .ring 1, sets := [], mem := put 8 (leBytes 8 (6 * 2 ^ 52 + 0x1000)) ++ put 16 (leBytes 8 arg) ++ put 0x1000 bs }

/-- A partition set of one region with one schedule entry. -/
def desc1 : List Byte := quadBytes [0x110001, 1 <<< 61 ||| 1 <<< 48 ||| 16 <<< 34 ||| 0x1000] ++ List.replicate 152 0

/-- A head entry of the configuration ring, in a canonical state. -/
def AtRing (s : State) : Prop := Canonical s ∧ s.focus = .ring 1

theorem asks1_at (arg : Nat) (bs : List Byte) (h : Memory.wf (asks1 arg bs).mem = true) : AtRing (asks1 arg bs) :=
  ⟨⟨h, List.pairwise_singleton _ _, List.pairwise_singleton _ _⟩, rfl⟩

/-- A descriptor refused for the context that holds its cores, and one that is good. -/
theorem meets_ConfigRing :
    let s := asks1 1 desc1
    let n := { s with ctxs := [] }
    AtRing s ∧ AtRing n ∧ (cfgPayload s 168).any (fun bs => psetStatus s bs == 10) = true
    ∧ (cfgPayload n 168).any (fun bs => psetStatus n bs == 1) = true
    ∧ cfgKey (headQuad s 1 1) = some (tierKey 2 0x1000) ∧ cfgKey (headQuad n 1 1) = some (tierKey 2 0x1000)
    ∧ tierKey 2 0x1000 + 160 ≠ ringKey s 1 (getRing s 1).head + 24 :=
  ⟨asks1_at _ _ (by decide +kernel), ⟨⟨by decide +kernel, List.pairwise_singleton _ _, .nil⟩, rfl⟩, by decide +kernel, by decide +kernel,
    by decide +kernel, by decide +kernel, by decide +kernel⟩

/-- KILL and RELEASE of no context, of a running one, of a stopped one with its completion word written and not. -/
theorem meets_ConfigRing_stop :
    let s := fun (x : Ctx) => { asks1 1 [] with ctxs := [(1, x)] }
    AtRing (asks1 2 []) ∧ getCtx (asks1 2 []) (headQuad (asks1 2 []) 1 2) = none ∧ headQuad (asks1 1 []) 1 2 = 1
    ∧ (∀ x, AtRing (s x) ∧ headQuad (s x) 1 2 = headQuad (asks1 1 []) 1 2 ∧ getCtx (s x) 1 = some x)
    ∧ ctx1.zeroing = false ∧ ctx1.life = .running ∧ ctx1.done = 0 ∧ ctxDone.done ≠ 0 :=
  ⟨asks1_at _ _ (by decide +kernel), by decide +kernel, by decide +kernel,
    fun _ => ⟨⟨⟨(asks1_at 1 [] (by decide +kernel)).1.1, List.pairwise_singleton _ _, List.pairwise_singleton _ _⟩, rfl⟩, rfl, rfl⟩,
    rfl, rfl, rfl, by decide⟩

/-- GRANT of a window by context 1, of an accord of nobody, of accord 9 that is a launch accord. -/
theorem meets_ConfigRing_grant :
    let w := asks1 (1 <<< 32 ||| 1) [0x20]
    let n := asks1 (2 <<< 16 ||| 1) [9]
    let g := { asks1 (1 <<< 16) [9] with regions := [(9, { dir := [(9, { isOpen := true, owner := 1, vd := some 0 })] })] }
    (AtRing w ∧ bitAt (headQuad w 1 2) 32 = true ∧ getCtx w (headQuad w 1 2 % 2 ^ 16) = some ctx1 ∧ (cfgPayload w 512).isSome = true)
    ∧ (AtRing n ∧ bitAt (headQuad n 1 2) 32 = false ∧ (cfgPayload n 8).any (fun bs => fieldAt bs 0 8 % 2 ^ 32 == 9) = true
      ∧ getCtx n (headQuad n 1 2 / 2 ^ 16 % 2 ^ 16) = none)
    ∧ (AtRing g ∧ bitAt (headQuad g 1 2) 32 = false ∧ (cfgPayload g 8).any (fun bs => fieldAt bs 0 8 % 2 ^ 32 == 9) = true
      ∧ getCtx g (headQuad g 1 2 / 2 ^ 16 % 2 ^ 16) ≠ none ∧ (dirGet g 9).vd = some 0) :=
  ⟨⟨asks1_at _ _ (by decide +kernel), by decide +kernel, rfl, by decide +kernel⟩,
    ⟨asks1_at _ _ (by decide +kernel), by decide +kernel, by decide +kernel, by decide +kernel⟩,
    ⟨⟨by decide +kernel, List.pairwise_singleton _ _, List.pairwise_singleton _ _⟩, rfl⟩, by decide +kernel, by decide +kernel, by decide +kernel, rfl⟩

/-- AREAS of a virtual device, of context 1, of none, and misaligned; DBGKEY with its op and another. -/
theorem meets_ConfigRing_areas :
    let v := asks1 (1 <<< 63) [64]
    let x := asks1 1 [64]
    let n := asks1 2 [64]
    let m := asks1 1 [1]
    let k := { asks1 1 [1] with mem := (tierKey 2 7, 7) :: (asks1 1 [1]).mem }
    let ok := fun (s : State) => (cfgPayload s 40).any fun bs => fieldAt bs 0 8 == 64 && (List.range 4).all fun i => fieldAt bs (8 * i + 8) 8 == 0
    AtRing v ∧ AtRing x ∧ AtRing n ∧ AtRing m ∧ AtRing k ∧ ok v = true ∧ ok x = true ∧ ok n = true ∧ bitAt (headQuad v 1 2) 63 = true
    ∧ bitAt (headQuad x 1 2) 63 = false ∧ getCtx x (headQuad x 1 2) = some ctx1 ∧ getCtx n (headQuad n 1 2) = none
    ∧ (cfgPayload m 40).any (fun bs => fieldAt bs 0 8 % 64 != 0) = true ∧ headQuad m 1 0 / 2 ^ 56 ≠ 7 ∧ headQuad k 1 0 / 2 ^ 56 = 7
    ∧ (cfgPayload k 64).isSome = true :=
  ⟨asks1_at _ _ (by decide +kernel), asks1_at _ _ (by decide +kernel), asks1_at _ _ (by decide +kernel), asks1_at _ _ (by decide +kernel),
    ⟨⟨by decide +kernel, List.pairwise_singleton _ _, List.pairwise_singleton _ _⟩, rfl⟩, by decide +kernel, by decide +kernel, by decide +kernel,
    by decide +kernel, by decide +kernel, rfl, by decide +kernel, by decide +kernel, by decide +kernel, by decide +kernel, by decide +kernel⟩

/-- Launch accord 9 of virtual device 0, with one member in region 0, a decision array of 64 slots in the commons, and its set as it was
described (its nonzero bytes): refused for a reserved bit, and good. -/
def openMem (arg : Nat) : List Host.Cell :=
  [(commonsKey 0 0x1001, 0x10), (commonsKey 0 0x1016, 0x30), (commonsKey 0 0x1018, 6), (commonsKey 0 0x1080, 0x11), (commonsKey 0 0x1081, 1),
    (tierKey 2 9, 0x10), (tierKey 2 14, 0x30)] ++ ((List.range 8).map fun i => (tierKey 2 (16 + i), nth 0 (leBytes 8 arg) i)).filter fun c => c.2 != 0

def openl1 (arg : Nat) : State :=
  { asks1 arg [] with
    mem := openMem arg, vds := [(0, {})],
    sets := [{ rx := 0, ry := 0, rw := 1, rh := 1, n := 1, holder := 0, entries := [⟨0, 0, 1, 0, 16, 0x1000⟩], turns := [], raw := [0x110001] }] }

/-- Its argument. -/
def openArg : Nat := 0x110001 <<< 24 ||| 9

/-- Good parts and who they name. -/
def partsGood (s : State) : Bool :=
  (openlParts s 0 (headQuad s 1 1) openArg).any fun r => r.2.2 == 0 && (parseQuorum ((r.1.drop 128).take 128)).members == [(0, 0)]

theorem meets_LaunchAccords :
    let s := openl1 openArg
    AtRing s ∧ headQuad s 1 2 = openArg ∧ openArg / 2 ^ 48 = 0 ∧ openArg / 2 ^ 20 % 16 = 0 ∧ partsGood s = true ∧ (getRegion s 9).excluded = false
    ∧ (dirGet s 9).isOpen = false ∧ shareRoom s 0 0 1 0 = true ∧ findAcc s 0 9 = none :=
  ⟨⟨⟨by decide +kernel, List.pairwise_singleton _ _, List.pairwise_singleton _ _⟩, rfl⟩, by decide +kernel, by decide +kernel, by decide +kernel, by decide +kernel,
    by decide +kernel, by decide +kernel, by decide +kernel, by decide +kernel⟩

/-- Refused: a reserved bit, a set that is not so described, an excluded region, an open accord, a member that has it already, a member on
another device. -/
theorem meets_LaunchAccords_refused :
    let r := openl1 (1 <<< 48)
    let u := openl1 9
    let excl := { openl1 openArg with regions := [(9, { excluded := true })] }
    let opened := { openl1 openArg with regions := [(9, { dir := [(9, { isOpen := true })] })] }
    let full := { openl1 openArg with regions := [(0, { accs := [{ cfg0 with acc := 9 }] })] }
    let far := { openl1 openArg with dev := { (openl1 openArg).dev with id := 1 } }
    (AtRing r ∧ headQuad r 1 2 / 2 ^ 48 ≠ 0) ∧ (AtRing u ∧ openlParts u 0 (headQuad u 1 1) (headQuad u 1 2) = none)
    ∧ (AtRing excl ∧ partsGood excl = true ∧ (getRegion excl 9).excluded = true)
    ∧ (AtRing opened ∧ partsGood opened = true ∧ (getRegion opened 9).excluded = false ∧ (dirGet opened 9).isOpen = true)
    ∧ (AtRing full ∧ partsGood full = true ∧ (findAcc full 0 9).isSome = true ∧ (dirGet full 9).isOpen = false)
    ∧ (AtRing far ∧ partsGood far = true ∧ (0 : Nat) ≠ far.dev.id ∧ (getRegion far 9).excluded = false ∧ getThread far (engineTid far) = none
      ∧ (dirGet far (65536 + 9)).isOpen = false) :=
  ⟨⟨⟨⟨by decide +kernel, List.pairwise_singleton _ _, List.pairwise_singleton _ _⟩, rfl⟩, by decide +kernel⟩,
    ⟨⟨⟨by decide +kernel, List.pairwise_singleton _ _, List.pairwise_singleton _ _⟩, rfl⟩, by decide +kernel⟩,
    ⟨⟨⟨by decide +kernel, List.pairwise_singleton _ _, List.pairwise_singleton _ _⟩, rfl⟩, by decide +kernel, by decide +kernel⟩,
    ⟨⟨⟨by decide +kernel, List.pairwise_singleton _ _, List.pairwise_singleton _ _⟩, rfl⟩, by decide +kernel, by decide +kernel, by decide +kernel⟩,
    ⟨⟨⟨by decide +kernel, List.pairwise_singleton _ _, List.pairwise_singleton _ _⟩, rfl⟩, by decide +kernel, by decide +kernel, by decide +kernel⟩,
    ⟨⟨⟨by decide +kernel, List.pairwise_singleton _ _, List.pairwise_singleton _ _⟩, rfl⟩, by decide +kernel, by decide +kernel, by decide +kernel,
      by decide +kernel, by decide +kernel⟩⟩

/-- The submission engine of device 0 with the outcome of an OPENL, of accord 9: a code and the accord, or an answer without one. -/
def engine (d : Word) : Thread :=
  { th with id := 16777215, place := .engine, held := [d], kept := [.acc { form := 0, d := 10, acc := 9 }] }

def openEnded (d : Word) : State := { openl1 openArg with threads := [(16777215, engine d)], focus := .thread 16777215 }

theorem openEnded_engine (d : Word) : getThread (openEnded d) (engine d).id = some (engine d) := by
  show tblFind [(16777215, engine d)] 16777215 = some (engine d)
  simp [tblFind]

theorem canonical_openEnded (d : Word) : Canonical (openEnded d) := by
  refine ⟨?_, List.pairwise_singleton _ _, List.pairwise_singleton _ _⟩
  show Memory.wf (openMem openArg) = true
  decide +kernel

theorem acts_openEnded (d : Word) : Acts (openEnded d) (engine d) := ⟨rfl, openEnded_engine d⟩

/-- The engine at work. -/
theorem meets_LaunchAccords_busy : engineTid (openl1 openArg) = 16777215 := by decide +kernel

/-- What the engine has to say when an OPENL is over: UNREACH, or its accord. -/
theorem meets_LaunchAccordEnd (d : Word) : Canonical (openEnded d) ∧ Acts (openEnded d) (engine d) :=
  ⟨canonical_openEnded d, acts_openEnded d⟩

theorem meets_LaunchAccordEnd_codes : (0x400000000 : Word).toNat / 2 ^ 32 ≠ 0 ∧ (9 : Word).toNat / 2 ^ 32 = 0 := by decide +kernel

/-- The negotiation before its steps and after them; no session; a stopped context in a session with its key. -/
theorem meets_DebugFunction :
    let m : Spdm := (at1 th).spdm
    let all : Spdm := { m with version := true, caps := true, algs := true, keyed := true }
    let k := { at1 th with spdm := all, dev := { (at1 th).dev with keys := true } }
    let x := { ctx1 with life := .stopped true }
    let s := { inCtx th x with vds := [(0, { dbg := some [1] })], spdm := { m with session := some [1] } }
    m.version = false ∧ m.caps = false ∧ m.algs = false ∧ m.session = none ∧ all.version = true ∧ all.caps = true ∧ all.algs = true
    ∧ all.keyed = true ∧ k.spdm = all ∧ k.dev.keys = true ∧ s.spdm.session = some [1] ∧ (getVd s 0).dbg = some [1] ∧ 0x1800 % 8 = 0
    ∧ getCtx s (getPart s (0x1800 / 65536 % 16384) (0x1800 % 65536 / max 1 (viewSize s (0x1800 / 65536 % 16384)))).owner = some x ∧ x.vd = 0
    ∧ x.zeroing = false ∧ x.life = .stopped true ∧ ready s = true ∧ ready State.reset = false ∧ ∀ p ∈ s.pend, p.what = .release → s.cycle < p.due :=
  ⟨rfl, rfl, rfl, rfl, rfl, rfl, rfl, rfl, rfl, rfl, rfl, rfl, by decide, by decide +kernel, rfl, rfl, rfl, rfl, rfl, List.forall_mem_nil _⟩

/-- Its release is due in the same cycle. -/
theorem meets_DebugFunction_released :
    let x := { ctx1 with life := .stopped true }
    let s := { inCtx th x with mem := (asks1 1 []).mem, vds := [(0, { dbg := some [1] })], spdm := { session := some [1] },
                                pend := [⟨0, 0, .release, .ring 1, none⟩] }
    ready s = true ∧ s.spdm.session = some [1] ∧ (getVd s 0).dbg = some [1] ∧ x.done = 0 ∧ headQuad s 1 2 = (getPart s 0 (0x1800 / max 1 (viewSize s 0))).owner
    ∧ getCtx s 1 = some x ∧ ∃ p ∈ s.pend, p.what = .release ∧ p.due ≤ s.cycle :=
  ⟨rfl, rfl, rfl, rfl, by decide +kernel, rfl, _, List.mem_singleton.2 rfl, rfl, Nat.le_refl _⟩

/-- The device in a state of its dawn. -/
def dawns (n : Nat) : State := { at1 th with focus := .dawn, dev := { (at1 th).dev with state := n } }

/-- A dawn from elsewhere, and one at each of its steps, whose results are good or not; the last link at its longest flight time, and one
that did not train. -/
theorem meets_DawnSequence :
    let d : Dawn := { imageOk := true, keysOk := true, failedRegions := [63], memOk := true, linksUp := [(62, 12288)], device := 65535 }
    let e : Dawn := { d with imageOk := false, keysOk := false, memOk := false }
    Canonical (at1 th) ∧ (at1 th).focus ≠ .dawn ∧ (∀ n, Canonical (dawns n) ∧ (dawns n).focus = .dawn ∧ (dawns n).dev.state = n)
    ∧ d.imageOk = true ∧ d.keysOk = true ∧ d.memOk = true ∧ e.imageOk = false ∧ e.keysOk = false ∧ e.memOk = false
    ∧ (62, 12288) ∈ d.linksUp ∧ (∀ m, (62, m) ∈ d.linksUp → m = 12288) ∧ (∀ n, (0, n) ∉ d.linksUp) :=
  ⟨canonical_at1 _, nofun, fun _ => ⟨⟨rfl, List.pairwise_singleton _ _, List.pairwise_singleton _ _⟩, rfl, rfl⟩, rfl, rfl, rfl, rfl, rfl, rfl,
    List.mem_singleton.2 rfl, by simp, by simp⟩

/-- Thread 1 in slot 0 at cycle 0, with the word `w` at pc 0. -/
def fetches (t : Thread) (w : Nat) : State := { at1 t with focus := .idle, mem := memWrite [] (istoreKey 0 0) (leBytes 4 w) }

/-- Nothing else is to do in the cycle, and thread `t` may issue. -/
def IssuesNext (s : State) (t : Thread) : Prop :=
  s.agenda = [] ∧ nextDue s.cycle s.pend = none ∧ (s.threads.find? fun x => goesOn s x.2) = none ∧ startable s s.parts = none
  ∧ (∃ r, leastRank s s.threads = some (r, t)) ∧ t.wait = .ready

/-- A step issues the NOP of thread 1; a word that is none; RDSW of sw.TID in a DETERM context; a budget trap; a pc outside the slice. -/
theorem meets_StepRunsDecoded :
    let s := fetches th 0x00100000
    let n := fetches th 0
    let d := { fetches th 0x05230000 with ctxs := [(1, { ctx1 with det := true })] }
    let b := { s with parts := [(0, { owner := 1, budgetTrap := true })], ctxs := [(1, { ctx1 with tvec := some 0 })] }
    let t := { th with core := 0, part := 1 }
    let o := { fetches t 0x00100000 with parts := [(1, { owner := 1 })] }
    (IssuesNext s th ∧ inSlice s 0 0 0 = true ∧ (getPart s 0 0).budgetTrap = false ∧ (decodeScalar (fetchWord s th)).toOption = some (.nop 0)
      ∧ detOf s 1 = false)
    ∧ (IssuesNext n th ∧ inSlice n 0 0 0 = true ∧ (getPart n 0 0).budgetTrap = false ∧ (decodeScalar (fetchWord n th)).toOption = none)
    ∧ (IssuesNext d th ∧ inSlice d 0 0 0 = true ∧ (getPart d 0 0).budgetTrap = false ∧ detOf d 1 = true
      ∧ (decodeScalar (fetchWord d th)).toOption = some (.rdsw 0 3 0) ∧ detIllegal (.rdsw 0 3 0) = true)
    ∧ (IssuesNext b th ∧ inSlice b 0 0 0 = true ∧ (getPart b 0 0).budgetTrap = true ∧ th.trapc = 0
      ∧ ((getCtx b th.ctx).bind (·.tvec)).isSome = true)
    ∧ (IssuesNext o t ∧ inSlice o 0 1 0 = false) :=
  ⟨⟨⟨rfl, rfl, by decide, by decide, ⟨0, by decide⟩, rfl⟩, by decide, rfl, by decide, by decide⟩,
    ⟨⟨rfl, rfl, by decide, by decide, ⟨0, by decide⟩, rfl⟩, by decide, rfl, by decide⟩,
    ⟨⟨rfl, rfl, by decide, by decide, ⟨0, by decide⟩, rfl⟩, by decide, rfl, by decide, by decide, by decide⟩,
    ⟨⟨rfl, rfl, by decide, by decide, ⟨0, by decide⟩, rfl⟩, by decide, rfl, rfl, rfl⟩,
    ⟨⟨rfl, rfl, by decide, by decide, ⟨0, by decide⟩, rfl⟩, by decide⟩⟩

/-- Nobody to issue; a fence that goes on; a TNOP that starts. -/
theorem meets_StepRunsDecoded_others :
    let e := { at1 th with focus := .idle, threads := [] }
    let t := { th with wait := .until .uacZero, word := 0x02900000 }
    let w := fetches t 0
    let k := ent 0x0100000000000000#256
    let c := { tiles [k] [] with threads := [] }
    (e.agenda = [] ∧ nextDue e.cycle e.pend = none ∧ (e.threads.find? fun x => goesOn e x.2) = none ∧ startable e e.parts = none
      ∧ leastRank e e.threads = none)
    ∧ (w.agenda = [] ∧ nextDue w.cycle w.pend = none ∧ w.threads.find? (fun x => goesOn w x.2) = some (1, t) ∧ t.place ≠ .engine
      ∧ (decodeScalar t.word).toOption = some (.fenceD 0) ∧ detOf w 1 = false)
    ∧ (c.agenda = [] ∧ nextDue c.cycle c.pend = none ∧ (c.threads.find? fun x => goesOn c x.2) = none ∧ startable c c.parts = some (0, 0, k)
      ∧ (decodeTcw k.word).toOption.isSome = true) :=
  ⟨⟨rfl, rfl, rfl, by decide, rfl⟩, ⟨rfl, rfl, by decide, by decide, by decide, by decide⟩, ⟨rfl, rfl, rfl, by decide, by decide⟩⟩

/-- What the outside does now; two packets due, of which the first has the least due cycle, in the same cycle as the second; none due. -/
theorem meets_EventsInOrder :
    let p : Pend := ⟨0, 0, .cicadaSweep, .idle, none⟩
    let q : Pend := ⟨0, 0, .cicadaSweepEnd, .idle, none⟩
    let h : Happening := ⟨0, .debugSessionEnd, .idle⟩
    let a := { at1 th with agenda := [h] }
    let s := { at1 th with pend := [p, q] }
    let n := { at1 th with pend := [{ p with due := 1 }] }
    (a.agenda = [h] ∧ h.wait = 0) ∧ ((∀ x ∈ s.agenda.head?, x.wait ≠ 0) ∧ nextDue s.cycle s.pend = some p)
    ∧ ((∀ x ∈ n.agenda.head?, x.wait ≠ 0) ∧ nextDue n.cycle n.pend = none) :=
  ⟨⟨rfl, rfl⟩, ⟨by decide, by decide⟩, ⟨by decide, by decide⟩⟩

theorem meets_DecodeEncode : WellFormed (.add 15 9 10 0) ∧ WellFormed (.mma mma) ∧ (encode (.add 15 9 10 0)).isSome = true ∧ (encodeTcw (.mma mma)).isSome = true := by
  decide

theorem meets_EncodeDecode : (decodeScalar 0x7829A000).toOption = some (.add 15 9 10 0) ∧ (decodeTcw 0x10000086A2000410#256).toOption = some (.mma mma) := by decide

/-- A canonical state whose step answers a next state. -/
theorem meets_StepKeepsCanonical : Canonical (at1 th) ∧ ∃ s', step { at1 th with focus := .idle, threads := [] } = .next s' :=
  ⟨canonical_at1 _, _, rfl⟩

/-- R358: what reset is. -/
theorem test_reset : State.reset.dev.state = 0 ∧ State.reset.threads = [] ∧ ready State.reset = false := by decide

/-- The host's question: the instruction placed is the one that the next step runs. -/
theorem test_withFetchWord : (choose (State.reset.withFetchWord 32 0x00C20100)).1 = some (.li 0 2 0x100) := by decide
theorem test_decodeTableWord : decodeTableWord 32 0x00C20100 = some (.li 0 2 0x100) := by decide

end Sys2Proof.Tests
end

section
/-! SUPPORT. That every step keeps the canonical form (log 3). Memory, threads and contexts change only through a few operations on sorted
tables, treated here; every other update is `Canonical.frame`. The sections below then hold one lemma `Canonical.f` for each function `f` of
the model, in the model's order and proved from the lemmas of the functions that `f` calls: a function that answers a state keeps `Canonical`,
a meaning of an instruction satisfies `Keeps`, and a continuation that an operation takes need only keep the form itself. -/

namespace Sys2Proof.Safety

open Sys2Proof Sys2Proof.Machine

/-! ### Sorted tables -/

/-- The keys of a table rise strictly. -/
def KeysRise {α : Type} (l : List (Nat × α)) : Prop := (l.map (·.1)).Pairwise (· < ·)

theorem KeysRise.of_sublist {α : Type} {l l' : List (Nat × α)} (h : KeysRise l) (hl : l'.Sublist l) : KeysRise l' :=
  List.Pairwise.sublist (hl.map _) h

theorem keysRise_cons {α : Type} {e : Nat × α} {l : List (Nat × α)} :
    KeysRise (e :: l) ↔ (∀ x ∈ l, e.1 < x.1) ∧ KeysRise l := by
  simp [KeysRise, List.pairwise_cons]

/-- Every key of a written table is the key written or one that was there. -/
theorem fst_of_mem_tblSet {α : Type} {l : List (Nat × α)} {i : Nat} {a : α} {x : Nat × α} (h : x ∈ tblSet l i a) :
    x.1 = i ∨ x ∈ l := by
  induction l with
  | nil => exact .inl (by rw [List.mem_singleton.1 h])
  | cons e l ih =>
    simp only [tblSet] at h
    split at h
    · rcases List.mem_cons.1 h with rfl | h
      · exact .inl rfl
      · exact .inr (.tail _ h)
    · split at h
      · rcases List.mem_cons.1 h with rfl | h
        · exact .inl rfl
        · exact .inr h
      · rcases List.mem_cons.1 h with rfl | h
        · exact .inr (.head _)
        · exact (ih h).imp_right (.tail _)

theorem KeysRise.tblSet {α : Type} {l : List (Nat × α)} (h : KeysRise l) (i : Nat) (a : α) : KeysRise (tblSet l i a) := by
  induction l with
  | nil => exact List.pairwise_singleton _ _
  | cons e l ih =>
    obtain ⟨he, hl⟩ := keysRise_cons.1 h
    simp only [Machine.tblSet]
    split
    · next hk => exact keysRise_cons.2 ⟨fun x hx => hk ▸ he x hx, hl⟩
    · split
      · next hi =>
        refine keysRise_cons.2 ⟨fun x hx => ?_, h⟩
        rcases List.mem_cons.1 hx with rfl | hx
        · exact hi
        · exact hi.trans (he x hx)
      · refine keysRise_cons.2 ⟨fun x hx => ?_, ih hl⟩
        rcases fst_of_mem_tblSet hx with hx | hx
        · rw [hx]; omega
        · exact he x hx

theorem tblErase_sublist {α : Type} (l : List (Nat × α)) (i : Nat) : (tblErase l i).Sublist l := by
  induction l with
  | nil => exact .slnil
  | cons e l ih =>
    simp only [tblErase]
    split
    · exact List.sublist_cons_self _ _
    · exact ih.cons_cons _

theorem KeysRise.tblErase {α : Type} {l : List (Nat × α)} (h : KeysRise l) (i : Nat) : KeysRise (tblErase l i) :=
  h.of_sublist (tblErase_sublist l i)

theorem KeysRise.filter {α : Type} {l : List (Nat × α)} (h : KeysRise l) (p : Nat × α → Bool) : KeysRise (l.filter p) :=
  h.of_sublist List.filter_sublist

theorem KeysRise.map_snd {α : Type} {l : List (Nat × α)} (h : KeysRise l) {f : Nat × α → Nat × α} (hf : ∀ e, (f e).1 = e.1) :
    KeysRise (l.map f) := by
  simpa only [KeysRise, List.map_map, Function.comp_def, hf] using h

/-! ### The parts of the canonical form -/

namespace Canonical

variable {s s' : State}

protected theorem mem (h : Canonical s) : Memory.wf s.mem = true := h.1

protected theorem threads (h : Canonical s) : KeysRise s.threads := h.2.1

protected theorem ctxs (h : Canonical s) : KeysRise s.ctxs := h.2.2

/-- The fields other than memory, threads and contexts may be anything. -/
protected theorem frame {cycle cursor nonce : Nat} {focus : Focus} {pend : List Pend} {agenda : List Happening}
    {outbox : List (Nat × Instr)} {poison : List Nat} {fresh : List Host.Cell} {parts : List (Nat × Part)}
    {cores : List (Nat × CoreSt)} {regions : List (Nat × Region)} {ports : List (Nat × Port)} {trapqs : List (Nat × TrapQ)}
    {sets : List Machine.PSet} {vds : List (Nat × Vd)} {grants : List Grant} {rings : List (Nat × Ring)}
    {links : List (Nat × Link)} {counts : List InCount} {spdm : Spdm} {dev : Dev} (h : Canonical s) :
    Canonical { s with cycle, cursor, nonce, focus, pend, agenda, outbox, poison, fresh, parts, cores, regions, ports, trapqs,
                       sets, vds, grants, rings, links, counts, spdm, dev } :=
  h

protected theorem withMem {m : List Host.Cell} (h : Canonical s) (hm : Memory.wf m = true) : Canonical { s with mem := m } :=
  ⟨hm, h.2⟩

protected theorem withThreads {l : List (Nat × Thread)} (h : Canonical s) (hl : KeysRise l) : Canonical { s with threads := l } :=
  ⟨h.mem, hl, h.ctxs⟩

protected theorem withCtxs {l : List (Nat × Ctx)} (h : Canonical s) (hl : KeysRise l) : Canonical { s with ctxs := l } :=
  ⟨h.mem, h.threads, hl⟩

protected theorem writeMem {k : Nat} {bs : List Byte} (h : Canonical s) : Canonical { s with mem := memWrite s.mem k bs } :=
  h.withMem (memWrite_wf k bs h.mem)

protected theorem zeroMem {k n : Nat} (h : Canonical s) : Canonical { s with mem := memZero s.mem k n } :=
  h.withMem (memZero_wf k n h.mem)

protected theorem copyMem {a b n : Nat} (h : Canonical s) : Canonical { s with mem := memCopy s.mem a b n } :=
  h.withMem (memCopy_wf a b n h.mem)

/-! ### How a state is put together -/

protected theorem ite {p : Prop} [Decidable p] (h : Canonical s) (h' : Canonical s') : Canonical (if p then s else s') := by
  split
  · exact h
  · exact h'

/-- The state that a pair begins with. -/
protected theorem left {α : Type} {p : State × α} {a : α} (h : Canonical p.1) (e : p = (s, a) := by assumption) : Canonical s := by
  rw [e] at h
  exact h

/-- The state that a pair ends with. -/
protected theorem right {α : Type} {p : α × State} {a : α} (h : Canonical p.2) (e : p = (a, s) := by assumption) : Canonical s := by
  rw [e] at h
  exact h

protected theorem foldl {α : Type} {f : State → α → State} {l : List α} (h : Canonical s)
    (hf : ∀ {s a}, Canonical s → Canonical (f s a)) : Canonical (l.foldl f s) := by
  induction l generalizing s with
  | nil => exact h
  | cons a l ih => exact ih (hf h)

end Canonical

/-- A meaning keeps the canonical form: the next state that it answers, if it answers one, is canonical. -/
inductive Keeps : Res → Prop
  | next {s : State} (h : Canonical s) : Keeps (.next s)
  | fault {r : Fault} : Keeps (.fault r)
  | refused {r : Refusal} : Keeps (.refused r)

protected theorem Keeps.ite {p : Prop} [Decidable p] {r r' : Res} (h : Keeps r) (h' : Keeps r') : Keeps (if p then r else r') := by
  split
  · exact h
  · exact h'

theorem Keeps.canonical {r : Res} {s : State} (h : Keeps r) (e : r = .next s) : Canonical s := by
  subst e
  cases h with
  | next h => exact h

/-! ### Tables -/

protected theorem Canonical.setThread {s : State} {t : Thread} (h : Canonical s) : Canonical (setThread s t) :=
  h.withThreads (h.threads.tblSet _ _)

protected theorem Canonical.modThread {s : State} {tid : Nat} {f : Thread → Thread} (h : Canonical s) :
    Canonical (modThread s tid f) := by
  unfold modThread
  split
  · exact h.withThreads (h.threads.tblSet _ _)
  · exact h

protected theorem Canonical.dropThread {s : State} {tid : Nat} (h : Canonical s) : Canonical (dropThread s tid) :=
  h.withThreads (h.threads.tblErase _)

protected theorem Canonical.setCtx {s : State} {c : Nat} {x : Ctx} (h : Canonical s) : Canonical (setCtx s c x) :=
  h.withCtxs (h.ctxs.tblSet _ _)

end Sys2Proof.Safety
end

section
/-! SUPPORT. The state and its operations: every operation keeps the canonical form. -/

namespace Sys2Proof.Safety

open Sys2Proof Sys2Proof.Machine

protected theorem Canonical.modCtx {s : State} {c : Nat} {f : Ctx → Ctx} (hs : Canonical s) : Canonical (modCtx s c f) := by
  unfold modCtx
  split
  · exact hs.setCtx
  · exact hs

protected theorem Canonical.setPart {s : State} {core p : Nat} {x : Part} (hs : Canonical s) : Canonical (setPart s core p x) :=
  hs.frame

protected theorem Canonical.modPart {s : State} {core p : Nat} {f : Part → Part} (hs : Canonical s) : Canonical (modPart s core p f) :=
  hs.setPart

protected theorem Canonical.setCore {s : State} {core : Nat} {x : CoreSt} (hs : Canonical s) : Canonical (setCore s core x) :=
  hs.frame

protected theorem Canonical.modCore {s : State} {core : Nat} {f : CoreSt → CoreSt} (hs : Canonical s) : Canonical (modCore s core f) :=
  hs.setCore

protected theorem Canonical.setRegion {s : State} {g : Nat} {x : Region} (hs : Canonical s) : Canonical (setRegion s g x) :=
  hs.frame

protected theorem Canonical.modRegion {s : State} {g : Nat} {f : Region → Region} (hs : Canonical s) : Canonical (modRegion s g f) :=
  hs.setRegion

protected theorem Canonical.setPort {s : State} {p : Nat} {x : Port} (hs : Canonical s) : Canonical (setPort s p x) :=
  hs.frame

protected theorem Canonical.modPort {s : State} {p : Nat} {f : Port → Port} (hs : Canonical s) : Canonical (modPort s p f) :=
  hs.setPort

protected theorem Canonical.setTrapQ {s : State} {q : Nat} {x : TrapQ} (hs : Canonical s) : Canonical (setTrapQ s q x) :=
  hs.frame

protected theorem Canonical.modVd {s : State} {v : Nat} {f : Vd → Vd} (hs : Canonical s) : Canonical (modVd s v f) :=
  hs.frame

protected theorem Canonical.countCycles {s : State} {g ctx n : Nat} (hs : Canonical s) : Canonical (countCycles s g ctx n) :=
  hs.modRegion

protected theorem Canonical.bump {s : State} (hs : Canonical s) : Canonical (bump s) :=
  hs.frame

protected theorem Canonical.post {s : State} {due key : Nat} {what : Instr} {who : Focus} (hs : Canonical s) :
    Canonical (post s due key what who) :=
  hs.frame

protected theorem Canonical.postFirst {s : State} {n key : Nat} {what : Instr} (hs : Canonical s) : Canonical (postFirst s n key what) :=
  hs.frame

protected theorem Canonical.after {s : State} {n : Nat} {what : Instr} {who : Focus} (hs : Canonical s) :
    Canonical (after s n what who) :=
  hs.post

protected theorem Canonical.wakeRoute {t : Trip} {start : Nat} {l : List (Nat × CoreSt)} {s : State} (hs : Canonical s) :
    Canonical (wakeRoute t start l s) := by
  induction l generalizing s with
  | nil => exact hs
  | cons v l ih =>
    obtain ⟨a, b⟩ := v
    exact ih (.ite hs.post hs)

protected theorem Canonical.sendOn {yFirst : Bool} {s : State} {wait src dst payload key : Nat} {what : Instr} {who : Focus}
    (hs : Canonical s) : Canonical (sendOn yFirst s wait src dst payload key what who) :=
  hs.frame.wakeRoute.frame.bump

protected theorem Canonical.sendAfter {s : State} {wait src dst payload key : Nat} {what : Instr} {who : Focus} (hs : Canonical s) :
    Canonical (sendAfter s wait src dst payload key what who) :=
  hs.sendOn

protected theorem Canonical.send {s : State} {src dst payload key : Nat} {what : Instr} {who : Focus} (hs : Canonical s) :
    Canonical (send s src dst payload key what who) :=
  hs.sendAfter

protected theorem Canonical.putOnLink {s : State} {l : Nat} {k : Link} {w : Waiting} (hs : Canonical s) :
    Canonical (putOnLink s l k w) :=
  .ite hs.frame.after hs.frame

protected theorem Canonical.routeOut {s : State} {w : Waiting} (hs : Canonical s) : Canonical (routeOut s w) := by
  unfold routeOut
  split
  · exact hs.putOnLink.bump
  · exact hs.frame.bump

protected theorem Canonical.emit {s : State} {d : Nat} {i : Instr} (hs : Canonical s) : Canonical (emit s d i) :=
  hs.routeOut

protected theorem Canonical.routeAll {l : List Waiting} {s : State} (hs : Canonical s) : Canonical (routeAll l s) := by
  induction l generalizing s with
  | nil => exact hs
  | cons v l ih => exact ih hs.routeOut

protected theorem Canonical.retryRoutes {s : State} (hs : Canonical s) : Canonical (retryRoutes s) :=
  hs.frame.routeAll

protected theorem Canonical.enterLine {s : State} {core line : Nat} (hs : Canonical s) : Canonical (enterLine s core line) :=
  hs.modCore

protected theorem Canonical.leaveLine {s : State} {core line : Nat} (hs : Canonical s) : Canonical (leaveLine s core line) :=
  hs.modCore

protected theorem Canonical.placeRec {s : State} {q : Nat} {r : TrapRec} (hs : Canonical s) : Canonical (placeRec s q r) :=
  .ite hs.setTrapQ hs.setTrapQ.writeMem

protected theorem Canonical.insertWaiting {q : Nat} {l : List TrapRec} {s : State} (hs : Canonical s) :
    Canonical (insertWaiting q l s) := by
  induction l generalizing s with
  | nil => exact hs
  | cons v l ih => exact .ite (ih hs.setTrapQ.placeRec.modThread) hs

protected theorem Canonical.retryRecs {s : State} {q : Nat} (hs : Canonical s) : Canonical (retryRecs s q) :=
  hs.insertWaiting

protected theorem Canonical.addRec {s : State} {q : Nat} {r : TrapRec} (hs : Canonical s) : Canonical (addRec s q r) :=
  (Canonical.ite hs.setTrapQ hs.setTrapQ.modThread).retryRecs

protected theorem Canonical.countMore {s : State} {q ctx cyc : Nat} (hs : Canonical s) : Canonical (countMore s q ctx cyc) := by
  dsimp only [countMore]
  split
  · exact hs.setTrapQ
  · exact .ite hs.setTrapQ hs.setTrapQ.writeMem

protected theorem Canonical.raiseFatal {s : State} {ctx core part tid pc code addr : Nat} (hs : Canonical s) :
    Canonical (raiseFatal s ctx core part tid pc code addr) := by
  fun_cases raiseFatal s ctx core part tid pc code addr with
  | case1 | case2 => exact hs
  | case3 => exact hs.setCtx.countMore
  | case4 => exact hs.setCtx.modPart.addRec.post.bump

protected theorem Canonical.fatalAt {s : State} {t : Thread} {code addr : Nat} (hs : Canonical s) : Canonical (fatalAt s t code addr) :=
  hs.modThread.raiseFatal

protected theorem Canonical.leaveFault {s : State} {t : Thread} {target : Nat} (hs : Canonical s) : Canonical (leaveFault s t target) :=
  hs.fatalAt

protected theorem Canonical.stopSoon {s : State} {tid : Nat} {st : AckStatus} (hs : Canonical s) : Canonical (stopSoon s tid st) :=
  .ite hs.modThread hs

protected theorem Canonical.fatalLate {s : State} {tid code addr : Nat} (hs : Canonical s) : Canonical (fatalLate s tid code addr) := by
  unfold fatalLate
  split
  · exact hs.fatalAt
  · exact hs

protected theorem Canonical.takeTrap {s : State} {t : Thread} {cause : Nat} {value : Word} {ret : BitVec 14} (hs : Canonical s) :
    Canonical (takeTrap s t cause value ret) := by
  unfold takeTrap
  split
  · exact .ite hs.setThread hs.setThread.fatalAt
  · exact hs.setThread

protected theorem Canonical.returnFromTrap {s : State} {t : Thread} (hs : Canonical s) : Canonical (returnFromTrap s t) :=
  .ite hs.fatalAt (.ite hs.leaveFault hs.setThread)

protected theorem Canonical.retire {s : State} {t : Thread} (hs : Canonical s) : Canonical (retire s t) := by
  unfold retire
  split
  · exact .ite hs.setThread.fatalAt hs.takeTrap
  · exact .ite hs.setThread.leaveFault hs.setThread

protected theorem Canonical.retireReg {s : State} {t : Thread} {d : BitVec 4} {v : Word} (hs : Canonical s) :
    Canonical (retireReg s t d v) :=
  hs.retire

protected theorem Canonical.complete {s : State} {t : Thread} {c : Completion} (hs : Canonical s) : Canonical (complete s t c) := by
  unfold complete
  split
  · exact hs.retire
  · exact hs.takeTrap
  · exact hs.retire.fatalLate
  · exact hs.modCtx.setThread.bump

protected theorem Canonical.wait {s : State} {t : Thread} {w : Wait} (hs : Canonical s) : Canonical (wait s t w) :=
  hs.setThread

protected theorem Canonical.scalar {g : BitVec 5} {s : State} {body : State → Thread → State} (hs : Canonical s)
    (hbody : ∀ {s t}, Canonical s → Canonical (body s t)) : Keeps (scalar g s body) := by
  fun_cases scalar g s body with
  | case1 => exact .next (hbody hs)
  | case2 => exact .next hs.retire
  | case3 | case4 => exact .fault

end Sys2Proof.Safety
end

section
/-! SUPPORT. Addresses: every operation keeps the canonical form. -/

namespace Sys2Proof.Safety

open Sys2Proof Sys2Proof.Machine

protected theorem Canonical.clearPoison {s : State} {k n : Nat} (hs : Canonical s) : Canonical (clearPoison s k n) :=
  hs.frame

protected theorem Canonical.addPoison {s : State} {l : List Nat} (hs : Canonical s) : Canonical (addPoison s l) := by
  induction l generalizing s with
  | nil => exact hs
  | cons v l ih => exact ih hs.frame

protected theorem Canonical.putBytes {s : State} {k : Nat} {bs : List Byte} (hs : Canonical s) : Canonical (putBytes s k bs) :=
  hs.writeMem.clearPoison

end Sys2Proof.Safety
end

section
/-! SUPPORT. Homes, packets and faults: every operation keeps the canonical form. -/

namespace Sys2Proof.Safety

open Sys2Proof Sys2Proof.Machine

protected theorem Canonical.orException {s : State} {g f : Nat} (hs : Canonical s) : Canonical (orException s g f) :=
  .ite hs (hs.withMem (memPut_wf _ _ hs.mem))

protected theorem Canonical.applyAt {s : State} {k g : Nat} {a : Access} {lim : Nat} (hs : Canonical s) :
    Canonical (applyAt s k g a lim).st := by
  fun_cases applyAt s k g a lim with
  | case1 | case2 | case4 | case5 | case7 | case9 => exact hs
  | case3 => exact hs.putBytes
  | case6 => exact .ite hs.writeMem.orException hs.writeMem
  | case8 | case10 => exact hs.writeMem

protected theorem Canonical.backTo {s : State} {home : ServedAt} {a : Access} {payload : Nat} {what : Instr} (hs : Canonical s) :
    Canonical (backTo s home a payload what) :=
  .ite hs.post hs.sendAfter

protected theorem Canonical.ackTo {s : State} {home : ServedAt} {a : Access} {st : AckStatus} (hs : Canonical s) :
    Canonical (ackTo s home a st) := by
  unfold ackTo
  split
  · exact hs.stopSoon.backTo
  · exact hs.backTo
  · exact hs.backTo
  · exact hs.emit
  · exact hs

protected theorem Canonical.takeOseq {s : State} {ctx obj : Nat} (hs : Canonical s) : Canonical (takeOseq s ctx obj).1 := by
  fun_cases takeOseq s ctx obj with
  | case1 => exact hs.setCtx
  | case2 | case3 => exact hs

protected theorem Canonical.setCount {s : State} {c : InCount} (hs : Canonical s) : Canonical (setCount s c) :=
  hs.frame

protected theorem Canonical.countIn {s : State} {dev tid iv : Nat} (hs : Canonical s) : Canonical (countIn s dev tid iv) :=
  hs.setCount

protected theorem Canonical.countServed {s : State} {a : Access} (hs : Canonical s) : Canonical (countServed s a) :=
  .ite hs.countIn hs

protected theorem Canonical.answer {home : ServedAt} {a : Access} {r : Served} (hr : Canonical r.st) : Canonical (answer home a r) := by
  fun_cases answer home a r with
  | case1 => exact (Canonical.ite hr.countServed hr).backTo
  | case2 => exact (Canonical.ite hr.countServed hr).takeOseq.emit
  | case3 => exact (Canonical.ite hr.countServed hr).takeOseq.backTo
  | case4 => exact (Canonical.ite hr.countServed hr).modPart.ackTo
  | case5 | case6 => exact (Canonical.ite hr.countServed hr).ackTo

protected theorem Canonical.refuse {s : State} {home : ServedAt} {a : Access} {st : AckStatus} (hs : Canonical s) :
    Canonical (refuse s home a st) := by
  fun_cases refuse s home a st with
  | case1 | case3 => exact hs.backTo
  | case2 => exact hs.emit
  | case4 => exact hs.ackTo

protected theorem Canonical.faultRec {s : State} {a : Access} {type cause kind va : Nat} (hs : Canonical s) :
    Canonical (faultRec s a type cause kind va) :=
  hs.addRec.bump

protected theorem Canonical.modEntry {s : State} {core p seq : Nat} {f : QEntry → QEntry} (hs : Canonical s) :
    Canonical (modEntry s core p seq f) :=
  hs.modPart

protected theorem Canonical.translationFault {s : State} {p : Nat} {a : Access} {cause va : Nat} (hs : Canonical s) :
    Canonical (translationFault s p a cause va) := by
  fun_cases translationFault s p a cause va with
  | case1 => exact hs.modThread.faultRec
  | case2 => exact hs.modEntry.faultRec
  | case3 => exact hs.frame.faultRec
  | case4 => exact hs.refuse
  | case5 => exact hs.modPort.faultRec

protected theorem Canonical.setEntry {s : State} {at' e : Nat} (hs : Canonical s) : Canonical (setEntry s at' e) :=
  hs.writeMem

protected theorem Canonical.takeFrame {s s' : State} {tier size pa : Nat} (hs : Canonical s)
    (e : takeFrame s tier size = some (pa, s') := by assumption) : Canonical s' := by
  unfold takeFrame at e
  dsimp only at e
  split at e
  · cases e
  · cases e
    exact hs.frame

protected theorem Canonical.freeFrame {s : State} {tier size pa : Nat} (hs : Canonical s) : Canonical (freeFrame s tier size pa) :=
  hs.frame

protected theorem Canonical.movePoison {s : State} {src dst n : Nat} (hs : Canonical s) : Canonical (movePoison s src dst n) :=
  hs.clearPoison.addPoison

protected theorem Canonical.useLeaf {s s' : State} {p ctx cls va pa : Nat} {k : WalkKind} {l : Leaf} (hs : Canonical s)
    (e : useLeaf s p ctx cls va k l = some (pa, s') := by assumption) : Canonical s' := by
  unfold useLeaf at e
  dsimp only at e
  split at e
  · cases e
  · next pa s1 he =>
    have h1 : Canonical s1 := by
      split at he
      · exact hs.takeFrame
      · cases he
        exact hs
    cases e
    exact (Canonical.ite (Canonical.ite h1.copyMem.movePoison h1).setEntry.frame
      (Canonical.ite h1.copyMem.movePoison h1).setEntry).modPort

protected theorem Canonical.takePage {s : State} {p ctx cls va : Nat} {l : Leaf} {pa : Nat} {w : List Access} (hs : Canonical s) :
    Canonical (takePage s p ctx cls va l pa w) := by
  have h1 : Canonical { s with mem := memZero s.mem (tierKey l.tier pa) l.size } := hs.zeroMem
  exact h1.frame.clearPoison.frame.after

protected theorem Canonical.afterWalk {s : State} {p : Nat} {a : Access} {ctx cls va : Nat} {k : WalkKind} {l : Leaf}
    (hs : Canonical s) : Canonical (afterWalk s p a ctx cls va k l).1 := by
  fun_cases afterWalk s p a ctx cls va k l with
  | case1 => exact hs
  | case2 => exact hs.useLeaf
  | case3 => exact hs.useLeaf.takePage

protected theorem Canonical.unitWalk {s : State} {ctx root cls va : Nat} {k : WalkKind} (hs : Canonical s) :
    Canonical (unitWalk s ctx root cls va k).1 := by
  fun_cases unitWalk s ctx root cls va k with
  | case1 | case2 => exact hs
  | case3 => exact hs.useLeaf
  | case4 => exact hs.useLeaf.takePage

protected theorem Canonical.unitKey {s : State} {ctx core p r4 r5 r6 da : Nat} {k : WalkKind} (hs : Canonical s) :
    Canonical (unitKey s ctx core p r4 r5 r6 da k).1 := by
  unfold unitKey
  split
  · exact hs
  · exact hs
  · exact hs
  · exact hs.unitWalk
  · exact hs
  · exact hs

protected theorem Canonical.unitRead {s : State} {ctx core p r4 r5 r6 n n' n'' : Nat} (hs : Canonical s) :
    Canonical (unitRead s ctx core p r4 r5 r6 n n' n'').1 := by
  induction n generalizing s n' n'' with
  | zero => exact hs
  | succ n ih =>
    unfold unitRead
    split
    · exact hs
    · split
      · exact hs.unitKey.left
      · dsimp only
        split
        · exact hs.unitKey.left
        · exact ih hs.unitKey.left

protected theorem Canonical.translate {s : State} {p : Nat} {a : Access} {ctx cls va : Nat} {k : WalkKind} (hs : Canonical s) :
    Canonical (Machine.translate s p a ctx cls va k).1 := by
  fun_cases Machine.translate s p a ctx cls va k with
  | case1 => exact hs
  | case2 => exact hs.frame
  | case3 | case6 => exact hs.bump.frame
  | case4 => exact hs.bump.setEntry
  | case5 => exact hs.bump
  | case7 => exact hs.bump.afterWalk

protected theorem Canonical.answerAt {s : State} {p wait key : Nat} {a : Access} (hs : Canonical s) :
    Canonical (answerAt s p wait key a) :=
  hs.applyAt.answer

protected theorem Canonical.servePort {s : State} {p : Nat} {a : Access} {ctx cls va : Nat} (hs : Canonical s) :
    Canonical (servePort s p a ctx cls va) := by
  fun_cases servePort s p a ctx cls va with
  | case1 => exact hs.modPort
  | case2 => exact hs.modCtx.post
  | case3 => exact hs.refuse
  | case4 => exact hs.translate.left.refuse
  | case5 => exact hs.translate.left.sendAfter
  | case6 => exact hs.translate.left.answerAt
  | case7 => exact hs.translate.left.translationFault
  | case8 => exact hs.translate.left

protected theorem Canonical.noteFresh {s : State} {k n : Nat} (hs : Canonical s) : Canonical (noteFresh s k n) :=
  hs.frame

protected theorem Canonical.scratchAccess {s : State} {c off : Nat} {a : Access} (hs : Canonical s) :
    Canonical (scratchAccess s c off a) :=
  .ite hs.modCore (Canonical.ite hs.noteFresh hs).applyAt.answer

protected theorem Canonical.deliverHome {s : State} {a : Access} {ctx p : Nat} {h : Home} (hs : Canonical s) :
    Canonical (deliverHome s a ctx p h) := by
  unfold deliverHome
  split
  · exact hs.refuse
  · exact .ite hs.refuse hs.scratchAccess
  · exact .ite hs.refuse hs.applyAt.answer
  · exact hs.applyAt.answer
  · exact hs.servePort
  · exact hs.refuse

protected theorem Canonical.savePacket {s : State} {ctx : Nat} {i : Instr} (hs : Canonical s) : Canonical (savePacket s ctx i) :=
  hs.modCtx

protected theorem Canonical.deliverWindow {s : State} {a : Access} (hs : Canonical s) : Canonical (deliverWindow s a) := by
  unfold deliverWindow
  split
  · exact .ite hs hs.refuse
  · exact .ite hs (.ite hs.savePacket hs.deliverHome)

protected theorem Canonical.deliver {s : State} {a : Access} (hs : Canonical s) : Canonical (deliver s a) := by
  unfold deliver
  split
  · exact hs.answerAt
  · exact .ite hs.savePacket (.ite (.ite hs.deliverWindow (.ite hs.emit hs.refuse)) hs.deliverHome)

protected theorem Canonical.deliverAll {s : State} {l : List Access} (hs : Canonical s) : Canonical (deliverAll s l) := by
  induction l generalizing s with
  | nil => exact hs
  | cons v l ih => exact ih hs.deliver

protected theorem Canonical.sendAccess {s : State} {a : Access} (hs : Canonical s) : Canonical (sendAccess s a) := by
  fun_cases sendAccess s a with
  | case1 | case3 => exact hs.post
  | case2 | case4 | case6 => exact (Canonical.ite hs.enterLine hs).sendOn
  | case5 => exact (Canonical.ite hs.enterLine hs).post

protected theorem Canonical.unitWrite {s : State} {ctx core p r4 r5 r6 da : Nat} {bs : List Byte} (hs : Canonical s) :
    Canonical (unitWrite s ctx core p r4 r5 r6 da bs) := by
  fun_cases unitWrite s ctx core p r4 r5 r6 da bs with
  | case1 => exact hs.deliver
  | case2 => exact hs.unitKey.left.putBytes
  | case3 => exact hs.unitKey.left

end Sys2Proof.Safety
end

section
/-! SUPPORT. The order log: every operation keeps the canonical form. -/

namespace Sys2Proof.Safety

open Sys2Proof Sys2Proof.Machine

protected theorem Canonical.ctxRead {s : State} {c : Nat} {x : Ctx} {da n : Nat} (hs : Canonical s) : Canonical (ctxRead s c x da n).1 :=
  hs.unitRead

protected theorem Canonical.ctxTouch {s : State} {c : Nat} {x : Ctx} {da : Nat} (hs : Canonical s) : Canonical (ctxTouch s c x da) :=
  hs.ctxRead

protected theorem Canonical.ctxWrite {s : State} {c : Nat} {x : Ctx} {da : Nat} {bs : List Byte} (hs : Canonical s) :
    Canonical (ctxWrite s c x da bs) :=
  hs.unitWrite

protected theorem Canonical.touchHeads {c : Nat} {x : Ctx} {l : List Nat} {s : State} (hs : Canonical s) :
    Canonical (touchHeads c x l s) := by
  induction l generalizing s with
  | nil => exact hs
  | cons v l ih => exact ih hs.ctxTouch

protected theorem Canonical.appendRec {s : State} {c : Nat} {x : Ctx} {g tid : Nat} {r0 : LogRec} (hs : Canonical s) :
    Canonical (appendRec s c x g tid r0) := by
  unfold appendRec
  refine Canonical.ctxWrite ?_
  split
  · exact hs.setCtx.ctxWrite.ctxWrite
  · exact hs.setCtx.ctxWrite

protected theorem Canonical.askRecheck {s : State} {c : Nat} (hs : Canonical s) : Canonical (askRecheck s c) :=
  .ite hs hs.after

protected theorem Canonical.finish {s : State} {t : Thread} {r : LogRec} {c : Completion} (hs : Canonical s) :
    Canonical (finish s t r c) := by
  unfold finish
  split
  · exact hs.complete
  · exact .ite (.ite hs.appendRec.complete hs.setCtx.wait.askRecheck) hs.complete

protected theorem Canonical.wakeTurns {c : Nat} {l : List (Nat × Thread)} {s : State} (hs : Canonical s) : Canonical (wakeTurns c l s) := by
  induction l generalizing s with
  | nil => exact hs
  | cons v l ih =>
    obtain ⟨a, b⟩ := v
    unfold wakeTurns
    refine ih ?_
    split
    · exact .ite hs.post hs
    · exact .ite hs.post hs
    · exact hs

protected theorem Canonical.consumeRec {s : State} {c : Nat} {x : Ctx} {g idx : Nat} {e : LogRead} (hs : Canonical s) :
    Canonical (consumeRec s c x g idx e) :=
  hs.setCtx.ctxWrite.wakeTurns

protected theorem Canonical.atTurn {s : State} {t : Thread} {x : Ctx} {type form : Nat} {obj : Word}
    {k : State → Thread → Nat → LogRead → State} (hs : Canonical s) (hk : ∀ {s t n o}, Canonical s → Canonical (k s t n o)) :
    Canonical (atTurn s t x type form obj k) := by
  unfold atTurn
  split
  · exact hk hs
  · exact hs.wait.after
  · exact hs.fatalAt

protected theorem Canonical.inTurn {s : State} {t : Thread} {x : Ctx} {type form : Nat} {obj : Word}
    {k : State → Thread → LogRead → State} (hs : Canonical s) (hk : ∀ {s t o}, Canonical s → Canonical (k s t o)) :
    Canonical (inTurn s t x type form obj k) :=
  hs.atTurn fun hs => hk hs.consumeRec

protected theorem Canonical.retryRing {c : Nat} {l : List (Nat × Thread)} {s : State} (hs : Canonical s) : Canonical (retryRing c l s) := by
  induction l generalizing s with
  | nil => exact hs
  | cons v l ih =>
    obtain ⟨a, b⟩ := v
    unfold retryRing
    refine ih ?_
    split
    · exact .ite hs.appendRec.complete hs
    · exact hs

end Sys2Proof.Safety
end

section
/-! SUPPORT. Acceptors: every operation keeps the canonical form. -/

namespace Sys2Proof.Safety

open Sys2Proof Sys2Proof.Machine

protected theorem Canonical.setAcc {s : State} {g : Nat} {c : AccCfg} (hs : Canonical s) : Canonical (setAcc s g c) :=
  hs.modRegion

protected theorem Canonical.dirMod {s : State} {acc : Nat} {f : DirRec → DirRec} (hs : Canonical s) : Canonical (dirMod s acc f) :=
  hs.modRegion

protected theorem Canonical.accWrite {s : State} {owner acc da : Nat} {bs : List Byte} (hs : Canonical s) :
    Canonical (accWrite s owner acc da bs) :=
  hs.unitWrite

protected theorem Canonical.accRead {s : State} {owner acc da n : Nat} (hs : Canonical s) : Canonical (accRead s owner acc da n).1 :=
  hs.unitRead

protected theorem Canonical.toMember {s : State} {core dev region payload : Nat} {i : Instr} (hs : Canonical s) :
    Canonical (toMember s core dev region payload i) :=
  .ite hs.send hs.emit

protected theorem Canonical.fromMember {s : State} {g dev core payload : Nat} {i : Instr} (hs : Canonical s) :
    Canonical (fromMember s g dev core payload i) :=
  .ite hs.send hs.emit

protected theorem Canonical.toEach {core payload : Nat} {mk : Nat → Nat → Instr} {n : Nat} {l : List (Nat × Nat)} {s : State}
    (hs : Canonical s) : Canonical (toEach core payload mk n l s) := by
  induction l generalizing n s with
  | nil => exact hs
  | cons v l ih =>
    obtain ⟨a, b⟩ := v
    exact ih hs.toMember

protected theorem Canonical.replyTo {s : State} {m : AMsg} {i : Instr} (hs : Canonical s) : Canonical (replyTo s m i) :=
  hs.fromMember

protected theorem Canonical.nackTo {s : State} {m : AMsg} {why high : Nat} (hs : Canonical s) : Canonical (nackTo s m why high) :=
  hs.replyTo

protected theorem Canonical.answerTo {s : State} {q : LReq} {b : MBody} (hs : Canonical s) : Canonical (answerTo s q b) :=
  hs.fromMember

protected theorem Canonical.writeArray {s : State} {g : Nat} {c : AccCfg} {e : SlotEntry} (hs : Canonical s) :
    Canonical (writeArray s g c e) :=
  .ite hs.setAcc hs.setAcc.sendAccess.sendAccess

protected theorem Canonical.arrayAcked {s : State} {g acc slot op : Nat} (hs : Canonical s) : Canonical (arrayAcked s g acc slot op) := by
  fun_cases arrayAcked s g acc slot op with
  | case1 => exact hs
  | case2 | case4 => exact hs.setAcc
  | case3 => exact hs.setAcc.sendAccess

protected theorem Canonical.noteAsk {s : State} {q : LReq} (hs : Canonical s) : Canonical (noteAsk s q) :=
  .ite hs hs.answerTo.after

protected theorem Canonical.keepWaiting {s : State} {g : Nat} {c : AccCfg} {q : LReq} (hs : Canonical s) :
    Canonical (keepWaiting s g c q) := by
  fun_cases keepWaiting s g c q with
  | case1 => exact hs.setAcc.noteAsk
  | case2 | case3 => exact hs.answerTo

protected theorem Canonical.beginRead {s : State} {g : Nat} {c : AccCfg} {slot : Nat} {ask : ArrayAsk} (hs : Canonical s) :
    Canonical (beginRead s g c slot ask) := by
  unfold beginRead
  refine Canonical.sendAccess ?_
  split
  · exact hs.setAcc.bump.noteAsk
  · exact hs.setAcc.bump

protected theorem Canonical.answerMsg {s : State} {m : AMsg} {below : Bool} {e : Option SlotEntry} (hs : Canonical s) :
    Canonical (answerMsg s m below e) := by
  unfold answerMsg
  split
  · exact hs.replyTo
  · exact .ite hs.replyTo hs.nackTo

protected theorem Canonical.learnFrom {s : State} {g : Nat} {c : AccCfg} {q : LReq} {slot : Nat} {e : Option SlotEntry}
    (hs : Canonical s) : Canonical (learnFrom s g c q slot e) := by
  fun_cases learnFrom s g c q slot e with
  | case1 | case2 | case5 | case7 | case8 | case9 | case10 | case11 | case12 | case13 | case14 | case15 => exact hs.answerTo
  | case3 | case6 | case16 => exact hs.keepWaiting
  | case4 => exact hs.beginRead

protected theorem Canonical.answerAsk {s : State} {g : Nat} {c : AccCfg} {ask : ArrayAsk} {e : Option SlotEntry} (hs : Canonical s) :
    Canonical (answerAsk s g c ask e) := by
  unfold answerAsk
  split
  · exact hs.answerMsg
  · exact hs.answerMsg
  · exact hs.learnFrom

protected theorem Canonical.readArray {s : State} {g : Nat} {c : AccCfg} {ask : ArrayAsk} (hs : Canonical s) :
    Canonical (readArray s g c ask) :=
  .ite hs.answerAsk hs.beginRead

protected theorem Canonical.arrayRead {s : State} {g acc op : Nat} {r : LoadRes} (hs : Canonical s) :
    Canonical (arrayRead s g acc op r) := by
  fun_cases arrayRead s g acc op r with
  | case1 | case2 => exact hs
  | case3 | case4 => exact hs.setAcc.replyTo
  | case5 => exact hs.setAcc.answerTo
  | case6 | case7 => exact hs.setAcc.answerAsk

protected theorem Canonical.requestDusk {d : Nat} {l : List Nat} {s : State} (hs : Canonical s) : Canonical (requestDusk d l s) := by
  induction l generalizing s with
  | nil => exact hs
  | cons v l ih =>
    unfold requestDusk
    refine ih ?_
    split
    · exact .ite hs.setCtx.post hs
    · exact hs

protected theorem Canonical.takeEpoch {s : State} {slot orig da : Nat} (hs : Canonical s) : Canonical (takeEpoch s slot orig da) := by
  unfold takeEpoch
  split
  · exact .ite hs hs.ctxTouch.setCtx.after.bump
  · exact hs

protected theorem Canonical.applySlot {s : State} {c : AccCfg} {e : SlotEntry} (hs : Canonical s) : Canonical (applySlot s c e) := by
  fun_cases applySlot s c e with
  | case1 => exact hs.requestDusk
  | case2 => exact hs.takeEpoch
  | case3 | case5 => exact hs
  | case4 => exact hs.modVd.post

protected theorem Canonical.answerWaits {c : AccCfg} {l : List LReq} {s : State} (hs : Canonical s) : Canonical (answerWaits c l s).1 := by
  induction l generalizing s with
  | nil => exact hs
  | cons v l ih =>
    unfold answerWaits
    split
    · exact ih hs.answerTo
    · exact ih hs
    · exact ih hs

protected theorem Canonical.readAll {g acc : Nat} {l : List ArrayAsk} {s : State} (hs : Canonical s) : Canonical (readAll g acc l s) := by
  induction l generalizing s with
  | nil => exact hs
  | cons v l ih =>
    unfold readAll
    refine ih ?_
    split
    · exact hs.readArray
    · exact hs

protected theorem Canonical.serveWaits {s : State} {g acc : Nat} {known : List SlotEntry} (hs : Canonical s) :
    Canonical (serveWaits s g acc known) := by
  unfold serveWaits
  split
  · exact hs
  · exact hs.answerWaits.setAcc.readAll

protected theorem Canonical.tellQueue {e : SlotEntry} {l : List AMsg} {s : State} (hs : Canonical s) : Canonical (tellQueue e l s) := by
  induction l generalizing s with
  | nil => exact hs
  | cons v l ih => exact ih (.ite hs.replyTo hs)

protected theorem Canonical.moveFront {s : State} {g : Nat} {c : AccCfg} {known : List SlotEntry} (hs : Canonical s) :
    Canonical (moveFront s g c known) :=
  .ite hs.setAcc.serveWaits.post hs.setAcc.serveWaits

protected theorem Canonical.recordDecision {s : State} {g : Nat} {c : AccCfg} {d : SlotEntry} (hs : Canonical s) :
    Canonical (recordDecision s g c d) := by
  unfold recordDecision
  extract_lets fresh had e c1 c2 s1 s2 s3
  have h1 : Canonical s1 := .ite hs.setAcc hs.setAcc.writeArray
  have h3 : Canonical s3 := h1.moveFront.tellQueue
  exact .ite hs (.ite h3.applySlot h3)

protected theorem Canonical.chk {s : State} {m : AMsg} {k : AccCfg → SlotEntry → State} (hs : Canonical s)
    (hk : ∀ o o', Canonical (k o o')) : Canonical (chk s m k) := by
  fun_cases chk s m k with
  | case1 | case2 | case3 | case6 | case8 => exact hs.nackTo
  | case4 | case9 => exact hs.readArray
  | case5 => exact hs.replyTo
  | case7 | case10 => exact hk _ _

protected theorem Canonical.convCheck {s : State} {m : AMsg} {c : AccCfg} {v : Word} {o : Nat} {config : Bool} {k : State}
    (hs : Canonical s) (hk : Canonical k) : Canonical (convCheck s m c v o config k) := by
  fun_cases convCheck s m c v o config k with
  | case1 | case4 | case5 => exact hk
  | case2 | case3 | case6 => exact hs.nackTo

protected theorem Canonical.execPrepare {m : AMsg} {s : State} (hs : Canonical s) : Keeps (execPrepare m s) :=
  .next (hs.chk (fun _ _ => .ite hs.nackTo (Canonical.ite hs.setAcc.setAcc hs.setAcc).replyTo))

protected theorem Canonical.execAccept {m : AMsg} {s : State} (hs : Canonical s) : Keeps (execAccept m s) :=
  .next (hs.chk (fun _ _ => hs.convCheck (.ite hs.replyTo (.ite hs.nackTo hs.setAcc.replyTo))))

protected theorem Canonical.execPrepacc {m : AMsg} {s : State} (hs : Canonical s) : Keeps (execPrepacc m s) :=
  .next (hs.chk (fun _ _ => hs.convCheck hs.recordDecision.replyTo))

protected theorem Canonical.execDecided {m : AMsg} {s : State} (hs : Canonical s) : Keeps (execDecided m s) := by
  fun_cases execDecided m s with
  | case1 | case2 => exact .next hs
  | case3 => exact .next hs.recordDecision

protected theorem Canonical.grantLease {s : State} {g : Nat} {c : AccCfg} {m : AMsg} (hs : Canonical s) :
    Canonical (grantLease s g c m) :=
  hs.setAcc.replyTo.toEach.post

protected theorem Canonical.nextLease {s : State} {g acc : Nat} (hs : Canonical s) : Canonical (nextLease s g acc) := by
  fun_cases nextLease s g acc with
  | case1 => exact hs.grantLease
  | case2 | case3 => exact hs

protected theorem Canonical.execLease {m : AMsg} {s : State} (hs : Canonical s) : Keeps (execLease m s) := by
  fun_cases execLease m s with
  | case1 | case2 | case6 => exact .next hs.nackTo
  | case3 => exact .next hs.grantLease
  | case4 => exact .next hs.replyTo
  | case5 => exact .next hs.setAcc

protected theorem Canonical.execFreeze {m : AMsg} {expiry : Nat} {s : State} (hs : Canonical s) : Keeps (execFreeze m expiry s) := by
  fun_cases execFreeze m expiry s with
  | case1 | case2 => exact .next hs
  | case3 => exact .next hs.setAcc.replyTo.post

protected theorem Canonical.execLeaseRelease {m : AMsg} {s : State} (hs : Canonical s) : Keeps (execLeaseRelease m s) := by
  unfold execLeaseRelease
  split
  · exact .next hs
  · exact .next (.ite hs.setAcc.nextLease hs.setAcc)

protected theorem Canonical.execLeaseExpiry {region acc holder op : Nat} {s : State} (hs : Canonical s) :
    Keeps (execLeaseExpiry region acc holder op s) := by
  unfold execLeaseExpiry
  split
  · exact .next hs
  · exact .next (.ite hs.setAcc.nextLease hs.setAcc)

protected theorem Canonical.execLearnRequest {q : LReq} {s : State} (hs : Canonical s) : Keeps (execLearnRequest q s) := by
  fun_cases execLearnRequest q s with
  | case1 | case3 | case4 | case6 | case7 => exact .next hs.answerTo
  | case2 => exact .next hs.setAcc
  | case5 | case10 => exact .next hs.readArray
  | case8 | case9 => exact .next hs.keepWaiting

protected theorem Canonical.directoryBody {s : State} {q : LReq} (hs : Canonical s) : Canonical (directoryBody s q).1 := by
  fun_cases directoryBody s q with
  | case1 | case2 => exact hs
  | case3 | case4 => exact hs.accRead.left

protected theorem Canonical.execMemberQuery {q : LReq} {s : State} (hs : Canonical s) : Keeps (execMemberQuery q s) := by
  fun_cases execMemberQuery q s with
  | case1 => exact .next hs.directoryBody.answerTo
  | case2 | case3 | case4 | case5 | case7 | case8 => exact .next hs.answerTo
  | case6 => exact .next hs.readArray

protected theorem Canonical.execKeepalive {q : LReq} {s : State} (hs : Canonical s) : Keeps (execKeepalive q s) := by
  unfold execKeepalive
  split
  · exact .next hs
  · exact .next (.ite hs.answerTo.after hs)

protected theorem Canonical.statusTo {s : State} {m : AMsg} {code t : Nat} (hs : Canonical s) : Canonical (statusTo s m code t) :=
  hs.replyTo

protected theorem Canonical.registerAll {core : Nat} {m : AMsg} {c : AccCfg} {qa : Quorum} {qb : Option Quorum}
    {l : List (Nat × Nat)} {s : State} (hs : Canonical s) : Canonical (registerAll core m c qa qb l s) := by
  induction l generalizing s with
  | nil => exact hs
  | cons v l ih =>
    obtain ⟨a, b⟩ := v
    exact ih hs.toMember

protected theorem Canonical.reshapeEffect {s : State} {core : Nat} {m : AMsg} {q : Quorum} (hs : Canonical s) :
    Canonical (reshapeEffect s core m q) := by
  unfold reshapeEffect
  split
  · exact hs
  · extract_lets ep bs s1 s2 s3 s4
    have h4 : Canonical s4 := hs.accWrite.accWrite.accWrite.dirMod
    exact (Canonical.ite h4 h4.after).registerAll

protected theorem Canonical.execAccordRegister {m : AMsg} {cfg : Quorum} {next : Option Quorum} {size darr : Nat}
    {proto : Option Proto} {owner : Nat} {strict : Bool} {wsen desc : Nat} {s : State} (hs : Canonical s) :
    Keeps (execAccordRegister m cfg next size darr proto owner strict wsen desc s) := by
  fun_cases execAccordRegister m cfg next size darr proto owner strict wsen desc s with
  | case1 =>
    refine .next ?_
    split
    · exact .ite hs.reshapeEffect hs
    · exact hs
  | case2 | case3 | case5 => exact .next hs.statusTo
  | case4 => exact .next hs.dirMod.statusTo
  | case6 => exact .next hs.modRegion
  | case7 => exact .next (Canonical.ite hs.registerAll hs).moveFront
  | case8 => exact .next hs
  | case9 => exact .next (.ite hs hs.statusTo)
  | case10 => exact .next (.ite hs.modRegion hs.modRegion.statusTo)

protected theorem Canonical.tellClosed {m : AMsg} {l : List (Nat × Thread)} {s : State} (hs : Canonical s) :
    Canonical (tellClosed m l s) := by
  induction l generalizing s with
  | nil => exact hs
  | cons v l ih =>
    obtain ⟨a, b⟩ := v
    exact ih (.ite hs.send hs)

protected theorem Canonical.execAccordCloseAtMember {m : AMsg} {s : State} (hs : Canonical s) : Keeps (execAccordCloseAtMember m s) := by
  fun_cases execAccordCloseAtMember m s with
  | case1 => exact .next (Canonical.ite hs.dirMod hs).statusTo
  | case2 => exact .next hs.replyTo
  | case3 => exact .next hs.statusTo
  | case4 => exact .next (Canonical.ite hs.dirMod.frame.tellClosed hs.dirMod.frame).statusTo
  | case5 => exact .next hs.modRegion.statusTo

protected theorem Canonical.raiseTrunc {s : State} {g : Nat} {c : AccCfg} {t : Nat} (hs : Canonical s) :
    Canonical (raiseTrunc s g c t) :=
  hs.moveFront

protected theorem Canonical.execAccordTruncAtMember {m : AMsg} {s : State} (hs : Canonical s) : Keeps (execAccordTruncAtMember m s) := by
  fun_cases execAccordTruncAtMember m s with
  | case1 => exact .next (Canonical.ite hs.accWrite hs).statusTo
  | case2 => exact .next (.ite hs.replyTo hs.statusTo)
  | case3 => exact .next hs.raiseTrunc.statusTo

protected theorem Canonical.installB {m : AMsg} {q : Quorum} {l : List Nat} {s : State} (hs : Canonical s) :
    Canonical (installB m q l s) := by
  induction l generalizing s with
  | nil => exact hs
  | cons v l ih =>
    unfold installB
    refine ih ?_
    split
    · exact hs
    · exact .ite hs.moveFront hs.modRegion

protected theorem Canonical.askFronts {c : AccCfg} {n : Nat} {l : List (Nat × Nat)} {s : State} (hs : Canonical s) :
    Canonical (askFronts c n l s) := by
  induction l generalizing n s with
  | nil => exact hs
  | cons v l ih =>
    obtain ⟨a, b⟩ := v
    exact ih (.ite hs.emit hs)

protected theorem Canonical.frontReport {s : State} {acc member front : Nat} (hs : Canonical s) :
    Canonical (frontReport s acc member front) := by
  fun_cases frontReport s acc member front with
  | case1 | case2 | case3 => exact hs
  | case4 => exact hs.dirMod.post

protected theorem Canonical.execQuorumTakeover {acc : Nat} {s : State} (hs : Canonical s) : Keeps (execQuorumTakeover acc s) := by
  fun_cases execQuorumTakeover acc s with
  | case1 | case2 | case3 => exact .next hs
  | case4 => exact .next (.ite hs hs.askFronts.after)
  | case5 => exact .next (.ite hs.accWrite.accWrite.accWrite.accWrite.installB.registerAll
    hs.accWrite.accWrite.accWrite.accWrite.installB.registerAll)

end Sys2Proof.Safety
end

section
/-! SUPPORT. Accesses: every operation keeps the canonical form. -/

namespace Sys2Proof.Safety

open Sys2Proof Sys2Proof.Machine

protected theorem Canonical.sendCounts {s : State} {t : Thread} {l : List Peer} (hs : Canonical s) : Canonical (sendCounts s t l) := by
  induction l generalizing s with
  | nil => exact hs
  | cons v l ih => exact ih (.ite hs.post hs.emit)

protected theorem Canonical.startCount {s : State} {t : Thread} (hs : Canonical s) : Canonical (startCount s t) :=
  hs.setThread.sendCounts.after

protected theorem Canonical.endCount {s : State} {t : Thread} {got : List (Nat × Nat)} (hs : Canonical s) :
    Canonical (endCount s t got) :=
  hs.setThread

protected theorem Canonical.fenced {s : State} {t : Thread} {k : State → Thread → State} (hs : Canonical s)
    (hk : ∀ {s t}, Canonical s → Canonical (k s t)) : Canonical (fenced s t k) :=
  .ite (hk hs) (.ite (.ite (.ite hs.setThread (hk hs)) hs.wait) (.ite hs.startCount hs.setThread.after))

protected theorem Canonical.askClosed {up : Bool} {s : State} {t : Thread} {iv : Nat} (hs : Canonical s) :
    Canonical (askClosed up s t iv) :=
  .ite hs hs.setThread.sendCounts.after

protected theorem Canonical.endClosed {s : State} {t : Thread} {iv : Nat} (hs : Canonical s) : Canonical (endClosed s t iv) :=
  hs.setThread

protected theorem Canonical.checkClosed {s : State} {tid iv : Nat} (hs : Canonical s) : Canonical (checkClosed s tid iv) := by
  unfold checkClosed
  split
  · exact .ite hs hs.after.askClosed
  · exact hs

protected theorem Canonical.clearLine {s : State} {a : Access} (hs : Canonical s) : Canonical (clearLine s a) :=
  .ite hs.leaveLine hs

protected theorem Canonical.issueWrite {s : State} {t : Thread} {da z : Nat} {act : Act} {k : State → Thread → State}
    (hs : Canonical s) (hk : ∀ {s t}, Canonical s → Canonical (k s t)) : Canonical (issueWrite s t da z act k) :=
  .ite hs.fatalAt (.ite hs.fatalAt (.ite hs.wait (hk (Canonical.ite hs.modPart.bump hs).setThread.sendAccess).checkClosed))

protected theorem Canonical.gatherNext {s : State} {t : Thread} {todo : List (Nat × Nat)} {got : List Byte} {stage : Nat}
    (hs : Canonical s) : Canonical (gatherNext s t todo got stage) := by
  unfold gatherNext
  split
  · exact hs.wait
  · exact hs.setThread.sendAccess

protected theorem Canonical.gatherFrom {s : State} {t : Thread} {da n : Nat} {got : List Byte} {stage : Nat} (hs : Canonical s) :
    Canonical (gatherFrom s t da n got stage) :=
  hs.gatherNext

protected theorem Canonical.writeHalt {s : State} {core p : Nat} (hs : Canonical s) : Canonical (writeHalt s core p) := by
  unfold writeHalt
  split
  · exact hs
  · exact .ite hs hs.writeMem

protected theorem Canonical.discardAt {s : State} {core p : Nat} (hs : Canonical s) : Canonical (discardAt s core p) :=
  hs.modPart.writeHalt

protected theorem Canonical.toLive {s : State} {tid : Nat} {k : State → Thread → State} (hs : Canonical s)
    (hk : ∀ {s t}, Canonical s → Canonical (k s t)) : Canonical (toLive s tid k) := by
  unfold toLive
  split
  · exact hs
  · exact .ite hs.discardAt (hk hs)

protected theorem Canonical.slotFreed {s : State} {core p n : Nat} (hs : Canonical s) : Canonical (slotFreed s core p n) :=
  hs.post

protected theorem Canonical.endCapture {s : State} {t : Thread} (hs : Canonical s) : Canonical (endCapture s t) := by
  unfold endCapture
  split
  · exact .ite hs.modPart hs
  · exact hs

protected theorem Canonical.leaveQueue {s : State} {t : Thread} (hs : Canonical s) : Canonical (leaveQueue s t) :=
  hs.endCapture.modPart

protected theorem Canonical.depart {s : State} {t : Thread} {dev : Option Nat} {dst : Nat} {load : Option (LoadK × Nat × Nat)}
    (hs : Canonical s) : Canonical (depart s t dev dst load) := by
  unfold depart
  extract_lets pkt s1 s2 s3 s4
  have h3 : Canonical s3 := hs.leaveQueue.setThread.modPart
  have h4 : Canonical s4 := by
    unfold s4
    split
    · exact h3.slotFreed
    · exact h3
  split
  · exact .ite h4.post h4.emit
  · exact h4.send

protected theorem Canonical.leave {s : State} {t : Thread} {dev : Option Nat} {dst : Nat} {load : Option (LoadK × Nat × Nat)}
    (hs : Canonical s) : Canonical (leave s t dev dst load) :=
  .ite hs.fatalAt (hs.fenced (fun hs => hs.depart))

protected theorem Canonical.parkLoad {s : State} {t : Thread} {k : LoadK} {da z : Nat} (hs : Canonical s) :
    Canonical (parkLoad s t k da z) :=
  hs.setThread.sendAccess

protected theorem Canonical.loadAt {fin : State → Thread → List Byte → State} {s : State} {t : Thread} {k : LoadK} {da z : Nat}
    (hs : Canonical s) (hfin : ∀ {s t l}, Canonical s → Canonical (fin s t l)) : Canonical (loadAt fin s t k da z) := by
  fun_cases loadAt fin s t k da z with
  | case1 | case2 => exact hs.fatalAt
  | case3 | case5 => exact .ite hs.fatalAt (hfin hs)
  | case4 | case9 => exact hs.leave
  | case6 | case7 | case8 => exact hs.parkLoad

protected theorem Canonical.retireLde {s : State} {t : Thread} {d : BitVec 4} {r : Flagged Nat} (hs : Canonical s) :
    Canonical (retireLde s t d r) :=
  hs.retireReg

protected theorem Canonical.finishLoad1 {k : LoadK} {s : State} {t : Thread} {bs : List Byte} (hs : Canonical s) :
    Canonical (finishLoad1 k s t bs) := by
  unfold finishLoad1
  split
  · exact hs.retireReg
  · exact hs.retireReg
  · exact hs.retireLde
  · exact hs.retire

protected theorem Canonical.finishLoad {k : LoadK} {s : State} {t : Thread} {bs : List Byte} (hs : Canonical s) :
    Canonical (finishLoad k s t bs) := by
  fun_cases finishLoad k s t bs with
  | case1 | case2 | case3 => exact hs.retireLde
  | case4 | case5 => exact hs.fatalAt
  | case6 => exact hs.loadAt (fun hs => hs.finishLoad1)
  | case7 => exact hs.finishLoad1

protected theorem Canonical.issueLoad {s : State} {t : Thread} {k : LoadK} {ea : Word} {z : Nat} (hs : Canonical s) :
    Canonical (issueLoad s t k ea z) := by
  fun_cases issueLoad s t k ea z with
  | case1 | case2 => exact hs.fatalAt
  | case3 => exact hs.loadAt (fun hs => hs.finishLoad)

end Sys2Proof.Safety
end

section
/-! SUPPORT. Memory instructions: every operation keeps the canonical form. -/

namespace Sys2Proof.Safety

open Sys2Proof Sys2Proof.Machine

protected theorem Canonical.loadOp {s : State} {t : Thread} {d a : BitVec 4} {w : Nat} {x : BitVec 9} (hs : Canonical s) :
    Canonical (loadOp s t d a w x) :=
  hs.issueLoad

protected theorem Canonical.execLd {g : BitVec 5} {d a : BitVec 4} {w : BitVec 3} {x : BitVec 9} {s : State} (hs : Canonical s) :
    Keeps (execLd g d a w x s) :=
  hs.scalar fun hs => hs.loadOp

protected theorem Canonical.execLda {g : BitVec 5} {d a : BitVec 4} {w : BitVec 1} {x : BitVec 9} {s : State} (hs : Canonical s) :
    Keeps (execLda g d a w x s) :=
  hs.scalar fun hs => hs.loadOp

protected theorem Canonical.storeOp {s : State} {t : Thread} {r a : BitVec 4} {z : Nat} {x : BitVec 9} (hs : Canonical s) :
    Canonical (storeOp s t r a z x) := by
  fun_cases storeOp s t r a z x with
  | case1 => exact hs.fatalAt
  | case2 => exact hs.fatalAt
  | case3 => exact hs.issueWrite fun hs => hs.retire

protected theorem Canonical.execSt {g : BitVec 5} {r a : BitVec 4} {w : BitVec 2} {x : BitVec 9} {s : State} (hs : Canonical s) :
    Keeps (execSt g r a w x s) :=
  hs.scalar fun hs => hs.storeOp

protected theorem Canonical.execStr {g : BitVec 5} {r a : BitVec 4} {w : BitVec 1} {x : BitVec 9} {s : State} (hs : Canonical s) :
    Keeps (execStr g r a w x s) :=
  hs.scalar fun hs => hs.fenced fun hs => hs.storeOp

protected theorem Canonical.execLde {g : BitVec 5} {d a : BitVec 4} {x : BitVec 9} {s : State} (hs : Canonical s) :
    Keeps (execLde g d a x s) :=
  hs.scalar fun hs => .ite hs.fatalAt hs.issueLoad

protected theorem Canonical.mergeAt {s : State} {t : Thread} {a : Word} {z : Nat} {need : Rights} {act : Act}
    {k : State → Thread → State} (hs : Canonical s) (hk : ∀ {s t}, Canonical s → Canonical (k s t)) :
    Canonical (mergeAt s t a z need act k) := by
  fun_cases mergeAt s t a z need act k with
  | case1 | case2 => exact hs.fatalAt
  | case3 => exact hs.issueWrite (fun hs => hk hs)

protected theorem Canonical.execMrg {g : BitVec 5} {a b : BitVec 4} {w : BitVec 1} {o : BitVec 4} {s : State} (hs : Canonical s) :
    Keeps (execMrg g a b w o s) :=
  hs.scalar fun hs => hs.mergeAt fun hs => hs.retire

protected theorem Canonical.fetchMerge {s : State} {t : Thread} {d b : BitVec 4} {w : BitVec 1} {o : BitVec 4} {da : Nat}
    {want : Option (Word × Nat)} (hs : Canonical s) : Canonical (fetchMerge s t d b w o da want) :=
  hs.issueWrite fun hs => hs.wait

protected theorem Canonical.execFmrg {g : BitVec 5} {d a b : BitVec 4} {w : BitVec 1} {o : BitVec 4} {s : State} (hs : Canonical s) :
    Keeps (execFmrg g d a b w o s) := by
  unfold execFmrg
  refine hs.scalar (fun hs => ?_)
  split
  · exact hs.fatalAt
  · split
    · exact hs.fatalAt
    · exact .ite (hs.atTurn (fun hs => hs.fetchMerge)) hs.fetchMerge

protected theorem Canonical.execVbor {g : BitVec 5} {a b : BitVec 4} {s : State} (hs : Canonical s) : Keeps (execVbor g a b s) :=
  hs.scalar fun hs => hs.mergeAt fun hs => hs.retire

protected theorem Canonical.execVbtst {g : BitVec 5} {d a b : BitVec 4} {s : State} (hs : Canonical s) : Keeps (execVbtst g d a b s) :=
  hs.scalar fun hs => hs.issueLoad

protected theorem Canonical.execFenceD {g : BitVec 5} {s : State} (hs : Canonical s) : Keeps (execFenceD g s) :=
  hs.scalar fun hs => hs.fenced fun hs => hs.retire

protected theorem Canonical.execFenceT {g : BitVec 5} {s : State} (hs : Canonical s) : Keeps (execFenceT g s) :=
  hs.scalar fun hs => .ite hs.retire hs.wait

protected theorem Canonical.execFenceA {g : BitVec 5} {s : State} (hs : Canonical s) : Keeps (execFenceA g s) :=
  hs.scalar fun hs => hs.fenced fun hs => .ite hs.retire hs.wait

protected theorem Canonical.execFenceI {g : BitVec 5} {s : State} (hs : Canonical s) : Keeps (execFenceI g s) :=
  hs.scalar fun hs => .ite hs.retire hs.wait

protected theorem Canonical.setBar {s : State} {g part kind idx : Nat} {b : Bar} (hs : Canonical s) :
    Canonical (setBar s g part kind idx b) :=
  hs.modRegion

protected theorem Canonical.barEnd {s : State} {t : Thread} {kind idx : Nat} {d : BitVec 4} {v : Word} (hs : Canonical s) :
    Canonical (barEnd s t kind idx d v) := by
  unfold barEnd
  split
  · exact hs.retireReg
  · exact .ite (hs.inTurn (fun hs => hs.retireReg)) hs.finish

protected theorem Canonical.barWithdraw {s : State} {g part kind idx : Nat} {cores : List Nat} (hs : Canonical s) :
    Canonical (barWithdraw s g part kind idx cores) :=
  .ite hs hs.setBar

protected theorem Canonical.barTimeout {s : State} {t : Thread} {kind idx : Nat} {d : BitVec 4} (hs : Canonical s) :
    Canonical (barTimeout s t kind idx d) :=
  hs.barEnd.barWithdraw

protected theorem Canonical.barArrive {s : State} {t : Thread} {kind idx : Nat} {d : BitVec 4} (hs : Canonical s) :
    Canonical (barArrive s t kind idx d) := by
  unfold barArrive
  extract_lets g b arr full s1 s2 t1 s3 s4
  have h2 : Canonical s2 := .ite hs.setBar.after hs.setBar
  have h4 : Canonical s4 := .ite h2.setThread h2.setThread.post
  split
  · exact .ite h4.post.after h4
  · exact h4

protected theorem Canonical.barOp {kind : Nat} {s : State} {t : Thread} {d a : BitVec 4} (hs : Canonical s) :
    Canonical (barOp kind s t d a) := by
  unfold barOp
  split
  · exact hs.barEnd
  · exact .ite hs.barEnd (.ite hs.barTimeout ((Canonical.ite hs hs.post).fenced (fun hs => hs.barArrive)))

protected theorem Canonical.execBarRegion {g : BitVec 5} {d a : BitVec 4} {s : State} (hs : Canonical s) :
    Keeps (execBarRegion g d a s) :=
  hs.scalar fun hs => hs.barOp

protected theorem Canonical.execBarRow {g : BitVec 5} {d a : BitVec 4} {s : State} (hs : Canonical s) : Keeps (execBarRow g d a s) :=
  hs.scalar fun hs => hs.barOp

protected theorem Canonical.execBarCol {g : BitVec 5} {d a : BitVec 4} {s : State} (hs : Canonical s) : Keeps (execBarCol g d a s) :=
  hs.scalar fun hs => hs.barOp

end Sys2Proof.Safety
end

section
/-! SUPPORT. Messages, channels and threads: every operation keeps the canonical form. -/

namespace Sys2Proof.Safety

open Sys2Proof Sys2Proof.Machine

protected theorem Canonical.poll {s : State} {n : Nat} {what : Instr} {who : Focus} (hs : Canonical s) : Canonical (poll s n what who) :=
  .ite hs hs.after

protected theorem Canonical.writeBlock {s : State} {core p n : Nat} {words : List Word} (hs : Canonical s) :
    Canonical (writeBlock s core p n words) :=
  hs.writeMem

protected theorem Canonical.enterSlot {s : State} {t : Thread} {n : Nat} (hs : Canonical s) : Canonical (enterSlot s t n) := by
  unfold enterSlot
  split
  · exact .ite hs.modPart.setThread hs.modPart.writeBlock.setThread
  · exact hs.modPart.setThread

protected theorem Canonical.setFlags {s : State} {core p : Nat} (hs : Canonical s) : Canonical (setFlags s core p) :=
  hs.modPart

protected theorem Canonical.logStart {s s' : State} {ctx core tid : Nat} {r : LogRec} (hs : Canonical s)
    (e : logStart s ctx core tid r = some s' := by assumption) : Canonical s' := by
  unfold logStart at e
  split at e
  · cases e
    exact hs
  · split at e
    · split at e
      · cases e
        exact hs.appendRec
      · cases e
    · cases e
      exact hs

protected theorem Canonical.startDiverged {s : State} {core p tid idx : Nat} (hs : Canonical s) :
    Canonical (startDiverged s core p tid idx) :=
  hs.raiseFatal

protected theorem Canonical.startLater {s : State} {core p type tid : Nat} {again : Instr} (hs : Canonical s) :
    Canonical (startLater s core p type tid again) :=
  .ite hs.modPart.startDiverged hs.modPart.poll

protected theorem Canonical.startOver {s : State} {core p type : Nat} (hs : Canonical s) : Canonical (startOver s core p type) :=
  hs.modPart

protected theorem Canonical.useStart {s : State} {ctx core : Nat} {p : Nat × LogRead} (hs : Canonical s) :
    Canonical (useStart s ctx core p) := by
  unfold useStart
  split
  · exact hs.consumeRec
  · exact hs

protected theorem Canonical.atPartition {s : State} {ctx core p : Nat} {i : Instr} {k : State → State} (hs : Canonical s)
    (hk : ∀ {s}, Canonical s → Canonical (k s)) : Canonical (atPartition s ctx core p i k) :=
  .ite hs.savePacket (.ite hs.discardAt (hk hs))

protected theorem Canonical.callArrival {s : State} {core p : Nat} (hs : Canonical s) : Canonical (callArrival s core p) :=
  hs.post

protected theorem Canonical.queueArrival {s s' : State} {t : Thread} (hs : Canonical s)
    (e : queueArrival s t = some s' := by assumption) : Canonical s' := by
  unfold queueArrival at e
  dsimp only at e
  split at e
  · cases e
    exact hs.setThread.setPart.callArrival
  · split at e
    · cases e
      exact hs.setThread.modRegion.callArrival
    · cases e

/-- The arrival that a core cannot queue is held. -/
protected theorem Canonical.queueOrHold {s : State} {t : Thread} (hs : Canonical s) :
    Canonical ((queueArrival s t).getD (setThread s t)) := by
  cases e : queueArrival s t with
  | none => exact hs.setThread
  | some s' => exact hs.queueArrival

protected theorem Canonical.bringIn {s : State} {t : Thread} (hs : Canonical s) : Canonical (bringIn s t) := by
  unfold bringIn
  dsimp only
  split
  · exact hs.setThread.askRecheck
  · next s1 he =>
    have h1 : Canonical s1 := by
      split at he
      · cases he
        exact hs
      · exact hs.logStart
    split
    · exact .ite h1.queueOrHold h1.enterSlot
    · exact h1.queueOrHold

protected theorem Canonical.bringInHeld {core p : Nat} {l : List (Nat × Thread)} {s : State} (hs : Canonical s) :
    Canonical (bringInHeld core p l s) := by
  induction l generalizing s with
  | nil => exact hs
  | cons v l ih =>
    obtain ⟨a, b⟩ := v
    exact ih (.ite hs.bringIn hs)

protected theorem Canonical.bringInLogged {c : Nat} {l : List (Nat × Thread)} {s : State} (hs : Canonical s) :
    Canonical (bringInLogged c l s) := by
  induction l generalizing s with
  | nil => exact hs
  | cons v l ih =>
    obtain ⟨a, b⟩ := v
    exact ih (.ite hs.bringIn hs)

protected theorem Canonical.nextArrival {s s' : State} {core p i id : Nat} {want : Option Nat} (hs : Canonical s)
    (e : nextArrival s core p want = some (i, id, s') := by assumption) : Canonical s' := by
  unfold nextArrival at e
  dsimp only at e
  split at e
  · cases e
    exact hs.setPart
  · split at e
    · cases e
      exact hs.modRegion
    · cases e

protected theorem Canonical.nextIn {core p : Nat} {s : State} (hs : Canonical s) : Canonical (nextIn core p s) :=
  hs.bringInHeld.callArrival

protected theorem Canonical.replayArrival {s : State} {core p : Nat} (hs : Canonical s) : Canonical (replayArrival s core p) := by
  fun_cases replayArrival s core p with
  | case1 => exact hs.startOver
  | case2 | case5 => exact hs.startDiverged
  | case3 | case4 | case6 => exact hs.startLater
  | case7 => exact hs.nextArrival
  | case8 => exact (Canonical.ite hs.nextArrival.useStart.startOver hs.nextArrival.useStart.startOver.leaveQueue).enterSlot.nextIn

protected theorem Canonical.execArrivalTaken {s : State} (hs : Canonical s) : Keeps (execArrivalTaken s) := by
  fun_cases execArrivalTaken s with
  | case1 | case3 => exact .next hs
  | case2 => exact .next hs.replayArrival
  | case4 => exact .next hs.nextArrival.callArrival
  | case5 => exact .next (Canonical.ite hs.nextArrival.logStart hs.nextArrival.logStart.leaveQueue).enterSlot.nextIn
  | case6 => exact .next hs.askRecheck.poll
  | case7 => exact .fault

protected theorem Canonical.ackMsg {s : State} {dev : Option Nat} {dst : Nat} {a : Access} {st : AckStatus} (hs : Canonical s) :
    Canonical (ackMsg s dev dst a st) := by
  unfold ackMsg
  split
  · exact hs.emit
  · split
    · exact .ite hs.stopSoon.post hs.stopSoon.send
    · exact .ite hs.post hs.send

protected theorem Canonical.refuseStart {s : State} {dev : Option Nat} {tid ctx part src dst : Nat} (hs : Canonical s) :
    Canonical (refuseStart s dev tid ctx part src dst) :=
  hs.ackMsg

protected theorem Canonical.sendMsg {s : State} {m : Msg} {spawn : Bool} (hs : Canonical s) : Canonical (sendMsg s m spawn) :=
  .ite hs.modPart.send hs.modPart.modPart

protected theorem Canonical.releaseHeld {core part : Nat} {out : List Nat} {l : List HeldMsg} {l' : List Nat} {s : State}
    (hs : Canonical s) : Canonical (releaseHeld core part out l l' s).1 := by
  induction l generalizing l' s with
  | nil => exact hs
  | cons v l ih =>
    unfold releaseHeld
    split
    · exact ih hs
    · exact ih hs.send

protected theorem Canonical.execCodeOrderRelease {s : State} (hs : Canonical s) : Keeps (execCodeOrderRelease s) := by
  unfold execCodeOrderRelease
  split
  · exact .next hs.releaseHeld.modPart
  · exact .fault

protected theorem Canonical.execSend {g : BitVec 5} {a b n : BitVec 4} {s : State} (hs : Canonical s) : Keeps (execSend g a b n s) := by
  unfold execSend
  refine hs.scalar fun hs => ?_
  extract_lets m
  split
  · exact hs.fatalAt
  · split
    · exact hs.fatalAt
    · exact .ite hs.fatalAt (.ite hs.wait hs.setThread.sendMsg.retire)
    · exact .ite hs.fatalAt (.ite hs.wait hs.setThread.modPart.emit.retire.checkClosed)

protected theorem Canonical.execMessageArrival {p : Msg} {s : State} (hs : Canonical s) : Keeps (execMessageArrival p s) := by
  unfold execMessageArrival
  extract_lets ack m closed g queued
  have hq {s} (hs : Canonical s) : Canonical (queued s) := by
    refine Canonical.poll (Canonical.ackMsg (Canonical.modPart ?_))
    split
    · exact hs.countIn
    · exact hs
  exact .ite (.next hs) (.next (hs.atPartition fun hs => .ite hs.ackMsg (.ite (hq hs.setPart) (.ite (hq hs.modRegion) hs.postFirst))))

protected theorem Canonical.nextMessage {s s' : State} {core p : Nat} {want : Option Nat} {m : Msg} (hs : Canonical s)
    (e : nextMessage s core p want = some (m, s') := by assumption) : Canonical s' := by
  unfold nextMessage at e
  dsimp only at e
  split at e
  · cases e
    exact hs.setPart
  · split at e
    · cases e
      exact hs.modRegion
    · cases e

protected theorem Canonical.startHandler {s : State} {core p id : Nat} {m : Msg} (hs : Canonical s) :
    Canonical (startHandler s core p id m) :=
  hs.writeBlock.enterSlot.setFlags

protected theorem Canonical.replayHandler {s : State} {core p : Nat} (hs : Canonical s) : Canonical (replayHandler s core p) := by
  fun_cases replayHandler s core p with
  | case1 => exact hs.startOver
  | case2 | case5 => exact hs.startDiverged
  | case3 | case4 | case6 => exact hs.startLater
  | case7 => exact hs.nextMessage.useStart.startOver.startHandler

protected theorem Canonical.execHandlerStart {s : State} (hs : Canonical s) : Keeps (execHandlerStart s) := by
  fun_cases execHandlerStart s with
  | case1 | case3 => exact .next hs
  | case2 => exact .next hs.replayHandler
  | case4 => exact .next hs.poll
  | case5 => exact .next hs.askRecheck.poll
  | case6 => exact .next hs.nextMessage.logStart.startHandler
  | case7 => exact .fault

protected theorem Canonical.spawnSend {s : State} {t : Thread} {d : BitVec 4} {n : Nat} {target : Word} {dev : Option Nat} {c : Nat}
    {words : List Word} {force : Option Nat} (hs : Canonical s) : Canonical (spawnSend s t d n target dev c words force) := by
  unfold spawnSend
  split
  · exact hs.setThread.modPart.emit
  · exact hs.setThread.sendMsg

protected theorem Canonical.execSpawn {g : BitVec 5} {d a b n : BitVec 4} {s : State} (hs : Canonical s) :
    Keeps (execSpawn g d a b n s) := by
  unfold execSpawn
  refine hs.scalar fun hs => ?_
  extract_lets m start go
  have hstart {s t dev c words} (hs : Canonical s) : Canonical (start s t dev c words) := by
    unfold start
    extract_lets target
    refine hs.fenced fun hs => ?_
    split
    · exact hs.fatalAt
    · exact .ite (hs.inTurn fun hs => .ite hs.retireReg hs.spawnSend) hs.spawnSend
  clear_value start
  have hgo {s t words} (hs : Canonical s) : Canonical (go s t words) := by
    unfold go
    split
    · exact hs.fatalAt
    · exact .ite hs.fatalAt (hstart hs)
    · exact .ite hs.fatalAt (hstart hs)
  split
  · exact hgo hs
  · split
    · exact hs.fatalAt
    · exact hgo hs

protected theorem Canonical.replySpawn {s : State} {m : Msg} {status : Nat} (hs : Canonical s) : Canonical (replySpawn s m status) := by
  unfold replySpawn
  split
  · exact hs.emit
  · exact hs.takeOseq.send

protected theorem Canonical.execSpawnRequest {p : Msg} {s : State} (hs : Canonical s) : Keeps (execSpawnRequest p s) := by
  unfold execSpawnRequest
  refine .next (hs.atPartition fun hs => ?_)
  split
  · exact hs.refuseStart
  · extract_lets tid
    clear_value tid
    dsimp only
    split
    · exact .ite hs.after hs.replySpawn
    · split
      · exact hs.modPart.replySpawn.writeBlock.enterSlot
      · refine .ite ?_ (.ite hs.after hs.replySpawn)
        cases e : queueArrival _ _ with
        | none => exact hs
        | some s' => exact hs.modPart.replySpawn.queueArrival

protected theorem Canonical.absent {s : State} {tid : Nat} {i : Instr} (hs : Canonical s) : Canonical (absent s tid i) := by
  unfold absent
  split
  · exact hs.savePacket
  · exact hs

protected theorem Canonical.execSpawnReply {tid op : Nat} {status : SpawnRes} {s : State} (hs : Canonical s) :
    Keeps (execSpawnReply tid op status s) := by
  unfold execSpawnReply
  split
  · exact .next hs.absent
  · refine .next (hs.toLive (fun hs => ?_))
    split
    · exact .ite hs hs.finish
    · exact hs

protected theorem Canonical.execMigr {g : BitVec 5} {a : BitVec 4} {s : State} (hs : Canonical s) : Keeps (execMigr g a s) := by
  unfold execMigr
  refine hs.scalar (fun hs => ?_)
  split
  · exact hs.fatalAt
  · exact .ite hs.fatalAt (.ite (hs.fenced (fun hs => hs.retire)) hs.leave)
  · exact .ite hs.fatalAt hs.leave

protected theorem Canonical.arrivedLoad {s : State} {ctx : Nat} {t : Thread} {k : LoadK} {da z : Nat} (hs : Canonical s) :
    Canonical (arrivedLoad s ctx t k da z) := by
  fun_cases arrivedLoad s ctx t k da z with
  | case1 | case3 => exact hs.loadAt (fun hs => hs.finishLoad)
  | case2 => exact hs.fatalAt

protected theorem Canonical.execMigrationArrival {p : MigPkt} {s : State} (hs : Canonical s) : Keeps (execMigrationArrival p s) := by
  unfold execMigrationArrival
  refine .next (hs.atPartition fun hs => .ite (.ite hs.refuseStart (.ite hs.fatalLate hs.setThread.fatalAt)) ?_)
  split
  · exact hs.after
  · extract_lets s2
    have h2 : Canonical s2 := hs.queueArrival.modPart
    split
    · exact h2
    · extract_lets s3
      have h3 : Canonical s3 := by
        unfold s3
        split
        · exact h2.retire
        · exact h2.arrivedLoad
      split
      · exact .ite h3.modPart.modRegion h3
      · exact h3

protected theorem Canonical.execChsend {g : BitVec 5} {a b : BitVec 4} {s : State} (hs : Canonical s) : Keeps (execChsend g a b s) := by
  unfold execChsend
  refine hs.scalar (fun hs => ?_)
  split
  · split
    · exact hs.fatalAt
    · exact .ite hs.fatalAt (.ite hs.wait hs.wait)
    · exact .ite hs.fatalAt (.ite hs.wait hs.wait)
  · split
    · exact hs.fatalAt
    · exact .ite hs.fatalAt (.ite hs.wait (hs.fenced (fun hs => hs.setThread.setPart.send.retire)))
    · exact .ite hs.fatalAt (.ite hs.wait (hs.fenced (fun hs => hs.setThread.setPart.emit.retire)))

protected theorem Canonical.execChannelWord {p : ChPkt} {s : State} (hs : Canonical s) : Keeps (execChannelWord p s) :=
  .next (hs.atPartition (fun hs => .ite hs.ackMsg (.ite hs.ackMsg hs.writeMem.setPart.setFlags.ackMsg)))

protected theorem Canonical.execChrecv {g : BitVec 5} {d a : BitVec 4} {s : State} (hs : Canonical s) : Keeps (execChrecv g d a s) := by
  unfold execChrecv
  refine hs.scalar (fun hs => ?_)
  split
  · exact hs.fatalAt
  · exact .ite hs.fatalAt (.ite hs.wait (.ite hs.fatalAt (.ite hs.fatalAt hs.setPart.send.retireReg)))
  · exact .ite hs.fatalAt (.ite hs.wait (.ite hs.fatalAt (.ite hs.fatalAt hs.setPart.emit.retireReg)))

protected theorem Canonical.execChannelCredit {p : ChPkt} {s : State} (hs : Canonical s) : Keeps (execChannelCredit p s) :=
  .next (hs.atPartition (fun hs => hs.modPart))

end Sys2Proof.Safety
end

section
/-! SUPPORT. Tile queues: every operation keeps the canonical form. -/

namespace Sys2Proof.Safety

open Sys2Proof Sys2Proof.Machine

protected theorem Canonical.tileFault {s : State} {core p tid pc seq : Nat} (hs : Canonical s) :
    Canonical (tileFault s core p tid pc seq) :=
  hs.modPart.raiseFatal

protected theorem Canonical.entryFault {s : State} {core p : Nat} {e : QEntry} (hs : Canonical s) : Canonical (entryFault s core p e) :=
  hs.modEntry.tileFault

protected theorem Canonical.acceptTile {s : State} {core p tid pc : Nat} {w : BitVec 256} (hs : Canonical s) :
    Canonical (acceptTile s core p tid pc w).1 := by
  unfold acceptTile
  split
  · exact hs.setPart.tileFault
  · exact hs.setPart

protected theorem Canonical.captureTile {s : State} {core p tid pc : Nat} {w : BitVec 256} (hs : Canonical s) :
    Canonical (captureTile s core p tid pc w) := by
  unfold captureTile
  split
  · exact .ite hs (.ite hs.modPart (.ite hs.modPart hs.modPart.post))
  · exact hs

protected theorem Canonical.offerTile {s : State} {t : Thread} {d : BitVec 4} {q : List Word} (hs : Canonical s) :
    Canonical (offerTile s t d q) :=
  .ite hs.wait hs.modPart.acceptTile.captureTile.retireReg

protected theorem Canonical.tcmdOp {s : State} {t : Thread} {d a : BitVec 4} {q1 : Option Word} (hs : Canonical s) :
    Canonical (tcmdOp s t d a q1) := by
  fun_cases tcmdOp s t d a q1 with
  | case1 | case3 => exact hs.offerTile
  | case2 => exact hs.fatalAt

protected theorem Canonical.execTcmd {g : BitVec 5} {d a : BitVec 4} {s : State} (hs : Canonical s) : Keeps (execTcmd g d a s) :=
  hs.scalar fun hs => hs.tcmdOp

protected theorem Canonical.execTcmdQ1 {g : BitVec 5} {d a b : BitVec 4} {s : State} (hs : Canonical s) : Keeps (execTcmdQ1 g d a b s) :=
  hs.scalar fun hs => hs.tcmdOp

protected theorem Canonical.execTloop {g : BitVec 5} {a b : BitVec 4} {s : State} (hs : Canonical s) : Keeps (execTloop g a b s) := by
  unfold execTloop
  refine hs.scalar (fun hs => ?_)
  dsimp only
  split
  · exact hs.fatalAt
  · split
    · exact .ite hs.setPart.retire hs.wait
    · exact .ite hs.setPart.retire hs.wait
    · exact hs.wait

protected theorem Canonical.pushAll {core p strides i : Nat} {l : List QEntry} {s : State} (hs : Canonical s) :
    Canonical (pushAll core p strides i l s) := by
  induction l generalizing i s with
  | nil => exact hs
  | cons v l ih => exact ih hs.acceptTile

protected theorem Canonical.execTloopPush {s : State} (hs : Canonical s) : Keeps (execTloopPush s) := by
  fun_cases execTloopPush s with
  | case1 | case4 => exact .next hs
  | case2 => exact .next hs.pushAll.modPart.post
  | case3 => exact .next hs.pushAll.modPart
  | case5 => exact .fault

protected theorem Canonical.setHandle {s : State} {core p h : Nat} {x : Handle} (hs : Canonical s) :
    Canonical (setHandle s core p h x) :=
  hs.modPart

protected theorem Canonical.execAdv {g : BitVec 5} {a b : BitVec 4} {s : State} (hs : Canonical s) : Keeps (execAdv g a b s) := by
  unfold execAdv
  refine hs.scalar fun hs => ?_
  extract_lets n
  split
  · exact hs.fatalAt
  · extract_lets go
    have hgo {s t} (hs : Canonical s) : Canonical (go s t) := by
      unfold go
      split
      · exact hs.fatalAt
      · exact hs.setHandle.retire
    exact .ite hs.fatalAt (.ite (hgo hs) (hs.fenced hgo))

protected theorem Canonical.execTwait {g : BitVec 5} {a b : BitVec 4} {s : State} (hs : Canonical s) : Keeps (execTwait g a b s) := by
  unfold execTwait
  refine hs.scalar (fun hs => ?_)
  split
  · exact hs.fatalAt
  · exact .ite hs.fatalAt (.ite (.ite hs.retire hs.wait) (.ite hs.retire hs.wait))

protected theorem Canonical.execHdef {g : BitVec 5} {a b : BitVec 4} {s : State} (hs : Canonical s) : Keeps (execHdef g a b s) :=
  hs.scalar fun hs => .ite hs.fatalAt (.ite hs.wait hs.setHandle.retire)

protected theorem Canonical.missPromise {s : State} {t : Thread} {e : QEntry} {v : Nat} (hs : Canonical s) :
    Canonical (missPromise s t e v) :=
  hs.takeTrap

protected theorem Canonical.execWaitt {g : BitVec 5} {a : BitVec 4} {s : State} (hs : Canonical s) : Keeps (execWaitt g a s) := by
  unfold execWaitt
  refine hs.scalar (fun hs => ?_)
  dsimp only
  split
  · exact .ite hs.endCapture.wait (.ite hs.endCapture.missPromise hs.endCapture.wait.post)
  · exact hs.endCapture.retire

protected theorem Canonical.execPromiseMissed {s : State} (hs : Canonical s) : Keeps (execPromiseMissed s) := by
  fun_cases execPromiseMissed s with
  | case1 | case2 | case3 | case6 => exact .next hs
  | case4 => exact .next hs.post
  | case5 => exact .next hs.missPromise
  | case7 => exact .fault

protected theorem Canonical.orSticky {s : State} {core p f : Nat} (hs : Canonical s) : Canonical (orSticky s core p f) :=
  hs.modPart

protected theorem Canonical.execTstat {g : BitVec 5} {d : BitVec 4} {s : State} (hs : Canonical s) : Keeps (execTstat g d s) :=
  hs.scalar fun hs => hs.setPart.retireReg

end Sys2Proof.Safety
end

section
/-! SUPPORT. Tile commands: every operation keeps the canonical form. -/

namespace Sys2Proof.Safety

open Sys2Proof Sys2Proof.Machine

protected theorem Canonical.claimSlots {s : State} {core p : Nat} {e : QEntry} {op : Nat} {c : Tcw} (hs : Canonical s) :
    Canonical (claimSlots s core p e op c).1 :=
  hs.setPart

protected theorem Canonical.passTurn {s : State} {core p unit : Nat} (hs : Canonical s) : Canonical (passTurn s core p unit) :=
  hs.modCore

protected theorem Canonical.tile {op : Nat} {c : Tcw} {s : State} {body : State → Nat → Nat → QEntry → State} (hs : Canonical s)
    (hbody : ∀ {s n n' o}, Canonical s → Canonical (body s n n' o)) : Keeps (tile op c s body) := by
  fun_cases tile op c s body with
  | case1 => exact .next hs.passTurn.modEntry.entryFault
  | case2 => exact .next (hbody hs.passTurn.claimSlots)
  | case3 | case4 => exact .fault

protected theorem Canonical.finishAt {s : State} {core p seq unit n d : Nat} (hs : Canonical s) :
    Canonical (finishAt s core p seq unit n d) :=
  (Canonical.ite hs.modEntry hs.modEntry.modCore).countCycles.post

protected theorem Canonical.withResults {s : State} {core p seq : Nat} {acc : List (Nat × List Nat)}
    {bytes : List (Nat × List Byte)} {f : Nat} (hs : Canonical s) : Canonical (withResults s core p seq acc bytes f) :=
  hs.modEntry

protected theorem Canonical.matrixWork {sparse zero : Bool} {s : State} {core p : Nat} {e : QEntry} (hs : Canonical s) :
    Canonical (matrixWork sparse zero s core p e) := by
  fun_cases matrixWork sparse zero s core p e with
  | case1 | case3 => exact hs.entryFault
  | case2 => exact hs.withResults.finishAt

protected theorem Canonical.acstWork {s : State} {core p : Nat} {e : QEntry} (hs : Canonical s) : Canonical (acstWork s core p e) :=
  .ite hs.entryFault hs.withResults.finishAt

protected theorem Canonical.acscWork {s : State} {core p : Nat} {e : QEntry} (hs : Canonical s) : Canonical (acscWork s core p e) := by
  dsimp only [acscWork]
  split
  · exact .ite hs.entryFault hs.withResults.modEntry.finishAt
  · exact hs.entryFault

protected theorem Canonical.readerWork {s : State} {core p : Nat} {e : QEntry} (hs : Canonical s) : Canonical (readerWork s core p e) := by
  unfold readerWork
  split
  · exact hs.matrixWork
  · exact hs.acstWork
  · exact hs.acscWork
  · exact hs.matrixWork

protected theorem Canonical.startReader {s : State} {core p : Nat} {e : QEntry} (hs : Canonical s) :
    Canonical (startReader s core p e) :=
  .ite hs.modEntry hs.readerWork

protected theorem Canonical.matrixOp {op : Nat} {zero : Bool} {c : Tcw} {s : State} (hs : Canonical s) : Keeps (matrixOp op zero c s) := by
  unfold matrixOp
  refine hs.tile fun hs => ?_
  extract_lets sa sb
  clear_value sa sb
  split
  · exact .ite hs.modEntry.matrixWork hs.modEntry.startReader
  · exact hs.entryFault

protected theorem Canonical.execSpld {c : Tcw} {s : State} (hs : Canonical s) : Keeps (execSpld c s) := by
  unfold execSpld
  refine hs.tile (fun hs => ?_)
  split
  · exact hs.entryFault
  · exact hs.modEntry.bump.finishAt

protected theorem Canonical.execAclr {c : Tcw} {s : State} (hs : Canonical s) : Keeps (execAclr c s) :=
  hs.tile fun hs => hs.withResults.finishAt

protected theorem Canonical.execAcld {c : Tcw} {s : State} (hs : Canonical s) : Keeps (execAcld c s) := by
  unfold execAcld
  refine hs.tile (fun hs => ?_)
  dsimp only
  split
  · exact hs.entryFault
  · exact hs.withResults.finishAt

protected theorem Canonical.execAcst {c : Tcw} {s : State} (hs : Canonical s) : Keeps (execAcst c s) :=
  hs.tile fun hs => hs.startReader

protected theorem Canonical.execAcsc {c : Tcw} {s : State} (hs : Canonical s) : Keeps (execAcsc c s) :=
  hs.tile fun hs => hs.startReader

protected theorem Canonical.vectorOp {op : Nat} {c : Tcw} {s : State} {nout nb nc cost : Nat}
    {out : Part → QEntry → List Byte → List Byte → List Byte → List Byte × Nat} (hs : Canonical s) :
    Keeps (vectorOp op c s nout nb nc cost out) := by
  unfold vectorOp
  refine hs.tile fun hs => ?_
  extract_lets a b d
  clear_value a b d
  split
  · exact .ite hs.entryFault hs.withResults.finishAt
  · exact hs.entryFault

protected theorem Canonical.vectorArith {op tm : Nat} {bin tri sat : Bool} {c : Tcw} {s : State} (hs : Canonical s) :
    Keeps (vectorArith op tm bin tri sat c s) :=
  hs.vectorOp

protected theorem Canonical.vectorExtrema {op : Nat} {isMax : Bool} {c : Tcw} {s : State} (hs : Canonical s) :
    Keeps (vectorExtrema op isMax c s) :=
  hs.vectorOp

protected theorem Canonical.execVcmp {c : Tcw} {s : State} (hs : Canonical s) : Keeps (execVcmp c s) :=
  hs.vectorOp

protected theorem Canonical.execVsel {c : Tcw} {s : State} (hs : Canonical s) : Keeps (execVsel c s) := by
  unfold execVsel
  exact hs.vectorOp

protected theorem Canonical.vectorBits {op : Nat} {c : Tcw} {s : State} (hs : Canonical s) : Keeps (vectorBits op c s) :=
  hs.vectorOp

protected theorem Canonical.execVred {c : Tcw} {s : State} (hs : Canonical s) : Keeps (execVred c s) := by
  unfold execVred
  refine hs.tile (fun hs => ?_)
  split
  · exact hs.entryFault
  · exact hs.withResults.finishAt

protected theorem Canonical.execVtrn {c : Tcw} {s : State} (hs : Canonical s) : Keeps (execVtrn c s) := by
  unfold execVtrn
  exact hs.vectorOp

protected theorem Canonical.execVbcast {c : Tcw} {s : State} (hs : Canonical s) : Keeps (execVbcast c s) := by
  unfold execVbcast
  exact hs.vectorOp

protected theorem Canonical.execVscl {c : Tcw} {s : State} (hs : Canonical s) : Keeps (execVscl c s) := by
  unfold execVscl
  refine hs.tile (fun hs => ?_)
  split
  · exact .ite hs.entryFault hs.withResults.finishAt
  · exact hs.entryFault

protected theorem Canonical.execTnop {c : Tcw} {s : State} (hs : Canonical s) : Keeps (execTnop c s) :=
  hs.tile fun hs => hs.finishAt

protected theorem Canonical.execRngk {c : Tcw} {s : State} (hs : Canonical s) : Keeps (execRngk c s) :=
  hs.tile fun hs => hs.finishAt

protected theorem Canonical.execTmark {c : Tcw} {s : State} (hs : Canonical s) : Keeps (execTmark c s) :=
  hs.tile fun hs => hs.modPart.finishAt

protected theorem Canonical.putResults {core p : Nat} {l : List (Nat × List Byte)} {s : State} (hs : Canonical s) :
    Canonical (putResults core p l s) := by
  induction l generalizing s with
  | nil => exact hs
  | cons v l ih =>
    obtain ⟨a, b⟩ := v
    exact ih hs.putBytes

protected theorem Canonical.wakeBlocked {core p : Nat} {l : List QEntry} {s : State} (hs : Canonical s) :
    Canonical (wakeBlocked core p l s) := by
  induction l generalizing s with
  | nil => exact hs
  | cons v l ih => exact ih (.ite hs.modEntry.readerWork (.ite hs.post hs))

protected theorem Canonical.sendWrites {core p : Nat} {e : QEntry} {l : List (Nat × List Byte)} {s : State} (hs : Canonical s) :
    Canonical (sendWrites core p e l s) := by
  induction l generalizing s with
  | nil => exact hs
  | cons v l ih =>
    obtain ⟨a, b⟩ := v
    exact ih hs.modEntry.sendAccess

protected theorem Canonical.completeTile {s : State} {core p : Nat} {e : QEntry} (hs : Canonical s) :
    Canonical (completeTile s core p e) := by
  fun_cases completeTile s core p e with
  | case1 => exact (Canonical.ite hs.putResults.modCore hs.putResults.modCore.orSticky).modPart.wakeBlocked.post
  | case2 => exact (Canonical.ite hs.putResults.modCore hs.putResults.modCore.orSticky).modPart.wakeBlocked

protected theorem Canonical.execTileCommandComplete {s : State} (hs : Canonical s) : Keeps (execTileCommandComplete s) := by
  fun_cases execTileCommandComplete s with
  | case1 | case2 | case5 => exact .next hs
  | case3 => exact .next hs.after
  | case4 => exact .next hs.modEntry.sendWrites
  | case6 => exact .next hs.completeTile
  | case7 => exact .fault

end Sys2Proof.Safety
end

section
/-! SUPPORT. Copies: every operation keeps the canonical form. -/

namespace Sys2Proof.Safety

open Sys2Proof Sys2Proof.Machine

protected theorem Canonical.releaseAll {c : Nat} {l : List (Nat × Access)} {s : State} (hs : Canonical s) :
    Canonical (releaseAll c l s) := by
  induction l generalizing s with
  | nil => exact hs
  | cons v l ih =>
    obtain ⟨a, b⟩ := v
    exact ih hs.scratchAccess

protected theorem Canonical.moveShadow {s : State} {home core p seq : Nat} {range : Option (Nat × Nat)} (hs : Canonical s) :
    Canonical (moveShadow s home core p seq range) := by
  fun_cases moveShadow s home core p seq range with
  | case1 => exact hs
  | case2 | case3 => exact hs.setCore.releaseAll

protected theorem Canonical.nextLine {s : State} {core p seq : Nat} (hs : Canonical s) : Canonical (nextLine s core p seq) :=
  hs.countCycles.post.bump

protected theorem Canonical.sendLines {core p op : Nat} {c : Tcw} {e : QEntry} {bs : List Byte} {off : Nat} {l : List Nat}
    {s : State} (hs : Canonical s) : Canonical (sendLines core p op c e bs off l s) := by
  induction l generalizing s with
  | nil => exact hs
  | cons v l ih => exact ih (hs.modEntry.foldl (fun hs => hs.sendAccess))

protected theorem Canonical.lineRead {s : State} {core p op : Nat} {c : Tcw} {e : QEntry} {dst : List Nat} {bs : List Byte}
    (hs : Canonical s) : Canonical (lineRead s core p op c e dst bs) := by
  refine .ite (Canonical.post ?_) (Canonical.nextLine ?_) <;> split
  · exact hs.modEntry.sendLines.moveShadow
  · exact hs.modEntry.sendLines
  · exact hs.modEntry.sendLines.moveShadow
  · exact hs.modEntry.sendLines

protected theorem Canonical.zeroLine {s : State} {core p : Nat} {c : Tcw} {e : QEntry} {da : Nat} (hs : Canonical s) :
    Canonical (zeroLine s core p c e da) :=
  .ite hs.modEntry.sendLines hs.modEntry.sendLines.nextLine

protected theorem Canonical.copyLine {s : State} {core p op : Nat} {c : Tcw} {e : QEntry} (hs : Canonical s) :
    Canonical (copyLine s core p op c e) := by
  fun_cases copyLine s core p op c e with
  | case1 | case4 | case8 => exact hs.entryFault
  | case2 => exact hs.nextLine
  | case3 => exact hs.zeroLine
  | case5 | case6 | case7 => exact .ite hs.entryFault hs.lineRead
  | case9 => exact hs.modEntry.sendAccess

protected theorem Canonical.execCopyShadowRelease {s : State} (hs : Canonical s) : Keeps (execCopyShadowRelease s) := by
  fun_cases execCopyShadowRelease s with
  | case1 | case2 => exact .next hs
  | case3 => exact .next hs.copyLine
  | case4 => exact .fault

protected theorem Canonical.copyOp {op : Nat} {c : Tcw} {s : State} (hs : Canonical s) : Keeps (copyOp op c s) := by
  unfold copyOp
  refine hs.tile (fun hs => ?_)
  split
  · exact hs.entryFault
  · split
    · exact hs.entryFault
    · refine Canonical.post ?_
      split
      · split
        · exact hs.modEntry.modCore.modCore
        · exact hs.modEntry.modCore
      · exact hs.modEntry.modCore

protected theorem Canonical.qtldLoad {s : State} {core p : Nat} {c : Tcw} {e : QEntry} {bs : List Byte} (hs : Canonical s) :
    Canonical (qtldLoad s core p c e bs) :=
  hs.modPart.modEntry.post

protected theorem Canonical.qtldRead {s : State} {core p : Nat} {c : Tcw} {e : QEntry} (hs : Canonical s) :
    Canonical (qtldRead s core p c e) := by
  fun_cases qtldRead s core p c e with
  | case1 | case5 => exact hs.entryFault
  | case2 | case3 | case4 => exact .ite hs.entryFault hs.qtldLoad
  | case6 => exact hs.modEntry.sendAccess

protected theorem Canonical.execQtld {c : Tcw} {s : State} (hs : Canonical s) : Keeps (execQtld c s) :=
  hs.tile fun hs => hs.qtldRead

protected theorem Canonical.cmdReply {s : State} {core p seq op : Nat} {r : LoadRes} (hs : Canonical s) :
    Canonical (cmdReply s core p seq op r) := by
  fun_cases cmdReply s core p seq op r with
  | case1 | case2 | case4 => exact hs
  | case3 => exact hs.qtldLoad
  | case5 | case7 => exact hs.entryFault
  | case6 => exact hs.lineRead

protected theorem Canonical.resumeCmd {s : State} {core p seq : Nat} (hs : Canonical s) : Canonical (resumeCmd s core p seq) := by
  unfold resumeCmd
  split
  · exact hs
  · exact .ite hs.modEntry.qtldRead hs.modEntry.copyLine

protected theorem Canonical.applyAdvance {s s' : State} {core p h : Nat} {consume : Bool} {n : Nat} (hs : Canonical s)
    (e : applyAdvance s core p h consume n = some s' := by assumption) : Canonical s' := by
  unfold applyAdvance at e
  split at e
  · cases e
  · obtain ⟨x, -, rfl⟩ := Option.map_eq_some_iff.1 e
    exact hs.setHandle.setFlags

protected theorem Canonical.sendAdvance {s : State} {core p : Nat} {e : QEntry} {dev : Option Nat} {dst h : Nat} {consume : Bool}
    {n : Nat} (hs : Canonical s) : Canonical (sendAdvance s core p e dev dst h consume n) := by
  unfold sendAdvance
  split
  · exact hs.modEntry.emit
  · exact hs.modEntry.send

protected theorem Canonical.tsigAdvance {s : State} {core p : Nat} {c : Tcw} {e : QEntry} (hs : Canonical s) :
    Canonical (tsigAdvance s core p c e) := by
  unfold tsigAdvance
  extract_lets da sub h consume n ctx go
  have hgo {dst} : Canonical (go dst) := by
    refine .ite hs.entryFault (.ite ?_ hs.sendAdvance)
    split
    · exact hs.entryFault
    · exact hs.applyAdvance.finishAt
  refine .ite hs.entryFault (.ite hgo ?_)
  split
  · exact hgo
  · exact hs.sendAdvance
  · exact hs.entryFault

protected theorem Canonical.execTsig {c : Tcw} {s : State} (hs : Canonical s) : Keeps (execTsig c s) := by
  unfold execTsig
  refine hs.tile (fun hs => ?_)
  split
  · exact hs.tsigAdvance
  · split
    · exact hs.entryFault
    · exact .ite hs.entryFault hs.modEntry.sendAccess

protected theorem Canonical.execRemoteAdvance {p : AdvPkt} {s : State} (hs : Canonical s) : Keeps (execRemoteAdvance p s) := by
  unfold execRemoteAdvance
  refine .next (hs.atPartition (fun hs => ?_))
  split
  · split
    · exact hs.emit
    · exact hs.send
  · split
    · split
      · exact hs.applyAdvance.emit
      · exact hs.applyAdvance.send
    · split
      · exact hs.emit
      · exact hs.send

end Sys2Proof.Safety
end

section
/-! SUPPORT. The graph unit and the bag: every operation keeps the canonical form. -/

namespace Sys2Proof.Safety

open Sys2Proof Sys2Proof.Machine

protected theorem Canonical.withGraph {s : State} {t : Thread} {k : GraphSt → State} (hs : Canonical s) (hk : ∀ o, Canonical (k o)) :
    Canonical (withGraph s t k) := by
  unfold withGraph
  split
  · exact hk _
  · exact hs.fatalAt

protected theorem Canonical.moveBytes {s : State} {src dst n : Nat} (hs : Canonical s) : Canonical (moveBytes s src dst n) :=
  hs.writeMem.clearPoison.addPoison

protected theorem Canonical.spillBag {s : State} {core p : Nat} (hs : Canonical s) : Canonical (spillBag s core p) := by
  fun_cases spillBag s core p with
  | case1 | case2 => exact hs
  | case3 => exact hs.moveBytes.moveBytes.modPart.modRegion

protected theorem Canonical.bagPush {s s' : State} {core p : Nat} {a b : Word} (hs : Canonical s)
    (e : bagPush s core p a b = some s' := by assumption) : Canonical s' := by
  unfold bagPush at e
  dsimp only at e
  split at e
  · cases e
  · cases e
    exact .ite hs.putBytes.modPart.spillBag hs.putBytes.modPart

protected theorem Canonical.ackGraph {s : State} {core : Nat} {g : GraphPkt} {st : AckStatus} {line : Bool} (hs : Canonical s) :
    Canonical (ackGraph s core g st line) :=
  .ite hs.stopSoon.post hs.stopSoon.send

protected theorem Canonical.retryBounced {core p : Nat} {l : List GraphPkt} {s : State} (hs : Canonical s) :
    Canonical (retryBounced core p l s) := by
  induction l generalizing s with
  | nil => exact hs
  | cons v l ih =>
    unfold retryBounced
    split
    · exact ih hs.bagPush.modPart.ackGraph
    · exact hs

protected theorem Canonical.bagDrop {s : State} {core p : Nat} (hs : Canonical s) : Canonical (bagDrop s core p) :=
  hs.modPart.retryBounced

protected theorem Canonical.execPairPush {g : GraphPkt} {s : State} (hs : Canonical s) : Keeps (execPairPush g s) := by
  unfold execPairPush
  extract_lets core
  refine .next (hs.atPartition fun hs => ?_)
  extract_lets pt
  split
  · next s1 e =>
    split at e
    · exact hs.bagPush.ackGraph
    · cases e
  · exact hs.setPart

protected theorem Canonical.rulesWith {bs : List Byte} {s : State} {t : Thread} {x : Ctx} (hs : Canonical s) :
    Canonical (rulesWith bs s t x) := by
  fun_cases rulesWith bs s t x with
  | case1 | case3 => exact hs.fatalAt
  | case2 | case4 => exact hs.modPart.retire

protected theorem Canonical.execRules {g : BitVec 5} {a : BitVec 4} {s : State} (hs : Canonical s) : Keeps (execRules g a s) := by
  unfold execRules
  refine hs.scalar (fun hs => ?_)
  split
  · exact hs.fatalAt
  · exact hs.rulesWith
  · split
    · exact hs.fatalAt
    · split
      · exact .ite hs.gatherFrom (.ite hs.fatalAt hs.rulesWith)
      · exact hs.gatherFrom

protected theorem Canonical.storeQuads {l : List Word} {n : Nat} {k : State → Thread → State} {s : State} {t : Thread}
    (hs : Canonical s) (hk : ∀ {s t}, Canonical s → Canonical (k s t)) : Canonical (storeQuads l n k s t) := by
  induction l generalizing n k s t with
  | nil => exact hk hs
  | cons v l ih => exact hs.issueWrite fun hs => ih hs fun hs => hk hs

protected theorem Canonical.execNalloc {g : BitVec 5} {d a : BitVec 4} {s : State} (hs : Canonical s) : Keeps (execNalloc g d a s) := by
  unfold execNalloc
  refine hs.scalar fun hs => hs.withGraph fun _ => ?_
  extract_lets w p pick
  refine .ite hs.fatalAt ?_
  cases pick with
  | none => exact hs.retireReg
  | some _ => exact .ite hs.wait (hs.setPart.storeQuads fun hs => hs.retireReg)

protected theorem Canonical.execNfree {g : BitVec 5} {a : BitVec 4} {s : State} (hs : Canonical s) : Keeps (execNfree g a s) :=
  hs.scalar fun hs => hs.withGraph fun _ => .ite hs.fatalAt (.ite hs.wait
    (Canonical.ite hs.setThread.post hs.setThread.enterLine.sendOn).retire)

protected theorem Canonical.execNfreeAtHome {g : GraphPkt} {s : State} (hs : Canonical s) : Keeps (execNfreeAtHome g s) :=
  .next (hs.atPartition (fun hs => .ite hs.ackGraph (.ite hs.ackGraph hs.writeMem.modPart.after.ackGraph)))

protected theorem Canonical.execQuarantineExpiry {core part node : Nat} {s : State} (hs : Canonical s) :
    Keeps (execQuarantineExpiry core part node s) := by
  fun_cases execQuarantineExpiry core part node s with
  | case1 => exact .next hs.after
  | case2 => exact .next hs.setPart
  | case3 => exact .next hs

protected theorem Canonical.execBagins {g : BitVec 5} {a b : BitVec 4} {s : State} (hs : Canonical s) : Keeps (execBagins g a b s) := by
  unfold execBagins
  refine hs.scalar (fun hs => hs.withGraph (fun _ => ?_))
  split
  · exact hs.bagPush.retire
  · exact hs.wait

protected theorem Canonical.bagEnd {s : State} {t : Thread} {d : BitVec 4} {a b : Word} {status : Nat} (hs : Canonical s) :
    Canonical (bagEnd s t d a b status) :=
  hs.finish

protected theorem Canonical.bagTake {s : State} {t : Thread} {d : BitVec 4} {status : Nat} (hs : Canonical s) :
    Canonical (bagTake s t d status) := by
  dsimp only [bagTake]
  split
  · exact hs.fatalAt
  · exact hs.bagDrop.bagEnd

protected theorem Canonical.pullBlock {s : State} {t : Thread} {gs : GraphSt} {r : Nat} {b : BagBlock} (hs : Canonical s) :
    Canonical (pullBlock s t gs r b) :=
  hs.moveBytes.modPart.modRegion

protected theorem Canonical.bagSearch {s : State} {t : Thread} {x : Ctx} {gs : GraphSt} {d : BitVec 4} {i : Nat} (hs : Canonical s) :
    Canonical (bagSearch s t x gs d i) := by
  fun_cases bagSearch s t x gs d i with
  | case1 | case4 => exact hs.bagEnd
  | case2 => exact hs.pullBlock.bagTake
  | case3 => exact hs.wait

protected theorem Canonical.bagRemove {s : State} {core p i : Nat} (hs : Canonical s) : Canonical (bagRemove s core p i) :=
  hs.moveBytes.bagDrop

protected theorem Canonical.bagRecorded {s s' : State} {t : Thread} {x : Ctx} {gs : GraphSt} {a b : Word} (hs : Canonical s)
    (e : bagRecorded s t x gs a b = some s' := by assumption) : Canonical s' := by
  unfold bagRecorded at e
  dsimp only at e
  split at e
  · cases e
    exact hs.bagRemove
  · split at e
    · split at e
      · cases e
      · obtain ⟨i, -, rfl⟩ := Option.map_eq_some_iff.1 e
        exact hs.pullBlock.bagRemove
    · cases e

protected theorem Canonical.execBagpop {g : BitVec 5} {d : BitVec 4} {s : State} (hs : Canonical s) : Keeps (execBagpop g d s) := by
  unfold execBagpop
  refine hs.scalar fun hs => hs.withGraph fun _ => ?_
  split
  · exact hs.fatalAt
  · split
    · split
      · extract_lets b st s1
        have h1 {s'} (e : s1 = some s') : Canonical s' := by
          unfold s1 at e
          split at e
          · cases e
            exact hs
          · exact hs.bagRecorded
        cases e : s1 with
        | none => exact hs.wait
        | some s' => exact (h1 e).consumeRec.retireReg
      · exact hs.inTurn fun hs => hs
    · split
      · exact .ite hs.bagTake hs.bagSearch
      · exact .ite hs.bagTake hs.wait

protected theorem Canonical.rewriteEnd {q : List Word} {s : State} {t : Thread} (hs : Canonical s) : Canonical (rewriteEnd q s t) :=
  .ite hs.fatalAt (.ite hs.wait hs.setPart.setThread)

protected theorem Canonical.rewriteNodes {bs : List Byte} {gs : GraphSt} {s : State} {t : Thread} {x : Ctx} (hs : Canonical s) :
    Canonical (rewriteNodes bs gs s t x) := by
  fun_cases rewriteNodes bs gs s t x with
  | case1 | case2 => exact hs.fatalAt
  | case3 => exact hs.gatherFrom

protected theorem Canonical.execRewrite {g : BitVec 5} {s : State} (hs : Canonical s) : Keeps (execRewrite g s) := by
  unfold execRewrite
  refine hs.scalar (fun hs => hs.withGraph (fun _ => ?_))
  split
  · exact hs.fatalAt
  · exact hs.rewriteEnd
  · exact hs.rewriteNodes
  · exact hs.rewriteEnd
  · exact .ite hs.fatalAt hs.gatherNext

protected theorem Canonical.sendXchg {s : State} {t : Thread} {gs : GraphSt} {w v : Word} {l : LinkOp} (hs : Canonical s) :
    Canonical (sendXchg s t gs w v l) :=
  .ite hs.fatalAt (.ite hs.setThread.post hs.setThread.enterLine.sendOn)

protected theorem Canonical.execLinkExchange {g : GraphPkt} {s : State} (hs : Canonical s) : Keeps (execLinkExchange g s) := by
  fun_cases execLinkExchange g s with
  | case1 => exact .next hs.savePacket
  | case2 => exact .next hs.after
  | case3 | case4 => exact .next hs.applyAt.backTo
  | case5 => exact .next hs.refuse

protected theorem Canonical.sendPushes {gs : GraphSt} {t : Thread} {l : List (Word × Word)} {s : State} (hs : Canonical s) :
    Canonical (sendPushes gs t l s) := by
  induction l generalizing s with
  | nil => exact hs
  | cons v l ih =>
    obtain ⟨a, b⟩ := v
    exact ih (.ite hs.post hs.send)

protected theorem Canonical.linkFinish {s : State} {t : Thread} {gs : GraphSt} {l : LinkOp} (hs : Canonical s) :
    Canonical (linkFinish s t gs l) :=
  .ite hs.retire hs.setThread.sendPushes

protected theorem Canonical.linkPushed {s : State} {tid op : Nat} (hs : Canonical s) : Canonical (linkPushed s tid op) := by
  fun_cases linkPushed s tid op with
  | case1 | case4 | case5 => exact hs
  | case2 => exact hs.retire
  | case3 => exact hs.wait

protected theorem Canonical.joinFrom {gs : GraphSt} {n : Nat} {s : State} {t : Thread} {o : LinkOp} (hs : Canonical s) :
    Canonical (joinFrom gs n s t o) := by
  induction n generalizing s t o with
  | zero => exact hs.linkFinish
  | succ n ih =>
    unfold joinFrom
    split
    · split
      · exact hs.linkFinish
      · exact ih hs
    · exact hs.sendXchg

protected theorem Canonical.joinNext {s : State} {t : Thread} {gs : GraphSt} {l : LinkOp} (hs : Canonical s) :
    Canonical (joinNext s t gs l) := by
  unfold joinNext
  split
  · exact hs.linkFinish
  · exact hs.joinFrom

protected theorem Canonical.linkRedir {s : State} {t : Thread} {gs : GraphSt} {l : LinkOp} (hs : Canonical s) :
    Canonical (linkRedir s t gs l) := by
  unfold linkRedir
  split
  · exact .ite (.ite hs.joinFrom hs.sendXchg) hs.sendXchg
  · exact .ite hs.joinFrom hs.sendXchg

protected theorem Canonical.linkReply {s : State} {t : Thread} {l : LinkOp} {o : Word} (hs : Canonical s) :
    Canonical (linkReply s t l o) := by
  unfold linkReply
  refine hs.withGraph (fun _ => ?_)
  split
  · exact hs.sendXchg
  · exact hs.linkRedir
  · exact hs.linkRedir
  · exact hs.joinFrom
  · exact .ite hs.joinNext (.ite hs.joinFrom (.ite hs.joinNext hs.sendXchg))
  · exact .ite hs.joinNext (.ite hs.joinFrom (.ite hs.joinNext hs.joinNext))
  · exact hs

protected theorem Canonical.execLink {g : BitVec 5} {a b : BitVec 4} {s : State} (hs : Canonical s) : Keeps (execLink g a b s) :=
  hs.scalar fun hs => hs.withGraph fun _ => .ite hs.fatalAt (hs.fenced (fun hs => .ite hs.joinFrom hs.sendXchg))

end Sys2Proof.Safety
end

section
/-! SUPPORT. Delivery: every operation keeps the canonical form. -/

namespace Sys2Proof.Safety

open Sys2Proof Sys2Proof.Machine

protected theorem Canonical.execLoadReply {tid op : Nat} {r : LoadRes} {s : State} (hs : Canonical s) :
    Keeps (execLoadReply tid op r s) := by
  unfold execLoadReply
  split
  · exact .next (.ite hs (.ite hs.discardAt hs.cmdReply))
  · exact .next hs.arrayRead
  · refine .next (hs.toLive (fun hs => ?_))
    split
    · exact hs
    · split
      · exact hs.finishLoad
      · exact hs.gatherNext
      · exact hs.fatalAt
      · exact hs.fatalAt
      · exact hs.fatalAt
      · exact hs.fatalAt
      · exact hs

protected theorem Canonical.settle {s : State} {tid : Nat} {a : Access} (hs : Canonical s) : Canonical (settle s tid a) := by
  fun_cases settle s tid a with
  | case1 | case4 => exact hs.clearLine
  | case2 => exact hs.clearLine.setThread
  | case3 => exact hs.clearLine.setThread.askClosed

protected theorem Canonical.settleCode {s : State} {tid : Nat} {a : Access} (hs : Canonical s) : Canonical (settleCode s tid a) :=
  .ite (.ite hs.modPart.modThread hs.modPart.modThread.post) hs

protected theorem Canonical.settleCmd {s : State} {core p seq line : Nat} {st : AckStatus} (hs : Canonical s) :
    Canonical (settleCmd s core p seq line st) := by
  unfold settleCmd
  split
  · exact hs
  · exact .ite hs.modEntry.entryFault (.ite hs.modEntry.post hs.modEntry)

protected theorem Canonical.execAcknowledgement {a : Access} {st : AckStatus} {s : State} (hs : Canonical s) :
    Keeps (execAcknowledgement a st s) := by
  fun_cases execAcknowledgement a st s with
  | case1 => exact .next hs.absent
  | case2 => exact .next hs.settle.settleCode.linkPushed
  | case3 => exact .next hs.settle.settleCode.fatalLate
  | case4 => exact .next hs.clearLine.savePacket
  | case5 => exact .next (.ite hs.clearLine (.ite hs.clearLine.discardAt hs.clearLine.settleCmd))
  | case6 => exact .next hs.arrayAcked
  | case7 | case8 => exact .next hs

protected theorem Canonical.replayedFetch {s : State} {t : Thread} {d : BitVec 4} {v : Word} {flags : Nat} {skipped : Bool}
    {want : Word} {idx : Nat} (hs : Canonical s) : Canonical (replayedFetch s t d v flags skipped want idx) := by
  unfold replayedFetch
  split
  · exact hs.fatalAt
  · refine Canonical.retire ?_
    split
    · exact hs.consumeRec
    · exact hs

protected theorem Canonical.execFetchMergeReply {a : Access} {old : Word} {flags : Nat} {st : AckStatus} {oseq : Nat} {s : State}
    (hs : Canonical s) : Keeps (execFetchMergeReply a old flags st oseq s) := by
  unfold execFetchMergeReply
  split
  · refine .ite (.next hs.absent) (.next (hs.settle.toLive fun hs => .ite hs ?_))
    split
    · extract_lets v
      split
      · exact hs.fatalAt
      · exact hs.replayedFetch
      · exact hs.finish
    · split
      · exact hs.fatalAt
      · exact hs.linkReply
    · exact hs
  · exact .next hs

protected theorem Canonical.execCountQuery {dev tid iv : Nat} {s : State} (hs : Canonical s) : Keeps (execCountQuery dev tid iv s) :=
  .next (.ite hs.setCount.post hs.setCount.emit)

protected theorem Canonical.execCountReply {tid iv dev total : Nat} {s : State} (hs : Canonical s) :
    Keeps (execCountReply tid iv dev total s) := by
  unfold execCountReply
  refine .next (hs.toLive (fun hs => ?_))
  split
  · exact .ite hs.endCount hs.wait
  · exact .ite hs.endClosed hs.setThread
  · exact hs

protected theorem Canonical.execFenceCountTimeout {s : State} (hs : Canonical s) : Keeps (execFenceCountTimeout s) := by
  fun_cases execFenceCountTimeout s with
  | case1 | case4 | case8 => exact .next hs
  | case2 => exact .next (.ite hs.endClosed hs)
  | case3 => exact .next hs.askClosed
  | case5 => exact .next hs.startCount
  | case6 => exact .next hs.after
  | case7 => exact .next hs.endCount
  | case9 => exact .fault

protected theorem Canonical.execDropNotice {tid dev iv : Nat} {s : State} (hs : Canonical s) : Keeps (execDropNotice tid dev iv s) := by
  unfold execDropNotice
  split
  · exact .next hs.absent
  · exact .next hs.setThread.askClosed

protected theorem Canonical.barGive {kind idx : Nat} {v : Word} {l : List (Thread × BitVec 4)} {s : State} (hs : Canonical s) :
    Canonical (barGive kind idx v l s) := by
  induction l generalizing s with
  | nil => exact hs
  | cons v l ih =>
    obtain ⟨a, b⟩ := v
    exact ih hs.barEnd

protected theorem Canonical.execBarRelease {g part kind idx : Nat} {s : State} (hs : Canonical s) :
    Keeps (execBarRelease g part kind idx s) :=
  .next hs.setBar.barGive

protected theorem Canonical.execBarTimeout {s : State} (hs : Canonical s) : Keeps (execBarTimeout s) := by
  fun_cases execBarTimeout s with
  | case1 | case2 | case5 | case6 | case7 | case9 => exact .next hs
  | case3 | case4 => exact .next hs.wait
  | case8 => exact .next hs.barGive.barWithdraw
  | case10 => exact .fault

protected theorem Canonical.execOlogHeadRecheck {s : State} (hs : Canonical s) : Keeps (execOlogHeadRecheck s) := by
  fun_cases execOlogHeadRecheck s with
  | case1 => exact .next hs
  | case2 => exact .next (.ite hs.touchHeads.retryRing.bringInLogged.askRecheck hs.touchHeads.retryRing.bringInLogged)
  | case3 => exact .fault

protected theorem Canonical.execReplayTurn {s : State} (hs : Canonical s) : Keeps (execReplayTurn s) := by
  fun_cases execReplayTurn s with
  | case1 | case2 | case3 | case5 | case8 | case9 => exact .next hs
  | case4 => exact .next hs.wait
  | case6 => exact .next hs.consumeRec.retireReg.barWithdraw
  | case7 => exact .next hs.fatalAt
  | case10 => exact .fault

protected theorem Canonical.execReplayStall {s : State} (hs : Canonical s) : Keeps (execReplayStall s) := by
  fun_cases execReplayStall s with
  | case1 | case2 | case3 | case5 | case7 => exact .next hs
  | case4 | case6 => exact .next (.ite hs.fatalAt hs.post)
  | case8 => exact .fault

end Sys2Proof.Safety
end

section
/-! SUPPORT. Agreement: every operation keeps the canonical form. -/

namespace Sys2Proof.Safety

open Sys2Proof Sys2Proof.Machine

protected theorem Canonical.putTab {s : State} {t : Thread} {e : AccTab} (hs : Canonical s) : Canonical (putTab s t e) :=
  hs.modPart

protected theorem Canonical.dropTab {s : State} {t : Thread} {acc : Nat} (hs : Canonical s) : Canonical (dropTab s t acc) :=
  hs.modPart

protected theorem Canonical.withEntry {s : State} {t : Thread} {acc : Nat} {keep : List Op} {k : State → Thread → AccTab → State}
    (hs : Canonical s) (hk : ∀ {s t o}, Canonical s → Canonical (k s t o)) : Canonical (withEntry s t acc keep k) := by
  fun_cases withEntry s t acc keep k with
  | case1 => exact hk hs
  | case2 | case7 => exact hs.fatalAt
  | case3 => exact hk hs.putTab
  | case4 => exact hs.wait
  | case5 => exact hs.setThread.sendAfter
  | case6 => exact hs.setThread.emit

protected theorem Canonical.execAccordTableFill {s : State} (hs : Canonical s) : Keeps (execAccordTableFill s) := by
  fun_cases execAccordTableFill s with
  | case1 | case2 | case8 => exact .next hs
  | case3 | case4 | case6 => exact .next hs.fatalAt
  | case5 => exact .next hs.putTab.wait
  | case7 => exact .next hs.gatherFrom
  | case9 => exact .fault

protected theorem Canonical.fillIn {s : State} {t : Thread} {acc : Nat} {bs : List Byte} (hs : Canonical s) :
    Canonical (fillIn s t acc bs) :=
  hs.putTab

protected theorem Canonical.askMember {s : State} {t : Thread} {l : LearnOp} (hs : Canonical s) : Canonical (askMember s t l) :=
  hs.withEntry fun hs => hs.setThread.toMember.after

protected theorem Canonical.cancelAsk {s : State} {t : Thread} {l : LearnOp} (hs : Canonical s) : Canonical (cancelAsk s t l) := by
  unfold cancelAsk
  split
  · exact hs.toMember
  · exact hs

protected theorem Canonical.parkProp {s : State} {t : Thread} {p : PropOp} (hs : Canonical s) : Canonical (parkProp s t p) := by
  unfold parkProp
  split
  · exact hs.wait
  · exact hs.setThread

protected theorem Canonical.startPhase {s : State} {t : Thread} {p : PropOp} {ph : Phase} {flag : Bool} {mk : AMsg → Instr}
    (hs : Canonical s) : Canonical (startPhase s t p ph flag mk) :=
  hs.setThread.toEach.after

protected theorem Canonical.fencedProp {s : State} {t : Thread} {p : PropOp} {k : State → Thread → State} (hs : Canonical s)
    (hk : ∀ {s t}, Canonical s → Canonical (k s t)) : Canonical (fencedProp s t p k) :=
  hs.fenced fun hs => hk hs

protected theorem Canonical.sendPrepare {s : State} {t : Thread} {p : PropOp} {round : Nat} (hs : Canonical s) :
    Canonical (sendPrepare s t p round) :=
  .ite hs.fatalAt hs.startPhase

protected theorem Canonical.sendAccept {s : State} {t : Thread} {p : PropOp} (hs : Canonical s) : Canonical (sendAccept s t p) :=
  hs.startPhase

protected theorem Canonical.sendLease {s : State} {t : Thread} {p : PropOp} (hs : Canonical s) : Canonical (sendLease s t p) :=
  hs.setThread.toMember

protected theorem Canonical.sendRelease {s : State} {t : Thread} {p : PropOp} (hs : Canonical s) : Canonical (sendRelease s t p) :=
  hs.toEach

protected theorem Canonical.returnProp {s : State} {t : Thread} {p : PropOp} {type out why : Nat} {gd : Word} {bal orig : Nat}
    {defeat : Option Nat} (hs : Canonical s) : Canonical (returnProp s t p type out why gd bal orig defeat) :=
  hs.finish

protected theorem Canonical.returnConv {s : State} {t : Thread} {p : PropOp} {out why : Nat} {defeat : Option Nat}
    (hs : Canonical s) : Canonical (returnConv s t p out why defeat) :=
  hs.finish

protected theorem Canonical.returnLnch {s : State} {t : Thread} {p : PropOp} {d : Word} {defeat : Option Nat} (hs : Canonical s) :
    Canonical (returnLnch s t p d defeat) :=
  .ite hs.wait hs.finish

protected theorem Canonical.returnSnap {s : State} {t : Thread} {p : PropOp} {out : Nat} (hs : Canonical s) :
    Canonical (returnSnap s t p out) :=
  hs.finish

protected theorem Canonical.applyReshape {s : State} {t : Thread} {p : PropOp} {q : Quorum} (hs : Canonical s) :
    Canonical (applyReshape s t p q) :=
  (Canonical.ite hs.reshapeEffect hs.emit).dropTab

protected theorem Canonical.propBegin {s : State} {t : Thread} {p0 : PropOp} {e : AccTab} (hs : Canonical s) :
    Canonical (propBegin s t p0 e) :=
  .ite hs.returnProp (.ite (hs.fencedProp (fun hs => hs.startPhase))
    (.ite (hs.fencedProp (fun hs => hs.sendLease)) (.ite (hs.fencedProp (fun hs => hs.sendAccept)) hs.sendPrepare)))

protected theorem Canonical.propAsk {s : State} {t : Thread} {p : PropOp} {form : LForm} {slot : Nat} (hs : Canonical s) :
    Canonical (propAsk s t p form slot) :=
  hs.askMember

protected theorem Canonical.propGo {s : State} {t : Thread} {p : PropOp} (hs : Canonical s) : Canonical (propGo s t p) := by
  unfold propGo
  split
  · exact hs.withEntry fun hs => hs.propBegin
  · exact hs.fencedProp fun hs => hs.sendAccept
  · exact hs.withEntry fun hs => .ite hs.returnConv hs.propAsk
  · exact hs.withEntry fun hs => .ite hs.returnConv hs.propAsk
  · exact hs.propAsk
  · exact hs

protected theorem Canonical.nextSlot {s : State} {t : Thread} {p : PropOp} (hs : Canonical s) : Canonical (nextSlot s t p) :=
  hs.propGo

protected theorem Canonical.outerEnd {s : State} {t : Thread} {p : PropOp} {out why : Nat} {gd : Word} {bal orig : Nat}
    (hs : Canonical s) : Canonical (outerEnd s t p out why gd bal orig) := by
  fun_cases outerEnd s t p out why gd bal orig with
  | case1 | case3 => exact hs.returnProp
  | case2 => exact hs.applyReshape.returnProp
  | case4 | case8 => exact hs.returnConv
  | case5 | case6 | case10 | case11 | case17 | case18 => exact hs.nextSlot
  | case7 | case14 | case19 | case21 => exact hs.propGo
  | case9 | case12 | case13 => exact hs.returnLnch
  | case15 | case16 | case20 => exact hs.returnSnap

protected theorem Canonical.endProp {s : State} {t : Thread} {p : PropOp} {out why : Nat} {gd : Word} {bal orig : Nat}
    (hs : Canonical s) : Canonical (endProp s t p out why gd bal orig) :=
  .ite (Canonical.ite hs.sendRelease hs).setThread.after (Canonical.ite hs.sendRelease hs).outerEnd

protected theorem Canonical.execBackoffEnd {s : State} (hs : Canonical s) : Keeps (execBackoffEnd s) := by
  fun_cases execBackoffEnd s with
  | case1 | case2 | case6 => exact .next hs
  | case3 | case4 => exact .next hs.returnProp
  | case5 => exact .next hs.propGo
  | case7 => exact .fault

protected theorem Canonical.onProp {s : State} {r : ARep} {i : Instr} {k : State → Thread → PropOp → State} (hs : Canonical s)
    (hk : ∀ {s t o}, Canonical s → Canonical (k s t o)) : Keeps (onProp s r i k) := by
  unfold onProp
  refine .next (hs.toLive (fun hs => ?_))
  split
  · exact .ite hs (.ite hs.post (hk hs))
  · exact hs

protected theorem Canonical.refused {s : State} {t : Thread} {p : PropOp} {member need : Nat} (hs : Canonical s) :
    Canonical (refused s t p member need) :=
  .ite hs.parkProp (.ite (.ite hs.endProp hs.propGo) (.ite hs.endProp (.ite hs.endProp hs.endProp)))

protected theorem Canonical.execPromise {r : ARep} {s : State} (hs : Canonical s) : Keeps (execPromise r s) :=
  hs.onProp fun hs => .ite hs (.ite hs.parkProp (.ite hs.parkProp (.ite hs.sendAccept hs.propGo)))

protected theorem Canonical.execAccepted {r : ARep} {s : State} (hs : Canonical s) : Keeps (execAccepted r s) :=
  hs.onProp fun hs => .ite hs (.ite hs.parkProp (.ite hs.toEach.endProp hs.toEach.endProp))

protected theorem Canonical.execNack {r : ARep} {s : State} (hs : Canonical s) : Keeps (execNack r s) := by
  unfold execNack
  refine hs.onProp (fun hs => ?_)
  split
  · exact hs.dropTab.endProp
  · exact .ite (.ite hs.refused hs.parkProp) hs.endProp
  · exact .ite (.ite hs.refused hs.parkProp) hs.endProp
  · exact hs.endProp
  · exact .ite hs.refused hs.parkProp
  · exact .ite hs.refused hs.parkProp
  · exact hs.endProp

protected theorem Canonical.execNorun {r : ARep} {s : State} (hs : Canonical s) : Keeps (execNorun r s) :=
  hs.onProp fun hs => .ite hs.refused hs

protected theorem Canonical.execDecidednow {r : ARep} {s : State} (hs : Canonical s) : Keeps (execDecidednow r s) :=
  hs.onProp fun hs => .ite hs.endProp hs.endProp

protected theorem Canonical.execDecidedReply {r : ARep} {s : State} (hs : Canonical s) : Keeps (execDecidedReply r s) :=
  hs.onProp fun hs => hs.endProp

protected theorem Canonical.execTruncReply {r : ARep} {s : State} (hs : Canonical s) : Keeps (execTruncReply r s) :=
  hs.onProp fun hs => .ite hs.endProp hs.endProp

protected theorem Canonical.execPhaseTimeout {tid op bal : Nat} {s : State} (hs : Canonical s) : Keeps (execPhaseTimeout tid op bal s) := by
  fun_cases execPhaseTimeout tid op bal s with
  | case1 | case3 | case4 => exact .next hs
  | case2 => exact .next hs.endProp

protected theorem Canonical.seniorPrepare {s : State} {t : Thread} {p : PropOp} (hs : Canonical s) : Canonical (seniorPrepare s t p) :=
  hs.sendPrepare

protected theorem Canonical.execLeaseGrant {m : AMsg} {s : State} (hs : Canonical s) : Keeps (execLeaseGrant m s) := by
  unfold execLeaseGrant
  split
  · exact .next hs.toEach
  · refine .next (hs.toLive (fun hs => ?_))
    split
    · exact .ite (.ite hs.seniorPrepare hs.parkProp.after) hs.toEach
    · exact hs.toEach

protected theorem Canonical.execFreezeReport {r : ARep} {s : State} (hs : Canonical s) : Keeps (execFreezeReport r s) :=
  hs.onProp fun hs => .ite hs (.ite hs.seniorPrepare hs.parkProp)

protected theorem Canonical.execSeniorReportTimeout {s : State} (hs : Canonical s) : Keeps (execSeniorReportTimeout s) := by
  fun_cases execSeniorReportTimeout s with
  | case1 | case3 => exact .next hs
  | case2 => exact .next (.ite hs.seniorPrepare hs)
  | case4 => exact .fault

protected theorem Canonical.propAnswer {s : State} {t : Thread} {p : PropOp} {v1 : Word} {decided : Bool} {orig : Nat}
    (hs : Canonical s) : Canonical (propAnswer s t p v1 decided orig) := by
  unfold propAnswer
  split
  · exact hs.propGo
  · exact .ite hs.propGo (.ite hs.returnConv hs.propGo)
  · exact hs.propGo
  · exact hs

protected theorem Canonical.returnLearn {s : State} {t0 : Thread} {l : LearnOp} {v1 v2 : Word} {decided : Bool}
    {slot orig bal : Nat} (hs : Canonical s) : Canonical (returnLearn s t0 l v1 v2 decided slot orig bal) := by
  unfold returnLearn
  extract_lets t r1 r2 ref learned
  have hl {form w1 w2} : Canonical (learned form w1 w2) := .ite hs.finish hs.retire
  cases l.form with
  | learn => exact hl
  | poll => exact hl
  | learnt => exact .ite hl hl
  | recv | ballot | stat | next | cvstate => exact hs.finish
  | _ => exact hs

protected theorem Canonical.learnEnd {s : State} {t : Thread} {l : LearnOp} {v1 v2 : Word} {decided : Bool} {slot orig bal : Nat}
    (hs : Canonical s) : Canonical (learnEnd s t l v1 v2 decided slot orig bal) := by
  unfold learnEnd
  split
  · exact hs.propAnswer
  · exact hs.returnLearn

protected theorem Canonical.learnFail {s : State} {t : Thread} {l : LearnOp} {why : Nat} (hs : Canonical s) :
    Canonical (learnFail s t l why) := by
  fun_cases learnFail s t l why with
  | case1 => exact hs.outerEnd
  | case2 | case3 | case4 | case5 | case6 => exact hs.returnLearn

protected theorem Canonical.execLearnerFailover {s : State} (hs : Canonical s) : Keeps (execLearnerFailover s) := by
  fun_cases execLearnerFailover s with
  | case1 | case2 | case6 => exact .next hs
  | case3 => exact .next hs.post
  | case4 => exact .next hs.cancelAsk.learnFail
  | case5 => exact .next hs.cancelAsk.askMember
  | case7 => exact .fault

protected theorem Canonical.execLearntDeadline {s : State} (hs : Canonical s) : Keeps (execLearntDeadline s) := by
  fun_cases execLearntDeadline s with
  | case1 | case2 | case4 => exact .next hs
  | case3 => exact .next hs.cancelAsk.returnLearn
  | case5 => exact .fault

end Sys2Proof.Safety
end

section
/-! SUPPORT. Accords: every operation keeps the canonical form. -/

namespace Sys2Proof.Safety

open Sys2Proof Sys2Proof.Machine

protected theorem Canonical.returnAcc {s : State} {t : Thread} {a : AccOp} {d : Nat} (hs : Canonical s) :
    Canonical (returnAcc s t a d) :=
  .ite hs.wait hs.retireReg

protected theorem Canonical.parkAcc {s : State} {t : Thread} {a : AccOp} (hs : Canonical s) : Canonical (parkAcc s t a) :=
  hs.wait

protected theorem Canonical.toOpen {s : State} {core acc dev region payload : Nat} {i : Instr} (hs : Canonical s) :
    Canonical (toOpen s core acc dev region payload i) :=
  .ite hs.send hs.emit

protected theorem Canonical.toOpenAll {core acc payload : Nat} {mk : Nat → Nat → Instr} {n : Nat} {l : List (Nat × Nat)} {s : State}
    (hs : Canonical s) : Canonical (toOpenAll core acc payload mk n l s) := by
  induction l generalizing n s with
  | nil => exact hs
  | cons v l ih =>
    obtain ⟨a, b⟩ := v
    exact ih hs.toOpen

protected theorem Canonical.openUndo {s : State} {t : Thread} {a : AccOp} (hs : Canonical s) : Canonical (openUndo s t a) :=
  hs.toOpenAll.toOpen.parkAcc

protected theorem Canonical.openDone {s : State} {t : Thread} {a : AccOp} (hs : Canonical s) : Canonical (openDone s t a) :=
  .ite hs.returnAcc (.ite hs.accWrite.accWrite.returnAcc hs.openUndo)

protected theorem Canonical.accGo {s : State} {t : Thread} {a : AccOp} (hs : Canonical s) : Canonical (accGo s t a) := by
  unfold accGo
  split
  · exact hs.setThread.toOpen.after
  · exact hs.withEntry fun hs => .ite hs.fatalAt (.ite hs.returnAcc hs.setThread.toMember)
  · exact hs.withEntry fun hs => hs.setThread.toMember

protected theorem Canonical.accSecond {s : State} {t : Thread} {a : AccOp} (hs : Canonical s) : Canonical (accSecond s t a) := by
  unfold accSecond
  split
  · exact hs.toOpenAll.parkAcc
  · exact hs.toEach.dropTab.parkAcc
  · exact hs.toEach.toMember.parkAcc

protected theorem Canonical.accStatus {s : State} {t : Thread} {a : AccOp} {member code v : Nat} (hs : Canonical s) :
    Canonical (accStatus s t a member code v) := by
  fun_cases accStatus s t a member code v with
  | case1 | case4 | case6 | case7 => exact hs.returnAcc
  | case2 => exact hs.accSecond
  | case3 => exact hs.parkAcc
  | case5 => exact hs.openDone

protected theorem Canonical.execOpenTimeout {s : State} (hs : Canonical s) : Keeps (execOpenTimeout s) := by
  fun_cases execOpenTimeout s with
  | case1 | case2 | case4 => exact .next hs
  | case3 => exact .next hs.openUndo
  | case5 => exact .fault

protected theorem Canonical.closeAt {s : State} {t : Thread} {acc : Nat} (hs : Canonical s) : Canonical (closeAt s t acc) := by
  fun_cases closeAt s t acc with
  | case1 | case6 => exact hs
  | case2 | case5 => exact hs.endProp
  | case3 | case4 => exact hs.learnFail

protected theorem Canonical.execMemberReply {tid op member : Nat} {b : MBody} {s : State} (hs : Canonical s) :
    Keeps (execMemberReply tid op member b s) := by
  unfold execMemberReply
  split
  · refine .next ?_
    split
    · exact hs.frontReport
    · exact hs
  · split
    · exact .next hs
    · refine .next (hs.toLive (fun hs => ?_))
      split
      · exact hs.closeAt
      · split
        · exact hs
        · split
          · exact hs.wait
          · exact hs.wait
          · exact hs.dropTab.askMember
          · exact hs.learnEnd
          · exact hs.putTab.wait
          · exact hs.fatalAt
          · exact hs.accStatus
          · exact hs.dropTab.accGo
          · exact hs.fatalAt
          · exact hs

protected theorem Canonical.goOp {s : State} {t : Thread} {o : Op} (hs : Canonical s) : Canonical (goOp s t o) := by
  unfold goOp
  split
  · exact hs.propGo
  · exact hs.askMember
  · exact hs.accGo
  · exact hs

protected theorem Canonical.agree {s : State} {t : Thread} {start : State → Thread → State} (hs : Canonical s)
    (hstart : ∀ {s t}, Canonical s → Canonical (start s t)) : Canonical (agree s t start) := by
  unfold agree
  extract_lets s1
  have h1 : Canonical s1 := by
    unfold s1
    split
    · exact .ite hs.fillIn hs
    · exact hs
  split
  · exact hstart h1
  · exact h1.goOp

protected theorem Canonical.liveOr {s : State} {t : Thread} {type form : Nat} {obj : Word} {live : State → Thread → State}
    {old : State → Thread → LogRead → State} (hs : Canonical s) (hlive : ∀ {s t}, Canonical s → Canonical (live s t))
    (hold : ∀ {s t o}, Canonical s → Canonical (old s t o)) : Canonical (liveOr s t type form obj live old) := by
  unfold liveOr
  split
  · exact hs.fatalAt
  · exact .ite (hs.inTurn (fun hs => hold hs)) (hlive hs)

protected theorem Canonical.oldProp {d : BitVec 3} {b : Word} {plain : Bool} {acc slot : Nat} {s : State} {t : Thread} {e : LogRead}
    (hs : Canonical s) : Canonical (oldProp d b plain acc slot s t e) := by
  unfold oldProp
  split
  · exact .ite hs.fatalAt (Canonical.ite hs.toEach hs).retire
  · exact .ite hs.fatalAt hs.retire

protected theorem Canonical.propOp {form : Nat} {g : BitVec 5} {d : BitVec 3} {a b : BitVec 4} {s : State} (hs : Canonical s) :
    Keeps (propOp form g d a b s) :=
  hs.scalar fun hs => hs.agree fun hs => hs.liveOr (fun hs => hs.propGo) fun hs => hs.oldProp

protected theorem Canonical.oldLearn {d : BitVec 3} {clr : Bool} {s : State} {t : Thread} {e : LogRead} (hs : Canonical s) :
    Canonical (oldLearn d clr s t e) :=
  hs.retire

protected theorem Canonical.learnOp {f : LForm} {num : Nat} {dl : Thread → Word} {g : BitVec 5} {d : BitVec 3} {a : BitVec 4}
    {s : State} (hs : Canonical s) : Keeps (learnOp f num dl g d a s) :=
  hs.scalar fun hs => hs.agree fun hs => hs.liveOr (fun hs => .ite hs.askMember hs.post.askMember) fun hs => hs.oldLearn

protected theorem Canonical.askOp {type num : Nat} {obj : Word → Word} {f : Word → LForm} {sl : Word → Word → Nat}
    {acc : Word → Nat} {g : BitVec 5} {d a b : BitVec 4} {s : State} (hs : Canonical s) :
    Keeps (askOp type num obj f sl acc g d a b s) :=
  hs.scalar fun hs => hs.agree fun hs => hs.liveOr (fun hs => hs.askMember) fun hs => hs.retireReg

protected theorem Canonical.execBallot {g : BitVec 5} {d a : BitVec 4} {s : State} (hs : Canonical s) : Keeps (execBallot g d a s) :=
  hs.askOp

protected theorem Canonical.execAccordStat {g : BitVec 5} {d a b : BitVec 4} {s : State} (hs : Canonical s) :
    Keeps (execAccordStat g d a b s) :=
  hs.askOp

protected theorem Canonical.execAccordNext {g : BitVec 5} {d a b : BitVec 4} {s : State} (hs : Canonical s) :
    Keeps (execAccordNext g d a b s) :=
  hs.askOp

protected theorem Canonical.execCvopState {g : BitVec 5} {d a b : BitVec 4} {s : State} (hs : Canonical s) :
    Keeps (execCvopState g d a b s) :=
  hs.askOp

protected theorem Canonical.reshapeWith {bs : List Byte} {d : BitVec 3} {ref : Word} {s : State} {t : Thread} (hs : Canonical s) :
    Canonical (reshapeWith bs d ref s t) :=
  .ite hs.returnProp (hs.withEntry (fun hs => .ite hs.returnProp hs.propGo))

protected theorem Canonical.execReshape {g : BitVec 5} {d : BitVec 3} {a b : BitVec 4} {s : State} (hs : Canonical s) :
    Keeps (execReshape g d a b s) := by
  unfold execReshape
  refine hs.scalar (fun hs => hs.agree (fun hs => hs.liveOr (fun hs => ?_) (fun hs => hs.oldProp)))
  split
  · exact hs.reshapeWith
  · exact hs.reshapeWith
  · split
    · exact hs.fatalAt
    · split
      · exact hs.fatalAt
      · exact hs.gatherFrom

protected theorem Canonical.openWith {d : BitVec 4} {idx : Word} {x : Ctx} {desc : Nat} {bs : List Byte} {s : State} {t : Thread}
    (hs : Canonical s) : Canonical (openWith d idx x desc bs s t) :=
  .ite hs.returnAcc (.ite hs.returnAcc (.ite hs.fatalAt (.ite hs.fatalAt (.ite hs.fatalAt hs.accGo))))

protected theorem Canonical.execAccordOpen {g : BitVec 5} {d a b : BitVec 4} {s : State} (hs : Canonical s) :
    Keeps (execAccordOpen g d a b s) := by
  unfold execAccordOpen
  refine hs.scalar (fun hs => ?_)
  split
  · exact hs.fatalAt
  · split
    · exact hs.fatalAt
    · split
      · split
        · exact hs.openWith
        · split
          · exact hs.returnAcc
          · exact hs.gatherFrom
      · exact hs.openWith
      · exact hs.gatherFrom

protected theorem Canonical.execAccordClose {g : BitVec 5} {d a b : BitVec 4} {s : State} (hs : Canonical s) :
    Keeps (execAccordClose g d a b s) :=
  hs.scalar fun hs => hs.agree fun hs => hs.accGo

protected theorem Canonical.execAccordTrunc {g : BitVec 5} {d a b : BitVec 4} {s : State} (hs : Canonical s) :
    Keeps (execAccordTrunc g d a b s) :=
  hs.scalar fun hs => hs.agree fun hs => hs.accGo

protected theorem Canonical.convSend {form : Nat} {d : BitVec 4} {acc : Nat} {v : Word} {s : State} {t : Thread} (hs : Canonical s) :
    Canonical (convSend form d acc v s t) :=
  hs.liveOr (fun hs => .ite hs.propGo hs.propGo) fun hs => hs.retireReg

protected theorem Canonical.execCvsend {g : BitVec 5} {d a b : BitVec 4} {r : BitVec 3} {k : BitVec 4} {s : State}
    (hs : Canonical s) : Keeps (execCvsend g d a b r k s) :=
  hs.scalar fun hs => hs.agree fun hs => hs.convSend

protected theorem Canonical.execCvrecv {g : BitVec 5} {d : BitVec 3} {a : BitVec 4} {s : State} (hs : Canonical s) :
    Keeps (execCvrecv g d a s) :=
  hs.scalar fun hs => hs.agree fun hs => hs.liveOr (fun hs => hs.askMember) fun hs => hs.oldLearn

protected theorem Canonical.execCvopJoin {g : BitVec 5} {d a : BitVec 4} {s : State} (hs : Canonical s) : Keeps (execCvopJoin g d a s) :=
  hs.scalar fun hs => hs.agree fun hs => hs.convSend

protected theorem Canonical.execCvopDlg {g : BitVec 5} {d a b : BitVec 4} {s : State} (hs : Canonical s) :
    Keeps (execCvopDlg g d a b s) :=
  hs.scalar fun hs => hs.agree fun hs => hs.convSend

protected theorem Canonical.execCvopLeave {g : BitVec 5} {d a : BitVec 4} {s : State} (hs : Canonical s) :
    Keeps (execCvopLeave g d a s) :=
  hs.scalar fun hs => hs.agree fun hs => hs.convSend

end Sys2Proof.Safety
end

section
/-! SUPPORT. Waits that end: every operation keeps the canonical form. -/

namespace Sys2Proof.Safety

open Sys2Proof Sys2Proof.Machine

protected theorem Canonical.askInsert {s : State} {q : Nat} (hs : Canonical s) : Canonical (askInsert s q) :=
  hs.post

protected theorem Canonical.setHead {s : State} {q v : Nat} (hs : Canonical s) : Canonical (setHead s q v) :=
  hs.setTrapQ.askInsert

protected theorem Canonical.serveAgain {s : State} {l : List Access} (hs : Canonical s) : Canonical (serveAgain s l) := by
  induction l generalizing s with
  | nil => exact hs
  | cons v l ih =>
    unfold serveAgain
    refine ih ?_
    split <;> exact hs.deliverHome

protected theorem Canonical.wakeHeld {s : State} {uid : Nat} {skip : Bool} {old : Word} (hs : Canonical s) :
    Canonical (wakeHeld s uid skip old) := by
  unfold wakeHeld
  split
  · exact hs
  · split
    · refine Canonical.serveAgain ?_
      split
      · exact hs.modPort.takeOseq.backTo
      · exact hs.modPort.ackTo
    · exact hs.modPort.serveAgain

protected theorem Canonical.wakeParked {s : State} {r : TrapRec} {skip : Bool} {old : Word} (hs : Canonical s) :
    Canonical (wakeParked s r skip old) := by
  fun_cases wakeParked s r skip old with
  | case1 | case4 => exact hs.wakeHeld
  | case2 => exact hs.frame.sendAccess
  | case3 => exact hs.modThread
  | case5 => exact hs.modCtx
  | case6 => exact hs.resumeCmd
  | case7 => exact hs.modCtx.post

protected theorem Canonical.wakeRec {s : State} {v old : Word} (hs : Canonical s) : Canonical (wakeRec s v old) := by
  dsimp only [wakeRec]
  split
  · exact hs
  · exact .ite hs hs.setTrapQ.wakeParked.askInsert

end Sys2Proof.Safety
end

section
/-! SUPPORT. Traps and registers: every operation keeps the canonical form. -/

namespace Sys2Proof.Safety

open Sys2Proof Sys2Proof.Machine

protected theorem Canonical.execTrap {g : BitVec 5} {c : BitVec 12} {s : State} (hs : Canonical s) : Keeps (execTrap g c s) :=
  hs.scalar fun hs => .ite hs.fatalAt hs.takeTrap

protected theorem Canonical.execEret {g : BitVec 5} {s : State} (hs : Canonical s) : Keeps (execEret g s) :=
  hs.scalar fun hs => hs.returnFromTrap

protected theorem Canonical.execIllegalInstruction {_w : BitVec 32} {s : State} (hs : Canonical s) :
    Keeps (execIllegalInstruction _w s) :=
  hs.scalar fun hs => hs.fatalAt

protected theorem Canonical.execRdsw {g : BitVec 5} {d : BitVec 4} {sel : BitVec 12} {s : State} (hs : Canonical s) :
    Keeps (execRdsw g d sel s) := by
  unfold execRdsw
  refine hs.scalar (fun hs => ?_)
  split
  · exact hs.fatalAt
  · exact .ite hs.retireReg hs.fatalAt

protected theorem Canonical.execWrsw {g : BitVec 5} {a : BitVec 4} {sel : BitVec 12} {s : State} (hs : Canonical s) :
    Keeps (execWrsw g a sel s) := by
  unfold execWrsw
  refine hs.scalar (fun hs => ?_)
  split
  · exact hs.fatalAt
  · split
    · exact hs.fatalAt
    · split
      · exact hs.retire
      · exact hs.retire
      · exact hs.retire
      · exact hs.retire
      · exact hs.retire.setHead
      · exact hs.retire.wakeRec
      · exact hs.retire
      · exact hs.retire

protected theorem Canonical.endThread {s : State} {t : Thread} (hs : Canonical s) : Canonical (endThread s t) := by
  unfold endThread
  refine Canonical.poll ?_
  split
  · exact hs.leaveQueue.dropThread.slotFreed
  · exact hs.leaveQueue.dropThread

protected theorem Canonical.execHalt {g : BitVec 5} {s : State} (hs : Canonical s) : Keeps (execHalt g s) :=
  hs.scalar fun hs => hs.fenced fun hs => .ite hs.retire hs.endThread

protected theorem Canonical.requeue {s : State} {t : Thread} (hs : Canonical s) : Canonical (requeue s t) := by
  unfold requeue
  split
  · exact .ite hs.slotFreed.setThread.modPart hs.slotFreed.setThread.modRegion
  · exact .ite hs.setThread.modPart hs.setThread.modRegion

protected theorem Canonical.execYield {g : BitVec 5} {s : State} (hs : Canonical s) : Keeps (execYield g s) := by
  unfold execYield
  refine hs.scalar (fun hs => ?_)
  split
  · exact hs.retire
  · refine hs.fenced (fun hs => ?_)
    dsimp only
    split
    · exact .ite hs.retire hs.retire.requeue
    · exact hs.retire

protected theorem Canonical.execWfm {g : BitVec 5} {s : State} (hs : Canonical s) : Keeps (execWfm g s) := by
  unfold execWfm
  refine hs.scalar (fun hs => ?_)
  split
  · exact hs.fatalAt
  · split
    · refine Canonical.retire ?_
      split
      · exact hs.modPart
      · exact hs
    · exact hs.wait

protected theorem Canonical.takeRequest {s : State} {t : Thread} {x : Ctx} (hs : Canonical s) : Canonical (takeRequest s t x) :=
  .ite (hs.inTurn (fun hs => hs.modPart.takeTrap)) hs.modPart.finish

protected theorem Canonical.execCkpt {g : BitVec 5} {a : BitVec 4} {s : State} (hs : Canonical s) : Keeps (execCkpt g a s) := by
  unfold execCkpt
  refine hs.scalar (fun hs => ?_)
  split
  · exact hs.fatalAt
  · exact hs.fatalAt
  · split
    · dsimp only
      split
      · exact hs.takeRequest
      · refine hs.fenced (fun hs => ?_)
        split
        · exact .ite hs.retire hs.retire.wait
        · exact hs.retire
    · exact .ite hs.takeRequest (Canonical.ite hs.setPart.post hs.setPart).retire

protected theorem Canonical.execCkptStepTrigger {s : State} (hs : Canonical s) : Keeps (execCkptStepTrigger s) := by
  unfold execCkptStepTrigger
  split
  · exact .next hs.modPart
  · exact .fault

protected theorem Canonical.onBlock {f : Part → Part} {p : Nat} {l : List Nat} {s : State} (hs : Canonical s) :
    Canonical (onBlock f p l s) := by
  induction l generalizing s with
  | nil => exact hs
  | cons v l ih => exact ih hs.modPart

protected theorem Canonical.execCkptPeriodTrigger {s : State} (hs : Canonical s) : Keeps (execCkptPeriodTrigger s) := by
  fun_cases execCkptPeriodTrigger s with
  | case1 | case2 => exact .next hs
  | case3 => exact .next (Canonical.ite hs.onBlock hs).poll
  | case4 => exact .fault

protected theorem Canonical.ologOp {g : BitVec 5} {s : State} {k : State → Thread → Ctx → State} (hs : Canonical s)
    (hk : ∀ {s t o}, Canonical s → Canonical (k s t o)) : Keeps (ologOp g s k) := by
  unfold ologOp
  refine hs.scalar (fun hs => ?_)
  split
  · exact hs.fatalAt
  · exact .ite (hk hs) hs.retire

protected theorem Canonical.execOlogMark {g : BitVec 5} {a : BitVec 4} {s : State} (hs : Canonical s) : Keeps (execOlogMark g a s) :=
  hs.ologOp fun hs => .ite (hs.inTurn (fun hs => .ite hs.retire hs.fatalAt)) (.ite hs.finish hs.retire)

protected theorem Canonical.execOlogPause {g : BitVec 5} {s : State} (hs : Canonical s) : Keeps (execOlogPause g s) :=
  hs.ologOp fun hs => .ite hs.retire (.ite (hs.inTurn (fun hs => hs.complete)) hs.finish)

protected theorem Canonical.resumeLog {s : State} {t : Thread} (hs : Canonical s) : Canonical (resumeLog s t) :=
  hs.modCtx.setThread.bump

protected theorem Canonical.execOlogResume {g : BitVec 5} {s : State} (hs : Canonical s) : Keeps (execOlogResume g s) :=
  hs.ologOp fun hs => .ite (.ite hs.retire hs.finish) (.ite hs.retire (.ite (hs.inTurn (fun hs => hs.resumeLog)) hs.resumeLog))

protected theorem Canonical.execOlogFlush {g : BitVec 5} {s : State} (hs : Canonical s) : Keeps (execOlogFlush g s) :=
  hs.ologOp fun hs => .ite hs.retire hs.wait

protected theorem Canonical.snapRefused {s : State} {t : Thread} {d : BitVec 4} {acc code : Nat} (hs : Canonical s) :
    Canonical (snapRefused s t d acc code) :=
  hs.finish

protected theorem Canonical.execSnap {g : BitVec 5} {d a : BitVec 4} {s : State} (hs : Canonical s) : Keeps (execSnap g d a s) := by
  unfold execSnap
  refine hs.scalar (fun hs => hs.agree (fun hs => hs.fenced (fun hs => hs.liveOr (fun hs => ?_) (fun hs => hs.retireReg))))
  split
  · exact hs.fatalAt
  · split
    · exact hs.fatalAt
    · split
      · exact .ite hs.snapRefused (.ite hs.snapRefused hs.propGo)
      · exact hs.gatherFrom

protected theorem Canonical.execBudgetExhausted {s : State} (hs : Canonical s) : Keeps (execBudgetExhausted s) := by
  fun_cases execBudgetExhausted s with
  | case1 => exact .next hs
  | case2 =>
    refine .next ?_
    split
    · exact hs.setCtx
    · exact hs.setCtx.onBlock
  | case3 => exact .fault

protected theorem Canonical.execBudgetTrap {s : State} (hs : Canonical s) : Keeps (execBudgetTrap s) := by
  fun_cases execBudgetTrap s with
  | case1 | case3 => exact .fault
  | case2 => exact .next hs.modPart.takeTrap

protected theorem Canonical.chargeAll {l : List (Nat × Ctx)} {s : State} (hs : Canonical s) : Canonical (chargeAll l s) := by
  induction l generalizing s with
  | nil => exact hs
  | cons v l ih =>
    obtain ⟨a, b⟩ := v
    exact ih (.ite hs.setCtx.post hs.setCtx)

protected theorem Canonical.execEnergyMeter {s : State} (hs : Canonical s) : Keeps (execEnergyMeter s) :=
  .next hs.chargeAll.frame.after.bump

end Sys2Proof.Safety
end

section
/-! SUPPORT. Launches: every operation keeps the canonical form. -/

namespace Sys2Proof.Safety

open Sys2Proof Sys2Proof.Machine

protected theorem Canonical.lnchWith {s : State} {t : Thread} {d : BitVec 4} {da : Nat} {bs : List Byte} (hs : Canonical s) :
    Canonical (lnchWith s t d da bs) :=
  hs.liveOr (fun hs => .ite hs.returnLnch hs.propGo) fun hs => hs.retireReg

protected theorem Canonical.execLnch {g : BitVec 5} {d a : BitVec 4} {s : State} (hs : Canonical s) : Keeps (execLnch g d a s) := by
  unfold execLnch
  refine hs.scalar (fun hs => hs.agree (fun hs => hs.fenced (fun hs => ?_)))
  split
  · exact hs.fatalAt
  · split
    · exact hs.fatalAt
    · split
      · dsimp only
        split
        · exact hs.fatalAt
        · exact hs.gatherFrom
      · exact hs.lnchWith
      · exact hs.gatherFrom

protected theorem Canonical.zeroCore {s : State} {p core : Nat} (hs : Canonical s) : Canonical (zeroCore s p core) := by
  have h1 := (hs.zeroMem (k := scratchKey core (viewBase s core p)) (n := viewSize s core)).zeroMem
    (k := istoreKey core (sliceBase s core p)) (n := sliceSize s core)
  exact h1.clearPoison.clearPoison.modCore

protected theorem Canonical.zeroCores {p : Nat} {l : List Nat} {s : State} (hs : Canonical s) : Canonical (zeroCores p l s) := by
  induction l generalizing s with
  | nil => exact hs
  | cons v l ih => exact ih hs.zeroCore

protected theorem Canonical.zeroExceptions {l : List Nat} {s : State} (hs : Canonical s) : Canonical (zeroExceptions l s) := by
  induction l generalizing s with
  | nil => exact hs
  | cons v l ih => exact ih hs.zeroMem.clearPoison

protected theorem Canonical.zeroRanges {g : Nat} {l : List (Nat × Nat)} {s : State} (hs : Canonical s) : Canonical (zeroRanges g l s) := by
  induction l generalizing s with
  | nil => exact hs
  | cons v l ih =>
    obtain ⟨a, b⟩ := v
    exact ih hs.zeroMem.clearPoison

protected theorem Canonical.zeroArenas {ranges : Nat → List (Nat × Nat)} {l : List Nat} {s : State} (hs : Canonical s) :
    Canonical (zeroArenas ranges l s) := by
  induction l generalizing s with
  | nil => exact hs
  | cons v l ih => exact ih hs.zeroRanges

protected theorem Canonical.ownCores {p c : Nat} {l : List Nat} {s : State} (hs : Canonical s) : Canonical (ownCores p c l s) := by
  induction l generalizing s with
  | nil => exact hs
  | cons v l ih => exact ih hs.setPart

protected theorem Canonical.freeCtx {s : State} {c : Nat} {x : Ctx} (hs : Canonical s) : Canonical (freeCtx s c x) := by
  unfold freeCtx
  extract_lets cores s1 r1 s2 s3 regs time s4 image s5
  have h1 : Canonical s1 := hs.frame
  have h2 : Canonical s2 := .ite h1 h1.frame.zeroCores.ownCores
  have h3 : Canonical s3 := (h2.withThreads (h2.threads.filter _)).frame
  have h4 : Canonical s4 := (Canonical.ite h3 h3.zeroExceptions).zeroArenas
  have h5 : Canonical s5 := h4.setCtx
  exact (Canonical.ite h5.post h5).after

protected theorem Canonical.askLaunches {l : List (Nat × Vd)} {s : State} (hs : Canonical s) : Canonical (askLaunches l s) := by
  induction l generalizing s with
  | nil => exact hs
  | cons v l ih =>
    obtain ⟨a, b⟩ := v
    exact ih (.ite hs hs.poll)

protected theorem Canonical.disownCores {p c : Nat} {l : List Nat} {s : State} (hs : Canonical s) : Canonical (disownCores p c l s) := by
  induction l generalizing s with
  | nil => exact hs
  | cons v l ih => exact ih (.ite hs.frame hs)

protected theorem Canonical.execZeroingEnd {s : State} (hs : Canonical s) : Keeps (execZeroingEnd s) := by
  unfold execZeroingEnd
  split
  · next c _ =>
    split
    · exact .next hs
    · next x _ =>
      have h1 : Canonical (disownCores x.part c (blockCores x) s) := hs.disownCores
      exact .ite (.next hs) (.next (h1.withCtxs (h1.ctxs.tblErase _)).askLaunches)
  · exact .next hs.askLaunches

protected theorem Canonical.launchUnit {s : State} {v da n : Nat} (hs : Canonical s) : Canonical (launchUnit s v da n).1 :=
  hs.unitRead

protected theorem Canonical.launchTouch {s : State} {v da n : Nat} (hs : Canonical s) : Canonical (launchTouch s v da n) :=
  hs.launchUnit

protected theorem Canonical.setUp {bs img : List Byte} {p c slot : Nat} {l : List (Nat × Nat × Nat)} {s : State} (hs : Canonical s) :
    Canonical (setUp bs img p c slot l s) := by
  induction l generalizing s with
  | nil => exact hs
  | cons v l ih =>
    obtain ⟨core, bx, y⟩ := v
    exact ih hs.setPart.writeMem.writeMem

protected theorem Canonical.startOne {s : State} {bs : List Byte} {p c core i : Nat} {e : Extent} (hs : Canonical s) :
    Canonical (startOne s bs p c core i e) := by
  fun_cases startOne s bs p c core i e with
  | case1 => exact hs
  | case2 => exact hs.raiseFatal
  | case3 => exact hs.useStart.bringIn
  | case4 => exact hs.bringIn

protected theorem Canonical.startThreads {bs : List Byte} {p c core : Nat} {e : Extent} {l : List Nat} {s : State}
    (hs : Canonical s) : Canonical (startThreads bs p c core e l s) := by
  induction l generalizing s with
  | nil => exact hs
  | cons v l ih => exact ih hs.startOne

protected theorem Canonical.startCores {bs : List Byte} {p c : Nat} {l : List (Nat × Nat × Nat)} {s : State} (hs : Canonical s) :
    Canonical (startCores bs p c l s) := by
  induction l generalizing s with
  | nil => exact hs
  | cons v l ih =>
    obtain ⟨a, b, c⟩ := v
    exact ih hs.startThreads

protected theorem Canonical.initRing {c : Nat} {x : Ctx} {l : List Nat} {s : State} (hs : Canonical s) : Canonical (initRing c x l s) := by
  induction l generalizing s with
  | nil => exact hs
  | cons v l ih => exact ih (.ite hs.ctxWrite hs.ctxWrite)

protected theorem Canonical.setWindow {s : State} {v p core : Nat} (hs : Canonical s) : Canonical (setWindow s v p core) :=
  .ite hs hs.setTrapQ

protected theorem Canonical.startLaunch {s : State} {v p slot da : Nat} {bs img : List Byte} (hs : Canonical s) :
    Canonical (startLaunch s v p slot da bs img) := by
  unfold startLaunch
  split
  · exact hs.after
  · extract_lets cores x s1 s2 s3 s4 s5 s6
    have h2 : Canonical s2 := hs.modVd.setCtx.setUp
    have h3 : Canonical s3 := .ite h2.initRing h2
    have h5 : Canonical s5 := h3.zeroExceptions.setWindow.startCores
    have h6 : Canonical s6 := .ite h5 h5.after
    exact h6.post

protected theorem Canonical.endAtStart {s : State} {v slot : Nat} {bs : Option (List Byte)} (hs : Canonical s) :
    Canonical (endAtStart s v slot bs) := by
  unfold endAtStart
  refine (Canonical.modVd ?_).post
  split
  · exact .ite hs.unitWrite hs
  · exact hs

protected theorem Canonical.execLaunchStart {v : Nat} {s : State} (hs : Canonical s) : Keeps (execLaunchStart v s) := by
  fun_cases execLaunchStart v s with
  | case1 => exact .next hs
  | case2 | case3 | case4 | case6 => exact .next hs.endAtStart
  | case5 => exact .next hs.poll
  | case7 => exact .next hs.launchTouch.launchTouch.startLaunch

protected theorem Canonical.writeDone {s : State} {c : Nat} {x : Ctx} {status : Nat} (hs : Canonical s) :
    Canonical (writeDone s c x status) :=
  .ite hs hs.setCtx.deliver

protected theorem Canonical.execLaunchComplete {s : State} (hs : Canonical s) : Keeps (execLaunchComplete s) := by
  fun_cases execLaunchComplete s with
  | case1 | case2 | case5 | case6 => exact .next hs
  | case3 | case7 => exact .next hs.poll
  | case4 => exact .next hs.writeDone
  | case8 => exact .next hs.writeDone.poll
  | case9 => exact .next hs.freeCtx
  | case10 => exact .fault

end Sys2Proof.Safety
end

section
/-! SUPPORT. Stops and restores: every operation keeps the canonical form. -/

namespace Sys2Proof.Safety

open Sys2Proof Sys2Proof.Machine

protected theorem Canonical.dropShadows {home : Nat} {l : List Shadow} {s : State} (hs : Canonical s) :
    Canonical (dropShadows home l s) := by
  induction l generalizing s with
  | nil => exact hs
  | cons v l ih => exact ih hs.moveShadow

protected theorem Canonical.dropAllShadows {p : Nat} {l : List Nat} {s : State} (hs : Canonical s) : Canonical (dropAllShadows p l s) := by
  induction l generalizing s with
  | nil => exact hs
  | cons v l ih => exact ih hs.dropShadows

protected theorem Canonical.haltCores {p : Nat} {l : List Nat} {s : State} (hs : Canonical s) : Canonical (haltCores p l s) := by
  induction l generalizing s with
  | nil => exact hs
  | cons v l ih => exact ih hs.modPart.writeHalt

protected theorem Canonical.endLife {s : State} {c : Nat} {x : Ctx} (hs : Canonical s) : Canonical (endLife s c x) :=
  (Canonical.ite hs.setCtx.post hs.setCtx).poll.askLaunches

protected theorem Canonical.execGangStop {s : State} (hs : Canonical s) : Keeps (execGangStop s) := by
  unfold execGangStop
  split
  · next c _ =>
    have h1 : Canonical { s with threads := stopThreads c s.threads } :=
      hs.withThreads (hs.threads.map_snd fun e => by split <;> rfl)
    split
    · exact .next hs
    · refine .ite (.next hs) ?_
      split
      · exact .next hs
      · exact .next hs.endLife
      · exact .next h1.frame.dropAllShadows.haltCores.endLife
  · exact .fault

protected theorem Canonical.settleTiles {core p n : Nat} {s : State} (hs : Canonical s) : Canonical (settleTiles core p n s) := by
  induction n generalizing s with
  | zero => exact hs
  | succ n ih =>
    unfold settleTiles
    split
    · exact hs
    · exact ih hs.completeTile

protected theorem Canonical.settleCores {p : Nat} {l : List Nat} {s : State} (hs : Canonical s) : Canonical (settleCores p l s) := by
  induction l generalizing s with
  | nil => exact hs
  | cons v l ih => exact ih hs.settleTiles

protected theorem Canonical.askInserts {l : List (Nat × TrapQ)} {s : State} (hs : Canonical s) : Canonical (askInserts l s) := by
  induction l generalizing s with
  | nil => exact hs
  | cons v l ih =>
    obtain ⟨a, b⟩ := v
    exact ih hs.askInsert

protected theorem Canonical.voidRecs {s : State} {c : Nat} (hs : Canonical s) : Canonical (voidRecs s c) :=
  hs.frame.askInserts

protected theorem Canonical.clearRegion {s : State} {c : Nat} {x : Ctx} {g : Nat} (hs : Canonical s) : Canonical (clearRegion s c x g) :=
  hs.modRegion

protected theorem Canonical.clearRegions {c : Nat} {x : Ctx} {l : List Nat} {s : State} (hs : Canonical s) :
    Canonical (clearRegions c x l s) := by
  induction l generalizing s with
  | nil => exact hs
  | cons v l ih => exact ih hs.clearRegion

protected theorem Canonical.leaveParts {p : Nat} {l : List Nat} {s : State} (hs : Canonical s) : Canonical (leaveParts p l s) := by
  induction l generalizing s with
  | nil => exact hs
  | cons v l ih => exact ih hs.setPart

protected theorem Canonical.saveCtx {s : State} {c : Nat} {x : Ctx} (hs : Canonical s) : Canonical (saveCtx s c x) := by
  unfold saveCtx
  extract_lets cores s1 v s2 s3 s4
  have h2 : Canonical s2 := hs.settleCores.voidRecs.clearRegions
  have h3 : Canonical s3 := (h2.withThreads (h2.threads.filter _)).frame
  exact h3.zeroCores.leaveParts.zeroExceptions.setCtx

protected theorem Canonical.execDuskStop {s : State} (hs : Canonical s) : Keeps (execDuskStop s) := by
  fun_cases execDuskStop s with
  | case1 | case2 | case3 => exact .next hs
  | case4 => exact .next hs.after
  | case5 => exact .next hs.saveCtx
  | case6 => exact .fault

protected theorem Canonical.putThreads {l : List (Nat × Thread)} {s : State} (hs : Canonical s) : Canonical (putThreads l s) := by
  induction l generalizing s with
  | nil => exact hs
  | cons v l ih =>
    obtain ⟨a, b⟩ := v
    exact ih hs.setThread

protected theorem Canonical.putParts {l : List (Nat × Part)} {s : State} (hs : Canonical s) : Canonical (putParts l s) := by
  induction l generalizing s with
  | nil => exact hs
  | cons v l ih =>
    obtain ⟨a, b⟩ := v
    exact ih hs.frame

protected theorem Canonical.putCores {l : List (Nat × CoreSt)} {s : State} (hs : Canonical s) : Canonical (putCores l s) := by
  induction l generalizing s with
  | nil => exact hs
  | cons v l ih =>
    obtain ⟨a, b⟩ := v
    exact ih hs.modCore

protected theorem Canonical.putBars {l : List (Nat × List (Nat × Bar))} {s : State} (hs : Canonical s) : Canonical (putBars l s) := by
  induction l generalizing s with
  | nil => exact hs
  | cons v l ih =>
    obtain ⟨a, b⟩ := v
    exact ih hs.modRegion

protected theorem Canonical.putRunq {p : Nat} {l : List (Nat × List (Nat × Option Nat))} {s : State} (hs : Canonical s) :
    Canonical (putRunq p l s) := by
  induction l generalizing s with
  | nil => exact hs
  | cons v l ih =>
    obtain ⟨a, b⟩ := v
    exact ih hs.modRegion

protected theorem Canonical.putSpill {p : Nat} {l : List (Nat × List Msg)} {s : State} (hs : Canonical s) : Canonical (putSpill p l s) := by
  induction l generalizing s with
  | nil => exact hs
  | cons v l ih =>
    obtain ⟨a, b⟩ := v
    exact ih hs.modRegion

protected theorem Canonical.putBags {p : Nat} {l : List (Nat × List BagBlock)} {s : State} (hs : Canonical s) :
    Canonical (putBags p l s) := by
  induction l generalizing s with
  | nil => exact hs
  | cons v l ih =>
    obtain ⟨a, b⟩ := v
    exact ih hs.modRegion

protected theorem Canonical.goOnCmd {core p : Nat} {e : QEntry} {s : State} (hs : Canonical s) : Canonical (goOnCmd core p e s) := by
  fun_cases goOnCmd core p e s with
  | case1 => exact hs
  | case2 => exact hs.resumeCmd
  | case3 => exact hs.nextLine
  | case4 | case5 => exact hs.post

protected theorem Canonical.goOnCmds {core p : Nat} {l : List QEntry} {s : State} (hs : Canonical s) : Canonical (goOnCmds core p l s) := by
  induction l generalizing s with
  | nil => exact hs
  | cons v l ih => exact ih hs.goOnCmd

protected theorem Canonical.goOnNodes {core p now : Nat} {l : List (Nat × Nat)} {s : State} (hs : Canonical s) :
    Canonical (goOnNodes core p now l s) := by
  induction l generalizing s with
  | nil => exact hs
  | cons v l ih =>
    obtain ⟨a, b⟩ := v
    exact ih hs.after

protected theorem Canonical.goOn {p now : Nat} {l : List Nat} {s : State} (hs : Canonical s) : Canonical (goOn p now l s) := by
  induction l generalizing s with
  | nil => exact hs
  | cons v l ih =>
    unfold goOn
    refine ih ?_
    split
    · exact (Canonical.ite hs.goOnCmds.goOnNodes.post.post hs.goOnCmds.goOnNodes.post.post.post).post
    · exact .ite hs.goOnCmds.goOnNodes.post.post hs.goOnCmds.goOnNodes.post.post.post

protected theorem Canonical.deliverSaved {l : List Instr} {s : State} (hs : Canonical s) : Canonical (deliverSaved l s) := by
  induction l generalizing s with
  | nil => exact hs
  | cons v l ih => exact ih hs.post

protected theorem Canonical.restoreCtx {s : State} {c : Nat} {x : Ctx} {v : Saved} (hs : Canonical s) : Canonical (restoreCtx s c x v) := by
  unfold restoreCtx
  extract_lets cores s1 s2 s3 s4 x1 s5 s5' s6 s7 s8
  have h1 : Canonical s1 := hs.zeroCores.zeroExceptions
  have h2 : Canonical s2 := (h1.withMem (memPutAll_wf _ _ h1.mem)).frame
  have h4 : Canonical s4 := h2.putParts.putCores.putBars.putRunq.putSpill.putBags
  have h6 : Canonical s6 := h4.putThreads.setCtx.wakeTurns.goOn.deliverSaved
  have h7 : Canonical s7 := .ite h6 h6.poll
  exact .ite hs.raiseFatal (Canonical.ite h7.askRecheck h7).poll

protected theorem Canonical.setTurn {s : State} {g p : Nat} {t : Turn} (hs : Canonical s) : Canonical (setTurn s g p t) :=
  hs.frame

protected theorem Canonical.beginTurn {s : State} {x : Machine.PSet} {p idx : Nat} (hs : Canonical s) :
    Canonical (beginTurn s x p idx) := by
  unfold beginTurn
  split
  · exact hs
  · exact (Canonical.ite hs.setTurn hs.setTurn.post).askLaunches

protected theorem Canonical.execQuantumDuskProposal {g p : Nat} {s : State} (hs : Canonical s) : Keeps (execQuantumDuskProposal g p s) := by
  unfold execQuantumDuskProposal
  split
  · exact .next hs
  · split
    · exact .next hs
    · refine .next (Canonical.post ?_)
      split
      · exact hs.recordDecision
      · exact hs

protected theorem Canonical.stopLeft {l : List (Nat × Ctx)} {s : State} (hs : Canonical s) : Canonical (stopLeft l s) := by
  induction l generalizing s with
  | nil => exact hs
  | cons v l ih =>
    obtain ⟨a, b⟩ := v
    exact ih (.ite hs.setCtx.post hs)

protected theorem Canonical.restoreAll {l : List (Nat × Ctx)} {s : State} (hs : Canonical s) : Canonical (restoreAll l s) := by
  induction l generalizing s with
  | nil => exact hs
  | cons v l ih =>
    obtain ⟨a, b⟩ := v
    unfold restoreAll
    refine ih ?_
    split
    · exact hs.restoreCtx
    · exact hs

protected theorem Canonical.execQuantumRestore {g p : Nat} {s : State} (hs : Canonical s) : Keeps (execQuantumRestore g p s) := by
  fun_cases execQuantumRestore g p s with
  | case1 | case2 | case6 => exact .next hs
  | case3 => exact .next hs.setTurn.stopLeft.after
  | case4 => exact .next hs.stopLeft.after
  | case5 => exact .next hs.setTurn.after.bump
  | case7 => exact .next hs.restoreAll.beginTurn
  | case8 => exact .next hs.after

end Sys2Proof.Safety
end

section
/-! SUPPORT. The memory ports: every operation keeps the canonical form. -/

namespace Sys2Proof.Safety

open Sys2Proof Sys2Proof.Machine

protected theorem Canonical.setRing {s : State} {k : Nat} {r : Ring} (hs : Canonical s) : Canonical (setRing s k r) :=
  hs.frame

protected theorem Canonical.writeEntry {s : State} {k i off : Nat} {bs : List Byte} (hs : Canonical s) :
    Canonical (writeEntry s k i off bs) :=
  hs.putBytes

protected theorem Canonical.ringNext {s : State} {k : Nat} (hs : Canonical s) : Canonical (ringNext s k) :=
  .ite hs hs.post.bump

protected theorem Canonical.ringPop {s : State} {k : Nat} (hs : Canonical s) : Canonical (ringPop s k) :=
  hs.setRing.ringNext

protected theorem Canonical.ringAnswer {s : State} {k code : Nat} (hs : Canonical s) : Canonical (ringAnswer s k code) :=
  hs.writeEntry.ringPop

protected theorem Canonical.ringOp {k : Nat} {s : State} {body : State → State} (hs : Canonical s)
    (hbody : ∀ {s}, Canonical s → Canonical (body s)) : Keeps (ringOp k s body) := by
  unfold ringOp
  split
  · exact .next (hbody hs)
  · exact .fault

protected theorem Canonical.dropTlb {s : State} {ctx cls va len : Nat} (hs : Canonical s) : Canonical (dropTlb s ctx cls va len) :=
  hs.frame

protected theorem Canonical.execInval {s : State} (hs : Canonical s) : Keeps (execInval s) :=
  hs.ringOp fun hs => .ite hs.ringAnswer hs.dropTlb.ringAnswer

protected theorem Canonical.addFrames {tier size n n' : Nat} {s : State} (hs : Canonical s) : Canonical (addFrames tier size n n' s) := by
  induction n generalizing n' s with
  | zero => exact hs
  | succ n ih => exact ih hs.freeFrame

protected theorem Canonical.execFrames {s : State} (hs : Canonical s) : Keeps (execFrames s) :=
  hs.ringOp fun hs => .ite hs.ringAnswer hs.addFrames.ringAnswer

protected theorem Canonical.execPageZeroingDone {_port page : Nat} {s : State} (hs : Canonical s) :
    Keeps (execPageZeroingDone _port page s) := by
  unfold execPageZeroingDone
  split
  · exact .next hs
  · exact .next hs.frame.serveAgain

protected theorem Canonical.startMove {s : State} {ctx cls va : Nat} {l : Leaf} {tier pa cmd : Nat} (hs : Canonical s) :
    Canonical (startMove s ctx cls va l tier pa cmd) :=
  hs.frame.after.bump

protected theorem Canonical.execMigrate {s : State} (hs : Canonical s) : Keeps (execMigrate s) := by
  unfold execMigrate
  refine hs.ringOp fun hs => ?_
  extract_lets q f ctx cls va tier pa
  split
  · exact hs.ringAnswer
  · refine .ite hs.ringAnswer ?_
    split
    · exact hs.ringAnswer
    · exact .ite hs.ringAnswer (.ite hs.after hs.startMove.ringPop)

protected theorem Canonical.execPageMigrationDone {ctx cls va : Nat} {s : State} (hs : Canonical s) :
    Keeps (execPageMigrationDone ctx cls va s) := by
  unfold execPageMigrationDone
  split
  · exact .next hs
  · extract_lets src dst s1 e s2 rest dev s3 s4 s5 w
    have h4 : Canonical s4 := hs.copyMem.movePoison.setEntry.frame.dropTlb.freeFrame
    have h5 : Canonical s5 := by
      unfold s5
      split
      · exact .ite h4 h4.writeEntry
      · exact h4
    exact .ite (.next hs.after) (.next h5.serveAgain)

protected theorem Canonical.passOver {l : List (Nat × Nat × Nat × Leaf)} {n : Nat} {s : State} (hs : Canonical s) :
    Canonical (passOver l n s).1 := by
  induction l generalizing n s with
  | nil => exact hs
  | cons v l ih =>
    obtain ⟨a, b, c, d⟩ := v
    unfold passOver
    split
    · exact hs
    · split
      · exact ih hs.setEntry
      · exact ih hs

protected theorem Canonical.moveVictims {tier cmd : Nat} {l : List (Nat × Nat × Nat × Leaf)} {s : State} (hs : Canonical s) :
    Canonical (moveVictims tier cmd l s).1 := by
  induction l generalizing s with
  | nil => exact hs
  | cons v l ih =>
    obtain ⟨a, b, c, d⟩ := v
    unfold moveVictims
    split
    · exact ih hs
    · exact ih hs.takeFrame.startMove

protected theorem Canonical.execEvict {s : State} (hs : Canonical s) : Keeps (execEvict s) := by
  refine hs.ringOp fun hs => .ite hs.ringAnswer ?_
  extract_lets r l free count moved code s1 s2
  have h1 : Canonical s1 := hs.passOver.moveVictims
  have h2 : Canonical s2 := .ite h1.writeEntry h1
  exact .ite h2.ringAnswer h2.ringPop

protected theorem Canonical.poisonDir {g : Nat} {l : List Nat} {s : State} (hs : Canonical s) : Canonical (poisonDir g l s) := by
  induction l generalizing s with
  | nil => exact hs
  | cons v l ih => exact ih (.ite hs.dirMod hs)

protected theorem Canonical.execScrubPass {port corrected : Nat} {bad : List Nat} {s : State} (hs : Canonical s) :
    Keeps (execScrubPass port corrected bad s) :=
  .next (.ite hs.addPoison.modPort (.ite hs.addPoison.poisonDir.modRegion hs))

protected theorem Canonical.execEpochNotice {ctx e : Nat} {s : State} (hs : Canonical s) : Keeps (execEpochNotice ctx e s) := by
  fun_cases execEpochNotice ctx e s with
  | case1 | case2 => exact .next hs
  | case3 => exact .next hs.modCtx.post

protected theorem Canonical.imageChunk {s : State} {c : Nat} {x : Ctx} {da z : Nat} (hs : Canonical s) :
    Canonical (imageChunk s c x da z).1 := by
  unfold imageChunk
  split <;> exact hs.unitKey.left

protected theorem Canonical.imageChunks {c : Nat} {x : Ctx} {l : List (Nat × Nat)} {s : State} (hs : Canonical s) :
    Canonical (imageChunks c x l s).1 := by
  induction l generalizing s with
  | nil => exact hs
  | cons v l ih =>
    obtain ⟨a, b⟩ := v
    exact ih hs.imageChunk

protected theorem Canonical.imageRead {s : State} {c : Nat} {x : Ctx} {da n : Nat} (hs : Canonical s) :
    Canonical (imageRead s c x da n).1 :=
  hs.imageChunks

protected theorem Canonical.parkImage {s : State} {c : Nat} {x : Ctx} {j : ImageJob} {da cause : Nat} (hs : Canonical s) :
    Canonical (parkImage s c x j da cause) :=
  hs.setCtx.addRec.bump

protected theorem Canonical.imagePut {c : Nat} {x : Ctx} {j : ImageJob} {l : List (Nat × Nat)} {l' : List Byte} {s : State}
    (hs : Canonical s) : Canonical (imagePut c x j l l' s).1 := by
  induction l generalizing l' s with
  | nil => exact hs
  | cons v l ih =>
    obtain ⟨a, b⟩ := v
    dsimp only [imagePut]
    split
    · split
      · exact ih hs.translate.left.putBytes
      · exact hs.translate.left.parkImage
      · exact ih hs.translate.left
    · exact ih hs

protected theorem Canonical.setEpoch {s : State} {x : Ctx} {da e : Nat} (hs : Canonical s) : Canonical (setEpoch s x da e) := by
  unfold setEpoch
  split
  · exact hs.setEntry
  · exact hs

protected theorem Canonical.writePage {s : State} {c : Nat} {x : Ctx} {j : ImageJob} {i off : Nat} (hs : Canonical s) :
    Canonical (writePage s c x j i off) :=
  .ite hs.imageRead.imagePut (Canonical.ite hs.imageRead.imagePut.setEpoch hs.imageRead.imagePut).modCtx.serveAgain.post.bump

protected theorem Canonical.putHeader {c : Nat} {x : Ctx} {j : ImageJob} {q : Nat} {ws : List Word} {s : State} (hs : Canonical s) :
    Canonical (putHeader c x j q ws s).1 :=
  hs.imagePut

protected theorem Canonical.execImagePageWrite {s : State} (hs : Canonical s) : Keeps (execImagePageWrite s) := by
  fun_cases execImagePageWrite s with
  | case1 | case2 | case3 => exact .next hs
  | case4 => exact .next (.ite hs.putHeader.modCtx.post hs.putHeader)
  | case5 => exact .next hs.writePage
  | case6 => exact .next hs.poll
  | case7 => exact .fault

protected theorem Canonical.execImageComplete {s : State} (hs : Canonical s) : Keeps (execImageComplete s) := by
  fun_cases execImageComplete s with
  | case1 | case2 | case3 => exact .next hs
  | case4 => exact .next (.ite hs.putHeader.modCtx.post hs.putHeader)
  | case5 => exact .next hs.poll
  | case6 => exact .next (.ite hs.putHeader.modCtx.serveAgain hs.putHeader)
  | case7 => exact .fault

end Sys2Proof.Safety
end

section
/-! SUPPORT. The fabric: every operation keeps the canonical form. -/

namespace Sys2Proof.Safety

open Sys2Proof Sys2Proof.Machine

protected theorem Canonical.execCicadaSweepEnd {s : State} (hs : Canonical s) : Keeps (execCicadaSweepEnd s) :=
  .next hs.frame

protected theorem Canonical.wakeRouter {s : State} {c : Nat} (hs : Canonical s) : Canonical (wakeRouter s c) :=
  .ite hs.modCore.after hs

protected theorem Canonical.wakeRouters {l : List (Nat × CoreSt)} {s : State} (hs : Canonical s) : Canonical (wakeRouters l s) := by
  induction l generalizing s with
  | nil => exact hs
  | cons v l ih =>
    obtain ⟨a, b⟩ := v
    exact ih hs.wakeRouter

protected theorem Canonical.execFireflyWake {s : State} (hs : Canonical s) : Keeps (execFireflyWake s) := by
  unfold execFireflyWake
  split
  · exact .next hs.wakeRouter
  · exact .fault

protected theorem Canonical.execRouterOn {s : State} (hs : Canonical s) : Keeps (execRouterOn s) := by
  unfold execRouterOn
  split
  · exact .next (.ite hs.modCore.after hs)
  · exact .fault

protected theorem Canonical.execRouterGate {s : State} (hs : Canonical s) : Keeps (execRouterGate s) := by
  unfold execRouterGate
  split
  · exact .next (.ite hs.modCore hs)
  · exact .fault

protected theorem Canonical.execPacketLifetimeExpired {s : State} (hs : Canonical s) : Keeps (execPacketLifetimeExpired s) := by
  unfold execPacketLifetimeExpired
  split
  · refine .next ?_
    split
    · exact .ite hs.fatalLate hs
    · exact hs
  · refine .next ?_
    split
    · exact .ite hs.raiseFatal hs
    · exact hs
  · exact .fault

protected theorem Canonical.raiseAll {core : Nat} {l : List Nat} {s : State} (hs : Canonical s) : Canonical (raiseAll core l s) := by
  induction l generalizing s with
  | nil => exact hs
  | cons v l ih =>
    unfold raiseAll
    refine ih ?_
    split
    · exact hs.raiseFatal
    · exact hs

protected theorem Canonical.execSoftError {s : State} (hs : Canonical s) : Keeps (execSoftError s) := by
  unfold execSoftError
  split
  · exact .next hs.fatalLate
  · exact .next hs.raiseFatal
  · exact .next hs.bump.raiseAll
  · exact .fault

protected theorem Canonical.setLink {s : State} {l : Nat} {k : Link} (hs : Canonical s) : Canonical (setLink s l k) :=
  hs.frame

protected theorem Canonical.packetIn {s : State} {lane hop : Nat} {bodies : List (List Byte)} (hs : Canonical s) :
    Canonical (packetIn s lane hop bodies) := by
  fun_cases packetIn s lane hop bodies with
  | case1 => exact hs.raiseFatal
  | case2 | case3 | case4 => exact hs
  | case5 => exact hs.routeOut

protected theorem Canonical.takeFlit {s : State} {link : Nat} {k : Link} {f : Flit} (hs : Canonical s) :
    Canonical (takeFlit s link k f) :=
  .ite hs.setLink.packetIn hs.setLink

protected theorem Canonical.execFlitReceive {link : Nat} {f : Flit} {s : State} (hs : Canonical s) : Keeps (execFlitReceive link f s) :=
  .next (.ite hs (.ite hs.setLink (Canonical.ite hs.takeFlit (.ite hs.setLink hs.setLink)).retryRoutes))

protected theorem Canonical.execNakReceive {link seq : Nat} {s : State} (hs : Canonical s) : Keeps (execNakReceive link seq s) :=
  .next (.ite hs (.ite hs.setLink.retryRoutes (.ite hs.setLink.post hs.setLink)))

protected theorem Canonical.execLinkDown {s : State} (hs : Canonical s) : Keeps (execLinkDown s) := by
  unfold execLinkDown
  split
  · exact .next (.ite hs (.ite hs.setLink (.ite hs hs.post)))
  · exact .fault

protected theorem Canonical.dropNotice {s : State} {h : List Byte} (hs : Canonical s) : Canonical (dropNotice s h) :=
  .ite hs (.ite hs.post.bump hs.emit)

protected theorem Canonical.dropPackets {last : Nat} {l : List Flit} {l' : List Byte} {s : State} (hs : Canonical s) :
    Canonical (dropPackets last l l' s) := by
  induction l generalizing l' s with
  | nil => exact hs
  | cons v l ih => exact ih (.ite hs.dropNotice hs)

protected theorem Canonical.execLinkRetrain {link : Nat} {ok : Bool} {last : Nat} {s : State} (hs : Canonical s) :
    Keeps (execLinkRetrain link ok last s) :=
  .next (.ite hs hs.setLink.dropPackets.retryRoutes)

protected theorem Canonical.modRegions {f : Nat → Region → Region} {l : List Nat} {s : State} (hs : Canonical s) :
    Canonical (modRegions f l s) := by
  induction l generalizing s with
  | nil => exact hs
  | cons v l ih => exact ih hs.modRegion

protected theorem Canonical.execVfLoopInterval {s : State} (hs : Canonical s) : Keeps (execVfLoopInterval s) := by
  unfold execVfLoopInterval
  refine .ite (.next hs) ?_
  extract_lets d n p s1 above below enter dev s2
  have h2 : Canonical s2 := hs.modRegions.frame.bump
  exact .next (.ite h2.post (.ite h2.post h2))

protected theorem Canonical.execAlarmEntry {s : State} (hs : Canonical s) : Keeps (execAlarmEntry s) :=
  .next (.ite hs hs.frame.modRegions)

protected theorem Canonical.execAlarmClear {s : State} (hs : Canonical s) : Keeps (execAlarmClear s) :=
  .next (.ite hs hs.frame.modRegions)

protected theorem Canonical.execRegulatorAlarm {on : Bool} {s : State} (hs : Canonical s) : Keeps (execRegulatorAlarm on s) :=
  .next (.ite hs.frame.post hs.frame)

protected theorem Canonical.adaptLinks {n : Nat} {frozen : Bool} {l : List (Nat × Link)} {s : State} (hs : Canonical s) :
    Canonical (adaptLinks n frozen l s) := by
  induction l generalizing s with
  | nil => exact hs
  | cons v l ih =>
    obtain ⟨a, b⟩ := v
    exact ih (.ite (.ite hs.setLink.post hs.setLink) hs)

protected theorem Canonical.execEqAdapt {s : State} (hs : Canonical s) : Keeps (execEqAdapt s) :=
  .next hs.adaptLinks.bump

protected theorem Canonical.execLaneMarginFail {s : State} (hs : Canonical s) : Keeps (execLaneMarginFail s) := by
  unfold execLaneMarginFail
  split
  · exact .next (.ite hs.setLink hs)
  · exact .fault

end Sys2Proof.Safety
end

section
/-! SUPPORT. The host port: every operation keeps the canonical form. -/

namespace Sys2Proof.Safety

open Sys2Proof Sys2Proof.Machine

protected theorem Canonical.ringWrite {s : State} {k off : Nat} {v : Word} (hs : Canonical s) : Canonical (ringWrite s k off v) := by
  unfold ringWrite
  split
  · exact .ite hs.setRing hs
  · exact .ite hs.setRing hs
  · exact hs.setRing.ringNext
  · exact hs

protected theorem Canonical.clearRegionCount {s : State} {g : Nat} (hs : Canonical s) : Canonical (clearRegionCount s g) :=
  hs.modRegion

protected theorem Canonical.clearPortCount {s : State} {i : Nat} (hs : Canonical s) : Canonical (clearPortCount s i) :=
  hs.modPort

protected theorem Canonical.pfWrite {s : State} {off : Nat} {v : Word} (hs : Canonical s) : Canonical (pfWrite s off v) :=
  .ite hs.wakeRec (.ite hs.frame (.ite hs.ringWrite (.ite hs.clearRegionCount
    (.ite hs.clearPortCount (.ite (.ite hs.frame hs) (.ite hs.setHead hs))))))

protected theorem Canonical.execRegisterWrite {fn offset : Nat} {v : Word} {s : State} (hs : Canonical s) :
    Keeps (execRegisterWrite fn offset v s) :=
  .next (.ite hs (.ite hs.pfWrite (.ite hs.ringWrite hs)))

protected theorem Canonical.zeroUnits {g : Nat} {l : List Nat} {s : State} (hs : Canonical s) : Canonical (zeroUnits g l s) := by
  induction l generalizing s with
  | nil => exact hs
  | cons v l ih => exact ih hs.zeroMem.clearPoison

protected theorem Canonical.zeroQuotas {units l : List Nat} {s : State} (hs : Canonical s) : Canonical (zeroQuotas units l s) := by
  induction l generalizing s with
  | nil => exact hs
  | cons v l ih => exact ih hs.zeroUnits.modRegion

protected theorem Canonical.beginTurns {x : Machine.PSet} {l : List Nat} {s : State} (hs : Canonical s) : Canonical (beginTurns x l s) := by
  induction l generalizing s with
  | nil => exact hs
  | cons v l ih => exact ih hs.beginTurn

protected theorem Canonical.acceptSet {s : State} {x : Machine.PSet} (hs : Canonical s) : Canonical (acceptSet s x) :=
  hs.frame.zeroQuotas.modRegion.beginTurns.after

protected theorem Canonical.execConfigPset {s : State} (hs : Canonical s) : Keeps (execConfigPset s) := by
  unfold execConfigPset
  refine hs.ringOp (fun hs => ?_)
  split
  · exact (Canonical.ite hs.acceptSet hs).putBytes.ringAnswer
  · exact hs.ringAnswer

protected theorem Canonical.addMembers {c : AccCfg} {l : List (Nat × Nat)} {s : State} (hs : Canonical s) :
    Canonical (addMembers c l s) := by
  induction l generalizing s with
  | nil => exact hs
  | cons v l ih =>
    obtain ⟨a, b⟩ := v
    exact ih hs.modRegion

protected theorem Canonical.openlDone {s : State} {v acc da trunc : Nat} (hs : Canonical s) : Canonical (openlDone s v acc da trunc) :=
  hs.dirMod.unitWrite.unitWrite.modVd

protected theorem Canonical.openlHere {s : State} {v acc da : Nat} {bs : List Byte} {proto : Option Proto} {part : Nat}
    (hs : Canonical s) : Canonical (openlHere s v acc da bs proto part).1 := by
  dsimp only [openlHere]
  split
  · exact hs
  · exact hs.dirMod.addMembers.openlDone

protected theorem Canonical.openlFar {s : State} {v acc da : Nat} {bs : List Byte} {part : Nat} (hs : Canonical s) :
    Canonical (openlFar s v acc da bs part) :=
  .ite hs.after hs.setThread.accGo

protected theorem Canonical.openlWith {s : State} {v idx da arg : Nat} (hs : Canonical s) : Canonical (openlWith s v idx da arg) := by
  unfold openlWith
  split
  · exact hs.ringAnswer
  · exact .ite hs.ringAnswer (.ite hs.ringAnswer (.ite hs.openlFar hs.openlHere.ringAnswer))

protected theorem Canonical.execOpenl {s : State} (hs : Canonical s) : Keeps (execOpenl s) := by
  fun_cases execOpenl s with
  | case1 => exact .fault
  | case2 =>
    refine .next ?_
    split
    · exact hs.dropThread.openlDone.ringAnswer
    · exact hs.dropThread.ringAnswer
  | case3 => exact hs.ringOp (fun hs => .ite hs.ringAnswer hs.openlWith)

protected theorem Canonical.execKill {s : State} (hs : Canonical s) : Keeps (execKill s) := by
  unfold execKill
  refine hs.ringOp (fun hs => ?_)
  dsimp only
  split
  · exact hs.ringAnswer
  · exact .ite hs.ringAnswer hs.setCtx.post.bump.ringAnswer

protected theorem Canonical.execRelease {s : State} (hs : Canonical s) : Keeps (execRelease s) := by
  unfold execRelease
  refine hs.ringOp (fun hs => ?_)
  dsimp only
  split
  · exact hs.ringAnswer
  · split
    · exact .ite hs.after hs.freeCtx.ringAnswer
    · exact hs.ringAnswer

protected theorem Canonical.execGrant {s : State} (hs : Canonical s) : Keeps (execGrant s) := by
  unfold execGrant
  refine hs.ringOp (fun hs => ?_)
  split
  · dsimp only
    split
    · split
      · exact hs.frame.ringAnswer
      · exact hs.ringAnswer
    · exact hs.ringAnswer
  · dsimp only
    split
    · split
      · exact hs.frame.ringAnswer
      · exact hs.ringAnswer
    · exact .ite hs.ringAnswer hs.frame.ringAnswer

protected theorem Canonical.execAreas {s : State} (hs : Canonical s) : Keeps (execAreas s) := by
  unfold execAreas
  refine hs.ringOp (fun hs => ?_)
  split
  · exact hs.ringAnswer
  · dsimp only
    split
    · exact hs.ringAnswer
    · split
      · exact hs.modVd.ringAnswer
      · split
        · exact hs.ringAnswer
        · exact hs.setCtx.setTrapQ.ringAnswer

protected theorem Canonical.execDbgkey {s : State} (hs : Canonical s) : Keeps (execDbgkey s) := by
  unfold execDbgkey
  refine hs.ringOp (fun hs => ?_)
  split
  · exact hs.ringAnswer
  · split
    · exact hs.ringAnswer
    · exact hs.modVd.ringAnswer

protected theorem Canonical.submitAnswer {s : State} {k : Nat} {d : Word} (hs : Canonical s) : Canonical (submitAnswer s k d) :=
  hs.writeEntry.writeEntry.ringPop

protected theorem Canonical.submitBegin {s : State} {k : Nat} (hs : Canonical s) : Canonical (submitBegin s k) := by
  dsimp only [submitBegin]
  split
  · exact hs.submitAnswer
  · exact .ite hs.submitAnswer hs.modVd.setThread.propGo

protected theorem Canonical.execHostSubmission {s : State} (hs : Canonical s) : Keeps (execHostSubmission s) := by
  fun_cases execHostSubmission s with
  | case1 => exact .next (.ite hs.after hs.submitBegin)
  | case2 | case5 => exact .fault
  | case3 => exact .next hs.dropThread.submitAnswer
  | case4 => exact .next (hs.agree (fun hs => hs))

protected theorem Canonical.spdmAnswer {s : State} {kind : Nat} {req : List Byte} (hs : Canonical s) :
    Canonical (spdmAnswer s kind req) :=
  hs.frame

protected theorem Canonical.modSpdm {s : State} {f : Spdm → Spdm} (hs : Canonical s) : Canonical (modSpdm s f) :=
  hs.frame

protected theorem Canonical.execGetVersion {s : State} (hs : Canonical s) : Keeps (execGetVersion s) :=
  .next hs.modSpdm.spdmAnswer

protected theorem Canonical.execGetCapabilities {s : State} (hs : Canonical s) : Keeps (execGetCapabilities s) :=
  .next (.ite hs.modSpdm.spdmAnswer hs.spdmAnswer)

protected theorem Canonical.execNegotiateAlgorithms {s : State} (hs : Canonical s) : Keeps (execNegotiateAlgorithms s) :=
  .next (.ite hs.modSpdm.spdmAnswer hs.spdmAnswer)

protected theorem Canonical.negotiated {s : State} {good : Bool} {k : State → State} (hs : Canonical s)
    (hk : ∀ {s}, Canonical s → Canonical (k s)) : Keeps (negotiated s good k) :=
  .next (.ite (hk hs) hs.spdmAnswer)

protected theorem Canonical.execGetDigests {s : State} (hs : Canonical s) : Keeps (execGetDigests s) :=
  hs.negotiated fun hs => hs.spdmAnswer

protected theorem Canonical.execGetCertificate {slot : Nat} {s : State} (hs : Canonical s) : Keeps (execGetCertificate slot s) :=
  hs.negotiated fun hs => hs.spdmAnswer

protected theorem Canonical.execChallenge {slot : Nat} {nonce : List Byte} {s : State} (hs : Canonical s) :
    Keeps (execChallenge slot nonce s) :=
  hs.negotiated fun hs => hs.spdmAnswer

protected theorem Canonical.execGetMeasurements {index : Nat} {s : State} (hs : Canonical s) : Keeps (execGetMeasurements index s) :=
  hs.negotiated fun hs => .ite hs.modSpdm hs.spdmAnswer

protected theorem Canonical.execKeyExchange {nonce : List Byte} {s : State} (hs : Canonical s) : Keeps (execKeyExchange nonce s) :=
  hs.negotiated fun hs => hs.modSpdm.spdmAnswer

protected theorem Canonical.execFinish {leafDigest : List Byte} {good : Bool} {s : State} (hs : Canonical s) :
    Keeps (execFinish leafDigest good s) :=
  hs.negotiated fun hs => hs.modSpdm.spdmAnswer

protected theorem Canonical.execDebugWindowRead {vd space offset : Nat} {s : State} (hs : Canonical s) :
    Keeps (execDebugWindowRead vd space offset s) :=
  .next hs.modSpdm

protected theorem Canonical.excludeAll {l : List Nat} {s : State} (hs : Canonical s) : Canonical (excludeAll l s) := by
  induction l generalizing s with
  | nil => exact hs
  | cons v l ih => exact ih hs.modRegion

protected theorem Canonical.raiseLinks {l : List (Nat × Nat)} {s : State} (hs : Canonical s) : Canonical (raiseLinks l s) := by
  induction l generalizing s with
  | nil => exact hs
  | cons v l ih =>
    obtain ⟨a, b⟩ := v
    exact ih (.ite hs.setLink hs)

protected theorem Canonical.dawnBase {s : State} (hs : Canonical s) : Canonical (dawnBase s) :=
  ⟨filter_wf _ hs.mem, .nil, .nil⟩

protected theorem Canonical.dawnFailed {s : State} {step : Nat} (hs : Canonical s) : Canonical (dawnFailed s step) :=
  hs.frame

protected theorem Canonical.dawnNext {s : State} {d : Dawn} {state : Nat} (hs : Canonical s) : Canonical (dawnNext s d state) :=
  hs.frame.after.bump

protected theorem Canonical.dawnStep {d : Dawn} {s : State} (hs : Canonical s) : Canonical (dawnStep d s) := by
  unfold dawnStep
  split
  · exact .ite hs.dawnNext hs.dawnFailed
  · exact .ite hs.frame.dawnNext hs.dawnFailed
  · exact hs.excludeAll.dawnNext
  · exact .ite hs.dawnNext hs.dawnFailed
  · exact hs.raiseLinks.frame.after
  · exact hs

protected theorem Canonical.execReset {d : Dawn} {s : State} (hs : Canonical s) : Keeps (execReset d s) := by
  unfold execReset
  split
  · exact .next hs.dawnStep
  · exact .next hs.dawnBase.dawnNext

end Sys2Proof.Safety
end

section
/-! SUPPORT. The passing of time: every operation keeps the canonical form. -/

namespace Sys2Proof.Safety

open Sys2Proof Sys2Proof.Machine

protected theorem Canonical.issue {s : State} {t : Thread} (hs : Canonical s) : Canonical (issue s t).2 := by
  fun_cases issue s t with
  | case1 | case2 | case3 => exact hs.frame.countCycles.setThread

protected theorem Canonical.gateIdle {l : List (Nat × CoreSt)} {s : State} (hs : Canonical s) : Canonical (gateIdle l s) := by
  induction l generalizing s with
  | nil => exact hs
  | cons v l ih =>
    obtain ⟨a, b⟩ := v
    exact ih (.ite hs.post hs)

protected theorem Canonical.ageOut {l : List Pend} {s : State} (hs : Canonical s) : Canonical (ageOut l s) := by
  induction l generalizing s with
  | nil => exact hs
  | cons v l ih =>
    unfold ageOut
    refine ih ?_
    split
    · exact .ite hs.post hs
    · exact hs

protected theorem Canonical.scrubAll {l : List Nat} {s : State} (hs : Canonical s) : Canonical (scrubAll l s) := by
  induction l generalizing s with
  | nil => exact hs
  | cons v l ih => exact ih hs.post

protected theorem Canonical.periodic {s : State} (hs : Canonical s) : Canonical (periodic s) := by
  unfold periodic
  extract_lets at' s1
  have hat {n r i s'} (h : Canonical s') : Canonical (at' n r i s') := .ite h.post h
  have h1 : Canonical s1 := .ite hs.scrubAll.bump hs
  exact hat (hat (hat (hat (hat h1.ageOut.gateIdle))))

protected theorem Canonical.tick {s : State} (hs : Canonical s) : Canonical (tick s) :=
  hs.frame.periodic

protected theorem Canonical.choose {s : State} (hs : Canonical s) : Canonical (choose s).2 := by
  fun_cases choose s with
  | case1 | case2 | case3 | case4 => exact hs.frame
  | case5 | case7 => exact hs.tick
  | case6 => exact hs.issue

end Sys2Proof.Safety
end

section
/-! SUPPORT. Integer instructions: every operation keeps the canonical form. -/

namespace Sys2Proof.Safety

open Sys2Proof Sys2Proof.Machine

protected theorem Canonical.aluOp {f : Word → Word → Word} {g : BitVec 5} {d a b : BitVec 4} {s : State} (hs : Canonical s) :
    Keeps (aluOp f g d a b s) :=
  hs.scalar fun hs => hs.retireReg

protected theorem Canonical.immOp {f : Word → Word → Word} {g : BitVec 5} {d a : BitVec 4} {i : Word} {s : State} (hs : Canonical s) :
    Keeps (immOp f g d a i s) :=
  hs.scalar fun hs => hs.retireReg

protected theorem Canonical.execAndn {g : BitVec 5} {d a b : BitVec 4} {s : State} (hs : Canonical s) : Keeps (execAndn g d a b s) :=
  hs.aluOp

protected theorem Canonical.execClz {g : BitVec 5} {d a : BitVec 4} {s : State} (hs : Canonical s) : Keeps (execClz g d a s) :=
  hs.aluOp

protected theorem Canonical.execCtz {g : BitVec 5} {d a : BitVec 4} {s : State} (hs : Canonical s) : Keeps (execCtz g d a s) :=
  hs.aluOp

protected theorem Canonical.execPopc {g : BitVec 5} {d a : BitVec 4} {s : State} (hs : Canonical s) : Keeps (execPopc g d a s) :=
  hs.aluOp

protected theorem Canonical.execBrev {g : BitVec 5} {d a : BitVec 4} {s : State} (hs : Canonical s) : Keeps (execBrev g d a s) :=
  hs.aluOp

protected theorem Canonical.execLi {g : BitVec 5} {d : BitVec 4} {i : BitVec 16} {s : State} (hs : Canonical s) :
    Keeps (execLi g d i s) :=
  hs.scalar fun hs => hs.retireReg

protected theorem Canonical.execLis {g : BitVec 5} {d : BitVec 4} {i : BitVec 16} {s : State} (hs : Canonical s) :
    Keeps (execLis g d i s) :=
  hs.scalar fun hs => hs.retireReg

protected theorem Canonical.execNop {g : BitVec 5} {s : State} (hs : Canonical s) : Keeps (execNop g s) :=
  hs.scalar fun hs => hs.retire

end Sys2Proof.Safety
end

section
/-! SUPPORT. Control: every operation keeps the canonical form. -/

namespace Sys2Proof.Safety

open Sys2Proof Sys2Proof.Machine

protected theorem Canonical.constLoad {s : State} {t : Thread} {d : BitVec 4} {e : Nat} (hs : Canonical s) :
    Canonical (constLoad s t d e) :=
  .ite hs.fatalAt (.ite hs.bump.retireReg hs.retireReg)

protected theorem Canonical.execKld {g : BitVec 5} {d : BitVec 4} {k : BitVec 8} {s : State} (hs : Canonical s) :
    Keeps (execKld g d k s) :=
  hs.scalar fun hs => hs.constLoad

protected theorem Canonical.execKldX {g : BitVec 5} {d a : BitVec 4} {k : BitVec 8} {s : State} (hs : Canonical s) :
    Keeps (execKldX g d a k s) :=
  hs.scalar fun hs => hs.constLoad

protected theorem Canonical.execSel {g : BitVec 5} {d a b n : BitVec 4} {s : State} (hs : Canonical s) : Keeps (execSel g d a b n s) :=
  hs.scalar fun hs => hs.retireReg

protected theorem Canonical.execTag {g : BitVec 5} {d a : BitVec 4} {t : BitVec 8} {s : State} (hs : Canonical s) :
    Keeps (execTag g d a t s) :=
  hs.scalar fun hs => hs.retireReg

protected theorem Canonical.execSega {g : BitVec 5} {d a : BitVec 4} {s : State} (hs : Canonical s) : Keeps (execSega g d a s) := by
  unfold execSega
  refine hs.scalar (fun hs => ?_)
  split
  · exact hs.fatalAt
  · exact .ite hs.fatalAt hs.retireReg

protected theorem Canonical.execRds {g : BitVec 5} {d : BitVec 4} {sel : BitVec 12} {s : State} (hs : Canonical s) :
    Keeps (execRds g d sel s) :=
  hs.scalar fun hs => hs.retireReg

protected theorem Canonical.execCmp {g : BitVec 5} {p a b c m : BitVec 4} {s : State} (hs : Canonical s) :
    Keeps (execCmp g p a b c m s) :=
  hs.scalar fun hs => hs.retire

protected theorem Canonical.execCmpi {g : BitVec 5} {p a c : BitVec 4} {i : BitVec 8} {s : State} (hs : Canonical s) :
    Keeps (execCmpi g p a c i s) :=
  hs.scalar fun hs => hs.retire

protected theorem Canonical.plogOp {f : Bool → Bool → Bool} {g : BitVec 5} {p q r : BitVec 4} {s : State} (hs : Canonical s) :
    Keeps (plogOp f g p q r s) :=
  hs.scalar fun hs => hs.retire

protected theorem Canonical.execPandn {g : BitVec 5} {p q r : BitVec 4} {s : State} (hs : Canonical s) : Keeps (execPandn g p q r s) :=
  hs.plogOp

protected theorem Canonical.execPnot {g : BitVec 5} {p q : BitVec 4} {s : State} (hs : Canonical s) : Keeps (execPnot g p q s) :=
  hs.plogOp

protected theorem Canonical.execPmov {g : BitVec 5} {p q : BitVec 4} {s : State} (hs : Canonical s) : Keeps (execPmov g p q s) :=
  hs.plogOp

protected theorem Canonical.execPget {g : BitVec 5} {d : BitVec 4} {s : State} (hs : Canonical s) : Keeps (execPget g d s) :=
  hs.scalar fun hs => hs.retireReg

protected theorem Canonical.execPset {g : BitVec 5} {a : BitVec 4} {s : State} (hs : Canonical s) : Keeps (execPset g a s) :=
  hs.scalar fun hs => hs.retire

protected theorem Canonical.jump {s : State} {t u : Thread} {target : Int} (hs : Canonical s) : Canonical (jump s t u target) :=
  .ite hs.setThread hs.leaveFault

protected theorem Canonical.execBr {g : BitVec 5} {o : BitVec 20} {s : State} (hs : Canonical s) : Keeps (execBr g o s) :=
  hs.scalar fun hs => hs.jump

protected theorem Canonical.execJal {g : BitVec 5} {o : BitVec 20} {s : State} (hs : Canonical s) : Keeps (execJal g o s) :=
  hs.scalar fun hs => hs.jump

protected theorem Canonical.execJr {g : BitVec 5} {d a : BitVec 4} {s : State} (hs : Canonical s) : Keeps (execJr g d a s) :=
  hs.scalar fun hs => hs.jump

protected theorem Canonical.execDbnz {g : BitVec 5} {d : BitVec 4} {o : BitVec 16} {s : State} (hs : Canonical s) :
    Keeps (execDbnz g d o s) :=
  hs.scalar fun hs => .ite hs.retireReg hs.jump

end Sys2Proof.Safety
end

section
/-! SUPPORT. Floating-point instructions: every operation keeps the canonical form. -/

namespace Sys2Proof.Safety

open Sys2Proof Sys2Proof.Machine

protected theorem Canonical.retireFp {s : State} {t : Thread} {d : BitVec 4} {r : Flagged Nat} (hs : Canonical s) :
    Canonical (retireFp s t d r) :=
  hs.retireReg

protected theorem Canonical.fpuOp {f : Nat → Nat → Flagged Nat} {g : BitVec 5} {d a b : BitVec 4} {s : State} (hs : Canonical s) :
    Keeps (fpuOp f g d a b s) :=
  hs.scalar fun hs => hs.retireFp

protected theorem Canonical.execFcvti {g : BitVec 5} {d a : BitVec 4} {s : State} (hs : Canonical s) : Keeps (execFcvti g d a s) :=
  hs.scalar fun hs => hs.retireFp

protected theorem Canonical.execFcvtf {g : BitVec 5} {d a : BitVec 4} {s : State} (hs : Canonical s) : Keeps (execFcvtf g d a s) :=
  hs.scalar fun hs => hs.retireFp

end Sys2Proof.Safety
end

section
/-! SUPPORT. The step: every instruction's meaning keeps the canonical form, and so does every step. -/

namespace Sys2Proof.Safety

open Sys2Proof Sys2Proof.Machine

/-- Every instruction, of a program or of the machine itself, keeps the canonical form. -/
protected theorem Canonical.exec {i : Instr} {s : State} (hs : Canonical s) : Keeps (exec i s) := by
  cases i with
  | nop => exact hs.execNop
  | add | sub | and | or | xor | shl | shr | sra | rol | min | max | minn | maxn | mul | mulh | mulhn | div | divn | rem | remn | sext
  | zext => exact hs.aluOp
  | andn => exact hs.execAndn
  | clz => exact hs.execClz
  | ctz => exact hs.execCtz
  | popc => exact hs.execPopc
  | brev => exact hs.execBrev
  | fadd | fsub | fmul | fmin | fmax => exact hs.fpuOp
  | fcvti => exact hs.execFcvti
  | fcvtf => exact hs.execFcvtf
  | addi | andi | ori | xori | shli | shri | srai | muli => exact hs.immOp
  | li => exact hs.execLi
  | lis => exact hs.execLis
  | kld => exact hs.execKld
  | kldX => exact hs.execKldX
  | sel => exact hs.execSel
  | tag => exact hs.execTag
  | sega => exact hs.execSega
  | rds => exact hs.execRds
  | cmp => exact hs.execCmp
  | cmpi => exact hs.execCmpi
  | pand | por | pxor => exact hs.plogOp
  | pandn => exact hs.execPandn
  | pnot => exact hs.execPnot
  | pmov => exact hs.execPmov
  | pget => exact hs.execPget
  | pset => exact hs.execPset
  | br => exact hs.execBr
  | jal => exact hs.execJal
  | jr => exact hs.execJr
  | dbnz => exact hs.execDbnz
  | ld => exact hs.execLd
  | st => exact hs.execSt
  | lda => exact hs.execLda
  | str => exact hs.execStr
  | lde => exact hs.execLde
  | mrg => exact hs.execMrg
  | fmrg => exact hs.execFmrg
  | vbor => exact hs.execVbor
  | vbtst => exact hs.execVbtst
  | fenceD => exact hs.execFenceD
  | fenceT => exact hs.execFenceT
  | fenceA => exact hs.execFenceA
  | fenceI => exact hs.execFenceI
  | barRegion => exact hs.execBarRegion
  | barRow => exact hs.execBarRow
  | barCol => exact hs.execBarCol
  | prop | propRun => exact hs.propOp
  | learn | learnPoll | learnt => exact hs.learnOp
  | ballot => exact hs.execBallot
  | reshape => exact hs.execReshape
  | accordOpen => exact hs.execAccordOpen
  | accordClose => exact hs.execAccordClose
  | accordTrunc => exact hs.execAccordTrunc
  | accordStat => exact hs.execAccordStat
  | accordNext => exact hs.execAccordNext
  | send => exact hs.execSend
  | spawn => exact hs.execSpawn
  | migr => exact hs.execMigr
  | chsend => exact hs.execChsend
  | chrecv => exact hs.execChrecv
  | cvsend => exact hs.execCvsend
  | cvrecv => exact hs.execCvrecv
  | cvopJoin => exact hs.execCvopJoin
  | cvopDlg => exact hs.execCvopDlg
  | cvopLeave => exact hs.execCvopLeave
  | cvopState => exact hs.execCvopState
  | tcmd => exact hs.execTcmd
  | tcmdQ1 => exact hs.execTcmdQ1
  | tloop => exact hs.execTloop
  | adv => exact hs.execAdv
  | twait => exact hs.execTwait
  | waitt => exact hs.execWaitt
  | tstat => exact hs.execTstat
  | hdef => exact hs.execHdef
  | bagpop => exact hs.execBagpop
  | bagins => exact hs.execBagins
  | rewrite => exact hs.execRewrite
  | nalloc => exact hs.execNalloc
  | nfree => exact hs.execNfree
  | link => exact hs.execLink
  | rules => exact hs.execRules
  | trap => exact hs.execTrap
  | eret => exact hs.execEret
  | rdsw => exact hs.execRdsw
  | wrsw => exact hs.execWrsw
  | yield => exact hs.execYield
  | halt => exact hs.execHalt
  | ckpt => exact hs.execCkpt
  | ologMark => exact hs.execOlogMark
  | ologPause => exact hs.execOlogPause
  | ologResume => exact hs.execOlogResume
  | ologFlush => exact hs.execOlogFlush
  | lnch => exact hs.execLnch
  | wfm => exact hs.execWfm
  | snap => exact hs.execSnap
  | tnop => exact hs.execTnop
  | mma | mmas | mmaz => exact hs.matrixOp
  | spld => exact hs.execSpld
  | aclr => exact hs.execAclr
  | acld => exact hs.execAcld
  | acst => exact hs.execAcst
  | acsc => exact hs.execAcsc
  | vadd | vsub | vmul | vfma | vexp2 | vlog2 | vrcp | vrsq | vcvt => exact hs.vectorArith
  | vmin | vmax => exact hs.vectorExtrema
  | vcmp => exact hs.execVcmp
  | vsel => exact hs.execVsel
  | vand | vor | vxor => exact hs.vectorBits
  | vred => exact hs.execVred
  | vtrn => exact hs.execVtrn
  | vbcast => exact hs.execVbcast
  | vscl => exact hs.execVscl
  | copy | copyr | gath | scat | mcast | zero => exact hs.copyOp
  | qtld => exact hs.execQtld
  | rngk => exact hs.execRngk
  | tsig => exact hs.execTsig
  | tmark => exact hs.execTmark
  | tileCommandComplete => exact hs.execTileCommandComplete
  | tloopPush => exact hs.execTloopPush
  | promiseMissed => exact hs.execPromiseMissed
  | remoteAdvance => exact hs.execRemoteAdvance
  | storeDelivery | mergeApply | loadRequest => exact .next hs.deliver
  | loadReply => exact hs.execLoadReply
  | acknowledgement => exact hs.execAcknowledgement
  | fetchMergeReply => exact hs.execFetchMergeReply
  | copyShadowRelease => exact hs.execCopyShadowRelease
  | codeOrderRelease => exact hs.execCodeOrderRelease
  | messageArrival => exact hs.execMessageArrival
  | handlerStart => exact hs.execHandlerStart
  | spawnRequest => exact hs.execSpawnRequest
  | spawnReply => exact hs.execSpawnReply
  | migrationArrival => exact hs.execMigrationArrival
  | arrivalTaken => exact hs.execArrivalTaken
  | channelWord => exact hs.execChannelWord
  | channelCredit => exact hs.execChannelCredit
  | linkExchange => exact hs.execLinkExchange
  | nfreeAtHome => exact hs.execNfreeAtHome
  | pairPush => exact hs.execPairPush
  | quarantineExpiry => exact hs.execQuarantineExpiry
  | prepare => exact hs.execPrepare
  | accept => exact hs.execAccept
  | prepacc => exact hs.execPrepacc
  | decided => exact hs.execDecided
  | promise => exact hs.execPromise
  | accepted => exact hs.execAccepted
  | nack => exact hs.execNack
  | norun => exact hs.execNorun
  | decidednow => exact hs.execDecidednow
  | decidedReply => exact hs.execDecidedReply
  | truncReply => exact hs.execTruncReply
  | phaseTimeout => exact hs.execPhaseTimeout
  | backoffEnd => exact hs.execBackoffEnd
  | lease => exact hs.execLease
  | leaseGrant => exact hs.execLeaseGrant
  | freeze => exact hs.execFreeze
  | freezeReport => exact hs.execFreezeReport
  | seniorReportTimeout => exact hs.execSeniorReportTimeout
  | leaseRelease => exact hs.execLeaseRelease
  | leaseExpiry => exact hs.execLeaseExpiry
  | accordTableFill => exact hs.execAccordTableFill
  | learnRequest => exact hs.execLearnRequest
  | memberQuery => exact hs.execMemberQuery
  | keepalive => exact hs.execKeepalive
  | learnerFailover => exact hs.execLearnerFailover
  | learntDeadline => exact hs.execLearntDeadline
  | quorumTakeover => exact hs.execQuorumTakeover
  | accordRegister => exact hs.execAccordRegister
  | openTimeout => exact hs.execOpenTimeout
  | accordCloseAtMember => exact hs.execAccordCloseAtMember
  | accordTruncAtMember => exact hs.execAccordTruncAtMember
  | barRelease => exact hs.execBarRelease
  | barTimeout => exact hs.execBarTimeout
  | budgetExhausted => exact hs.execBudgetExhausted
  | budgetTrap => exact hs.execBudgetTrap
  | energyMeter => exact hs.execEnergyMeter
  | trapRecordInsert => exact .next hs.retryRecs
  | pageZeroingDone port => exact hs.execPageZeroingDone (_port := port)
  | pageMigrationDone => exact hs.execPageMigrationDone
  | scrubPass => exact hs.execScrubPass
  | softError => exact hs.execSoftError
  | epochNotice => exact hs.execEpochNotice
  | imagePageWrite => exact hs.execImagePageWrite
  | imageComplete => exact hs.execImageComplete
  | ckptPeriodTrigger => exact hs.execCkptPeriodTrigger
  | ckptStepTrigger => exact hs.execCkptStepTrigger
  | launchStart => exact hs.execLaunchStart
  | launchComplete => exact hs.execLaunchComplete
  | quantumDuskProposal => exact hs.execQuantumDuskProposal
  | duskStop => exact hs.execDuskStop
  | quantumRestore => exact hs.execQuantumRestore
  | gangStop => exact hs.execGangStop
  | ologHeadRecheck => exact hs.execOlogHeadRecheck
  | replayTurn => exact hs.execReplayTurn
  | replayStall => exact hs.execReplayStall
  | cicadaSweep => exact .next hs.frame
  | cicadaSweepEnd => exact hs.execCicadaSweepEnd
  | sweepPrewake => exact .next hs.wakeRouters
  | packetLifetimeExpired => exact hs.execPacketLifetimeExpired
  | routerGate => exact hs.execRouterGate
  | fireflyWake => exact hs.execFireflyWake
  | routerOn => exact hs.execRouterOn
  | flitReceive => exact hs.execFlitReceive
  | nakReceive => exact hs.execNakReceive
  | linkDown => exact hs.execLinkDown
  | linkRetrain => exact hs.execLinkRetrain
  | dropNotice => exact hs.execDropNotice
  | countQuery => exact hs.execCountQuery
  | fenceCountTimeout => exact hs.execFenceCountTimeout
  | vfLoopInterval => exact hs.execVfLoopInterval
  | alarmEntry => exact hs.execAlarmEntry
  | alarmClear => exact hs.execAlarmClear
  | regulatorAlarm => exact hs.execRegulatorAlarm
  | eqAdapt => exact hs.execEqAdapt
  | laneMarginFail => exact hs.execLaneMarginFail
  | wake => exact .next (.ite hs.wakeRec hs)
  | tqhead => exact .next (.ite hs.setHead hs)
  | cereg => exact .next (.ite hs.clearRegionCount hs)
  | ceport => exact .next (.ite hs.clearPortCount hs)
  | registerWrite => exact hs.execRegisterWrite
  | migrate => exact hs.execMigrate
  | evict => exact hs.execEvict
  | inval => exact hs.execInval
  | frames => exact hs.execFrames
  | configPset => exact hs.execConfigPset
  | openl => exact hs.execOpenl
  | kill => exact hs.execKill
  | release => exact hs.execRelease
  | grant => exact hs.execGrant
  | areas => exact hs.execAreas
  | dbgkey => exact hs.execDbgkey
  | hostSubmission => exact hs.execHostSubmission
  | getVersion => exact hs.execGetVersion
  | getCapabilities => exact hs.execGetCapabilities
  | negotiateAlgorithms => exact hs.execNegotiateAlgorithms
  | getDigests => exact hs.execGetDigests
  | getCertificate => exact hs.execGetCertificate
  | challenge => exact hs.execChallenge
  | getMeasurements => exact hs.execGetMeasurements
  | keyExchange => exact hs.execKeyExchange
  | finish => exact hs.execFinish
  | debugWindowRead => exact hs.execDebugWindowRead
  | reset => exact hs.execReset
  | illegalInstruction w => exact hs.execIllegalInstruction (_w := w)
  | countReply => exact hs.execCountReply
  | memberReply => exact hs.execMemberReply
  | zeroingEnd => exact hs.execZeroingEnd
  | debugSessionEnd => exact .next hs.modSpdm

/-- `choose` keeps the canonical form, and so does the instruction it chose. -/
protected theorem Canonical.step {s : State} (hs : Canonical s) : Keeps (step s) := by
  unfold step
  split
  · exact (hs.choose.right).exec
  · exact .next hs.choose.right

/-- Settles O59: `choose` and the meaning of every instruction are put together from operations that each keep the canonical form
(`Canonical.step`). -/
theorem stepKeepsCanonical : Obligations.StepKeepsCanonical := by
  unfold Obligations.StepKeepsCanonical
  intro s s' hs hstep
  exact hs.step.canonical hstep

end Sys2Proof.Safety
end

section
/-! SUPPORT. The rules that statements about scalar words rest on: what a word in issue does to its thread, and what a fatal fault at an
instruction leaves as it was. -/

namespace Sys2Proof.Safety

open Sys2Proof Sys2Proof.Machine

/-! ### The frame of a scalar word -/

theorem onlyThread_setThread (s : State) (u : Thread) : OnlyThread s (setThread s u) u :=
  ⟨getThread_setThread s u, fun k hk => getThread_setThread_other s u k hk, rfl⟩

theorem Issues.scalar_eq {s : State} {t : Thread} {g : BitVec 5} (h : Issues s t g) (f : State → Thread → State) :
    scalar g s f = .next (f s t) :=
  scalar_ready f h.1.1 h.1.2 h.2.2

theorem Ahead.retire_eq {s : State} {t : Thread} (h : Ahead s t) : retire s t = setThread s (stepped t) := by
  rw [retire_step h.1 h.2]; rfl

theorem Ahead.retireReg_eq {s : State} {t : Thread} (h : Ahead s t) (d : BitVec 4) (v : Word) :
    retireReg s t d v = setThread s { stepped t with regs := writeReg t.regs d v } := by
  rw [retireReg_step d v h.1 h.2]; rfl

theorem readReg_past (r : Regs) {c : BitVec 4} (h : ¬c.toNat < 10) : readReg r c = 0 := by
  unfold readReg
  split
  case h_11 => rfl
  all_goals omega

/-- A register write that retires is `WroteReg`. -/
theorem Ahead.wroteReg {s : State} {t : Thread} (h : Ahead s t) (d : BitVec 4) (v : Word) : WroteReg s (retireReg s t d v) t d v := by
  rw [h.retireReg_eq]
  refine ⟨_, onlyThread_setThread _ _, ?_, fun c hc => ?_, rfl⟩
  · by_cases hd : d.toNat < 10
    · simp [Thread.reg, readReg_writeReg, hd]
    · simp [Thread.reg, readReg_past _ hd, hd]
  · simp [Thread.reg, readReg_writeReg, hc]

section Ends

variable {s : State} {t : Thread} {g : BitVec 5} {f : State → Thread → State}

/-- A word that ends by writing a register. -/
theorem Issues.writesReg (hi : Issues s t g) (ha : Ahead s t) {d : BitVec 4} {v : Word} (hf : f s t = retireReg s t d v) :
    ∃ s', scalar g s f = .next s' ∧ WroteReg s s' t d v :=
  ⟨f s t, hi.scalar_eq f, hf ▸ ha.wroteReg d v⟩

/-- A word that ends with nothing done. -/
theorem Issues.steps (hi : Issues s t g) (ha : Ahead s t) (hf : f s t = retire s t) :
    ∃ s', scalar g s f = .next s' ∧ OnlyThread s s' (stepped t) :=
  ⟨f s t, hi.scalar_eq f, by rw [hf, ha.retire_eq]; exact onlyThread_setThread s (stepped t)⟩

/-- A word that ends by writing a predicate. -/
theorem Issues.writesPred (hi : Issues s t g) (ha : Ahead s t) {p : BitVec 4} {b : Bool} {n : Nat}
    (hf : f s t = retire s ((t.setPred p b).orFpx n)) : ∃ s', scalar g s f = .next s' ∧ WrotePred s s' t p b (BitVec.ofNat 5 n) := by
  have ha' : Ahead s ((t.setPred p b).orFpx n) := ha
  refine ⟨f s t, hi.scalar_eq f, ?_⟩
  rw [hf, ha'.retire_eq]
  exact ⟨_, onlyThread_setThread _ _, fun q => pred_setPred t p q b, rfl⟩

end Ends

/-! ### Fatal faults (R312, R315, R316) -/

/-- What writing trap-queue records can do: threads change in their status alone (RECPEND), contexts not at all, and memory only in the
window of the queue. -/
structure RecordsKept (q : Nat) (s s' : State) : Prop where
  thread : ∀ k t, getThread s k = some t → ∃ w, getThread s' k = some { t with status := w }
  ctxs : s'.ctxs = s.ctxs
  window : (getTrapQ s' q).window = (getTrapQ s q).window
  mem : (getTrapQ s q).window = 0 → s'.mem = s.mem

theorem RecordsKept.of_threads {q : Nat} {s s' : State} (ht : s'.threads = s.threads) (hc : s'.ctxs = s.ctxs)
    (hw : (getTrapQ s' q).window = (getTrapQ s q).window) (hm : (getTrapQ s q).window = 0 → s'.mem = s.mem) : RecordsKept q s s' where
  thread _ t h := ⟨t.status, by rw [getThread, ht]; exact h⟩
  ctxs := hc
  window := hw
  mem := hm

theorem RecordsKept.refl (q : Nat) (s : State) : RecordsKept q s s := .of_threads rfl rfl rfl fun _ => rfl

theorem RecordsKept.trans {q : Nat} {s s' s'' : State} (h : RecordsKept q s s') (h' : RecordsKept q s' s'') : RecordsKept q s s'' where
  thread k t ht := by
    obtain ⟨w, hw⟩ := h.thread k t ht
    obtain ⟨w', hw'⟩ := h'.thread k _ hw
    exact ⟨w', hw'⟩
  ctxs := h'.ctxs.trans h.ctxs
  window := h'.window.trans h.window
  mem hw := (h'.mem (h.window.trans hw)).trans (h.mem hw)

/-- A queue written with the window it had. -/
theorem recordsKept_setTrapQ {q : Nat} {s : State} {x : TrapQ} (hw : x.window = (getTrapQ s q).window) :
    RecordsKept q s (setTrapQ s q x) :=
  .of_threads rfl rfl (by rw [getTrapQ_setTrapQ, hw]) fun _ => rfl

theorem getThread_modThread (s : State) (tid k : Nat) (f : Thread → Thread) :
    getThread (modThread s tid f) k = if k = tid then (getThread s k).map f else getThread s k := by
  unfold modThread
  split
  · next t ht =>
    by_cases hk : k = tid
    · subst hk
      simp [getThread] at ht ⊢
      simp [ht]
    · simp [getThread, hk, tblFind_tblSet_other _ _ _ _ hk]
  · next hn =>
    split
    · next hk => rw [hk, hn]; rfl
    · rfl

theorem modThread_frame (s : State) (tid : Nat) (f : Thread → Thread) :
    modThread s tid f = { s with threads := (modThread s tid f).threads } := by
  unfold modThread
  split <;> rfl

theorem recordsKept_setRecPend (q : Nat) (s : State) (tid : Nat) (b : Bool) : RecordsKept q s (modThread s tid (·.setRecPend b)) where
  thread k t h := by
    rw [getThread_modThread, h]
    split
    · exact ⟨_, rfl⟩
    · exact ⟨t.status, rfl⟩
  ctxs := by rw [modThread_frame]
  window := by rw [modThread_frame]; rfl
  mem _ := by rw [modThread_frame]

theorem recordsKept_placeRec (q : Nat) (s : State) (r : TrapRec) : RecordsKept q s (placeRec s q r) := by
  dsimp only [placeRec]
  split
  · exact recordsKept_setTrapQ rfl
  · next hw => exact .of_threads rfl rfl (by rw [getTrapQ, setTrapQ, tblGet_tblSet_same]) fun h => absurd h hw

theorem recordsKept_insertWaiting (q : Nat) (l : List TrapRec) (s : State) : RecordsKept q s (insertWaiting q l s) := by
  induction l generalizing s with
  | nil => exact .refl q s
  | cons r l ih =>
    dsimp only [insertWaiting]
    split
    · refine .trans ?_ (.trans (recordsKept_placeRec q _ r) (.trans (recordsKept_setRecPend q _ r.tid _) (ih _)))
      exact recordsKept_setTrapQ rfl
    · exact .refl q s

theorem recordsKept_addRec (q : Nat) (s : State) (r : TrapRec) : RecordsKept q s (addRec s q r) := by
  dsimp only [addRec]
  refine .trans ?_ (recordsKept_insertWaiting q _ _)
  split
  · exact recordsKept_setTrapQ rfl
  · refine .trans ?_ (recordsKept_setRecPend q _ _ _)
    exact recordsKept_setTrapQ rfl

theorem countMore_ctxs (s : State) (q c n : Nat) : (countMore s q c n).ctxs = s.ctxs := by
  dsimp only [countMore]
  split
  · rfl
  · split <;> rfl

theorem countMore_threads (s : State) (q c n : Nat) : (countMore s q c n).threads = s.threads := by
  dsimp only [countMore]
  split
  · rfl
  · split <;> rfl

/-- Reporting a fatal fault changes a thread in its status alone. -/
theorem getThread_raiseFatal {s : State} {k : Nat} {t : Thread} (h : getThread s k = some t) (ctx core part tid pc code addr : Nat) :
    ∃ w, getThread (raiseFatal s ctx core part tid pc code addr) k = some { t with status := w } := by
  fun_cases raiseFatal s ctx core part tid pc code addr with
  | case1 | case2 => exact ⟨t.status, h⟩
  | case3 => exact ⟨t.status, by rw [getThread, countMore_threads]; exact h⟩
  | case4 => exact (recordsKept_addRec _ _ _).thread k t h

/-- A context without a fault keeps the first one; memory changes only in the window of its trap queue. -/
theorem raiseFatal_ctx {s : State} {ctx : Nat} {x : Ctx} (hx : getCtx s ctx = some x) (core part tid pc code addr : Nat) :
    ∃ x', getCtx (raiseFatal s ctx core part tid pc code addr) ctx = some x' ∧ (x.fault = none →
      (∃ f, x'.fault = some f ∧ f.code = code ∧ f.tid = tid ∧ f.pc = pc)
        ∧ ((getTrapQ s (trapQueueOf s core part)).window = 0 → (raiseFatal s ctx core part tid pc code addr).mem = s.mem)) := by
  fun_cases raiseFatal s ctx core part tid pc code addr with
  | case1 h => exact absurd (h.symm.trans hx) (by simp)
  | case2 y hy f hf =>
    obtain rfl : y = x := Option.some.inj (hy.symm.trans hx)
    exact ⟨y, hx, fun h => absurd (h.symm.trans hf) (by simp)⟩
  | case3 y hy f hf =>
    obtain rfl : y = x := Option.some.inj (hy.symm.trans hx)
    exact ⟨_, by rw [getCtx, countMore_ctxs]; exact getCtx_setCtx _ _ _, fun h => absurd (h.symm.trans hf) (by simp)⟩
  | case4 y hy hf v rep s1 s2 r s3 =>
    have hr : RecordsKept (trapQueueOf s2 core part) s2 s3 := recordsKept_addRec _ _ _
    refine ⟨{ y with fault := some rep }, ?_, fun _ => ⟨⟨rep, rfl, rfl, rfl, rfl⟩, fun hw => hr.mem hw⟩⟩
    change tblFind s3.ctxs ctx = _
    rw [hr.ctxs]
    exact tblFind_tblSet_same _ _ _

/-- A fatal fault of a thread at its own instruction. -/
theorem fatalAt_fatalHere {s : State} {t : Thread} (ht : getThread s t.id = some t) (code addr : Nat) :
    FatalHere s (fatalAt s t code addr) t code := by
  have hm : getThread (modThread s t.id fun u => { u with wait := .stopped }) t.id = some { t with wait := .stopped } := by
    rw [getThread_modThread, if_pos rfl, ht]; rfl
  refine ⟨?_, fun x hx => ?_⟩
  · obtain ⟨w, hw⟩ := getThread_raiseFatal hm t.ctx t.core t.part t.id t.pc.toNat code addr
    exact ⟨_, hw, rfl, rfl, rfl, rfl, rfl⟩
  · have hx' : getCtx (modThread s t.id fun u => { u with wait := .stopped }) t.ctx = some x := by
      rw [modThread_frame]; exact hx
    have h := raiseFatal_ctx hx' t.core t.part t.id t.pc.toNat code addr
    rw [modThread_frame] at h
    rw [fatalAt, modThread_frame]
    exact h

/-- A word that ends in a fatal fault. -/
theorem Issues.faults {s : State} {t : Thread} {g : BitVec 5} {f : State → Thread → State} (hi : Issues s t g) {code addr : Nat}
    (hf : f s t = fatalAt s t code addr) : ∃ s', scalar g s f = .next s' ∧ FatalHere s s' t code :=
  ⟨f s t, hi.scalar_eq f, hf ▸ fatalAt_fatalHere hi.1.2 code addr⟩

end Sys2Proof.Safety
end

section
/-! SUPPORT. The two-operand integer instructions: the values of the table (R26, R90, R91), and O1. -/

namespace Sys2Proof.Safety

open Sys2Proof Sys2Proof.Machine

/-! ### The values of the two-operand integer instructions (R90, R91) -/

theorem tagAdd_eq (a b : Word) :
    tagAdd a b = BitVec.ofNat 64 (a.toNat / 2 ^ 56 * 2 ^ 56 + (a.toNat + b.toNat) % 2 ^ 56) := by
  apply BitVec.eq_of_toNat_eq
  have ha := a.isLt
  simp only [tagAdd]
  rw [BitVec.toNat_append, ← Nat.shiftLeft_add_eq_or_of_lt (BitVec.isLt _)]
  simp [Nat.shiftLeft_eq, Nat.shiftRight_eq_div_pow]
  omega

theorem tagSub_eq (a b : Word) :
    tagSub a b = BitVec.ofNat 64 (a.toNat / 2 ^ 56 * 2 ^ 56 + (a.toNat + 2 ^ 64 - b.toNat) % 2 ^ 56) := by
  apply BitVec.eq_of_toNat_eq
  have ha := a.isLt
  have hb := b.isLt
  simp only [tagSub]
  rw [BitVec.toNat_append, ← Nat.shiftLeft_add_eq_or_of_lt (BitVec.isLt _)]
  simp [Nat.shiftLeft_eq, Nat.shiftRight_eq_div_pow, BitVec.toNat_sub]
  omega

theorem shiftLeft_eq_ofNat (a : Word) (n : Nat) : a <<< n = BitVec.ofNat 64 (a.toNat * 2 ^ n) := by
  apply BitVec.eq_of_toNat_eq
  simp [Nat.shiftLeft_eq]

theorem shiftRight_eq_ofNat (a : Word) (n : Nat) : a >>> n = BitVec.ofNat 64 (a.toNat / 2 ^ n) := by
  apply BitVec.eq_of_toNat_eq
  have : a.toNat / 2 ^ n < 2 ^ 64 := lt_of_le_of_lt (Nat.div_le_self _ _) a.isLt
  rw [BitVec.toNat_ushiftRight, BitVec.toNat_ofNat, Nat.shiftRight_eq_div_pow, Nat.mod_eq_of_lt this]

theorem sshiftRight_eq_ofInt (a : Word) (n : Nat) : a.sshiftRight n = BitVec.ofInt 64 (a.toInt / 2 ^ n) := by
  rw [BitVec.sshiftRight, Int.shiftRight_eq_div_pow]
  norm_cast

theorem aluRol_eq (a b : Word) :
    aluRol a b = BitVec.ofNat 64 (a.toNat * 2 ^ (b.toNat % 64) % 2 ^ 64 + a.toNat / 2 ^ (64 - b.toNat % 64)) := by
  have hn : b.toNat % 64 < 64 := Nat.mod_lt _ (by decide)
  generalize hk : b.toNat % 64 = n at hn
  have hpow : (2 : Nat) ^ 64 = 2 ^ (64 - n) * 2 ^ n := by rw [← Nat.pow_add]; congr 1; omega
  have hlow : a.toNat * 2 ^ n % 2 ^ 64 = (a.toNat % 2 ^ (64 - n)) <<< n := by
    rw [hpow, Nat.mul_mod_mul_right, Nat.shiftLeft_eq]
  have hhigh : a.toNat / 2 ^ (64 - n) < 2 ^ n := Nat.div_lt_of_lt_mul (hpow ▸ a.isLt)
  apply BitVec.eq_of_toNat_eq
  have hbound : (aluRol a b).toNat < 2 ^ 64 := BitVec.isLt _
  simp only [aluRol, low6, hk, BitVec.toNat_rotateLeft, Nat.mod_eq_of_lt hn, Nat.shiftLeft_eq, Nat.shiftRight_eq_div_pow, hlow]
    at hbound ⊢
  rw [← Nat.shiftLeft_eq, ← Nat.shiftLeft_add_eq_or_of_lt hhigh] at hbound ⊢
  exact (Nat.mod_eq_of_lt hbound).symm

theorem aluMin_eq (a b : Word) : aluMin a b = if a.toInt < b.toInt then a else b := by
  unfold aluMin
  rcases lt_trichotomy a.toInt b.toInt with h | h | h
  · rw [if_pos h.le, if_pos h]
  · rw [if_pos h.le, if_neg h.not_lt, BitVec.eq_of_toInt_eq h]
  · rw [if_neg h.not_ge, if_neg h.not_gt]

theorem aluMax_eq (a b : Word) : aluMax a b = if b.toInt < a.toInt then a else b := by
  unfold aluMax
  by_cases h : b.toInt < a.toInt
  · rw [if_neg h.not_ge, if_pos h]
  · rw [if_pos (not_lt.1 h), if_neg h]

theorem aluMinn_eq (a b : Word) : aluMinn a b = if a.toNat < b.toNat then a else b := by
  unfold aluMinn
  rcases lt_trichotomy a.toNat b.toNat with h | h | h
  · rw [if_pos h.le, if_pos h]
  · rw [if_pos h.le, if_neg h.not_lt, BitVec.eq_of_toNat_eq h]
  · rw [if_neg h.not_ge, if_neg h.not_gt]

theorem aluMaxn_eq (a b : Word) : aluMaxn a b = if b.toNat < a.toNat then a else b := by
  unfold aluMaxn
  by_cases h : b.toNat < a.toNat
  · rw [if_neg h.not_ge, if_pos h]
  · rw [if_pos (not_lt.1 h), if_neg h]

theorem mul_eq_ofNat (a b : Word) : a * b = BitVec.ofNat 64 (a.toNat * b.toNat) := by
  apply BitVec.eq_of_toNat_eq
  simp

theorem aluDiv_eq (a b : Word) : aluDiv a b = if b = 0 then BitVec.ofInt 64 (-1) else BitVec.ofInt 64 (a.toInt.tdiv b.toInt) := by
  unfold aluDiv
  split
  · rfl
  · split
    · next h =>
      simp only [Bool.and_eq_true, decide_eq_true_eq] at h
      obtain ⟨rfl, rfl⟩ := h
      rfl
    · rfl

theorem aluRem_eq (a b : Word) : aluRem a b = if b = 0 then a else BitVec.ofInt 64 (a.toInt.tmod b.toInt) := by
  unfold aluRem
  split
  · rfl
  · split
    · next h =>
      simp only [Bool.and_eq_true, decide_eq_true_eq] at h
      obtain ⟨rfl, rfl⟩ := h
      rfl
    · rw [Int.tmod_def, Int.mul_comm]

/-- A two-operand integer instruction is `aluOp` of a function that gives the value of the table. -/
theorem exec_alu {i : Instr} {g : BitVec 5} {d a b : BitVec 4} (h : aluFields i = some (g, d, a, b)) :
    ∃ f, exec i = aluOp f g d a b ∧ ∀ x y, aluValue i x y = some (f x y) := by
  unfold aluFields at h
  split at h <;> cases h
  case h_1 => exact ⟨tagAdd, rfl, fun x y => by rw [tagAdd_eq]; rfl⟩
  case h_2 => exact ⟨tagSub, rfl, fun x y => by rw [tagSub_eq]; rfl⟩
  case h_3 => exact ⟨(· &&& ·), rfl, fun x y => rfl⟩
  case h_4 => exact ⟨(· ||| ·), rfl, fun x y => rfl⟩
  case h_5 => exact ⟨(· ^^^ ·), rfl, fun x y => rfl⟩
  case h_6 => exact ⟨fun x y => x &&& ~~~y, rfl, fun x y => rfl⟩
  case h_7 => exact ⟨aluShl, rfl, fun x y => by rw [aluShl, shiftLeft_eq_ofNat]; rfl⟩
  case h_8 => exact ⟨aluShr, rfl, fun x y => by rw [aluShr, shiftRight_eq_ofNat]; rfl⟩
  case h_9 => exact ⟨aluSra, rfl, fun x y => by rw [aluSra, sshiftRight_eq_ofInt]; rfl⟩
  case h_10 => exact ⟨aluRol, rfl, fun x y => by rw [aluRol_eq]; rfl⟩
  case h_11 => exact ⟨aluMin, rfl, fun x y => by rw [aluMin_eq]; rfl⟩
  case h_12 => exact ⟨aluMax, rfl, fun x y => by rw [aluMax_eq]; rfl⟩
  case h_13 => exact ⟨aluMinn, rfl, fun x y => by rw [aluMinn_eq]; rfl⟩
  case h_14 => exact ⟨aluMaxn, rfl, fun x y => by rw [aluMaxn_eq]; rfl⟩
  case h_15 => exact ⟨(· * ·), rfl, fun x y => congrArg some (mul_eq_ofNat x y).symm⟩
  case h_16 => exact ⟨aluMulh, rfl, fun x y => rfl⟩
  case h_17 => exact ⟨aluMulhn, rfl, fun x y => rfl⟩
  case h_18 => exact ⟨aluDiv, rfl, fun x y => by rw [aluDiv_eq]; rfl⟩
  case h_19 => exact ⟨aluDivn, rfl, fun x y => rfl⟩
  case h_20 => exact ⟨aluRem, rfl, fun x y => by rw [aluRem_eq]; rfl⟩
  case h_21 => exact ⟨aluRemn, rfl, fun x y => rfl⟩

/-- Settles O1: every form of the table is `aluOp` of its value (`exec_alu`), whose retiring is a register write. -/
theorem aluResults : Obligations.AluResults := by
  unfold Obligations.AluResults
  intro s t i g d a b v hf hv hi ha
  obtain ⟨f, he, hval⟩ := exec_alu hf
  obtain rfl : f (t.reg a) (t.reg b) = v := Option.some.inj ((hval _ _).symm.trans hv)
  rw [he]
  unfold aluOp
  exact hi.writesReg ha rfl
end Sys2Proof.Safety
end

section
/-! SUPPORT. The one-operand and immediate integer instructions, the constant window, selection and identity (R90, R93, R96 to R100), and
O2. -/

namespace Sys2Proof.Safety

open Sys2Proof Sys2Proof.Machine

/-! ### Bits of the one-operand instructions (R90) -/

theorem sextNat_eq_toInt (n w : Nat) : sextNat (n + 1) w = (BitVec.ofNat (n + 1) w).toInt := by
  have hp : 2 ^ (n + 1) = 2 * 2 ^ n := Nat.pow_succ'
  rw [BitVec.toInt_eq_toNat_cond, BitVec.toNat_ofNat]
  simp only [sextNat, Nat.add_sub_cancel]
  by_cases h : w % 2 ^ (n + 1) < 2 ^ n
  · rw [if_pos h, if_pos (by omega)]
  · rw [if_neg h, if_neg (by omega)]
    push_cast
    rfl

theorem aluSext_getLsbD (a b : Word) {i : Nat} (hi : i < 64) :
    (aluSext a b).getLsbD i = if i ≤ b.toNat % 64 then a.getLsbD i else a.getLsbD (b.toNat % 64) := by
  have hbit : ∀ j n, j ≤ n → (BitVec.ofNat (n + 1) a.toNat).getLsbD j = a.getLsbD j := fun j n hj => by
    rw [BitVec.getLsbD_ofNat, BitVec.testBit_toNat, decide_eq_true (Nat.lt_succ_of_le hj), Bool.true_and]
  have hs : aluSext a b = (BitVec.ofNat (b.toNat % 64 + 1) a.toNat).signExtend 64 := by
    rw [aluSext, low6, sextNat_eq_toInt]; rfl
  rw [hs, BitVec.getLsbD_signExtend, decide_eq_true hi, Bool.true_and]
  by_cases h : i ≤ b.toNat % 64
  · rw [if_pos (Nat.lt_succ_of_le h), if_pos h, hbit _ _ h]
  · rw [if_neg (by omega), if_neg h, BitVec.msb_eq_getLsbD_last, Nat.add_sub_cancel, hbit _ _ le_rfl]

theorem aluZext_getLsbD (a b : Word) {i : Nat} (hi : i < 64) :
    (aluZext a b).getLsbD i = (decide (i ≤ b.toNat % 64) && a.getLsbD i) := by
  rw [aluZext, low6, BitVec.getLsbD_ofNat, Nat.testBit_mod_two_pow, BitVec.testBit_toNat]
  simp [hi]

theorem revBits_lt (n v : Nat) : revBits n v < 2 ^ n := by
  induction n generalizing v with
  | zero => exact Nat.one_pos
  | succ n ih =>
    have hv : v % 2 ≤ 1 := by omega
    calc v % 2 * 2 ^ n + revBits n (v / 2) < 1 * 2 ^ n + 2 ^ n := Nat.add_lt_add_of_le_of_lt (Nat.mul_le_mul_right _ hv) (ih _)
      _ = 2 ^ (n + 1) := by ring

theorem testBit_revBits (n v i : Nat) (hi : i < n) : (revBits n v).testBit i = v.testBit (n - 1 - i) := by
  induction n generalizing v with
  | zero => omega
  | succ n ih =>
    rw [revBits, Nat.mul_comm, Nat.testBit_two_pow_mul_add _ (revBits_lt _ _)]
    by_cases h : i < n
    · rw [if_pos h, ih _ h, ← Nat.testBit_succ]
      congr 1
      omega
    · obtain rfl : i = n := by omega
      simp

theorem aluBrev_getLsbD (a : Word) {i : Nat} (hi : i < 64) : (aluBrev a).getLsbD i = a.getLsbD (63 - i) := by
  rw [aluBrev, BitVec.getLsbD_ofNat, testBit_revBits 64 _ _ hi, BitVec.testBit_toNat, decide_eq_true hi, Bool.true_and]

/-- How many bits CLZ counts. -/
def clzCount (a : Word) : Nat := if a = 0 then 64 else 63 - ilog2 a.toNat

theorem clzCount_spec (a : Word) :
    clzCount a ≤ 64 ∧ (∀ i, i < clzCount a → a.getLsbD (63 - i) = false) ∧ (clzCount a < 64 → a.getLsbD (63 - clzCount a) = true) := by
  unfold clzCount ilog2
  split
  · next h => subst h; simp
  · next h =>
    have hn : a.toNat ≠ 0 := fun e => h (BitVec.eq_of_toNat_eq e)
    have hl : a.toNat.log2 < 64 := (Nat.log2_lt hn).2 a.isLt
    refine ⟨by omega, fun i hi => ?_, fun _ => ?_⟩
    · refine Nat.testBit_lt_two_pow (Nat.lt_log2_self.trans_le (Nat.pow_le_pow_right (by decide) ?_))
      omega
    · rw [show 63 - (63 - a.toNat.log2) = a.toNat.log2 by omega]
      exact Nat.testBit_log2 hn

/-- CTZ counts up to the lowest one bit of its `n`. -/
theorem ctzFrom_spec (n i v : Nat) :
    ∃ k, ctzFrom n i v = i + k ∧ k ≤ n ∧ (∀ j, j < k → v.testBit j = false) ∧ (k < n → v.testBit k = true) := by
  induction n generalizing i v with
  | zero => exact ⟨0, rfl, le_rfl, by simp, by simp⟩
  | succ n ih =>
    rw [ctzFrom]
    split
    · next h => exact ⟨0, rfl, by omega, by simp, fun _ => by simp [h]⟩
    · next h =>
      obtain ⟨k, he, hk, hlow, hone⟩ := ih (i + 1) (v / 2)
      refine ⟨k + 1, by omega, by omega, fun j hj => ?_, fun hkn => ?_⟩
      · cases j with
        | zero => simpa using h
        | succ j => rw [Nat.testBit_succ]; exact hlow j (by omega)
      · rw [Nat.testBit_succ]; exact hone (by omega)

theorem popcount_eq (n v : Nat) : popcount n v = ((List.range n).filter fun i => v.testBit i).length := by
  induction n generalizing v with
  | zero => rfl
  | succ n ih =>
    rw [popcount, ih, List.range_succ_eq_map, List.filter_cons, List.filter_map, Nat.testBit_zero]
    simp only [Function.comp_def, Nat.succ_eq_add_one, Nat.testBit_succ]
    rcases Nat.mod_two_eq_zero_or_one v with h | h
    · simp [h]
    · simp [h, Nat.add_comm]

theorem aluPopc_eq (a : Word) : aluPopc a = BitVec.ofNat 64 ((List.range 64).filter fun i => a.getLsbD i).length := by
  rw [aluPopc, popcount_eq]; rfl

theorem bitResults : BitResults := by
  intro s t g d a b hi ha
  have alu (f : Word → Word → Word) (b : BitVec 4) :
      ∃ s', aluOp f g d a b s = .next s' ∧ WroteReg s s' t d (f (t.reg a) (t.reg b)) := by
    unfold aluOp
    exact hi.writesReg ha rfl
  refine ⟨?_, ?_, ?_, ?_, ?_, ?_⟩
  · obtain ⟨s', he, hw⟩ := alu aluSext b
    exact ⟨s', _, he, hw, fun i => aluSext_getLsbD _ _⟩
  · obtain ⟨s', he, hw⟩ := alu aluZext b
    exact ⟨s', _, he, hw, fun i => aluZext_getLsbD _ _⟩
  · obtain ⟨s', he, hw⟩ := alu (fun x _ => aluBrev x) a
    exact ⟨s', _, he, hw, fun i => aluBrev_getLsbD _⟩
  · obtain ⟨s', he, hw⟩ := alu (fun x _ => aluClz x) a
    exact ⟨s', _, he, hw, clzCount_spec _⟩
  · obtain ⟨s', he, hw⟩ := alu (fun x _ => aluCtz x) a
    obtain ⟨k, hk, h⟩ := ctzFrom_spec 64 0 (t.reg a).toNat
    rw [aluCtz, hk, Nat.zero_add] at hw
    exact ⟨s', k, he, hw, h⟩
  · rw [← aluPopc_eq]
    exact alu (fun x _ => aluPopc x) a

/-! ### Immediates (R93) -/

theorem low6_count (c : BitVec 6) : low6 (c.setWidth 64) = c.toNat := by
  have := c.isLt
  simp only [low6, BitVec.toNat_setWidth]
  omega

theorem immediateResults : ImmediateResults := by
  intro s t g d a i c hi ha x y gives
  have imm (f : Word → Word → Word) (z : Word) {v : Word} (hv : f x z = v) :
      ∃ s', immOp f g d a z s = .next s' ∧ WroteReg s s' t d v := by
    unfold immOp
    exact hi.writesReg ha (congrArg (retireReg s t d) hv)
  refine ⟨?_, ?_, ?_, ?_, ?_, ?_, ?_, ?_⟩
  · exact imm tagAdd y (tagAdd_eq x y)
  · exact imm (· &&& ·) y rfl
  · exact imm (· ||| ·) y rfl
  · exact imm (· ^^^ ·) y rfl
  · exact imm (· * ·) y (mul_eq_ofNat x y)
  · exact imm aluShl (c.setWidth 64) (by rw [aluShl, low6_count, shiftLeft_eq_ofNat])
  · exact imm aluShr (c.setWidth 64) (by rw [aluShr, low6_count, shiftRight_eq_ofNat])
  · exact imm aluSra (c.setWidth 64) (by rw [aluSra, low6_count, sshiftRight_eq_ofInt])

/-! ### The constant window (R96) -/

/-- KLD and KLD.X complete with their entry, or some value of a poisoned one. -/
theorem constLoad_inside (s : State) (t : Thread) (d : BitVec 4) {e : Nat} (he : e < 256) :
    constLoad s t d e =
      if poisoned s (scratchKey t.core (viewBase s t.core t.part + 8 * e)) 8 then retireReg (bump s) t d (Config.poisonedWord s.nonce)
      else retireReg s t d (constEntry s t e) :=
  if_neg (by omega)

theorem constantWindow : ConstantWindow := by
  intro s t g d a k hi ha at' entry e
  have hk : k.toNat < 256 := k.isLt
  have clean {f : State → Thread → State} {n : Nat} (hf : f s t = constLoad s t d n) (hn : n < 256)
      (hp : poisoned s (at' n) 8 = false) : ∃ s', scalar g s f = .next s' ∧ WroteReg s s' t d (entry n) :=
    hi.writesReg ha (by rw [hf, constLoad_inside s t d hn, hp]; rfl)
  have poison {f : State → Thread → State} {n : Nat} (hf : f s t = constLoad s t d n) (hn : n < 256)
      (hp : poisoned s (at' n) 8 = true) :
      ∃ s' v, scalar g s f = .next s' ∧ WroteReg { s with nonce := s.nonce + 1 } s' t d v := by
    have hb : Ahead (bump s) t := ha
    exact ⟨_, _, hi.scalar_eq f, by rw [hf, constLoad_inside s t d hn, hp]; exact hb.wroteReg d _⟩
  have hkld : exec (.kld g d k) s = execKld g d k s := rfl
  have hkldX : exec (.kldX g d a k) s = execKldX g d a k s := rfl
  rw [hkld, hkldX, execKld, execKldX]
  exact ⟨clean rfl hk, clean rfl, poison rfl hk, poison rfl, fun he => hi.faults (if_pos he)⟩

/-! ### Selection, tags, segments and identity (R97 to R100, R104) -/

theorem pred_eq (t : Thread) (n : BitVec 4) : t.pred n = decide (n = 0 ∨ t.preds.getLsbD n.toNat = true) := by
  have h1 : (1 : BitVec 16).getLsbD n.toNat = decide (n = 0) := by
    revert n
    decide
  rw [Thread.pred, Thread.predWord, BitVec.getLsbD_or, h1, Bool.or_comm, Bool.decide_or, Bool.decide_eq_true]

theorem tag_eq (k : BitVec 8) (x : Word) :
    (k ++ x.setWidth 56 : BitVec (8 + 56)) = BitVec.ofNat 64 (k.toNat * 2 ^ 56 + x.toNat % 2 ^ 56) := by
  have hk := k.isLt
  apply BitVec.eq_of_toNat_eq
  rw [BitVec.toNat_append, ← Nat.shiftLeft_add_eq_or_of_lt (BitVec.isLt _)]
  simp [Nat.shiftLeft_eq]
  omega

theorem or_one_toNat (w : BitVec 16) : (w ||| 1).toNat = w.toNat / 2 * 2 + 1 := by
  apply Nat.eq_of_testBit_eq
  intro i
  cases i with
  | zero => simp
  | succ i =>
    have h : (w.toNat / 2 * 2 + 1) / 2 = w.toNat / 2 := by omega
    rw [Nat.testBit_succ, Nat.testBit_succ, h]
    simp [Nat.or_div_two]

theorem selTagPget : SelTagPget := by
  intro s t g d a b n k hi ha
  have writes (f : State → Thread → Word) {v : Word} (hv : f s t = v) :
      ∃ s', scalar g s (fun s t => retireReg s t d (f s t)) = .next s' ∧ WroteReg s s' t d v :=
    hi.writesReg ha (congrArg (retireReg s t d) hv)
  refine ⟨writes (fun _ t => if t.pred n then t.reg a else t.reg b) ?_, writes (fun _ t => k ++ (t.reg a).setWidth 56) (tag_eq k _),
    writes (fun _ t => t.predWord.setWidth 64) ?_⟩
  · simp only [pred_eq, decide_eq_true_eq]
  · rw [← or_one_toNat, BitVec.ofNat_toNat]
    rfl

theorem segaResult : SegaResult := by
  intro s t x g d a hi ha hx q off
  have hsega : exec (.sega g d a) s = execSega g d a s := rfl
  rw [hsega, execSega]
  refine ⟨fun h => hi.writesReg ha ?_, fun h => hi.faults (addr := (t.reg a).toNat) ?_⟩
  · simp only [hx]
    exact if_neg (Nat.not_le.2 h)
  · simp only [hx]
    exact if_pos h

theorem rdsResult : RdsResult := by
  intro s t g d sel n hi ha hn gives
  have reads (v : Nat) (hv : identity s t sel.toNat = v) : gives v := by
    change ∃ s', execRds g d sel s = _ ∧ _
    unfold execRds
    exact hi.writesReg ha (congrArg (fun m => retireReg s t d (BitVec.ofNat 64 m)) hv)
  refine ⟨?_, ?_, ?_, ?_, ?_, ?_, ?_, ?_, ?_⟩
  all_goals
    rintro rfl
    refine reads _ ?_
  case refine_4 => simp [identity, Thread.slot?, hn]
  case refine_5 => exact congrArg (t.part + ·) (Nat.mul_comm _ _)
  all_goals rfl

/-- Settles O2: every part is a register write or a fatal fault of the instruction, with its value worked out above. -/
theorem registerResults : Obligations.RegisterResults :=
  ⟨bitResults, immediateResults, constantWindow, selTagPget, segaResult, rdsResult⟩

end Sys2Proof.Safety
end

section
/-! SUPPORT. Comparisons and predicate operations (R101 to R104), and O4. -/

namespace Sys2Proof.Safety

open Sys2Proof Sys2Proof.Machine

/-- An integer condition of R101 has its truth value and raises no flag. -/
theorem condTest_of_intTest {c : BitVec 4} {a b : Word} {r : Bool} (h : intTest c.toNat a b = some r) : condTest c a b = ⟨r, 0⟩ := by
  unfold intTest at h
  split at h
  case h_13 => cases h
  all_goals
    cases h
    simp [condTest, bne, beq_eq_decide, *]

theorem cmpiImm_eq (c : BitVec 4) (i : BitVec 8) :
    cmpiImm c i = if c = 4 ∨ c = 5 ∨ c = 8 ∨ c = 9 then i.setWidth 64 else i.signExtend 64 := by
  unfold cmpiImm
  split
  · next h => rw [if_pos (.inl (BitVec.eq_of_toNat_eq h))]
  · next h => rw [if_pos (.inr (.inl (BitVec.eq_of_toNat_eq h)))]
  · next h => rw [if_pos (.inr (.inr (.inl (BitVec.eq_of_toNat_eq h))))]
  · next h => rw [if_pos (.inr (.inr (.inr (BitVec.eq_of_toNat_eq h))))]
  · next h4 h5 h8 h9 =>
    rw [if_neg]
    rintro (rfl | rfl | rfl | rfl)
    · exact h4 rfl
    · exact h5 rfl
    · exact h8 rfl
    · exact h9 rfl

theorem compareResults : CompareResults := by
  intro s t g p a b c m r hi ha hr
  have hc := condTest_of_intTest hr
  have cmp {b' : Bool} (hb : cmpMode m (t.pred p) r = b') : ∃ s', exec (.cmp g p a b c m) s = .next s' ∧ WrotePred s s' t p b' 0 := by
    change ∃ s', execCmp g p a b c m s = _ ∧ _
    unfold execCmp
    exact hi.writesPred (n := 0) ha (by simp only [hc, hb])
  exact ⟨by rintro rfl; exact cmp rfl, by rintro rfl; exact cmp rfl, by rintro rfl; exact cmp rfl⟩

theorem orFpx_zero (t : Thread) : t.orFpx 0 = t := by simp [Thread.orFpx]

theorem compareImmediate : CompareImmediate := by
  intro s t g p a c i r hi ha hr
  rw [← cmpiImm_eq] at hr
  change ∃ s', execCmpi g p a c i s = _ ∧ _
  unfold execCmpi
  exact hi.writesPred (n := 0) ha (by rw [condTest_of_intTest hr, orFpx_zero])

theorem predicateLogic : PredicateLogic := by
  intro s t g p q r hi ha gives
  have plog (f : Bool → Bool → Bool) (r : BitVec 4) :
      ∃ s', plogOp f g p q r s = .next s' ∧ WrotePred s s' t p (f (t.pred q) (t.pred r)) 0 := by
    unfold plogOp
    exact hi.writesPred (n := 0) ha (by rw [orFpx_zero])
  exact ⟨plog (· && ·) r, plog (· || ·) r, plog (· != ·) r, plog (fun x y => x && !y) r, plog (fun x _ => !x) q, plog (fun x _ => x) q⟩

theorem pred_setPreds (t : Thread) (w : BitVec 16) (q : BitVec 4) :
    (t.setPreds w).pred q = if q = 0 then true else w.getLsbD q.toNat := by
  rw [pred_eq, Thread.setPreds]
  by_cases hq : q = 0
  · simp [hq]
  · have h1 : (1 : BitVec 16).getLsbD q.toNat = decide (q = 0) := by
      revert q
      decide
    have hn : q.toNat ≠ 0 := fun e => hq (BitVec.eq_of_toNat_eq e)
    simp [hn]

theorem predicateWord : PredicateWord := by
  intro s t g a hi ha
  have ha' : Ahead s (t.setPreds ((t.reg a).setWidth 16)) := ha
  have hpset : exec (.pset g a) s = execPset g a s := rfl
  rw [hpset, execPset]
  refine ⟨_, stepped (t.setPreds ((t.reg a).setWidth 16)), hi.scalar_eq _, ?_, rfl, fun q => ?_⟩
  · rw [ha'.retire_eq]
    exact onlyThread_setThread _ _
  · refine (pred_setPreds t _ q).trans ?_
    have hq : q.toNat < 16 := q.isLt
    simp [hq]

/-- Settles O4: each word ends by writing predicates, with the truth value of its condition or operation. -/
theorem comparisons : Obligations.Comparisons := ⟨compareResults, compareImmediate, predicateLogic, predicateWord⟩

end Sys2Proof.Safety
end

section
/-! SUPPORT. The checks of an access in their order (R23 to R25), and O11. -/

namespace Sys2Proof.Safety

open Sys2Proof Sys2Proof.Machine

/-- The rights that R23 asks of a segment for an access to device address `da`. -/
def Wants (g : Seg) (da : Nat) (q : Rights) : Prop :=
  (q.r = true → g.r = true) ∧ (q.w = true → g.w = true) ∧ (q.m = true → g.m = true) ∧ (q.a = true → g.a = true)
    ∧ (q.w = true → q.a = false → addrClass da = 2 → g.x = true)

/-- The two checks of rights in the model refuse exactly what lacks a right. -/
theorem wants_iff (g : Seg) (da : Nat) (q : Rights) :
    Wants g da q ↔ ((q.r && !g.r) || (q.w && !g.w) || (q.m && !g.m) || (q.a && !g.a)) = false
      ∧ (q.w && !q.a && addrClass da == 2 && !g.x) = false := by
  simp only [Wants, Bool.or_eq_false_iff, Bool.and_eq_false_imp, Bool.not_eq_false', Bool.and_eq_true, beq_iff_eq, Bool.not_eq_true',
    and_imp, and_assoc]

theorem segCheck_noRight {x : Ctx} {a : Word} {z n : Nat} {q : Rights}
    (h : ¬Wants (segOf x a) (((segOf x a).base + a.toNat % 2 ^ 53) % 2 ^ 56) q) : segCheck x a z n q = .error 0x02 := by
  rw [wants_iff, not_and_or, Bool.not_eq_false, Bool.not_eq_false] at h
  dsimp only [segCheck]
  split
  · rfl
  · rcases h with h | h
    · rw [if_pos h]
    · rw [if_pos h, ite_self]

theorem segCheck_granted {x : Ctx} {a : Word} {z n : Nat} {q : Rights} (hl : a.toNat % 2 ^ 53 + z ≤ (segOf x a).limit)
    (h : Wants (segOf x a) (((segOf x a).base + a.toNat % 2 ^ 53) % 2 ^ 56) q) :
    segCheck x a z n q = if ((segOf x a).base + a.toNat % 2 ^ 53) % 2 ^ 56 % n ≠ 0 then .error 0x03
      else .ok (((segOf x a).base + a.toNat % 2 ^ 53) % 2 ^ 56) := by
  obtain ⟨h1, h2⟩ := (wants_iff _ _ q).1 h
  dsimp only [segCheck]
  rw [if_neg (Nat.not_lt.2 hl), h1, h2]
  rfl

/-- Settles O11: the limit comes first, then the rights (`segCheck_noRight`), and with both alignment decides (`segCheck_granted`). -/
theorem segmentChecks : Obligations.SegmentChecks := by
  unfold Obligations.SegmentChecks
  intro x a z n q g off da wants
  refine ⟨fun h => if_pos h, segCheck_noRight, fun hl hw hd => ?_, fun hl hw hd => ?_⟩
  · rw [segCheck_granted hl hw, if_pos hd]
  · rw [segCheck_granted hl hw, if_neg (not_not_intro hd)]

end Sys2Proof.Safety
end

section
/-! SUPPORT. What putting packets and events on their way leaves as it was (R116, R333, R342): memory, contexts, threads and the time stay,
and what is under way can only be delayed. -/

namespace Sys2Proof.Safety

open Sys2Proof Sys2Proof.Machine

/-! ### Pending events can only be delayed -/

/-- Event `q` is event `p`, perhaps later. -/
def Delayed (p q : Pend) : Prop := q.what = p.what ∧ q.who = p.who ∧ p.due ≤ q.due

/-- Every event of one list is in the other, perhaps later. -/
def PendGrows (l l' : List Pend) : Prop := ∀ p ∈ l, ∃ q ∈ l', Delayed p q

theorem Delayed.refl (p : Pend) : Delayed p p := ⟨rfl, rfl, le_rfl⟩

theorem Delayed.trans {p q r : Pend} (h : Delayed p q) (h' : Delayed q r) : Delayed p r :=
  ⟨h'.1.trans h.1, h'.2.1.trans h.2.1, h.2.2.trans h'.2.2⟩

theorem PendGrows.of_subset {l l' : List Pend} (h : l ⊆ l') : PendGrows l l' := fun p hp => ⟨p, h hp, .refl p⟩

theorem PendGrows.trans {l l' l'' : List Pend} (h : PendGrows l l') (h' : PendGrows l' l'') : PendGrows l l'' := fun p hp => by
  obtain ⟨q, hq, hpq⟩ := h p hp
  obtain ⟨r, hr, hqr⟩ := h' q hq
  exact ⟨r, hr, hpq.trans hqr⟩

theorem le_keyDue (key d : Nat) (l : List Pend) : d ≤ keyDue key d l := by
  induction l generalizing d with
  | nil => exact le_rfl
  | cons p l ih =>
    refine le_trans ?_ (ih _)
    split
    · next h => exact (of_decide_eq_true (Bool.and_eq_true_iff.1 h).2).le
    · exact le_rfl

theorem contend_grows (nonce n : Nat) (done l : List Pend) : PendGrows (done ++ l) (contend nonce n done l) := by
  induction l generalizing n done with
  | nil => exact .of_subset (by simp [contend])
  | cons p l ih =>
    refine PendGrows.trans ?_ (ih _ _)
    intro q hq
    rcases List.mem_append.1 hq with hq | hq
    · exact ⟨q, by simp [hq], .refl q⟩
    · rcases List.mem_cons.1 hq with rfl | hq
      · refine ⟨_, List.mem_append_left _ (List.mem_append_right _ (List.mem_singleton_self _)), rfl, rfl, ?_⟩
        have hd : q.due ≤ (match q.trip with
            | some t => q.due + Config.netExtra nonce n % (slack t.born q.due + 1)
            | none => q.due) := by
          split
          · exact Nat.le_add_right _ _
          · exact le_rfl
        dsimp only
        split
        · exact hd
        · exact hd.trans (le_keyDue _ _ _)
      · exact ⟨q, by simp [hq], .refl q⟩

/-! ### Packets change nothing else -/

/-- Only packets, events and what the network keeps about them have changed. -/
structure PacketsOnly (s s' : State) : Prop where
  quiet : Quiet s s'
  threads : s'.threads = s.threads
  sets : s'.sets = s.sets
  pend : PendGrows s.pend s'.pend

theorem Quiet.refl (s : State) : Quiet s s := ⟨rfl, rfl, rfl, rfl, rfl, rfl⟩

theorem Quiet.trans {s s' s'' : State} (h : Quiet s s') (h' : Quiet s' s'') : Quiet s s'' := by
  obtain ⟨hm, hp, hc, hr, hd, hy⟩ := h
  obtain ⟨hm', hp', hc', hr', hd', hy'⟩ := h'
  refine ⟨hm'.trans hm, hp'.trans hp, hc'.trans hc, hr'.trans hr, ?_, hy'.trans hy⟩
  rw [← hd, ← hd']

theorem PacketsOnly.refl (s : State) : PacketsOnly s s := ⟨.refl s, rfl, rfl, .of_subset fun _ h => h⟩

theorem PacketsOnly.trans {s s' s'' : State} (h : PacketsOnly s s') (h' : PacketsOnly s' s'') : PacketsOnly s s'' :=
  ⟨h.quiet.trans h'.quiet, h'.threads.trans h.threads, h'.sets.trans h.sets, h.pend.trans h'.pend⟩

theorem PacketsOnly.getThread {s s' : State} (h : PacketsOnly s s') (k : Nat) : getThread s' k = getThread s k := by
  rw [Machine.getThread, h.threads]; rfl

theorem packetsOnly_post (s : State) (n k : Nat) (i : Instr) (w : Focus) : PacketsOnly s (post s n k i w) :=
  ⟨.refl s, rfl, rfl, .of_subset (List.subset_append_left _ _)⟩

theorem packetsOnly_setCore (s : State) (c : Nat) (x : CoreSt) : PacketsOnly s (setCore s c x) :=
  ⟨.refl s, rfl, rfl, .of_subset fun _ h => h⟩

theorem packetsOnly_setPart (s : State) (c p : Nat) (x : Part) : PacketsOnly s (setPart s c p x) :=
  ⟨.refl s, rfl, rfl, .of_subset fun _ h => h⟩

theorem packetsOnly_bump (s : State) : PacketsOnly s (bump s) := ⟨.refl s, rfl, rfl, .of_subset fun _ h => h⟩

theorem packetsOnly_enterLine (s : State) (core line : Nat) : PacketsOnly s (enterLine s core line) := packetsOnly_setCore _ _ _

theorem packetsOnly_leaveLine (s : State) (core line : Nat) : PacketsOnly s (leaveLine s core line) := packetsOnly_setCore _ _ _

theorem packetsOnly_wakeRoute (t : Trip) (start : Nat) (l : List (Nat × CoreSt)) (s : State) : PacketsOnly s (wakeRoute t start l s) := by
  induction l generalizing s with
  | nil => exact .refl s
  | cons e l ih =>
    obtain ⟨c, x⟩ := e
    refine .trans ?_ (ih _)
    split
    · exact packetsOnly_post _ _ _ _ _
    · exact .refl s

theorem packetsOnly_sendOn (y : Bool) (s : State) (wait src dst payload key : Nat) (i : Instr) (w : Focus) :
    PacketsOnly s (sendOn y s wait src dst payload key i w) := by
  have h1 : PacketsOnly s { s with pend := if inFlight s then contend s.nonce 1 [] s.pend else s.pend } := by
    refine ⟨.refl s, rfl, rfl, ?_⟩
    split
    · exact contend_grows _ _ [] _
    · exact .of_subset fun _ h => h
  exact (h1.trans (packetsOnly_wakeRoute ⟨src, dst, s.cycle + wait, y⟩ (injectAt (s.cycle + wait)) s.cores _)).trans
    ⟨.refl _, rfl, rfl, .of_subset (List.subset_append_left _ _)⟩

theorem packetsOnly_putOnLink (s : State) (l : Nat) (k : Link) (w : Waiting) : PacketsOnly s (putOnLink s l k w) := by
  dsimp only [putOnLink]
  split
  · exact ⟨.refl _, rfl, rfl, .of_subset (List.subset_append_left _ _)⟩
  · exact ⟨.refl _, rfl, rfl, .of_subset fun _ h => h⟩

theorem packetsOnly_routeOut (s : State) (w : Waiting) : PacketsOnly s (routeOut s w) := by
  unfold routeOut
  split
  · exact (packetsOnly_putOnLink _ _ _ _).trans (packetsOnly_bump _)
  · exact ⟨⟨rfl, rfl, rfl, rfl, rfl, rfl⟩, rfl, rfl, .of_subset fun _ h => h⟩

theorem packetsOnly_emit (s : State) (d : Nat) (i : Instr) : PacketsOnly s (emit s d i) := packetsOnly_routeOut _ _

theorem packetsOnly_sendAccess (s : State) (a : Access) : PacketsOnly s (sendAccess s a) := by
  have go (dst : Nat) : PacketsOnly s (sendOn (lineRoute (if counted a then enterLine s a.core (lineOf s a.ctx a.da) else s) a.core
      (lineOf s a.ctx a.da)) (if counted a then enterLine s a.core (lineOf s a.ctx a.da) else s) 0 a.core dst a.payload
      (lineKey s a.ctx a.core a.da) (accessStep a)) := by
    refine .trans ?_ (packetsOnly_sendOn _ _ _ _ _ _ _ _ _)
    split
    · exact packetsOnly_enterLine _ _ _
    · exact .refl s
  dsimp only [sendAccess]
  split
  · split
    · exact packetsOnly_post _ _ _ _ _
    · exact go _
  · split
    · exact packetsOnly_post _ _ _ _ _
    · exact go _
  · refine .trans ?_ (packetsOnly_post _ _ _ _ _)
    split
    · exact packetsOnly_enterLine _ _ _
    · exact .refl s
  · exact go _

/-! ### What was sent is under way -/

theorem Sends.before {s s1 s' : State} {i : Instr} (hp : PendGrows s.pend s1.pend) (hc : s1.cycle = s.cycle) (h : Sends s1 s' i) :
    Sends s s' i :=
  ⟨hp.trans h.1, by rw [← hc]; exact h.2⟩

theorem Sends.after {s s1 s' : State} {i : Instr} (h : Sends s s1 i) (hp : PendGrows s1.pend s'.pend) : Sends s s' i := by
  obtain ⟨hl, p, hp1, hw, hd⟩ := h
  obtain ⟨q, hq, hpq⟩ := hp p hp1
  exact ⟨PendGrows.trans hl hp, q, hq, hpq.1.trans hw, hd.trans hpq.2.2⟩

theorem post_sends (s : State) {n : Nat} (k : Nat) (i : Instr) (w : Focus) (hn : s.cycle ≤ n) : Sends s (post s n k i w) i := by
  refine ⟨PendGrows.of_subset (List.subset_append_left _ _), _, List.mem_append_right _ (List.mem_singleton_self _), rfl, ?_⟩
  dsimp only
  split
  · exact hn
  · exact hn.trans (le_keyDue _ _ _)

theorem le_injectAt (c : Nat) : c ≤ injectAt c := by
  unfold injectAt
  split <;> omega

theorem sendOn_sends (y : Bool) (s : State) (wait src dst payload key : Nat) (i : Instr) (w : Focus) :
    Sends s (sendOn y s wait src dst payload key i w) i := by
  refine ⟨(packetsOnly_sendOn y s wait src dst payload key i w).pend, _, List.mem_append_right _ (List.mem_singleton_self _), rfl, ?_⟩
  have hi := le_injectAt (s.cycle + wait)
  dsimp only
  split
  · omega
  · exact le_trans (by omega) (le_keyDue _ _ _)

theorem sendAccess_sends (s : State) (a : Access) : Sends s (sendAccess s a) (accessStep a) := by
  have go (dst : Nat) : Sends s (sendOn (lineRoute (if counted a then enterLine s a.core (lineOf s a.ctx a.da) else s) a.core
      (lineOf s a.ctx a.da)) (if counted a then enterLine s a.core (lineOf s a.ctx a.da) else s) 0 a.core dst a.payload
      (lineKey s a.ctx a.core a.da) (accessStep a)) (accessStep a) := by
    refine .before ?_ ?_ (sendOn_sends _ _ _ _ _ _ _ _ _)
    · split
      · exact (packetsOnly_enterLine _ _ _).pend
      · exact .of_subset fun _ h => h
    · split <;> rfl
  dsimp only [sendAccess]
  split
  · split
    · exact post_sends _ _ _ _ le_rfl
    · exact go _
  · split
    · exact post_sends _ _ _ _ le_rfl
    · exact go _
  · split
    · exact .before (packetsOnly_enterLine _ _ _).pend rfl (post_sends _ _ _ _ (Nat.le_succ _))
    · exact post_sends _ _ _ _ (Nat.le_succ _)
  · exact go _

theorem partCount_congr {s s' : State} (h : s'.sets = s.sets) (core : Nat) : partCount s' core = partCount s core := by
  simp only [partCount, psetOf, h]

theorem inSlice_congr {s s' : State} (h : s'.sets = s.sets) (core p a : Nat) : inSlice s' core p a = inSlice s core p a := by
  have hs : sliceSize s' core = sliceSize s core := by unfold sliceSize; rw [partCount_congr h]
  unfold inSlice sliceBase
  rw [hs]

theorem PacketsOnly.ahead {s s' : State} {t : Thread} (h : PacketsOnly s s') (ha : Ahead s t) : Ahead s' t :=
  ⟨ha.1, (inSlice_congr h.sets _ _ _).trans ha.2⟩

/-! ### One thread beside packets -/

/-- Thread `t` is now `u`; beside it only packets and the tables of partitions and queues have changed. -/
structure Touches (s s' : State) (t u : Thread) : Prop where
  this : getThread s' t.id = some u
  others : OtherThreads s s' t
  quiet : Quiet s s'
  pend : PendGrows s.pend s'.pend

theorem Touches.refl {s : State} {t : Thread} (h : getThread s t.id = some t) : Touches s s t t :=
  ⟨h, fun _ _ => rfl, .refl s, .of_subset fun _ h => h⟩

theorem Touches.trans {s s' s'' : State} {t u v : Thread} (h : Touches s s' t u) (hid : u.id = t.id) (h' : Touches s' s'' u v) :
    Touches s s'' t v where
  this := hid ▸ h'.this
  others k hk := (h'.others k (hid ▸ hk)).trans (h.others k hk)
  quiet := h.quiet.trans h'.quiet
  pend := h.pend.trans h'.pend

theorem Touches.after {s s' s'' : State} {t u : Thread} (h : Touches s s' t u) (hp : PacketsOnly s' s'') : Touches s s'' t u where
  this := (hp.getThread _).trans h.this
  others k hk := (hp.getThread k).trans (h.others k hk)
  quiet := h.quiet.trans hp.quiet
  pend := h.pend.trans hp.pend

theorem PacketsOnly.touches {s s' s'' : State} {t u : Thread} (hp : PacketsOnly s s') (h : Touches s' s'' t u) : Touches s s'' t u where
  this := h.this
  others k hk := (h.others k hk).trans (hp.getThread k)
  quiet := hp.quiet.trans h.quiet
  pend := hp.pend.trans h.pend

theorem touches_setThread (s : State) (t u : Thread) (hid : u.id = t.id) : Touches s (setThread s u) t u where
  this := hid ▸ getThread_setThread s u
  others k hk := getThread_setThread_other s u k (hid ▸ hk)
  quiet := .refl s
  pend := .of_subset fun _ h => h

theorem touches_modThread {s : State} {t : Thread} (h : getThread s t.id = some t) (f : Thread → Thread) :
    Touches s (modThread s t.id f) t (f t) where
  this := by rw [getThread_modThread, if_pos rfl, h]; rfl
  others k hk := by rw [getThread_modThread, if_neg hk]
  quiet := by rw [modThread_frame]; exact .refl s
  pend := by rw [modThread_frame]; exact .of_subset fun _ h => h

end Sys2Proof.Safety
end

section
/-! SUPPORT. NOP, the fences and what acknowledges the accesses that they wait for (R67, R122, R130), and O10. -/

namespace Sys2Proof.Safety

open Sys2Proof Sys2Proof.Machine

theorem nopResult : NopResult := by
  intro s t g hi ha
  have hnop : exec (.nop g) s = execNop g s := rfl
  rw [hnop, execNop]
  exact hi.steps ha rfl

/-! ### FENCE.D before the rest of an instruction -/

theorem fenced_counted {s : State} {t : Thread} (k : State → Thread → State) (h : t.counted = true) : fenced s t k = k s t := by
  simp [fenced, h]

/-- A fence with nothing to wait for. -/
theorem Fenced.fenced_eq {s : State} {t : Thread} (h : Fenced t) (k : State → Thread → State) : fenced s t k = k s t := by
  obtain ⟨hp, hu, ho⟩ := h
  cases hc : t.counted <;> simp [fenced, hc, hp, hu, ho]

/-- A fence with local accesses unacknowledged. -/
theorem fenced_waits {s : State} {t : Thread} (k : State → Thread → State) (hc : t.counted = false) (hp : t.peers = [])
    (hu : t.uac ≠ 0) : fenced s t k = wait s t (.until .uacZero) := by
  simp [fenced, hc, hp, hu]

/-- A word that ends waiting unparked. -/
theorem Issues.holds {s : State} {t : Thread} {g : BitVec 5} {f : State → Thread → State} (hi : Issues s t g) {c : Cond}
    (hf : f s t = wait s t (.until c)) : ∃ s', scalar g s f = .next s' ∧ OnlyThread s s' { t with wait := .until c } :=
  ⟨f s t, hi.scalar_eq f, by rw [hf]; exact onlyThread_setThread s { t with wait := .until c }⟩

theorem fencesComplete : FencesComplete := by
  intro s t g hi ha hp ho hc idle done held
  have hD : exec (.fenceD g) s = execFenceD g s := rfl
  have hT : exec (.fenceT g) s = execFenceT g s := rfl
  have hA : exec (.fenceA g) s = execFenceA g s := rfl
  have hI : exec (.fenceI g) s = execFenceI g s := rfl
  simp only [done, held, hD, hT, hA, hI, execFenceD, execFenceT, execFenceA, execFenceI]
  have fence (k : State → Thread → State) (hu : t.uac = 0) : fenced s t k = k s t := Fenced.fenced_eq ⟨hp, hu, ho⟩ k
  refine ⟨fun hu => hi.steps ha (fence _ hu), fun hu => hi.holds (fenced_waits _ hc hp hu), fun hT => hi.steps ha (if_pos hT),
    fun hT => hi.holds (if_neg (by simp [idle] at hT; simp [hT])), fun hu hT => hi.steps ha ((fence _ hu).trans (if_pos hT)),
    fun hu => hi.holds (fenced_waits _ hc hp hu), fun hu hT => hi.holds ((fence _ hu).trans (if_neg (by simp [idle] at hT; simp [hT]))),
    fun hu => hi.steps ha (if_pos hu), fun hu => hi.holds (if_neg hu)⟩

/-! ### Acknowledgements -/

/-- An access of a class other than 0x8 is settled: sw.UAC falls by one. -/
theorem settle_eq {s : State} {t : Thread} {a : Access} (ht : getThread s t.id = some t) (ha : addrClass a.da ≠ 8) :
    settle s t.id a = setThread (clearLine s a) { t with uac := t.uac - 1 } := by
  have h : getThread (clearLine s a) t.id = some t := by
    unfold clearLine
    split <;> exact ht
  rw [settle]
  simp only [h]
  exact if_pos ha

theorem packetsOnly_clearLine (s : State) (a : Access) : PacketsOnly s (clearLine s a) := by
  unfold clearLine
  split
  · exact packetsOnly_leaveLine _ _ _
  · exact .refl s

theorem settle_touches {s : State} {t : Thread} {a : Access} (ht : getThread s t.id = some t) (ha : addrClass a.da ≠ 8) :
    Touches s (settle s t.id a) t { t with uac := t.uac - 1 } := by
  rw [settle_eq ht ha]
  exact (packetsOnly_clearLine s a).touches (touches_setThread _ t _ rfl)

/-- Settling a store into an instruction store counts it down for FENCE.I. -/
theorem settleCode_touches {s : State} {t : Thread} (ht : getThread s t.id = some t) (a : Access) :
    ∃ n, Touches s (settleCode s t.id a) t { t with codeUac := n } := by
  unfold settleCode
  split
  · refine ⟨t.codeUac - 1, ?_⟩
    have h1 := packetsOnly_setPart s a.core a.part
      { getPart s a.core a.part with codeOut := (getPart s a.core a.part).codeOut.filter fun c => c.2 != a.op }
    have h2 := h1.touches (touches_modThread ((h1.getThread _).trans ht) fun t => { t with codeUac := t.codeUac - 1 })
    dsimp only
    split
    · exact h2
    · exact h2.after (packetsOnly_post _ _ _ _ _)
  · exact ⟨t.codeUac, .refl ht⟩

theorem linkPushed_eq {s : State} {u : Thread} {tid : Nat} (op : Nat) (hu : getThread s tid = some u) (hw : ∀ l, u.wait ≠ .link l) :
    linkPushed s tid op = s := by
  unfold linkPushed
  rw [hu]
  dsimp only
  split
  · next l hl => exact absurd hl (hw l)
  · rfl

theorem toLive_alive {s : State} {t : Thread} {tid : Nat} (ht : getThread s tid = some t) (h : Alive s t) (k : State → Thread → State) :
    toLive s tid k = k s t := by
  unfold Alive at h
  simp [toLive, ht, h]

/-- An outcome outside the order log is delivered at once. -/
theorem finish_unlogged {s : State} {t : Thread} {x : Ctx} (hx : getCtx s t.ctx = some x) (hl : logging x = false) (r : LogRec)
    (c : Completion) : finish s t r c = complete s t c := by
  simp [finish, hx, hl]

/-- R33, R115: the acknowledgement of a thread's access. -/
theorem acknowledgement_touches {s : State} {t : Thread} {a : Access} (ht : getThread s t.id = some t) (hwho : a.who = .thread t.id)
    (ha : addrClass a.da ≠ 8) (hw : ∀ l, t.wait ≠ .link l) :
    ∃ s' n, exec (.acknowledgement a .ok) s = .next s' ∧ Touches s s' t { t with uac := t.uac - 1, codeUac := n } := by
  have h1 := settle_touches ht ha
  obtain ⟨n, h2⟩ := settleCode_touches (t := { t with uac := t.uac - 1 }) h1.this a
  have hack : exec (.acknowledgement a .ok) s = execAcknowledgement a .ok s := rfl
  refine ⟨settleCode (settle s t.id a) t.id a, n, ?_, h1.trans rfl h2⟩
  simp only [hack, execAcknowledgement, hwho, ht, Option.isNone_some, Bool.false_and, Bool.false_eq_true, if_false, ackFault]
  exact congrArg _ (linkPushed_eq _ h2.this hw)

/-- R122, R125: with its access settled, the reply to an FMRG writes the old value. -/
theorem fetchMergeReply_eq {s : State} {u : Thread} {x : Ctx} {a : Access} {tid f q o da : Nat} {d : BitVec 4} {wide : Bool} (old : Word)
    (hwho : a.who = .thread tid) (ht : (getThread s tid).isNone = false) (hu : getThread (settle s tid a) tid = some u)
    (hl : Alive (settle s tid a) u) (hop : u.op = a.op) (hw : u.wait = .fetch d o wide da none)
    (hx : getCtx (settle s tid a) u.ctx = some x) (hlog : logging x = false) (ha : Ahead (settle s tid a) u) :
    exec (.fetchMergeReply a old f .ok q) s
      = .next (setThread (settle s tid a) (stepped (u.apply { r1 := d, v1 := fetchValue wide old, flags := f }))) := by
  have ha' : Ahead (settle s tid a) (u.apply { r1 := d, v1 := fetchValue wide old, flags := f }) := ha
  have hexec : exec (.fetchMergeReply a old f .ok q) s = execFetchMergeReply a old f .ok q s := rfl
  rw [hexec, execFetchMergeReply, hwho]
  simp only [ht, Bool.false_eq_true, if_false, toLive_alive hu hl, hw, ackFault]
  rw [if_neg (not_not_intro hop), finish_unlogged hx hlog]
  exact congrArg _ ha'.retire_eq

theorem acknowledged : Acknowledged := by
  intro s t x a old f q o da d wide ht hwho ha
  refine ⟨fun hw => ?_, fun hl hw hop hah hx hlog => ?_⟩
  · obtain ⟨s', n, he, h⟩ := acknowledgement_touches ht hwho ha hw
    exact ⟨s', _, he, h.this, rfl, ⟨rfl, rfl, rfl, rfl, rfl, rfl, rfl⟩, rfl, rfl, h.others, h.quiet⟩
  · have hs := settle_eq ht ha
    have h1 := settle_touches ht ha
    have hal : Alive (settle s t.id a) { t with uac := t.uac - 1 } := by
      rw [hs]
      unfold clearLine
      split <;> exact hl
    have hx' : getCtx (settle s t.id a) t.ctx = some x := by
      rw [getCtx, h1.quiet.2.2.1]
      exact hx
    have hah' : Ahead (settle s t.id a) { t with uac := t.uac - 1 } := by
      rw [hs]
      exact (packetsOnly_clearLine s a).ahead hah
    have h2 := h1.trans rfl (touches_setThread _ _
      (stepped (Thread.apply { t with uac := t.uac - 1 } { r1 := d, v1 := fetchValue wide old, flags := f })) rfl)
    exact ⟨_, _, fetchMergeReply_eq old hwho (by rw [ht]; rfl) h1.this hal hop hw hx' hlog hah', h2.this, rfl, rfl, rfl, rfl, rfl, rfl,
      h2.others, h2.quiet⟩

/-- Settles O10: each fence retires or waits by `fenced`, and an acknowledgement changes its thread alone (`Touches`). -/
theorem fences : Obligations.Fences := ⟨nopResult, fencesComplete, acknowledged⟩

end Sys2Proof.Safety
end

section
/-! SUPPORT. Stores and merges leave their core (R33, R114, R122, R128, R345), and O12. -/

namespace Sys2Proof.Safety

open Sys2Proof Sys2Proof.Machine

/-! ### The check of a closed fence interval (R345) -/

theorem packetsOnly_sendCounts (t : Thread) (l : List Peer) (s : State) : PacketsOnly s (sendCounts s t l) := by
  induction l generalizing s with
  | nil => exact .refl s
  | cons p l ih =>
    refine .trans ?_ (ih _)
    split
    · exact packetsOnly_post _ _ _ _ _
    · exact packetsOnly_emit _ _ _

theorem askClosed_touches {s : State} {t : Thread} (ht : getThread s t.id = some t) (up : Bool) (iv : Nat) :
    ∃ l, Touches s (askClosed up s t iv) t { t with peers := l } := by
  dsimp only [askClosed]
  split
  · exact ⟨t.peers, .refl ht⟩
  · refine ⟨_, ((touches_setThread s t _ ?_).after (packetsOnly_sendCounts _ _ _)).after (packetsOnly_post _ _ _ _ _)⟩
    rfl

theorem checkClosed_touches {s : State} {t : Thread} (ht : getThread s t.id = some t) (iv : Nat) :
    ∃ l, Touches s (checkClosed s t.id iv) t { t with peers := l } := by
  unfold checkClosed
  rw [ht]
  dsimp only
  split
  · exact ⟨t.peers, .refl ht⟩
  · have h1 : PacketsOnly s (after s 262144 .fenceCountTimeout (.op t.id (checkOp iv))) := packetsOnly_post _ _ _ _ _
    obtain ⟨l, h2⟩ := askClosed_touches ((h1.getThread _).trans ht) false iv
    exact ⟨l, h1.touches h2⟩

/-! ### Issue -/

/-- A thread whose store or merge has just left: it is counted in sw.UAC. -/
structure Counts (t u : Thread) : Prop where
  id : u.id = t.id
  keeps : KeepsRegs t u
  uac : u.uac = t.uac + 1
  pc : u.pc = t.pc
  core : u.core = t.core
  part : u.part = t.part
  mism : u.mism = t.mism

theorem countPeer_eq (t : Thread) (da : Nat) : ∃ iv l, countPeer t da = { t with interval := iv, peers := l } := by
  dsimp only [countPeer]
  split
  · exact ⟨t.interval, t.peers, rfl⟩
  · split
    · exact ⟨t.interval, _, rfl⟩
    · split
      · exact ⟨_, _, rfl⟩
      · exact ⟨t.interval, _, rfl⟩

theorem noteSkid_eq (t : Thread) (bad : Bool) : ∃ n, t.noteSkid bad = { t with skid := n } := by
  unfold Thread.noteSkid
  split
  · exact ⟨_, rfl⟩
  · exact ⟨t.skid, rfl⟩

theorem counts_issued (t : Thread) (da code : Nat) (bad : Bool) :
    Counts t ((countPeer { t with uac := t.uac + 1, codeUac := t.codeUac + code, op := t.op + 1, wait := .ready } da).noteSkid bad) := by
  obtain ⟨iv, l, h1⟩ := countPeer_eq { t with uac := t.uac + 1, codeUac := t.codeUac + code, op := t.op + 1, wait := .ready } da
  obtain ⟨n, h2⟩ := noteSkid_eq (countPeer { t with uac := t.uac + 1, codeUac := t.codeUac + code, op := t.op + 1, wait := .ready } da) bad
  rw [h2, h1]
  exact ⟨rfl, ⟨rfl, rfl, rfl, rfl, rfl, rfl, rfl⟩, rfl, rfl, rfl, rfl, rfl⟩

/-- A write that may leave: not into the own constant window, wide enough for an instruction store, with room in the counts. -/
def MayLeave (s : State) (t : Thread) (da z : Nat) : Prop := ownWindow s t da = false ∧ (addrClass da = 2 → 4 ≤ z) ∧ storeRoom s t da = true

/-- A counted thread whose access is sent, whose instruction `k` completes by changing the thread alone. -/
theorem leaves_of_counts {s s1 : State} {t u : Thread} {a : Access} {k : State → Thread → State} {da z iv : Nat} {act : Act}
    (h1 : PacketsOnly s s1) (hu : Counts t u) (ha : a.who = .thread t.id ∧ a.ctx = t.ctx ∧ a.part = t.part ∧ a.core = t.core
      ∧ a.pc = t.pc.toNat ∧ a.da = da ∧ a.z = z ∧ a.act = act) {f : Thread → Thread}
    (hf : ∀ u, (f u).id = u.id ∧ (f u).uac = u.uac ∧ KeepsRegs u (f u))
    (hk : ∀ s', s'.sets = s.sets → k s' u = setThread s' (f u)) :
    ∃ v, Leaves s (checkClosed (k (sendAccess (setThread s1 u) a) u) t.id iv) t v da z act ∧ v.wait = (f u).wait ∧ v.pc = (f u).pc := by
  obtain ⟨hid, huac, hregs⟩ := hf u
  have hs := packetsOnly_sendAccess (setThread s1 u) a
  rw [hk _ (hs.sets.trans h1.sets)]
  have h2 : Touches s1 (sendAccess (setThread s1 u) a) t u := (touches_setThread s1 t u hu.id).after hs
  have h3 := h1.touches (h2.trans hu.id (touches_setThread _ u (f u) hid))
  have hft : (f u).id = t.id := hid.trans hu.id
  obtain ⟨l, h4⟩ := checkClosed_touches (getThread_setThread (sendAccess (setThread s1 u) a) (f u)) iv
  rw [hft] at h4
  have h := h3.trans hft h4
  refine ⟨_, ⟨h.this, h.others, h.quiet, ?_, huac.trans hu.uac, a, ?_, ha⟩, rfl, rfl⟩
  · obtain ⟨e1, e2, e3, e4, e5, e6, e7⟩ := hregs
    obtain ⟨d1, d2, d3, d4, d5, d6, d7⟩ := hu.keeps
    exact ⟨e1.trans d1, e2.trans d2, e3.trans d3, e4.trans d4, e5.trans d5, e6.trans d6, e7.trans d7⟩
  · exact ((sendAccess_sends (setThread s1 u) a).before (s := s) h1.pend h1.quiet.2.2.2.2.2).after h4.pend

/-- R33, R114, R115: a write that may leave is counted and on its way, and `k`, which only changes the thread, completes the instruction. -/
theorem issueWrite_leaves {s : State} {t : Thread} {da z : Nat} {act : Act} {k : State → Thread → State} (hfree : MayLeave s t da z)
    {f : Thread → Thread} (hf : ∀ u, (f u).id = u.id ∧ (f u).uac = u.uac ∧ KeepsRegs u (f u))
    (hk : ∀ s' u, s'.sets = s.sets → Counts t u → k s' u = setThread s' (f u)) :
    ∃ u v, Counts t u ∧ Leaves s (issueWrite s t da z act k) t v da z act ∧ v.wait = (f u).wait ∧ v.pc = (f u).pc := by
  obtain ⟨hw, hz, hr⟩ := hfree
  have hz' : ¬(decide (addrClass da = 2) && decide (z < 4)) = true := by
    simp only [Bool.and_eq_true, decide_eq_true_eq, not_and]
    intro h
    exact Nat.not_lt.2 (hz h)
  dsimp only [issueWrite]
  rw [hw, hr, if_neg Bool.false_ne_true, if_neg hz', if_neg (by decide)]
  have hu := counts_issued t da (b2n (addrClass da == 2 && isStore act))
  refine ⟨_, _, hu _, (leaves_of_counts ?_ (hu _) ?_ hf fun s' hs => hk s' _ hs (hu _)).choose_spec⟩
  · split
    · exact (packetsOnly_setPart _ _ _ _).trans (packetsOnly_bump _)
    · exact .refl s
  · exact ⟨rfl, rfl, rfl, rfl, rfl, rfl, rfl, rfl⟩

theorem stepped_keeps (u : Thread) : (stepped u).id = u.id ∧ (stepped u).uac = u.uac ∧ KeepsRegs u (stepped u) :=
  ⟨rfl, rfl, rfl, rfl, rfl, rfl, rfl, rfl, rfl⟩

/-- A counted thread steps on as it would have done before. -/
theorem Counts.retire_eq {s s' : State} {t u : Thread} (h : Counts t u) (ha : Ahead s t) (hs : s'.sets = s.sets) :
    retire s' u = setThread s' (stepped u) := by
  have hu : Ahead s' u := ⟨h.mism.trans ha.1, by rw [h.core, h.part, h.pc, inSlice_congr hs]; exact ha.2⟩
  exact hu.retire_eq

/-- R33: a store or merge that may leave retires in its own step. -/
theorem Issues.leaves {s : State} {t : Thread} {g : BitVec 5} {F : State → Thread → State} {da z : Nat} {act : Act} (hi : Issues s t g)
    (ha : Ahead s t) (hfree : MayLeave s t da z) (hF : F s t = issueWrite s t da z act retire) :
    ∃ s' u, scalar g s F = .next s' ∧ Leaves s s' t u da z act ∧ u.wait = .ready ∧ u.pc = BitVec.ofNat 14 (t.pc.toNat + 4) := by
  obtain ⟨u, v, hu, hl, hw, hp⟩ := issueWrite_leaves (act := act) hfree stepped_keeps fun s' u hs hu => hu.retire_eq ha hs
  exact ⟨_, v, (hi.scalar_eq F).trans (congrArg Host.Outcome.next hF), hl, hw, hp.trans (by rw [stepped, hu.pc])⟩

/-- A store is a merge at its address, but for the right that it wants. -/
theorem storeOp_eq_mergeAt (s : State) (t : Thread) (r a : BitVec 4) (z : Nat) (off : BitVec 9) :
    storeOp s t r a z off = mergeAt s t (effAddr (t.reg a) off z) z rightW (.store (leBytes z (t.reg r).toNat)) retire := rfl

section Addresses

variable {s : State} {t : Thread} {x : Ctx} {v : Word} {z da e : Nat} {need : Rights} {act : Act} {k : State → Thread → State}
variable (hx : getCtx s t.ctx = some x)
include hx

theorem mergeAt_granted (hc : segCheck x v z z need = .ok da) : mergeAt s t v z need act k = issueWrite s t da z act k := by
  simp only [mergeAt, hx, hc]

theorem mergeAt_refused (hc : segCheck x v z z need = .error e) : mergeAt s t v z need act k = fatalAt s t e v.toNat := by
  simp only [mergeAt, hx, hc]

end Addresses

/-- R122: an FMRG that may leave parks for the old value. -/
theorem fetchMerge_leaves {s : State} {t : Thread} {d b o : BitVec 4} {v : BitVec 1} {da : Nat} (hfree : MayLeave s t da (4 * 2 ^ v.toNat)) :
    ∃ u, Leaves s (fetchMerge s t d b v o da none) t u da (4 * 2 ^ v.toNat) (.merge true o.toNat (v == 1) (t.reg b)) ∧ u.pc = t.pc
      ∧ u.wait = .fetch d o.toNat (v == 1) da none := by
  obtain ⟨u, w, hu, hl, hw, hp⟩ := issueWrite_leaves (act := .merge true o.toNat (v == 1) (t.reg b))
    (k := fun s t => wait s t (.fetch d o.toNat (v == 1) da none)) (f := fun u => { u with wait := .fetch d o.toNat (v == 1) da none }) hfree
    (fun u => ⟨rfl, rfl, rfl, rfl, rfl, rfl, rfl, rfl, rfl⟩) (fun s' u _ _ => rfl)
  exact ⟨w, hl, hp.trans hu.pc, hw⟩

theorem storeIssue : StoreIssue := by
  intro s t x g r a d w v o off da hi ha hx z y free retires
  have hSt : exec (.st g r a w off) s = execSt g r a w off s := rfl
  have hStr : exec (.str g r a v off) s = execStr g r a v off s := rfl
  have hMrg : exec (.mrg g a r v o) s = execMrg g a r v o s := rfl
  have hVbor : exec (.vbor g a r) s = execVbor g a r s := rfl
  have hFmrg : exec (.fmrg g d a r v o) s = execFmrg g d a r v o s := rfl
  simp only [retires, hSt, hStr, hMrg, hVbor, hFmrg, execSt, execStr, execMrg, execVbor, storeOp_eq_mergeAt]
  refine ⟨fun hc hf => hi.leaves ha hf (mergeAt_granted hx hc), fun hc hf hd => hi.leaves ha hf ?_,
    fun hc hf => hi.leaves ha hf (mergeAt_granted hx hc), fun hc hf => hi.leaves ha hf (mergeAt_granted hx hc), fun hc hf hr => ?_⟩
  · rcases hd with hd | hd
    · exact (fenced_counted _ hd).trans (mergeAt_granted hx hc)
    · exact (hd.fenced_eq _).trans (mergeAt_granted hx hc)
  · obtain ⟨u, hl, hp, hw⟩ := fetchMerge_leaves (d := d) (b := r) (o := o) hf
    refine ⟨_, u, (hi.scalar_eq _).trans (congrArg Host.Outcome.next ?_), hl, hp, hw⟩
    simp only [y] at hc
    simp only [hx, hc, hr, Bool.false_and, Bool.false_eq_true, if_false]

theorem storeRefused : StoreRefused := by
  intro s t x g r a w off e da hi hx z gives
  have hSt : exec (.st g r a w off) s = execSt g r a w off s := rfl
  simp only [gives, hSt, execSt, storeOp_eq_mergeAt]
  refine ⟨fun hc => hi.faults (mergeAt_refused hx hc), fun hc hw => hi.faults ((mergeAt_granted hx hc).trans (if_pos hw)),
    fun hc hw h2 hz => hi.faults (addr := da) ((mergeAt_granted hx hc).trans ?_)⟩
  rw [issueWrite, hw, if_neg Bool.false_ne_true, h2]
  exact if_pos (by simpa using hz)

/-- Settles O12: a write that may leave is counted and sent before its word retires (`issueWrite_leaves`); one refused is a fatal fault. -/
theorem stores : Obligations.Stores := ⟨storeIssue, storeRefused⟩

end Sys2Proof.Safety
end

section
/-! SUPPORT. Threads that leave their core and arrive at another (R18, R176, R263), and O17. -/

namespace Sys2Proof.Safety

open Sys2Proof Sys2Proof.Machine

/-! ### Leaving -/

theorem packetsOnly_modPart (s : State) (c p : Nat) (f : Part → Part) : PacketsOnly s (modPart s c p f) := packetsOnly_setPart _ _ _ _

theorem packetsOnly_leaveQueue (s : State) (t : Thread) : PacketsOnly s (leaveQueue s t) := by
  refine .trans ?_ (packetsOnly_modPart _ _ _ _)
  unfold endCapture
  split
  · split
    · exact packetsOnly_modPart _ _ _ _
    · exact .refl s
  · exact .refl s

theorem packetsOnly_slotFreed (s : State) (core p n : Nat) : PacketsOnly s (slotFreed s core p n) := packetsOnly_post _ _ _ _ _

/-- The packet that carries a thread to a core of this device. -/
def migration (t : Thread) (c : Nat) : MigPkt := ⟨t.id, t.ctx, t.part, c, travelState t, none, t.mism, none⟩

/-- A thread on its way to another core of this device. -/
def departed (t : Thread) : Thread := { t with place := .flight, wait := .moving, op := t.op + 1 }

/-- R18, R176: a thread that goes to another core is in flight, and its packet on its way. -/
theorem depart_leaves (s : State) (t : Thread) (c : Nat) :
    Touches s (depart s t none c none) t (departed t) ∧ Sends s (depart s t none c none) (.migrationArrival (migration t c)) := by
  have go {s4 : State} (h : Touches s s4 t (departed t)) : Touches s (send s4 t.core c 96 0 (.migrationArrival (migration t c))) t (departed t)
      ∧ Sends s (send s4 t.core c 96 0 (.migrationArrival (migration t c))) (.migrationArrival (migration t c)) :=
    ⟨h.after (packetsOnly_sendOn _ _ _ _ _ _ _ _ _), (sendOn_sends _ _ _ _ _ _ _ _ _).before h.pend h.quiet.2.2.2.2.2⟩
  have h1 : Touches s (modPart (setThread (leaveQueue s t) (departed t)) t.core t.part fun p => { p with sent := p.sent + 1 }) t (departed t) :=
    ((packetsOnly_leaveQueue s t).touches (touches_setThread _ t (departed t) rfl)).after (packetsOnly_modPart _ _ _ _)
  dsimp only [depart]
  split
  · exact go (h1.after (packetsOnly_slotFreed _ _ _ _))
  · exact go h1

/-! ### Arriving -/

theorem atPartition_open {s : State} {ctx core p : Nat} (hd : descheduled s ctx = false) (hp : (getPart s core p).stopCycle = none)
    (i : Instr) (k : State → State) : atPartition s ctx core p i k = k s := by
  simp [atPartition, hd, hp]

/-- The thread that arrives, at its new core. -/
def landed (t : Thread) (p : MigPkt) : Thread :=
  { t with
    ctx := p.ctx, core := p.core, part := p.part, place := .flight, regs := p.st.regs, preds := p.st.preds, pc := p.st.pc,
    status := p.st.status, fpx := p.st.fpx, trapc := p.st.trapc, trapv := p.st.trapv, trappc := p.st.trappc, wait := .ready,
    counted := false, mism := p.mism }

theorem arrivedThread_eq {s : State} {t : Thread} {p : MigPkt} (ht : getThread s p.tid = some t) (hf : t.place = .flight) :
    arrivedThread s p = landed t p := by
  have h : (decide (t.place = .away) || (some t).isNone) = false := by simp [hf]
  simp only [arrivedThread, ht, hf]
  rfl

/-- A thread that stands in the arrival queue of its core. -/
def queued (t : Thread) : Thread := { t with place := .arrivalQ }

/-- R176: the core's arrival queue, with room, takes an arrived thread as its last. -/
theorem queueArrival_room {s : State} {t : Thread} (h : (getPart s t.core t.part).arrivals.length < 8) :
    ∃ s', queueArrival s t = some s' ∧ Touches s s' t (queued t) ∧ s'.sets = s.sets
      ∧ (getPart s' t.core t.part).arrivals = (getPart s t.core t.part).arrivals ++ [t.id] := by
  let x : Part := { getPart s t.core t.part with arrivals := (getPart s t.core t.part).arrivals ++ [t.id] }
  refine ⟨callArrival (setPart (setThread s (queued t)) t.core t.part x) t.core t.part, if_pos h, ?_, rfl, ?_⟩
  · exact ((touches_setThread s t (queued t) rfl).after (packetsOnly_setPart _ _ _ x)).after (packetsOnly_post _ _ _ _ _)
  · exact congrArg Part.arrivals (getPart_setPart _ t.core t.part x)

/-- R18, R176: where the arrival queue has room, a thread that brings no load stands in it at its next word. -/
theorem migrationArrival_queues {s : State} {u : Thread} {p : MigPkt} (hu : arrivedThread s p = u) (hd : descheduled s u.ctx = false)
    (hp : (getPart s u.core u.part).stopCycle = none) (hc : (getCtx s u.ctx).isSome = true) (hh : holds s u.ctx u.core u.part = true)
    (hr : (getPart s u.core u.part).arrivals.length < 8) (hl : p.load = none) (ha : Ahead s u) :
    ∃ s', exec (.migrationArrival p) s = .next s' ∧ Touches s s' u (stepped (queued u))
      ∧ (getPart s' u.core u.part).arrivals = (getPart s u.core u.part).arrivals ++ [u.id] := by
  obtain ⟨s1, hq, h1, hsets, harr⟩ := queueArrival_room hr
  obtain ⟨s2, hs2⟩ : ∃ s2, s2 = modPart s1 u.core u.part fun p => { p with rcvd := p.rcvd + 1 } := ⟨_, rfl⟩
  have hs : PacketsOnly s1 s2 := hs2 ▸ packetsOnly_modPart _ _ _ _
  have h2 : Touches s s2 u (queued u) := h1.after hs
  have ha2 : Ahead s2 (queued u) := ⟨ha.1, (inSlice_congr (hs.sets.trans hsets) _ _ _).trans ha.2⟩
  have h3 := h2.trans rfl (touches_setThread s2 (queued u) (stepped (queued u)) rfl)
  have hexec : exec (.migrationArrival p) s = execMigrationArrival p s := rfl
  refine ⟨_, ?_, h3, ?_⟩
  · rw [hexec, execMigrationArrival, hu]
    dsimp only
    rw [atPartition_open hd hp, hq, if_neg (by simp [← Option.not_isSome_iff_eq_none, hc, hh])]
    dsimp only
    rw [← hs2, h2.this]
    simp only [hl, ha2.retire_eq, h3.this]
    exact congrArg Host.Outcome.next (if_neg Wait.noConfusion)
  · have hpart : getPart s2 u.core u.part = { getPart s1 u.core u.part with rcvd := (getPart s1 u.core u.part).rcvd + 1 } := by
      rw [hs2]
      exact getPart_setPart s1 u.core u.part _
    exact (congrArg Part.arrivals hpart).trans harr

theorem migrates : Migration := by
  intro s t g a c
  have hexec : exec (.migr g a) s = execMigr g a s := rfl
  rw [hexec, execMigr]
  refine ⟨fun hi ha hf hc hh => ⟨fun hcc => hi.steps ha ?_, fun hcc hn => ?_⟩, fun p ht hid hfl hd hs hctx hh hr hl hm hin => ?_⟩
  · simp [hc, ← hcc, hh, hf.fenced_eq]
  · obtain ⟨h, hsend⟩ := depart_leaves s t c
    refine ⟨_, _, migration t c, (hi.scalar_eq _).trans (congrArg Host.Outcome.next ?_), h.this, rfl, ⟨rfl, rfl, rfl, rfl, rfl, rfl, rfl⟩, rfl,
      h.quiet.1, h.others, hsend, rfl, rfl, rfl, rfl, rfl, rfl⟩
    simp [hc, hh, hcc, leave, hn, hf.fenced_eq]
  · have ha : Ahead s (landed t p) := ⟨hm, hin⟩
    obtain ⟨s', he, h, harr⟩ := migrationArrival_queues (arrivedThread_eq ht hfl) hd hs hctx hh hr hl ha
    exact ⟨s', _, he, h.this, rfl, rfl, rfl, rfl, rfl, rfl, rfl, rfl, h.quiet.1, hid ▸ harr⟩

/-! ### The work slot -/

theorem bringInHeld_none (core p : Nat) (s : State) : ∀ (l : List (Nat × Thread)), (∀ e ∈ l, e.2.place ≠ .held) → bringInHeld core p l s = s
  | [], _ => rfl
  | (k, t) :: l, h => by
    have ht : t.place ≠ .held := h (k, t) (List.mem_cons_self ..)
    rw [bringInHeld, if_neg (by simp [ht])]
    exact bringInHeld_none core p s l fun e he => h e (List.mem_cons_of_mem _ he)

theorem mem_tblSet {α : Type} {l : List (Nat × α)} {i : Nat} {a : α} {x : Nat × α} (h : x ∈ tblSet l i a) : x = (i, a) ∨ x ∈ l := by
  induction l with
  | nil => exact .inl (List.mem_singleton.1 h)
  | cons e l ih =>
    obtain ⟨k, v⟩ := e
    rw [tblSet] at h
    split at h
    · exact (List.mem_cons.1 h).imp_right (List.mem_cons_of_mem _)
    · split at h
      · exact List.mem_cons.1 h
      · rcases List.mem_cons.1 h with h | h
        · exact .inr (h ▸ List.mem_cons_self ..)
        · exact (ih h).imp_right (List.mem_cons_of_mem _)

theorem bitAt_eq_testBit (w n : Nat) : bitAt w n = w.testBit n := by
  rw [bitAt, Nat.testBit_eq_decide_div_mod_eq]
  rfl

theorem bitAt_clear (w : Nat) {n : Nat} (hn : n < 16) : bitAt (w &&& (0xFFFF ^^^ 2 ^ n)) n = false := by
  have hmask : (0xFFFF : Nat) = 2 ^ 16 - 1 := rfl
  rw [bitAt_eq_testBit, Nat.testBit_and, Nat.testBit_xor, hmask, Nat.testBit_two_pow_sub_one, Nat.testBit_two_pow_self]
  simp [hn]

theorem packetsOnly_callArrival (s : State) (core p : Nat) : PacketsOnly s (callArrival s core p) := packetsOnly_post _ _ _ _ _

/-- The first of a list that takes anything. -/
theorem takeFirst_all {α : Type} {f : α → Bool} {a : α} (h : f a = true) (l : List α) : takeFirst f (a :: l) = some (a, l) := by
  simp [takeFirst, h]

/-- A thread that waits with no words enters a slot, whose flag is cleared. -/
theorem enterSlot_touches {s : State} {t : Thread} (hp : t.place = .arrivalQ) (hh : t.held = []) {n : Nat} (hn : n < 16) :
    Touches s (enterSlot s t n) t { t with place := .slot n } ∧ (enterSlot s t n).threads = tblSet s.threads t.id { t with place := .slot n }
      ∧ (getPart (enterSlot s t n) t.core t.part).arrivals = (getPart s t.core t.part).arrivals
      ∧ bitAt (getPart (enterSlot s t n) t.core t.part).flags n = false := by
  have h : enterSlot s t n
      = setThread (modPart s t.core t.part fun p => { p with flags := p.flags &&& (0xFFFF ^^^ 2 ^ n) }) { t with place := .slot n } := by
    simp only [enterSlot, hp, hh, List.isEmpty_nil, if_true]
  have hpart : getPart (enterSlot s t n) t.core t.part
      = { getPart s t.core t.part with flags := (getPart s t.core t.part).flags &&& (0xFFFF ^^^ 2 ^ n) } := by
    rw [h]
    exact getPart_setPart s t.core t.part _
  refine ⟨?_, by rw [h]; rfl, by rw [hpart], by rw [hpart]; exact bitAt_clear _ hn⟩
  rw [h]
  exact (packetsOnly_modPart _ _ _ _).touches (touches_setThread _ t _ rfl)

/-- With nothing in front of the queues, the next arrivals only look for a slot. -/
theorem nextIn_none {s : State} (h : ∀ e ∈ s.threads, e.2.place ≠ .held) (core p : Nat) : nextIn core p s = callArrival s core p :=
  congrArg (callArrival · core p) (bringInHeld_none core p s s.threads h)

theorem arrivalTaken : ArrivalTaken := by
  intro s t n l hf ht ⟨x, hx, hlog, hrep⟩ hp hh ho hn hn16 harr hheld
  have hr : replays s (getPart s t.core t.part).owner = false := by simp [replays, ← ho, hx, hrep]
  obtain ⟨s1, hs1⟩ : ∃ s1, s1 = setPart s t.core t.part { getPart s t.core t.part with arrivals := l } := ⟨_, rfl⟩
  have hnext : nextArrival s t.core t.part none = some (0, t.id, s1) := by
    rw [nextArrival, harr, takeFirst_all rfl, hs1]
  have h1 : PacketsOnly s s1 := hs1 ▸ packetsOnly_setPart _ _ _ _
  have hx1 : getCtx s1 t.ctx = some x := by rw [hs1]; exact hx
  have ht1 : getThread s1 t.id = some t := (h1.getThread _).trans ht
  have hl1 : getPart s1 t.core t.part = { getPart s t.core t.part with arrivals := l } := hs1 ▸ getPart_setPart _ _ _ _
  obtain ⟨h2, hthreads, harr2, hflag⟩ := enterSlot_touches (s := s1) hp hh hn16
  have hin : nextIn t.core t.part (enterSlot s1 t n) = callArrival (enterSlot s1 t n) t.core t.part := by
    refine nextIn_none (fun e he => ?_) _ _
    rw [hthreads, h1.threads] at he
    rcases mem_tblSet he with rfl | he
    · exact Place.noConfusion
    · exact hheld e he
  have h3 := h1.touches (h2.after (packetsOnly_callArrival _ t.core t.part))
  have hexec : exec .arrivalTaken s = execArrivalTaken s := rfl
  refine ⟨_, ?_, h3.this, h3.others, h3.quiet.1, harr2.trans (by rw [hl1]), hflag⟩
  rw [hexec, execArrivalTaken, hf]
  simp only [hn, hr, hnext, ht1, logStart, hx1, hlog, Bool.false_eq_true, if_false, if_true]
  exact congrArg _ hin

/-- Settles O17: leaving (`depart_leaves`), arriving (`migrationArrival_queues`) and entering a slot each change one thread beside packets. -/
theorem migrations : Obligations.Migrations := ⟨migrates, arrivalTaken⟩

end Sys2Proof.Safety
end

section
/-! SUPPORT. The state words (R251 to R254), and O22. -/

namespace Sys2Proof.Safety

open Sys2Proof Sys2Proof.Machine

theorem mayName_user (x : Ctx) {n : Nat} (h : n < 0x100) : mayName x n = true := by simp [mayName, h]

theorem mayName_sys {x : Ctx} (h : x.sys = true) (n : Nat) : mayName x n = true := by simp [mayName, h]

theorem mayName_refused {x : Ctx} {n : Nat} (hn : 0x100 ≤ n) (h : ¬x.sys = true) : mayName x n = false := by
  simp [mayName, h, hn]

/-! ### Reading -/

theorem energyWord_eq (x : Ctx) : energyWord x = BitVec.ofNat 64 (if x.budget = 0 then 2 ^ 64 - 1 else x.budget - x.energy) := by
  unfold energyWord
  split <;> rfl

theorem ofNat_toNat_64 (v : Word) : v = BitVec.ofNat 64 v.toNat := by simp

theorem setWidth_eq_ofNat {k : Nat} (v : BitVec k) : v.setWidth 64 = BitVec.ofNat 64 v.toNat := (BitVec.ofNat_toNat 64 v).symm

theorem rdswResult : RdswResult := by
  intro s t x g d sel hi ha hx n gives sys q
  have hexec : exec (.rdsw g d sel) s = execRdsw g d sel s := rfl
  have reads {v : Nat} (hm : mayName x n = true) (hv : stateWord s t x n = BitVec.ofNat 64 v) : gives v := by
    simp only [gives, hexec, execRdsw]
    refine hi.writesReg ha ?_
    rw [hx, ← hv]
    exact if_pos hm
  have user {v k : Nat} (hk : k < 0x100) (hv : stateWord s t x k = BitVec.ofNat 64 v) (hn : n = k) : gives v :=
    reads (mayName_user x (hn ▸ hk)) (hn ▸ hv)
  have priv {v k : Nat} (hv : stateWord s t x k = BitVec.ofNat 64 v) (hn : n = k) (hs : sys) : gives v :=
    reads (mayName_sys hs n) (hn ▸ hv)
  refine ⟨user (by decide) rfl, user (by decide) rfl, user (by decide) rfl, user (by decide) (setWidth_eq_ofNat _),
    user (by decide) (setWidth_eq_ofNat _), user (by decide) (ofNat_toNat_64 _), user (by decide) (setWidth_eq_ofNat _),
    user (by decide) rfl, user (by decide) (ofNat_toNat_64 _), user (by decide) (energyWord_eq x), user (by decide) rfl,
    priv rfl, priv rfl, priv rfl, priv rfl, priv (ofNat_toNat_64 _), fun hn hs => ?_⟩
  rw [hexec, execRdsw]
  refine hi.faults (addr := 0) ?_
  rw [hx]
  exact if_neg (by rw [mayName_refused hn hs]; decide)

/-! ### Writing -/

theorem packetsOnly_setTrapQ (s : State) (q : Nat) (x : TrapQ) : PacketsOnly s (setTrapQ s q x) :=
  ⟨.refl s, rfl, rfl, .of_subset fun _ h => h⟩

/-- R252, R316: setting the head of a trap queue asks its waiting records to look for room. -/
theorem setHead_asks (s : State) (q v : Nat) :
    PacketsOnly s (setHead s q v) ∧ Sends s (setHead s q v) (.trapRecordInsert q) ∧ (getTrapQ (setHead s q v) q).head = v % 65536 := by
  have h := packetsOnly_setTrapQ s q { getTrapQ s q with head := v % 65536 }
  exact ⟨h.trans (packetsOnly_post _ _ _ _ _), (post_sends _ _ _ _ le_rfl).before h.pend rfl, congrArg TrapQ.head (getTrapQ_setTrapQ _ _ _)⟩

/-- R317: a wake that names no entry is ignored. -/
theorem wakeRec_none {s : State} {v : Word} (h : tblFind (getTrapQ s (v.toNat / 2 ^ 48 % 256)).recs (v.toNat / 2 ^ 40 % 256) = none)
    (old : Word) : wakeRec s v old = s := by
  have h' : tblFind (getTrapQ s (bitsOf v.toNat 55 48)).recs (bitsOf v.toNat 47 40) = none := h
  simp only [wakeRec, h']

/-- What a WRSW that may name its selector leaves. -/
def wordWritten (s : State) (t : Thread) (v : Word) (n : Nat) : State :=
  match n with
  | 0x003 => retire s { t with fpx := v.setWidth 5 }
  | 0x004 => retire s { t with trapc := v.setWidth 8 }
  | 0x005 => retire s { t with trapv := v }
  | 0x006 => retire s { t with trappc := v.setWidth 14 }
  | 0x100 => setHead (retire s { t with tq := some (v.toNat / 2 ^ 16 % 256) }) (v.toNat / 2 ^ 16 % 256) v.toNat
  | 0x101 => wakeRec (retire s t) v t.wakev
  | 0x104 => retire s { t with wakev := v }
  | _ => retire s t

theorem wrsw_eq {s : State} {t : Thread} {x : Ctx} {g : BitVec 5} {a : BitVec 4} {sel : BitVec 12} {k : Nat} (hi : Issues s t g)
    (hx : getCtx s t.ctx = some x) (hk : sel.toNat = k) (hm : mayName x k = true) :
    exec (.wrsw g a sel) s = .next (wordWritten s t (t.reg a) k) := by
  have hexec : exec (.wrsw g a sel) s = execWrsw g a sel s := rfl
  subst hk
  rw [hexec, execWrsw, hi.scalar_eq]
  dsimp only
  rw [hx]
  exact congrArg Host.Outcome.next (if_neg (by rw [hm]; decide))

theorem wrswResult : WrswResult := by
  intro s t x g a sel hi ha hx n v q gives sys
  have retires {u : Thread} {k : Nat} (hu : Ahead s u) (hm : mayName x k = true) (hf : wordWritten s t v k = retire s u) (hn : n = k) :
      gives u :=
    ⟨_, wrsw_eq hi hx hn hm, by rw [hf, hu.retire_eq]; exact onlyThread_setThread s (stepped u)⟩
  have user {u : Thread} {k : Nat} (hu : Ahead s u) (hk : k < 0x100) (hf : wordWritten s t v k = retire s u) (hn : n = k) : gives u :=
    retires hu (mayName_user x hk) hf hn
  refine ⟨user ha (by decide) rfl, user ha (by decide) rfl, user ha (by decide) rfl, user ha (by decide) rfl, fun hn hs => ?_,
    fun hn hs hw => ?_, fun hn hs => retires ha (mayName_sys hs _) rfl hn, fun hn hs => ?_⟩
  · have hu : Ahead s { t with tq := some q } := ha
    obtain ⟨h, hsend, hhead⟩ := setHead_asks (retire s { t with tq := some q }) q v.toNat
    have h1 : Touches s (retire s { t with tq := some q }) t (stepped { t with tq := some q }) := by
      rw [hu.retire_eq]
      exact touches_setThread s t (stepped { t with tq := some q }) rfl
    have h2 := h1.after h
    exact ⟨_, wrsw_eq hi hx hn (mayName_sys hs _), h2.this, hhead, h2.others, h2.quiet, hsend.before h1.pend h1.quiet.2.2.2.2.2⟩
  · have hwake : wordWritten s t v 0x101 = retire s t := wakeRec_none (by rw [ha.retire_eq]; exact hw) t.wakev
    exact retires ha (mayName_sys hs _) hwake hn
  · have hexec : exec (.wrsw g a sel) s = execWrsw g a sel s := rfl
    rw [hexec, execWrsw]
    refine hi.faults (addr := 0) ?_
    dsimp only
    rw [hx]
    exact if_pos (by rw [mayName_refused hn hs]; rfl)

/-- Settles O22: a selector that may be named is read (`stateWord`) or written (`wrsw_eq`), one that may not is a fatal fault. -/
theorem systemWords : Obligations.SystemWords := ⟨rdswResult, wrswResult⟩

end Sys2Proof.Safety
end

section
/-! SUPPORT. Which step comes next (R12, R59, R117, R304), and O55. -/

namespace Sys2Proof.Safety

open Sys2Proof Sys2Proof.Machine

/-! ### The event that is due -/

theorem nextDue_none {now : Nat} {l : List Pend} (h : nextDue now l = none) : ∀ p ∈ l, now < p.due := by
  induction l with
  | nil => simp
  | cons q l ih =>
    rw [nextDue] at h
    split at h
    · split at h <;> contradiction
    · next hl =>
      split at h
      · contradiction
      · next hq =>
        intro p hp
        rcases List.mem_cons.1 hp with rfl | hp
        · exact Nat.lt_of_not_le hq
        · exact ih hl p hp

/-- The next event is due, is the least of those pending, and the first put of those. -/
theorem nextDue_some {now : Nat} {l : List Pend} {p : Pend} (h : nextDue now l = some p) :
    p.due ≤ now ∧ ∃ a b, l = a ++ p :: b ∧ (∀ q ∈ a, p.due < q.due) ∧ ∀ q ∈ b, p.due ≤ q.due := by
  induction l generalizing p with
  | nil => contradiction
  | cons q l ih =>
    rw [nextDue] at h
    split at h
    · next r hr =>
      split at h
      · next hq =>
        cases h
        obtain ⟨-, a, b, rfl, ha, hb⟩ := ih hr
        simp only [Bool.and_eq_true, decide_eq_true_eq] at hq
        refine ⟨hq.1, [], _, rfl, by simp, fun x hx => ?_⟩
        rcases List.mem_append.1 hx with hx | hx
        · exact hq.2.trans (ha x hx).le
        · rcases List.mem_cons.1 hx with rfl | hx
          · exact hq.2
          · exact hq.2.trans (hb x hx)
      · next hq =>
        cases h
        obtain ⟨hn, a, b, rfl, ha, hb⟩ := ih hr
        simp only [Bool.and_eq_true, decide_eq_true_eq] at hq
        refine ⟨hn, q :: a, b, rfl, fun x hx => ?_, hb⟩
        rcases List.mem_cons.1 hx with rfl | hx
        · omega
        · exact ha x hx
    · next hr =>
      split at h
      · next hq =>
        cases h
        exact ⟨hq, [], l, rfl, by simp, fun x hx => hq.trans (nextDue_none hr x hx).le⟩
      · contradiction

/-! ### What a server takes first (R117, R304) -/

/-- A server takes the request of `q` before that of `p`. -/
def Beats (s : State) (p q : Pend) : Prop :=
  ∃ v m n, serverOf s p.what = some (v, m) ∧ serverOf s q.what = some (v, n) ∧ q.due ≤ s.cycle ∧ classOf s m < classOf s n
    ∧ s.cycle < p.due + 1024

theorem takenBefore_iff {s : State} {p q : Pend} : takenBefore s p q = true ↔ Beats s p q := by
  constructor
  · intro h
    unfold takenBefore at h
    split at h
    · next a b ha hb =>
      simp only [Bool.and_eq_true, beq_iff_eq, decide_eq_true_eq] at h
      obtain ⟨⟨⟨hv, hd⟩, hc⟩, hw⟩ := h
      exact ⟨a.1, a.2, b.2, ha, by rw [hb, hv], hd, hc, hw⟩
    · contradiction
  · rintro ⟨v, m, n, ha, hb, hd, hc, hw⟩
    simp [takenBefore, ha, hb, hd, hc, hw]

theorem Beats.trans {s : State} {p q r : Pend} (h : Beats s p q) (h' : Beats s q r) : Beats s p r := by
  obtain ⟨v, m, n, hp, hq, -, hc, hw⟩ := h
  obtain ⟨v', m', n', hq', hr, hd, hc', -⟩ := h'
  obtain ⟨rfl, rfl⟩ := Prod.mk.inj (Option.some.inj (hq.symm.trans hq'))
  exact ⟨v, m, n', hp, hr, hd, hc.trans hc', hw⟩

theorem Beats.irrefl {s : State} {p : Pend} (h : Beats s p p) : False := by
  obtain ⟨v, m, n, hp, hq, -, hc, -⟩ := h
  obtain ⟨-, rfl⟩ := Prod.mk.inj (Option.some.inj (hp.symm.trans hq))
  exact hc.false

/-- The order keys let a request go before those ahead of it: it has none, or is the first of its key. -/
def Free (s : State) (q : Pend) : Prop := q.key = 0 ∨ (s.pend.find? fun r => r.key = q.key) = some q

theorem firstServed_spec (s : State) (l : List Pend) (p : Pend) :
    (firstServed s l p = p ∨ firstServed s l p ∈ l ∧ Beats s p (firstServed s l p) ∧ Free s (firstServed s l p))
      ∧ ∀ q ∈ l, Beats s (firstServed s l p) q → ¬Free s q := by
  induction l generalizing p with
  | nil => exact ⟨.inl rfl, by simp⟩
  | cons q l ih =>
    have hq : (takenBefore s p q && (q.key = 0 || (s.pend.find? fun r => r.key = q.key) = some q)) = true ↔ Beats s p q ∧ Free s q := by
      rw [Bool.and_eq_true, takenBefore_iff, Bool.or_eq_true, decide_eq_true_eq, decide_eq_true_eq, Free]
    rw [firstServed]
    split
    · next h =>
      obtain ⟨hb, hf⟩ := hq.1 h
      obtain ⟨hr, hl⟩ := ih q
      have hpr : Beats s p (firstServed s l q) := hr.elim (fun hr => hr.symm ▸ hb) fun hr => hb.trans hr.2.1
      refine ⟨.inr ⟨?_, hpr, hr.elim (fun hr => hr.symm ▸ hf) fun hr => hr.2.2⟩, fun x hx hbx => ?_⟩
      · exact List.mem_cons.2 (hr.imp_right And.left)
      · rcases List.mem_cons.1 hx with rfl | hx
        · exact (hr.elim (fun hr => (hr ▸ hbx).irrefl) fun hr => (hr.2.1.trans hbx).irrefl).elim
        · exact hl x hx hbx
    · next h =>
      obtain ⟨hr, hl⟩ := ih p
      refine ⟨hr.imp_right fun hr => ⟨List.mem_cons_of_mem _ hr.1, hr.2⟩, fun x hx hbx => ?_⟩
      rcases List.mem_cons.1 hx with rfl | hx
      · exact fun hf => h (hq.2 ⟨hr.elim (fun hr => hr ▸ hbx) fun hr => hr.2.1.trans hbx, hf⟩)
      · exact hl x hx hbx

theorem dropPend_split {r : Pend} {l : List Pend} (h : r ∈ l) : ∃ a b, l = a ++ r :: b ∧ r ∉ a ∧ dropPend r l = a ++ b := by
  induction l with
  | nil => contradiction
  | cons q l ih =>
    rw [dropPend]
    split
    · next hq => exact ⟨[], l, by rw [hq]; rfl, by simp, rfl⟩
    · next hq =>
      obtain ⟨a, b, hl, ha, hd⟩ := ih ((List.mem_cons.1 h).resolve_left (Ne.symm hq))
      refine ⟨q :: a, b, by rw [hl]; rfl, ?_, by rw [hd]; rfl⟩
      rw [List.mem_cons, not_or]
      exact ⟨Ne.symm hq, ha⟩

/-! ### A cycle that passes -/

/-- Events have been put beside those under way, and nothing else. -/
structure Announces (s s' : State) : Prop where
  cycle : s'.cycle = s.cycle
  fresh : s'.fresh = s.fresh
  mem : s'.mem = s.mem
  threads : s'.threads = s.threads
  pend : s.pend ⊆ s'.pend

theorem Announces.refl (s : State) : Announces s s := ⟨rfl, rfl, rfl, rfl, fun _ h => h⟩

theorem Announces.trans {s s' s'' : State} (h : Announces s s') (h' : Announces s' s'') : Announces s s'' :=
  ⟨h'.cycle.trans h.cycle, h'.fresh.trans h.fresh, h'.mem.trans h.mem, h'.threads.trans h.threads, fun _ hp => h'.pend (h.pend hp)⟩

theorem announces_post (s : State) (n k : Nat) (i : Instr) (w : Focus) : Announces s (post s n k i w) :=
  ⟨rfl, rfl, rfl, rfl, List.subset_append_left _ _⟩

theorem announces_scrubAll (l : List Nat) (s : State) : Announces s (scrubAll l s) := by
  induction l generalizing s with
  | nil => exact .refl s
  | cons p l ih => exact (announces_post _ _ _ _ _).trans (ih _)

theorem announces_gateIdle (l : List (Nat × CoreSt)) (s : State) : Announces s (gateIdle l s) := by
  induction l generalizing s with
  | nil => exact .refl s
  | cons e l ih =>
    obtain ⟨c, x⟩ := e
    refine .trans ?_ (ih _)
    split
    · exact announces_post _ _ _ _ _
    · exact .refl s

theorem announces_ageOut (l : List Pend) (s : State) : Announces s (ageOut l s) := by
  induction l generalizing s with
  | nil => exact .refl s
  | cons p l ih =>
    refine .trans ?_ (ih _)
    split
    · split
      · exact announces_post _ _ _ _ _
      · exact .refl s
    · exact .refl s

theorem announces_periodic (s : State) : Announces s (periodic s) := by
  have at' (n r : Nat) (i : Instr) (s : State) : Announces s (if s.cycle % n = r then post s s.cycle 0 i else s) := by
    split
    · exact announces_post _ _ _ _ _
    · exact .refl s
  have scrub (s : State) : Announces s (if s.cycle % 2 ^ 42 = 0 then bump (scrubAll (List.range 12) s) else s) := by
    split
    · exact (announces_scrubAll _ s).trans ⟨rfl, rfl, rfl, rfl, fun _ h => h⟩
    · exact .refl s
  exact (scrub s).trans <| (announces_ageOut _ _).trans <| (announces_gateIdle _ _).trans <| (at' _ _ _ _).trans <|
    (at' _ _ _ _).trans <| (at' _ _ _ _).trans <| (at' _ _ _ _).trans (at' _ _ _ _)

/-! ### The order of a step -/

theorem dueEvent_none {s : State} (h : nextDue s.cycle s.pend = none) : dueEvent s = none := by rw [dueEvent, h]; rfl

section Order

variable {s : State} (hag : ∀ x, s.agenda.head? = some x → x.wait ≠ 0)
include hag

/-- With nothing to do from outside, the due event is next. -/
theorem step_due {r : Pend} (hd : dueEvent s = some r) :
    step s = exec r.what { s with pend := dropPend r s.pend, focus := r.who } := by
  have h : choose s = (some r.what, { s with pend := dropPend r s.pend, focus := r.who }) := by
    rw [choose, hd]
    rcases hh : s.agenda.head? with _ | ⟨⟨_ | n, i, w⟩⟩
    · rfl
    · exact absurd rfl (hag _ hh)
    · rfl
  rw [step, h]

end Order

theorem eventsInOrder : EventsInOrder := by
  intro s h l p beats firstOfKey
  refine ⟨fun hag hw => ?_, fun hag hd => ?_, fun hag hd => ⟨dueEvent_none hd, nextDue_none hd⟩, ?_⟩
  · obtain ⟨n, i, w⟩ := h
    cases hw
    have hc : choose s = (some i, { s with agenda := s.agenda.tail, focus := w }) := by
      unfold choose
      rw [hag]
      rfl
    rw [step, hc, hag]
    rfl
  · obtain ⟨hp, a, b, hl, ha, hb⟩ := nextDue_some hd
    have hdue : dueEvent s = some (firstServed s s.pend p) := by rw [dueEvent, hd]; rfl
    obtain ⟨hr, hbest⟩ := firstServed_spec s s.pend p
    have hpl : p ∈ s.pend := by rw [hl]; exact List.mem_append_right _ (List.mem_cons_self ..)
    have hmem : firstServed s s.pend p ∈ s.pend := hr.elim (fun hr => hr.symm ▸ hpl) And.left
    obtain ⟨a', b', hl', ha', hdrop⟩ := dropPend_split hmem
    refine ⟨hp, ⟨a, b, hl, ha, hb⟩, _, a', b', hdue, hl', ha', ?_, hr.imp_right And.right, fun q hq hbq => not_or.1 (hbest q hq hbq)⟩
    rw [step_due hag hdue, hdrop]
  · have h := announces_periodic { s with
      cycle := s.cycle + 1, cursor := 0, focus := .idle, fresh := [],
      agenda := match s.agenda with
        | h :: l => { h with wait := h.wait - 1 } :: l
        | [] => [] }
    exact ⟨h.cycle, h.fresh, h.mem, h.threads, fun q hq => h.pend hq⟩

/-! ### What a step runs (R12, R59) -/

section Idle

variable {s : State} (hag : s.agenda = []) (hd : nextDue s.cycle s.pend = none)
include hag hd

/-- With nothing due, a waiting thread that can goes on. -/
theorem step_goesOn {n : Nat} {t : Thread} (hgo : (s.threads.find? fun x => goesOn s x.2) = some (n, t)) (hp : t.place ≠ .engine) :
    step s = exec (issuedInstr (detOf s t.ctx) t.word) { s with focus := .thread t.id } := by
  have h : choose s = (some (issuedInstr (detOf s t.ctx) t.word), { s with focus := .thread t.id }) := by
    rw [choose, hag, dueEvent_none hd, hgo]
    exact congrArg (some · , _) (if_neg (by simp [hp]))
  rw [step, h]

variable (hgo : (s.threads.find? fun x => goesOn s x.2) = none)
include hgo

/-- With no thread to go on, a tile command that can starts. -/
theorem step_starts {c p : Nat} {e : QEntry} {i : Instr} (hst : startable s s.parts = some (c, p, e)) (hi : decodeTcw e.word = .ok i) :
    step s = exec i { s with focus := .part c p } := by
  have h : choose s = (some i, { s with focus := .part c p }) := by
    rw [choose, hag, dueEvent_none hd, hgo]
    simp only [List.head?_nil, hst, hi]
  rw [step, h]

variable (hst : startable s s.parts = none)
include hst

/-- With no tile command to start, the thread issues whose cycle it is. -/
theorem step_issues {r : Nat} {t : Thread} (hl : leastRank s s.threads = some (r, t)) : step s = exec (issue s t).1 (issue s t).2 := by
  have h : choose s = (some (issue s t).1, (issue s t).2) := by
    rw [choose, hag, dueEvent_none hd, hgo]
    simp only [List.head?_nil, hst, hl]
  rw [step, h]

/-- With no thread to issue, the cycle is over. -/
theorem step_passes (hl : leastRank s s.threads = none) : step s = .next (tick s) := by
  have h : choose s = (none, tick s) := by
    rw [choose, hag, dueEvent_none hd, hgo]
    simp only [List.head?_nil, hst, hl]
  rw [step, h]

end Idle

/-! ### Issue -/

/-- The cycle of a thread's core, counted for its context. -/
def issueCycle (s : State) (t : Thread) : State :=
  countCycles { s with cursor := t.core + 1, focus := .thread t.id } (regionOf t.core) t.ctx 1

/-- The thread with its skid counted down (R312). -/
def skidded (t : Thread) : Thread := { t with skid := if t.uac = 0 then none else t.skid.map (· - 1) }

/-- The thread as its word issues (R12, R16). -/
def issuing (s : State) (t : Thread) : Thread := ({ skidded t with issued := some s.cycle, word := fetchWord s t }).setTrapPend false

theorem issuedInstr_ok {det : Bool} {w : BitVec 32} {i : Instr} (h : decodeScalar w = .ok i) (hd : det = false ∨ detIllegal i = false) :
    issuedInstr det w = i := by
  rw [issuedInstr, h]
  refine if_neg ?_
  rcases hd with hd | hd
  · simp [hd]
  · simp [hd]

theorem issuedInstr_det {w : BitVec 32} {i : Instr} (h : decodeScalar w = .ok i) (hi : detIllegal i = true) :
    issuedInstr true w = .illegalInstruction w := by
  rw [issuedInstr, h]
  exact if_pos hi

theorem issuedInstr_error {det : Bool} {w : BitVec 32} (h : ∀ j, decodeScalar w ≠ .ok j) : issuedInstr det w = .illegalInstruction w := by
  unfold issuedInstr
  split
  · next i hi => exact absurd hi (h i)
  · rfl

section Issue

variable {s : State} {t : Thread} (hw : t.wait = .ready)
include hw

theorem issue_outside (hin : ¬inSlice s t.core t.part t.pc.toNat = true) :
    issue s t = (.illegalInstruction (fetchWord s t), setThread (issueCycle s t) { skidded t with issued := some s.cycle, wait := .ready }) := by
  cases t
  cases hw
  exact if_pos (by simp [hin])

theorem issue_trap (hin : inSlice s t.core t.part t.pc.toNat = true) (hb : budgetTrapDue s t = true) :
    issue s t = (.budgetTrap, setThread (issueCycle s t) { skidded t with issued := some s.cycle }) := by
  cases t
  cases hw
  refine (if_neg (by simp [hin])).trans ?_
  exact if_pos hb

theorem issue_word (hin : inSlice s t.core t.part t.pc.toNat = true) (hb : ¬budgetTrapDue s t = true) :
    issue s t = (issuedInstr (detOf s t.ctx) (fetchWord s t), setThread (issueCycle s t) (issuing s t)) := by
  cases t
  cases hw
  refine (if_neg (by simp [hin])).trans ?_
  exact if_neg hb

end Issue

theorem budgetTrapDue_iff {s : State} {t : Thread} : budgetTrapDue s t = true
    ↔ (getPart s t.core t.part).budgetTrap = true ∧ t.trapc = 0 ∧ ((getCtx s t.ctx).bind (·.tvec)).isSome = true := by
  simp [budgetTrapDue, Thread.inTrap, and_assoc]

theorem stepRunsDecoded : StepRunsDecoded := by
  intro s t r i hag hd w part runs
  refine ⟨fun hgo hst => ⟨step_passes hag hd hgo hst, fun hl hw => ?_⟩, fun n hgo hp hi hdet => ?_,
    fun c p e hgo hst hi => step_starts hag hd hgo hst hi⟩
  · intro inside trap
    have runs_of {j : Instr} {u : Thread} (h : issue s t = (j, setThread (issueCycle s t) u)) (hid : u.id = t.id)
        (hu : u.issued = some s.cycle ∧ u.regs = t.regs ∧ u.preds = t.preds ∧ u.pc = t.pc ∧ u.wait = .ready ∧ u.fpx = t.fpx)
        (hj : j ≠ .illegalInstruction w → j ≠ .budgetTrap → u = issuing s t) : runs j := by
      obtain ⟨h1, h2, h3, h4, h5, h6⟩ := hu
      refine ⟨setThread (issueCycle s t) u, by rw [step_issues hag hd hgo hst hl, h], rfl, rfl, rfl, rfl,
        fun k hk => getThread_setThread_other _ u k (hid ▸ hk), u, hid ▸ getThread_setThread _ u, h1, h2, h3, h4, h5, h6, hj⟩
    have runs_word {j : Instr} (hin : inside) (ht : ¬trap) (hj : issuedInstr (detOf s t.ctx) w = j) : runs j :=
      runs_of (u := issuing s t) (hj ▸ issue_word hw hin fun h => ht (budgetTrapDue_iff.1 h)) rfl ⟨rfl, rfl, rfl, rfl, hw, rfl⟩
        fun _ _ => rfl
    refine ⟨fun hin ht hi hdet => runs_word hin ht (issuedInstr_ok hi hdet), fun hin ht hi => runs_word hin ht (issuedInstr_error hi),
      fun hin ht hi hdet hill => runs_word hin ht ?_, fun hin ht => ?_, fun hin => ?_⟩
    · rw [hdet]
      exact issuedInstr_det hi hill
    · exact runs_of (issue_trap hw hin (budgetTrapDue_iff.2 ht)) rfl ⟨rfl, rfl, rfl, rfl, hw, rfl⟩ fun _ h => absurd rfl h
    · exact runs_of (issue_outside hw hin) rfl ⟨rfl, rfl, rfl, rfl, rfl, rfl⟩ fun h => absurd rfl h
  · rw [step_goesOn hag hd hgo hp, issuedInstr_ok hi (.inl hdet)]

/-- Settles O55: what each branch of `choose` runs, and the order among events that are due (`nextDue_some`, `firstServed_spec`). -/
theorem stepOrder : Obligations.StepOrder := ⟨stepRunsDecoded, eventsInOrder⟩

end Sys2Proof.Safety
end

section
/-! SUPPORT. A launch in a partition index that its set does not have, against O38. -/

namespace Sys2Proof.Safety

open Sys2Proof Sys2Proof.Machine

/-- The launch record at commons address 0: one core (0, 0), accord 9, code of 4 bytes at commons address 0x400, no trap vector, one level
of one tile. -/
def strayRecord : List Byte :=
  quadBytes [0x0001_0000_0000_0009, 0x0030_0000_0000_0400, 0x4_FFFF_0000] ++ List.replicate 232 0 ++ quadBytes [0x1_0000_0100]
    ++ List.replicate 56 0

/-- Its code, which is one word. -/
def strayImage : List Byte := [0x77, 0, 0, 0]

/-- The schedule entry of the virtual device names partition index 2^36 in a set of 12 partitions. A view is then 5,461 bytes and a slice
1,365, so that the view's base, 5,461 * 2^36, is the key of the slice's base: 2^48 + 1,365 * 2^36. -/
def strayState : State :=
  { State.reset with
    sets := [{ rx := 0, ry := 0, rw := 1, rh := 1, n := 12, holder := 0, entries := [⟨2 ^ 36, 0, 1, 0, 16, 16⟩], turns := [], raw := [] }],
    vds := [(0, { decided := [(0, BitVec.ofNat 64 (3 * 2 ^ 52))] })],
    mem := memWrite (memWrite [] (commonsKey 0 0) strayRecord) (commonsKey 0 0x400) strayImage }

/-! What the launch unit finds there (R298, R300): a good record of one core, in its quantum, with its code. -/

theorem stray_canonical : Canonical strayState := ⟨by decide +kernel, List.Pairwise.nil, List.Pairwise.nil⟩

theorem stray_decided : tblFind (getVd strayState 0).decided (getVd strayState 0).next = some (BitVec.ofNat 64 (3 * 2 ^ 52)) := by decide

theorem stray_readRecord : readRecord strayState 0 (BitVec.ofNat 64 (3 * 2 ^ 52)).toNat = some strayRecord := by decide +kernel

theorem stray_recordWhy : recordWhy strayState 0 (BitVec.ofNat 64 (3 * 2 ^ 52)).toNat strayRecord = 0 := by decide +kernel

theorem stray_blockPart : blockPart strayState 0 strayRecord = some (2 ^ 36) := by decide +kernel

theorem stray_mustWait : mustWait strayState 0 (2 ^ 36) strayRecord = false := by decide +kernel

theorem stray_readImage : readImage strayState 0 strayRecord = some strayImage := by decide +kernel

theorem stray_recCores : recCores strayRecord = [(0, 0, 0)] := by decide +kernel

/-- The first byte of the slice after a launch step. -/
def firstCodeByte (r : Res) : Option Byte :=
  match r with
  | .next s => some (memByte s.mem (istoreKey 0 (sliceBase strayState 0 (2 ^ 36))))
  | _ => none

/-- R301 puts the code before the constant window, whose first identity word, 0 for block coordinates (0, 0), then stands where the code
begins. -/
theorem stray_code_overwritten : firstCodeByte (exec (.launchStart 0) strayState) = some 0 := by decide +kernel

/-- Refutes O38: nothing bounds the partition index that a schedule entry names by the number of its set's partitions, and at index 2^36
of a set of 12 the constant window of the core is written over the code that the launch has just put there. -/
theorem not_launchStarts : ¬Obligations.LaunchStarts := by
  unfold Obligations.LaunchStarts
  intro h
  have hpairs : ((getVd strayState 0).decided.map (·.1)).Pairwise (· < ·) := List.pairwise_singleton _ _
  obtain ⟨-, hgood⟩ := h strayState 0 (2 ^ 36) 1 _ strayRecord strayImage stray_canonical stray_decided hpairs stray_readRecord
  obtain ⟨-, hstart⟩ := hgood stray_recordWhy stray_blockPart
  obtain ⟨s', x, hexec, -, -, -, -, -, -, -, -, -, -, -, hcore⟩ := hstart stray_mustWait stray_readImage (by decide)
  obtain ⟨himage, -⟩ := hcore 0 stray_recCores (by decide +kernel) (by decide)
  have hbyte : memByte s'.mem (istoreKey 0 (sliceBase strayState 0 (2 ^ 36))) = 0x77 := (List.cons.inj himage).1
  have hzero := stray_code_overwritten
  rw [hexec, firstCodeByte, hbyte] at hzero
  exact absurd hzero (by decide)

end Sys2Proof.Safety
end

section
/-! SUPPORT. The numbers of the fp32 encodings (R37), in their order and as the model decodes them. -/

namespace Sys2Proof.Safety

open Sys2Proof Sys2Proof.Machine

/-! ### Magnitudes -/

/-- The significand of an encoding without its sign, an integer. -/
def fpSig (k : Nat) : Nat := if k / 2 ^ 23 = 0 then k else 2 ^ 23 + k % 2 ^ 23

/-- The binary place of the significand, in units of 2^−149. -/
def fpPlace (k : Nat) : Nat := k / 2 ^ 23 - 1

theorem fpMag_eq (k : Nat) : fpMag k = fpSig k * 2 ^ fpPlace k := by
  unfold fpMag fpSig fpPlace
  split
  · next h => rw [h, Nat.zero_sub, pow_zero, mul_one]
  · rfl

/-- A carry out of the significand `a` runs into the exponent, so that the number of an encoding is `a · 2^j` also for `a = 2^24`. -/
theorem fpMag_join {j a : Nat} (ha : a ≤ 2 ^ 24) (hj : j = 0 ∨ 2 ^ 23 ≤ a) : fpMag (j * 2 ^ 23 + a) = a * 2 ^ j := by
  have hdiv : (j * 2 ^ 23 + a) / 2 ^ 23 = j + a / 2 ^ 23 := by omega
  have hmod : (j * 2 ^ 23 + a) % 2 ^ 23 = a % 2 ^ 23 := by omega
  unfold fpMag
  rw [hdiv, hmod]
  rcases Nat.lt_or_ge a (2 ^ 23) with h | h
  · obtain rfl : j = 0 := hj.resolve_right (Nat.not_le.2 h)
    rw [if_pos (by omega), pow_zero]
    omega
  · rw [if_neg (by omega)]
    rcases ha.eq_or_lt with rfl | h'
    · rw [show j + 2 ^ 24 / 2 ^ 23 - 1 = j + 1 by omega, pow_succ]
      omega
    · rw [show j + a / 2 ^ 23 - 1 = j by omega, show 2 ^ 23 + a % 2 ^ 23 = a by omega]

theorem fpMag_lt_succ (k : Nat) : fpMag k < fpMag (k + 1) := by
  obtain ⟨j, a, rfl, ha, hj⟩ : ∃ j a, k = j * 2 ^ 23 + a ∧ a < 2 ^ 24 ∧ (j = 0 ∨ 2 ^ 23 ≤ a) := by
    by_cases h : k < 2 ^ 23
    · exact ⟨0, k, by omega, by omega, .inl rfl⟩
    · exact ⟨k / 2 ^ 23 - 1, 2 ^ 23 + k % 2 ^ 23, by omega, by omega, .inr (by omega)⟩
  rw [fpMag_join ha.le hj, Nat.add_assoc, fpMag_join ha (hj.imp_right fun h => by omega)]
  exact Nat.mul_lt_mul_of_pos_right (Nat.lt_succ_self a) (Nat.two_pow_pos j)

theorem fpMag_strictMono : StrictMono fpMag := strictMono_nat_of_lt_succ fpMag_lt_succ

theorem fpMag_zero : fpMag 0 = 0 := rfl

theorem fpMag_eq_zero_iff {k : Nat} : fpMag k = 0 ↔ k = 0 := fpMag_strictMono.injective.eq_iff' fpMag_zero

/-- The number of infinity's encoding, were it one. -/
theorem fpMag_inf : fpMag 0x7F800000 = 2 ^ 277 := by decide +kernel

/-! ### Decoding -/

theorem toNat_eq_abs (x : BitVec 32) : x.toNat = fpAbs x + if x.msb then 2 ^ 31 else 0 := by
  have hx := x.isLt
  simp only [fpAbs, BitVec.msb_eq_decide, decide_eq_true_eq]
  split <;> omega

theorem fpAbs_lt (x : BitVec 32) : fpAbs x < 2 ^ 31 := Nat.mod_lt _ (by decide)

/-- The three kinds of encodings. -/
theorem finite_or_inf_or_nan (x : BitVec 32) : fpFinite x ∨ fpAbs x = 0x7F800000 ∨ fpNan x := lt_trichotomy _ _

theorem fpNan_iff {x : BitVec 32} : ¬fpNan x ↔ fpAbs x ≤ 0x7F800000 := Nat.not_lt

theorem fpFinite.not_nan {x : BitVec 32} (h : fpFinite x) : ¬fpNan x := Nat.lt_asymm h

/-- The sign, exponent and fraction fields that the model takes from an encoding. -/
theorem fp32_fields (x : BitVec 32) : bitAt x.toNat 31 = x.msb ∧ bitsOf x.toNat 30 23 = fpAbs x / 2 ^ 23
    ∧ x.toNat % 2 ^ 23 = fpAbs x % 2 ^ 23 := by
  have hx := x.isLt
  refine ⟨?_, ?_, ?_⟩
  · rw [bitAt_eq_testBit, BitVec.testBit_toNat, BitVec.msb_eq_getLsbD_last]
  · simp only [bitsOf, fpAbs]
    omega
  · simp only [fpAbs]
    omega

/-- An encoding as the model decodes it; the significand and its place stand for the two ways to read a fraction. -/
theorem fpDecode_fp32 (x : BitVec 32) :
    fpDecode fp32 x.toNat =
      if fpAbs x / 2 ^ 23 = 255 then
        (if fpAbs x % 2 ^ 23 = 0 then .inf x.msb else .nan (decide (fpAbs x % 2 ^ 23 < 2 ^ 22)))
      else .fin x.msb (fpSig (fpAbs x)) ((fpPlace (fpAbs x) : Int) - 149) := by
  obtain ⟨hs, he, hm⟩ := fp32_fields x
  simp only [fpDecode, fp32, Nat.reduceAdd, Nat.reduceSub, hs, he, hm]
  refine if_congr Iff.rfl rfl ?_
  unfold fpSig fpPlace
  split
  · congr 1
    · omega
    · omega
  · congr 1
    omega

theorem fpDecode_finite {x : BitVec 32} (h : fpFinite x) :
    fpDecode fp32 x.toNat = .fin x.msb (fpSig (fpAbs x)) ((fpPlace (fpAbs x) : Int) - 149) := by
  unfold fpFinite at h
  rw [fpDecode_fp32, if_neg (by omega)]

theorem fpDecode_inf {x : BitVec 32} (h : fpAbs x = 0x7F800000) : fpDecode fp32 x.toNat = .inf x.msb := by
  rw [fpDecode_fp32, h]
  rfl

theorem fpDecode_nan {x : BitVec 32} (h : fpNan x) : fpDecode fp32 x.toNat = .nan (!x.getLsbD 22) := by
  obtain ⟨-, -, hm⟩ := fp32_fields x
  have hx := fpAbs_lt x
  have hquiet : (!x.getLsbD 22) = decide (fpAbs x % 2 ^ 23 < 2 ^ 22) := by
    rw [← BitVec.testBit_toNat, Nat.testBit_eq_decide_div_mod_eq, ← hm, ← decide_not]
    exact decide_eq_decide.2 (by omega)
  unfold fpNan at h
  rw [fpDecode_fp32, if_pos (by omega), if_neg (by omega), hquiet]

/-! ### The other sign -/

/-- The encoding with the other sign. -/
def fpFlip (x : BitVec 32) : BitVec 32 := x ^^^ 0x80000000

theorem fpAbs_flip (x : BitVec 32) : fpAbs (fpFlip x) = fpAbs x := by
  rw [fpAbs, fpFlip, BitVec.toNat_xor, Nat.xor_mod_two_pow]
  exact Nat.xor_zero _

theorem msb_flip (x : BitVec 32) : (fpFlip x).msb = !x.msb := by
  rw [fpFlip, BitVec.msb_xor]
  exact Bool.xor_true _

theorem flip_flip (x : BitVec 32) : fpFlip (fpFlip x) = x := by
  rw [fpFlip, fpFlip, BitVec.xor_assoc, BitVec.xor_self]
  exact BitVec.xor_zero

theorem fpFinite_flip {x : BitVec 32} (h : fpFinite x) : fpFinite (fpFlip x) := by rwa [fpFinite, fpAbs_flip]

theorem fpInt_flip (x : BitVec 32) : fpInt (fpFlip x) = -fpInt x := by
  rw [fpInt, fpInt, fpAbs_flip, msb_flip]
  cases x.msb
  · rfl
  · exact (neg_neg _).symm

theorem fpDecode_flip (x : BitVec 32) : fpDecode fp32 (fpFlip x).toNat = (fpDecode fp32 x.toNat).negate := by
  rw [fpDecode_fp32, fpDecode_fp32, fpAbs_flip, msb_flip]
  split
  · split <;> rfl
  · rfl

theorem isNan_negate (v : FVal) : v.negate.isNan = v.isNan := by cases v <;> rfl

theorem isSnan_negate (v : FVal) : v.negate.isSnan = v.isSnan := by cases v <;> rfl

/-- A difference is the sum with the other sign of the subtrahend. -/
theorem fpSub_eq_fpAdd_flip (x y : BitVec 32) : fpSub fp32 x.toNat y.toNat = fpAdd fp32 x.toNat (fpFlip y).toNat := by
  simp only [fpSub, fpAdd, fpDecode_flip, isNan_negate, isSnan_negate]

end Sys2Proof.Safety
end

section
/-! SUPPORT. Rounding to nearest even (R48, R57): what the model's rounding does to an exact magnitude, and that its encoding is the
nearest one. A magnitude is a natural number `x` in units of 2^−(149 + c). -/

namespace Sys2Proof.Safety

open Sys2Proof Sys2Proof.Machine

/-! ### Rounding to a grid -/

theorem scaled_div_of_le {s g : Nat} (h : s ≤ g) (m : Nat) : m * 2 ^ s / 2 ^ g = m / 2 ^ (g - s) := by
  rw [← Nat.sub_add_cancel h, pow_add, Nat.mul_div_mul_right _ _ (Nat.two_pow_pos s), Nat.add_sub_cancel]

theorem scaled_mod_of_le {s g : Nat} (h : s ≤ g) (m : Nat) : m * 2 ^ s % 2 ^ g = m % 2 ^ (g - s) * 2 ^ s := by
  conv_lhs => rw [← Nat.sub_add_cancel h, pow_add, Nat.mul_mod_mul_right]

theorem scaled_eq_mul {s g : Nat} (h : g ≤ s) (m : Nat) : m * 2 ^ s = m * 2 ^ (s - g) * 2 ^ g := by
  rw [mul_assoc, ← pow_add, Nat.sub_add_cancel h]

/-- The multiple of `G` nearest to `x`, in units of `G`: the even one of two. -/
def halfEven (x G : Nat) : Nat := if G < 2 * (x % G) ∨ (2 * (x % G) = G ∧ x / G % 2 = 1) then x / G + 1 else x / G

theorem halfEven_mul (a : Nat) {G : Nat} (hG : 0 < G) : halfEven (a * G) G = a := by
  unfold halfEven
  rw [Nat.mul_mod_left, Nat.mul_div_cancel _ hG, if_neg (by omega)]

theorem halfEven_le (x G : Nat) : halfEven x G ≤ x / G + 1 := by
  unfold halfEven
  split <;> omega

theorem le_halfEven (x G : Nat) : x / G ≤ halfEven x G := by
  unfold halfEven
  split <;> omega

/-- A multiple of `G` is the only magnitude that stays as it was. -/
theorem halfEven_mul_eq_iff (x : Nat) {G : Nat} (hG : 0 < G) : halfEven x G * G = x ↔ x % G = 0 := by
  constructor
  · intro h
    rw [← h, Nat.mul_mod_left]
  · intro h
    obtain ⟨a, rfl⟩ := Nat.dvd_of_mod_eq_zero h
    rw [Nat.mul_comm G a, halfEven_mul a hG]

/-- Mode 0 of the model's rounding, for a magnitude and a grid in one unit. -/
theorem roundMag_rne {m s g : Nat} {e q : Int} (u : Nat) (neg : Bool) (h : e - q = (s : Int) - g) :
    roundMag 0 u neg m e false q = (halfEven (m * 2 ^ s) (2 ^ g), decide (m * 2 ^ s % 2 ^ g ≠ 0)) := by
  unfold roundMag
  split
  · next hq =>
    have hgs : g ≤ s := by omega
    rw [scaled_eq_mul hgs, halfEven_mul _ (Nat.two_pow_pos g), Nat.mul_mod_left, show (e - q).toNat = s - g by omega]
    rfl
  · next hq =>
    obtain ⟨k, rfl⟩ : ∃ k, g = k + 1 + s := ⟨g - s - 1, by omega⟩
    have hs : s ≤ k + 1 + s := by omega
    have hpos : 0 < 2 ^ s := Nat.two_pow_pos s
    rw [show (q - e).toNat = k + 1 by omega]
    unfold halfEven
    rw [scaled_div_of_le hs, scaled_mod_of_le hs, Nat.add_sub_cancel]
    have hlt : 2 ^ (k + 1 + s) < 2 * (m % 2 ^ (k + 1) * 2 ^ s) ↔ 2 ^ k < m % 2 ^ (k + 1) := by
      rw [show 2 ^ (k + 1 + s) = 2 * (2 ^ k * 2 ^ s) by ring, Nat.mul_lt_mul_left two_pos, Nat.mul_lt_mul_right hpos]
    have heq : 2 * (m % 2 ^ (k + 1) * 2 ^ s) = 2 ^ (k + 1 + s) ↔ m % 2 ^ (k + 1) = 2 ^ k := by
      rw [show 2 ^ (k + 1 + s) = 2 * (2 ^ k * 2 ^ s) by ring, Nat.mul_right_inj two_ne_zero, Nat.mul_left_inj hpos.ne']
    have hzero : m % 2 ^ (k + 1) * 2 ^ s = 0 ↔ m % 2 ^ (k + 1) = 0 := by simp
    simp only [Nat.add_sub_cancel, hlt, heq, hzero, ne_eq, Bool.or_false, Bool.false_or, Bool.or_eq_true, Bool.and_eq_true,
      decide_eq_true_eq, bne, decide_not, beq_eq_decide]

/-- Mode 1, which cuts off. -/
theorem roundMag_rz {m s g : Nat} {e q : Int} (u : Nat) (neg : Bool) (h : e - q = (s : Int) - g) :
    roundMag 1 u neg m e false q = (m * 2 ^ s / 2 ^ g, decide (m * 2 ^ s % 2 ^ g ≠ 0)) := by
  unfold roundMag
  split
  · next hq =>
    have hgs : g ≤ s := by omega
    rw [scaled_eq_mul hgs, Nat.mul_div_cancel _ (Nat.two_pow_pos g), Nat.mul_mod_left, show (e - q).toNat = s - g by omega]
    rfl
  · next hq =>
    have hs : s ≤ g := by omega
    rw [scaled_div_of_le hs, scaled_mod_of_le hs, show (q - e).toNat = g - s by omega]
    simp [bne, beq_eq_decide]

/-! ### Rounding to an encoding -/

/-- How many binary places above the finest grid of fp32 a magnitude is rounded. -/
def roundPlace (c x : Nat) : Nat := Nat.log2 x - (23 + c)

/-- The encoding that a magnitude is rounded to, its exponent unbounded above. -/
def roundEnc (c x : Nat) : Nat := roundPlace c x * 2 ^ 23 + halfEven x (2 ^ (roundPlace c x + c))

/-- Tiny after rounding: below the least normal number when rounded to 24 bits, its exponent unbounded below. -/
def roundTiny (c x : Nat) : Bool := decide (Nat.log2 x < 23 + c ∧ halfEven (x * 2 ^ 23) (2 ^ Nat.log2 x) < 2 ^ (46 + c - Nat.log2 x))

theorem log2_mul_pow {m : Nat} (hm : m ≠ 0) (s : Nat) : Nat.log2 (m * 2 ^ s) = Nat.log2 m + s := by
  have hx : m * 2 ^ s ≠ 0 := Nat.mul_ne_zero hm (Nat.two_pow_pos s).ne'
  refine (Nat.log2_eq_iff hx).2 ⟨?_, ?_⟩
  · rw [pow_add]
    exact Nat.mul_le_mul_right _ (Nat.log2_self_le hm)
  · rw [Nat.add_right_comm, pow_add]
    exact Nat.mul_lt_mul_of_pos_right Nat.lt_log2_self (Nat.two_pow_pos s)

/-- The model's rounding of a magnitude, with fp32's constants put in. -/
theorem fpRoundMag_fp32 {m : Nat} (neg : Bool) (hm : m ≠ 0) (e : Int) :
    fpRoundMag fp32 0 0 neg m e false =
      let qn := e + Nat.log2 m - 23
      let q := if -149 ≤ qn then qn else -149
      let r := roundMag 0 0 neg m e false q
      let enc := (q + 149).toNat * 2 ^ 23 + r.1
      ⟨enc, decide (0x7F7FFFFF < enc),
        if qn < -149 then decide ((roundMag 0 0 neg m e false qn).1 < 2 ^ (23 + (-149 - qn).toNat)) else false, r.2⟩ :=
  if_neg hm

theorem fpRoundMag_eq {m s c : Nat} {e : Int} (neg : Bool) (hm : m ≠ 0) (he : e = (s : Int) - (149 + c)) :
    fpRoundMag fp32 0 0 neg m e false =
      ⟨roundEnc c (m * 2 ^ s), decide (0x7F7FFFFF < roundEnc c (m * 2 ^ s)), roundTiny c (m * 2 ^ s),
        decide (m * 2 ^ s % 2 ^ (roundPlace c (m * 2 ^ s) + c) ≠ 0)⟩ := by
  have hlog := log2_mul_pow hm s
  have hplace : roundPlace c (m * 2 ^ s) = Nat.log2 m + s - (23 + c) := by rw [roundPlace, hlog]
  have hq : (if -149 ≤ e + Nat.log2 m - 23 then e + Nat.log2 m - 23 else -149) = (roundPlace c (m * 2 ^ s) : Int) - 149 := by
    rw [hplace]
    split <;> omega
  have hr := roundMag_rne (m := m) (s := s) (g := roundPlace c (m * 2 ^ s) + c) (e := e) (q := (roundPlace c (m * 2 ^ s) : Int) - 149)
    0 neg (by omega)
  have ht := roundMag_rne (m := m) (s := s + 23) (g := Nat.log2 (m * 2 ^ s)) (e := e) (q := e + Nat.log2 m - 23) 0 neg (by omega)
  have htiny : (if e + Nat.log2 m - 23 < -149 then
      decide ((roundMag 0 0 neg m e false (e + Nat.log2 m - 23)).1 < 2 ^ (23 + (-149 - (e + Nat.log2 m - 23)).toNat)) else false)
      = roundTiny c (m * 2 ^ s) := by
    rw [ht, roundTiny, pow_add, ← mul_assoc, Bool.decide_and]
    by_cases h : Nat.log2 (m * 2 ^ s) < 23 + c
    · rw [if_pos (by omega), decide_eq_true h, Bool.true_and,
        show 23 + (-149 - (e + Nat.log2 m - 23)).toNat = 46 + c - Nat.log2 (m * 2 ^ s) by omega]
    · rw [if_neg (by omega), decide_eq_false h, Bool.false_and]
  have henc : ((roundPlace c (m * 2 ^ s) : Int) - 149 + 149).toNat = roundPlace c (m * 2 ^ s) := by omega
  simp only [fpRoundMag_fp32 neg hm, hq, hr, htiny, henc]
  rfl

/-! ### The encoding is the nearest one -/

/-- Of two neighbouring encodings around a magnitude, the nearer one is the nearest of all; past the greatest number it is infinity. -/
theorem nearest_of_between {n k u x : Nat} (hu : 0 < u) (hlo : fpMag n * u ≤ x) (hhi : x < fpMag (n + 1) * u)
    (hk : k = if fpMag (n + 1) * u - x < x - fpMag n * u ∨ (fpMag (n + 1) * u - x = x - fpMag n * u ∧ n % 2 = 1) then n + 1 else n) :
    Nearest (min k 0x7F800000) u x := by
  refine ⟨min_le_right _ _, fun j hj => ?_⟩
  have hmono : StrictMono fun i => fpMag i * u := fun a b h => Nat.mul_lt_mul_of_pos_right (fpMag_strictMono h) hu
  generalize hM : (fun i => fpMag i * u) = M at hmono
  have hMi (i : Nat) : fpMag i * u = M i := by rw [← hM]
  simp only [hMi] at hlo hhi hk ⊢
  rcases Nat.lt_or_ge n 0x7F800000 with hn | hn
  · have hkle : min k 0x7F800000 = k := min_eq_left (by split at hk <;> omega)
    rw [hkle]
    have hbelow : j < n → M j < M n := fun h => hmono h
    have habove : n + 1 < j → M (n + 1) < M j := fun h => hmono h
    obtain h | rfl | rfl | h : j < n ∨ j = n ∨ j = n + 1 ∨ n + 1 < j := by omega
    all_goals
      split at hk
      all_goals
        subst hk
        omega
  · have hkge : min k 0x7F800000 = 0x7F800000 := min_eq_right (by split at hk <;> omega)
    rw [hkge]
    have hinf : M 0x7F800000 ≤ M n := hmono.monotone hn
    rcases hj.eq_or_lt with rfl | h
    · exact .inr ⟨rfl, .inl rfl⟩
    · have := hmono h
      omega

/-- The digits of a magnitude above its grid make a significand. -/
theorem roundPlace_bounds {x : Nat} (hx : x ≠ 0) (c : Nat) :
    x / 2 ^ (roundPlace c x + c) < 2 ^ 24 ∧ (roundPlace c x = 0 ∨ 2 ^ 23 ≤ x / 2 ^ (roundPlace c x + c)) := by
  constructor
  · refine Nat.div_lt_of_lt_mul (Nat.lt_log2_self.trans_le ?_)
    rw [← pow_add]
    exact Nat.pow_le_pow_right two_pos (by unfold roundPlace; omega)
  · by_cases h : roundPlace c x = 0
    · exact .inl h
    · refine .inr ((Nat.le_div_iff_mul_le (Nat.two_pow_pos _)).2 (le_trans ?_ (Nat.log2_self_le hx)))
      rw [← pow_add]
      exact Nat.pow_le_pow_right two_pos (by unfold roundPlace at h ⊢; omega)

/-- The number of an encoding at the place of a magnitude, in the magnitude's unit. -/
theorem fpMag_at_place {c x a : Nat} (ha : a ≤ 2 ^ 24) (hp : roundPlace c x = 0 ∨ 2 ^ 23 ≤ a) :
    fpMag (roundPlace c x * 2 ^ 23 + a) * 2 ^ c = a * 2 ^ (roundPlace c x + c) := by
  rw [fpMag_join ha hp, mul_assoc, ← pow_add]

theorem roundEnc_exact_iff {x : Nat} (hx : x ≠ 0) (c : Nat) :
    fpMag (roundEnc c x) * 2 ^ c = x ↔ x % 2 ^ (roundPlace c x + c) = 0 := by
  obtain ⟨hlt, hge⟩ := roundPlace_bounds hx c
  rw [roundEnc, fpMag_at_place ((halfEven_le _ _).trans hlt) (hge.imp_right fun h => h.trans (le_halfEven _ _)),
    halfEven_mul_eq_iff _ (Nat.two_pow_pos _)]

theorem nearest_roundEnc {x : Nat} (hx : x ≠ 0) (c : Nat) : Nearest (min (roundEnc c x) 0x7F800000) (2 ^ c) x := by
  obtain ⟨hlt, hge⟩ := roundPlace_bounds hx c
  have hlo := fpMag_at_place hlt.le hge
  have hhi := fpMag_at_place (a := x / 2 ^ (roundPlace c x + c) + 1) hlt (hge.imp_right fun h => h.trans (Nat.le_succ _))
  have hx' := Nat.div_add_mod' x (2 ^ (roundPlace c x + c))
  have hr := Nat.mod_lt x (Nat.two_pow_pos (roundPlace c x + c))
  rw [Nat.add_mul, one_mul] at hhi
  refine nearest_of_between (n := roundPlace c x * 2 ^ 23 + x / 2 ^ (roundPlace c x + c)) (Nat.two_pow_pos c) ?_ ?_ ?_
  · omega
  · rw [Nat.add_assoc, hhi]
    omega
  · rw [Nat.add_assoc, hlo, hhi, roundEnc, halfEven]
    generalize 2 ^ (roundPlace c x + c) = G at *
    generalize x / G * G = y at *
    have hiff : G < 2 * (x % G) ∨ (2 * (x % G) = G ∧ x / G % 2 = 1)
        ↔ y + G - x < x - y ∨ (y + G - x = x - y ∧ (roundPlace c x * 2 ^ 23 + x / G) % 2 = 1) := by
      omega
    rw [if_congr hiff rfl rfl, apply_ite (roundPlace c x * 2 ^ 23 + ·)]

/-! ### Tininess -/

/-- A magnitude that rounds to infinity is not tiny. -/
theorem roundTiny_of_overflow {c x : Nat} (hx : x ≠ 0) (h : 0x7F7FFFFF < roundEnc c x) : roundTiny c x = false := by
  obtain ⟨hlt, -⟩ := roundPlace_bounds hx c
  have hle := halfEven_le x (2 ^ (roundPlace c x + c))
  refine decide_eq_false fun ⟨hL, _⟩ => ?_
  have h0 : roundPlace c x = 0 := Nat.sub_eq_zero_of_le hL.le
  rw [roundEnc] at h
  rw [h0] at h hle hlt
  omega

/-- For a product, in units of 2^−298: below 2^−126 less half a unit of 24 bits, which rounds up to it. -/
theorem roundTiny_mul (x : Nat) : roundTiny 149 x = decide (x < 2 ^ 172 - 2 ^ 147) := by
  refine decide_eq_decide.2 ?_
  rcases Nat.lt_or_ge x (2 ^ 171) with h | h
  · refine iff_of_true ?_ (by omega)
    rcases eq_or_ne x 0 with rfl | hx
    · decide
    · have hL : Nat.log2 x < 171 := (Nat.log2_lt hx).2 h
      have hdiv : x * 2 ^ 23 / 2 ^ Nat.log2 x < 2 ^ 24 := by
        rw [Nat.div_lt_iff_lt_mul (Nat.two_pow_pos _), show 2 ^ 24 * 2 ^ Nat.log2 x = 2 ^ (Nat.log2 x + 1) * 2 ^ 23 by ring]
        exact Nat.mul_lt_mul_of_pos_right Nat.lt_log2_self (by decide)
      refine ⟨by omega, ?_⟩
      calc halfEven (x * 2 ^ 23) (2 ^ Nat.log2 x) ≤ 2 ^ 24 := (halfEven_le _ _).trans hdiv
        _ < 2 ^ (46 + 149 - Nat.log2 x) := Nat.pow_lt_pow_right one_lt_two (by omega)
  · have hx : x ≠ 0 := by rintro rfl; exact absurd h (by decide)
    rcases Nat.lt_or_ge x (2 ^ 172) with h' | h'
    · rw [(Nat.log2_eq_iff hx).2 ⟨h, h'⟩, halfEven]
      split <;> omega
    · have hL : 172 ≤ Nat.log2 x := (Nat.le_log2 hx).2 h'
      exact iff_of_false (by omega) (by omega)

/-! ### Conversion to fp32 -/

/-- Conversion to fp32 under mode 0, from the rounded magnitude. -/
theorem fpConvert_fin (neg : Bool) (m : Nat) (e : Int) :
    fpConvert fp32 false 0 0 (.fin neg m e) =
      let r := fpRoundMag fp32 0 0 neg m e false
      if r.overflow then ⟨0x7F800000 + if neg then 2 ^ 31 else 0, 5⟩
      else ⟨r.enc + if neg then 2 ^ 31 else 0, (if r.inexact then 1 else 0) + if r.inexact && r.tiny then 2 else 0⟩ :=
  rfl

/-- Rounding to fp32 (R52, mode 0) gives the nearest encoding with the flags of R56. -/
theorem fpConvert_rounds {m s c : Nat} {e : Int} (neg : Bool) (hm : m ≠ 0) (he : e = (s : Int) - (149 + c)) :
    Rounds (BitVec.ofNat 64 (fpConvert fp32 false 0 0 (.fin neg m e)).val) (BitVec.ofNat 5 (fpConvert fp32 false 0 0 (.fin neg m e)).flags)
      neg (2 ^ c) (m * 2 ^ s) (roundTiny c (m * 2 ^ s)) := by
  have hx : m * 2 ^ s ≠ 0 := Nat.mul_ne_zero hm (Nat.two_pow_pos s).ne'
  have hnear := nearest_roundEnc hx c
  have hexact := roundEnc_exact_iff hx c
  rw [fpConvert_fin, fpRoundMag_eq neg hm he]
  by_cases hov : 0x7F7FFFFF < roundEnc c (m * 2 ^ s)
  · rw [min_eq_right hov] at hnear
    rw [roundTiny_of_overflow hx hov, decide_eq_true hov]
    exact ⟨_, hnear, rfl, by simp⟩
  · rw [min_eq_left (Nat.not_lt.1 hov |>.trans (by decide))] at hnear
    have hinf : roundEnc c (m * 2 ^ s) ≠ 0x7F800000 := by omega
    rw [decide_eq_false hov]
    refine ⟨_, hnear, rfl, ?_⟩
    simp only [hinf, ne_eq, hexact, false_or, decide_false]
    by_cases hr : m * 2 ^ s % 2 ^ (roundPlace c (m * 2 ^ s) + c) = 0
    · simp [hr]
    · cases roundTiny c (m * 2 ^ s)
      · simp [hr]
      · simp [hr]

theorem Nearest.zero (u : Nat) (hu : 0 < u) : Nearest 0 u 0 := by
  refine ⟨Nat.zero_le _, fun j _ => ?_⟩
  rcases Nat.eq_zero_or_pos j with rfl | hj
  · exact .inr ⟨rfl, .inl rfl⟩
  · have := Nat.mul_pos (fpMag_strictMono hj) hu
    left
    simp only [fpMag_zero]
    omega

/-- A zero keeps the sign that it is given. -/
theorem fpConvert_zero_rounds (neg uf : Bool) (e : Int) {u : Nat} (hu : 0 < u) :
    Rounds (BitVec.ofNat 64 (fpConvert fp32 false 0 0 (.fin neg 0 e)).val) (BitVec.ofNat 5 (fpConvert fp32 false 0 0 (.fin neg 0 e)).flags)
      neg u 0 uf :=
  ⟨0, Nearest.zero u hu, rfl, by simp [fpConvert_fin, fpRoundMag, fpMag_zero]⟩

/-- Below 2^−125 every sum is an encoding's number, so that no sum underflows. -/
theorem Nearest.exact {k x : Nat} (h : Nearest k 1 x) (hx : x < 2 ^ 24) : fpMag k = x := by
  obtain ⟨-, hn⟩ := h
  have hj : fpMag x = x := by simpa using fpMag_join (j := 0) hx.le (.inl rfl)
  have := hn x (by omega)
  simp only [hj] at this
  omega

theorem Rounds.no_underflow {v : Word} {f : BitVec 5} {neg : Bool} {x : Nat} (h : Rounds v f neg 1 x (roundTiny 0 x)) :
    Rounds v f neg 1 x false := by
  obtain ⟨k, hk, hv, h0, h1, h⟩ := h
  refine ⟨k, hk, hv, h0, ?_, h⟩
  rw [h1, Bool.false_and, Bool.and_eq_false_imp]
  intro ht
  obtain ⟨hlog, -⟩ := of_decide_eq_true ht
  have hx : x < 2 ^ 24 := Nat.lt_log2_self.trans_le (Nat.pow_le_pow_right two_pos (by omega))
  simp [hk.exact hx]

end Sys2Proof.Safety
end

section
/-! SUPPORT. The exact numbers that the scalar fp32 instructions round (R57), and O6. -/

namespace Sys2Proof.Safety

open Sys2Proof Sys2Proof.Machine

/-! ### Exact numbers -/

/-- The exact number `d` is the integer `v` in units of 2^−149. -/
def InUnits (d : Dy) (v : Int) : Prop := ∃ s : Nat, d.e = (s : Int) - 149 ∧ d.m * 2 ^ s = v

theorem inUnits_add {a b : Dy} {v w : Int} (ha : InUnits a v) (hb : InUnits b w) : InUnits (a.add b) (v + w) := by
  obtain ⟨i, hi, rfl⟩ := ha
  obtain ⟨j, hj, rfl⟩ := hb
  unfold Dy.add
  split
  · next h =>
    obtain ⟨n, rfl⟩ : ∃ n, j = i + n := ⟨j - i, by omega⟩
    refine ⟨i, hi, ?_⟩
    rw [show (b.e - a.e).toNat = n by omega]
    ring
  · next h =>
    obtain ⟨n, rfl⟩ : ∃ n, i = j + n := ⟨i - j, by omega⟩
    refine ⟨j, hj, ?_⟩
    rw [show (a.e - b.e).toNat = n by omega]
    ring

/-- An exact number has the sign of its integer. -/
theorem InUnits.sign {d : Dy} {v : Int} (h : InUnits d v) : (d.m < 0 ↔ v < 0) ∧ (d.m = 0 ↔ v = 0) := by
  obtain ⟨s, -, rfl⟩ := h
  have hpos : (0 : Int) < 2 ^ s := Int.pow_pos (by decide)
  constructor
  · simp [mul_neg_iff, hpos, hpos.not_gt]
  · simp

theorem natAbs_mul_pow (m : Int) (s : Nat) : (m * 2 ^ s).natAbs = m.natAbs * 2 ^ s := by
  rw [Int.natAbs_mul, Int.natAbs_pow]
  rfl

/-- An exact number rounded to fp32, with the sign given for a zero. -/
theorem toVal_rounds {d : Dy} {v : Int} (h : InUnits d v) (z : Bool) :
    Rounds (BitVec.ofNat 64 (fpConvert fp32 false 0 0 (d.toVal z)).val) (BitVec.ofNat 5 (fpConvert fp32 false 0 0 (d.toVal z)).flags)
      (if v = 0 then z else decide (v < 0)) 1 v.natAbs false := by
  obtain ⟨hneg, hzero⟩ := h.sign
  obtain ⟨s, hs, hv⟩ := h
  unfold Dy.toVal
  by_cases hm : d.m = 0
  · rw [if_pos hm, if_pos (hzero.1 hm), hzero.1 hm]
    exact fpConvert_zero_rounds z false 0 Nat.one_pos
  · rw [if_neg hm, if_neg (mt hzero.2 hm), ← decide_eq_decide.2 hneg, ← hv, natAbs_mul_pow]
    exact (fpConvert_rounds (c := 0) _ (Int.natAbs_ne_zero.2 hm) (by omega)).no_underflow

theorem dy_finite {x : BitVec 32} (h : fpFinite x) : InUnits (fpDecode fp32 x.toNat).dy (fpInt x) := by
  rw [fpDecode_finite h]
  refine ⟨fpPlace (fpAbs x), rfl, ?_⟩
  rw [fpInt, fpMag_eq]
  cases x.msb
  · simp [FVal.dy]
  · simp [FVal.dy]

/-! ### Sums and products -/

theorem zeroSign_rne (a b : Bool) : zeroSign 0 a b = (a && b) := by cases a <;> cases b <;> rfl

theorem fpAdd_rounds {x y : BitVec 32} (hx : fpFinite x) (hy : fpFinite y) :
    Rounds (BitVec.ofNat 64 (fpAdd fp32 x.toNat y.toNat).val) (BitVec.ofNat 5 (fpAdd fp32 x.toNat y.toNat).flags)
      (if fpInt x + fpInt y = 0 then x.msb && y.msb else decide (fpInt x + fpInt y < 0)) 1 (fpInt x + fpInt y).natAbs false := by
  have hadd : fpAdd fp32 x.toNat y.toNat
      = fpConvert fp32 false 0 0 (((fpDecode fp32 x.toNat).dy.add (fpDecode fp32 y.toNat).dy).toVal (x.msb && y.msb)) := by
    rw [← zeroSign_rne, fpAdd, fpDecode_finite hx, fpDecode_finite hy]
    rfl
  rw [hadd]
  exact toVal_rounds (inUnits_add (dy_finite hx) (dy_finite hy)) _

theorem fpSub_rounds {x y : BitVec 32} (hx : fpFinite x) (hy : fpFinite y) :
    Rounds (BitVec.ofNat 64 (fpSub fp32 x.toNat y.toNat).val) (BitVec.ofNat 5 (fpSub fp32 x.toNat y.toNat).flags)
      (if fpInt x - fpInt y = 0 then x.msb && !y.msb else decide (fpInt x - fpInt y < 0)) 1 (fpInt x - fpInt y).natAbs false := by
  have h := fpAdd_rounds hx (fpFinite_flip hy)
  rw [fpInt_flip, msb_flip, ← fpSub_eq_fpAdd_flip] at h
  exact h

theorem natAbs_fpInt (x : BitVec 32) : (fpInt x).natAbs = fpMag (fpAbs x) := by
  unfold fpInt
  split
  · rw [Int.natAbs_neg, Int.natAbs_natCast]
  · rw [Int.natAbs_natCast]

theorem fpMul_rounds {x y : BitVec 32} (hx : fpFinite x) (hy : fpFinite y) :
    Rounds (BitVec.ofNat 64 (fpMul fp32 x.toNat y.toNat).val) (BitVec.ofNat 5 (fpMul fp32 x.toNat y.toNat).flags)
      (x.msb ^^ y.msb) (2 ^ 149) (fpInt x * fpInt y).natAbs (decide ((fpInt x * fpInt y).natAbs < 2 ^ 172 - 2 ^ 147)) := by
  have hmul : fpMul fp32 x.toNat y.toNat = fpConvert fp32 false 0 0 (.fin (x.msb ^^ y.msb) (fpSig (fpAbs x) * fpSig (fpAbs y))
      ((fpPlace (fpAbs x) : Int) - 149 + ((fpPlace (fpAbs y) : Int) - 149))) := by
    rw [fpMul, fpDecode_finite hx, fpDecode_finite hy]
    rfl
  have habs : (fpInt x * fpInt y).natAbs = fpSig (fpAbs x) * fpSig (fpAbs y) * 2 ^ (fpPlace (fpAbs x) + fpPlace (fpAbs y)) := by
    rw [Int.natAbs_mul, natAbs_fpInt, natAbs_fpInt, fpMag_eq, fpMag_eq, pow_add]
    ring
  rw [hmul, ← roundTiny_mul, habs]
  by_cases hm : fpSig (fpAbs x) * fpSig (fpAbs y) = 0
  · rw [hm, zero_mul]
    exact fpConvert_zero_rounds _ _ _ (Nat.two_pow_pos 149)
  · exact fpConvert_rounds _ hm (by omega)

/-! ### The words -/

/-- A word that ends by writing an fp32 result and its flags. -/
theorem Issues.writesFp {s : State} {t : Thread} {g : BitVec 5} {f : State → Thread → State} (hi : Issues s t g) (ha : Ahead s t)
    {d : BitVec 4} {r : Flagged Nat} (hf : f s t = retireFp s t d r) :
    ∃ s', scalar g s f = .next s' ∧ WroteFp s s' t d (BitVec.ofNat 64 r.val) (BitVec.ofNat 5 r.flags) := by
  have ha' : Ahead s (t.orFpx r.flags) := ha
  obtain ⟨u, hu, hd, hc, he⟩ := ha'.wroteReg d (BitVec.ofNat 64 r.val)
  exact ⟨f s t, hi.scalar_eq f, by rw [hf]; exact ⟨u, hu, hd, hc, he⟩⟩

theorem lo32_eq (w : Word) : lo32 w = (low w).toNat := (BitVec.toNat_setWidth 32 w).symm

/-- A two-operand fp32 word writes the result and the flags of its operation on the low halves (R57). -/
theorem Issues.writesFpuOp {s : State} {t : Thread} {g : BitVec 5} (hi : Issues s t g) (ha : Ahead s t) {f : Nat → Nat → Flagged Nat}
    {d a b : BitVec 4} {r : Flagged Nat} (hr : f (low (t.reg a)).toNat (low (t.reg b)).toNat = r) :
    ∃ s', fpuOp f g d a b s = .next s' ∧ WroteFp s s' t d (BitVec.ofNat 64 r.val) (BitVec.ofNat 5 r.flags) := by
  unfold fpuOp
  exact hi.writesFp ha (by rw [lo32_eq, lo32_eq, hr])

/-- Settles O6: the exact sum, difference or product of the decoded numbers is rounded to the nearest encoding (`fpConvert_rounds`); a sum
is never tiny and inexact (`Rounds.no_underflow`). -/
theorem floatRounding : Obligations.FloatRounding := by
  unfold Obligations.FloatRounding
  intro s t g d a b hi ha x y hx hy
  have op (f : Nat → Nat → Flagged Nat) {neg uf : Bool} {u m : Nat}
      (hr : Rounds (BitVec.ofNat 64 (f x.toNat y.toNat).val) (BitVec.ofNat 5 (f x.toNat y.toNat).flags) neg u m uf) :
      ∃ s' v w, fpuOp f g d a b s = .next s' ∧ WroteFp s s' t d v w ∧ Rounds v w neg u m uf := by
    obtain ⟨s', he, hw⟩ := hi.writesFpuOp ha (f := f) rfl
    exact ⟨s', _, _, he, hw, hr⟩
  exact ⟨op (fpAdd fp32) (fpAdd_rounds hx hy), op (fpSub fp32) (fpSub_rounds hx hy), op (fpMul fp32) (fpMul_rounds hx hy)⟩

end Sys2Proof.Safety
end

section
/-! SUPPORT. The special values, minimum and maximum, conversions and comparisons of the scalar fp32 instructions (R57, R58), and O7. -/

namespace Sys2Proof.Safety

open Sys2Proof Sys2Proof.Machine

/-! ### What decoding tells apart -/

theorem isNan_decode_iff (x : BitVec 32) : (fpDecode fp32 x.toNat).isNan = true ↔ fpNan x := by
  rcases finite_or_inf_or_nan x with h | h | h
  · rw [fpDecode_finite h]
    exact iff_of_false Bool.false_ne_true h.not_nan
  · rw [fpDecode_inf h]
    exact iff_of_false Bool.false_ne_true (fpNan_iff.2 h.le)
  · rw [fpDecode_nan h]
    exact iff_of_true rfl h

theorem isNan_decode {x : BitVec 32} (h : fpNan x) : (fpDecode fp32 x.toNat).isNan = true := (isNan_decode_iff x).2 h

theorem not_isNan_decode {x : BitVec 32} (h : ¬fpNan x) : (fpDecode fp32 x.toNat).isNan = false :=
  Bool.eq_false_iff.2 (mt (isNan_decode_iff x).1 h)

theorem isSnan_decode_iff (x : BitVec 32) : (fpDecode fp32 x.toNat).isSnan = true ↔ fpSignals x := by
  rcases finite_or_inf_or_nan x with h | h | h
  · rw [fpDecode_finite h]
    exact iff_of_false Bool.false_ne_true fun hs => h.not_nan hs.1
  · rw [fpDecode_inf h]
    exact iff_of_false Bool.false_ne_true fun hs => fpNan_iff.2 h.le hs.1
  · rw [fpDecode_nan h, fpSignals, and_iff_right h]
    exact Iff.of_eq (Bool.not_eq_true' _)

theorem isZero_decode (x : BitVec 32) : (fpDecode fp32 x.toNat).isZero = decide (fpAbs x = 0) := by
  rcases finite_or_inf_or_nan x with h | h | h
  · have hsig : fpSig (fpAbs x) = 0 ↔ fpAbs x = 0 := by
      unfold fpSig
      split <;> omega
    rw [fpDecode_finite h]
    exact decide_eq_decide.2 hsig
  · rw [fpDecode_inf h, h]
    rfl
  · unfold fpNan at h
    rw [fpDecode_nan h, decide_eq_false (by omega)]
    rfl

theorem neg_decode {x : BitVec 32} (h : ¬fpNan x) : (fpDecode fp32 x.toNat).neg = x.msb := by
  rcases finite_or_inf_or_nan x with hx | hx | hx
  · rw [fpDecode_finite hx]
    rfl
  · rw [fpDecode_inf hx]
    rfl
  · exact absurd hx h

/-- The flag IV under a condition. -/
theorem ivFlag_eq {p : Prop} {b : Bool} {f : BitVec 5} (hb : b = true ↔ p) (h1 : p → f = 16) (h0 : ¬p → f = 0) :
    BitVec.ofNat 5 (if b then flagIV else 0) = f := by
  by_cases h : p
  · rw [if_pos (hb.2 h), h1 h]
    rfl
  · rw [if_neg (mt hb.1 h), h0 h]
    rfl

theorem signals_iff (x y : BitVec 32) :
    ((fpDecode fp32 x.toNat).isSnan || (fpDecode fp32 y.toNat).isSnan) = true ↔ fpSignals x ∨ fpSignals y := by
  rw [Bool.or_eq_true, isSnan_decode_iff, isSnan_decode_iff]

theorem unordered_iff (x y : BitVec 32) :
    ((fpDecode fp32 x.toNat).isNan || (fpDecode fp32 y.toNat).isNan) = true ↔ fpNan x ∨ fpNan y := by
  rw [Bool.or_eq_true, isNan_decode_iff, isNan_decode_iff]

/-! ### Special values of sum, difference and product -/

/-- A NaN operand makes any operation answer the canonical NaN, whose flag depends on signalling alone. -/
theorem arith_nan {x y : BitVec 32} (h : fpNan x ∨ fpNan y) (iv : Bool) (r : Option FVal) :
    arith fp32 0 0 ((fpDecode fp32 x.toNat).isNan || (fpDecode fp32 y.toNat).isNan) iv r = ⟨0x7FC00000, if iv then flagIV else 0⟩ := by
  rw [(unordered_iff x y).2 h]
  rfl

/-- Without a NaN operand only the exact result counts. -/
theorem arith_not_nan {x y : BitVec 32} (hx : ¬fpNan x) (hy : ¬fpNan y) (iv : Bool) (r : Option FVal) :
    arith fp32 0 0 ((fpDecode fp32 x.toNat).isNan || (fpDecode fp32 y.toNat).isNan) iv r = arith fp32 0 0 false iv r := by
  rw [not_isNan_decode hx, not_isNan_decode hy]
  rfl

theorem fpConvert_inf (n : Bool) : fpConvert fp32 false 0 0 (.inf n) = ⟨0x7F800000 + if n then 2 ^ 31 else 0, 0⟩ := rfl

theorem toNat_inf {x : BitVec 32} (h : fpAbs x = 0x7F800000) : (0x7F800000 + if x.msb then 2 ^ 31 else 0) = x.toNat := by
  rw [toNat_eq_abs x, h]

theorem not_nan_inf {x : BitVec 32} (h : fpAbs x = 0x7F800000) : ¬fpNan x := fpNan_iff.2 h.le

theorem fpAdd_inf {x y : BitVec 32} (hx : fpAbs x = 0x7F800000) (hy : y = x ∨ fpFinite y) :
    fpAdd fp32 x.toNat y.toNat = ⟨x.toNat, 0⟩ := by
  have hn : ¬fpNan y := by
    rcases hy with rfl | hy
    · exact not_nan_inf hx
    · exact hy.not_nan
  have hsum : fvAdd 0 (fpDecode fp32 x.toNat) (fpDecode fp32 y.toNat) = some (.inf x.msb) := by
    rcases hy with rfl | hy
    · rw [fpDecode_inf hx]
      exact if_pos (beq_self_eq_true _)
    · rw [fpDecode_inf hx, fpDecode_finite hy]
      rfl
  rw [fpAdd, arith_not_nan (not_nan_inf hx) hn, hsum, ← toNat_inf hx]
  exact fpConvert_inf _

theorem fpAdd_finite_inf {x y : BitVec 32} (hx : fpFinite x) (hy : fpAbs y = 0x7F800000) :
    fpAdd fp32 x.toNat y.toNat = ⟨y.toNat, 0⟩ := by
  have hsum : fvAdd 0 (fpDecode fp32 x.toNat) (fpDecode fp32 y.toNat) = some (.inf y.msb) := by
    rw [fpDecode_finite hx, fpDecode_inf hy]
    rfl
  rw [fpAdd, arith_not_nan hx.not_nan (not_nan_inf hy), hsum, ← toNat_inf hy]
  exact fpConvert_inf _

theorem fpAdd_opposite_inf {x y : BitVec 32} (hx : fpAbs x = 0x7F800000) (h : y = fpFlip x) :
    fpAdd fp32 x.toNat y.toNat = ⟨0x7FC00000, 16⟩ := by
  subst h
  have hy : fpAbs (fpFlip x) = 0x7F800000 := (fpAbs_flip x).trans hx
  have hsum : fvAdd 0 (fpDecode fp32 x.toNat) (fpDecode fp32 (fpFlip x).toNat) = none := by
    rw [fpDecode_inf hx, fpDecode_inf hy, msb_flip]
    cases x.msb <;> rfl
  rw [fpAdd, arith_not_nan (not_nan_inf hx) (not_nan_inf hy), hsum]
  rfl

theorem fpMul_inf {x y : BitVec 32} (h : fpAbs x = 0x7F800000 ∨ fpAbs y = 0x7F800000) (hx : ¬fpNan x) (hy : ¬fpNan y) :
    fpMul fp32 x.toNat y.toNat = if fpAbs x = 0 ∨ fpAbs y = 0 then ⟨0x7FC00000, 16⟩
      else ⟨0x7F800000 + if x.msb ^^ y.msb then 2 ^ 31 else 0, 0⟩ := by
  have hprod : fvMul (fpDecode fp32 x.toNat) (fpDecode fp32 y.toNat)
      = if fpAbs x = 0 ∨ fpAbs y = 0 then none else some (.inf (x.msb ^^ y.msb)) := by
    rcases finite_or_inf_or_nan x with hfin | hinf | hnan
    · have hyinf := h.resolve_left hfin.ne
      have hzero : (fpDecode fp32 x.toNat).isZero = true ↔ fpAbs x = 0 ∨ fpAbs y = 0 := by
        rw [isZero_decode, hyinf, decide_eq_true_eq]
        omega
      rw [← if_congr hzero rfl rfl, fpDecode_inf hyinf, fpDecode_finite hfin]
      rfl
    · have hzero : (fpDecode fp32 y.toNat).isZero = true ↔ fpAbs x = 0 ∨ fpAbs y = 0 := by
        rw [isZero_decode, hinf, decide_eq_true_eq]
        omega
      rw [← if_congr hzero rfl rfl, ← neg_decode hy, fpDecode_inf hinf]
      rfl
    · exact absurd hnan hx
  rw [fpMul, arith_not_nan hx hy, hprod]
  split <;> rfl

theorem floatSpecials : FloatSpecials := by
  intro s t g d a b hi ha x y gives nan
  have op {f : Nat → Nat → Flagged Nat} {r : Flagged Nat} {v : Word} {w : BitVec 5} (hr : f x.toNat y.toNat = r)
      (hv : BitVec.ofNat 64 r.val = v) (hw : BitVec.ofNat 5 r.flags = w) :
      ∃ s', fpuOp f g d a b s = .next s' ∧ WroteFp s s' t d v w := by
    rw [← hv, ← hw]
    exact hi.writesFpuOp ha hr
  have add {r : Flagged Nat} {v : Word} {w : BitVec 5} (hr : fpAdd fp32 x.toNat y.toNat = r) (hv : BitVec.ofNat 64 r.val = v)
      (hw : BitVec.ofNat 5 r.flags = w) : gives (.fadd g d a b) v w := op hr hv hw
  have sub {r : Flagged Nat} {v : Word} {w : BitVec 5} (hr : fpAdd fp32 x.toNat (fpFlip y).toNat = r) (hv : BitVec.ofNat 64 r.val = v)
      (hw : BitVec.ofNat 5 r.flags = w) : gives (.fsub g d a b) v w := op ((fpSub_eq_fpAdd_flip x y).trans hr) hv hw
  have mul {r : Flagged Nat} {v : Word} {w : BitVec 5} (hr : fpMul fp32 x.toNat y.toNat = r) (hv : BitVec.ofNat 64 r.val = v)
      (hw : BitVec.ofNat 5 r.flags = w) : gives (.fmul g d a b) v w := op hr hv hw
  refine ⟨fun f hn h1 h0 => ?_, fun hx => ⟨fun hy => ?_, fun hy => ?_, fun hy => ?_, fun hy => ?_⟩, fun hx hy => ⟨?_, ?_⟩,
    fun h hx hy => ⟨fun hz => ?_, fun hzx hzy => ?_⟩⟩
  · have hw : BitVec.ofNat 5 _ = f := ivFlag_eq (signals_iff x y) h1 h0
    exact ⟨add (arith_nan hn _ _) rfl hw, op (arith_nan hn _ _) rfl hw, mul (arith_nan hn _ _) rfl hw⟩
  · exact add (fpAdd_inf hx hy) (BitVec.ofNat_toNat 64 x) rfl
  · have hy' : fpFlip y = x ∨ fpFinite (fpFlip y) := by
      rcases hy with hy | hy
      · exact .inl (hy ▸ flip_flip x)
      · exact .inr (fpFinite_flip hy)
    exact sub (fpAdd_inf hx hy') (BitVec.ofNat_toNat 64 x) rfl
  · exact add (fpAdd_opposite_inf hx hy) rfl rfl
  · exact sub (fpAdd_opposite_inf hx (congrArg fpFlip hy)) rfl rfl
  · exact add (fpAdd_finite_inf hx hy) (BitVec.ofNat_toNat 64 y) rfl
  · exact sub (fpAdd_finite_inf hx ((fpAbs_flip y).trans hy)) (BitVec.ofNat_toNat _ _) rfl
  · exact mul ((fpMul_inf h hx hy).trans (if_pos hz)) rfl rfl
  · exact mul ((fpMul_inf h hx hy).trans (if_neg (not_or.2 ⟨hzx, hzy⟩))) rfl rfl

/-! ### Order -/

/-- The numbers of two encodings compare as the encodings do. -/
theorem fpInt_lt_iff (x y : BitVec 32) : fpInt x < fpInt y ↔ fpSign x < fpSign y := by
  have hxy : fpMag (fpAbs x) < fpMag (fpAbs y) ↔ fpAbs x < fpAbs y := fpMag_strictMono.lt_iff_lt
  have hyx : fpMag (fpAbs y) < fpMag (fpAbs x) ↔ fpAbs y < fpAbs x := fpMag_strictMono.lt_iff_lt
  have hx : fpMag (fpAbs x) = 0 ↔ fpAbs x = 0 := fpMag_eq_zero_iff
  have hy : fpMag (fpAbs y) = 0 ↔ fpAbs y = 0 := fpMag_eq_zero_iff
  unfold fpInt fpSign
  cases x.msb
  · cases y.msb
    · simpa using hxy
    · simp only [Bool.false_eq_true, if_false, if_true]
      omega
  · cases y.msb
    · simp only [Bool.false_eq_true, if_false, if_true]
      omega
    · simpa using hyx

theorem fpInt_eq_iff (x y : BitVec 32) : fpInt x = fpInt y ↔ fpSign x = fpSign y := by
  have hxy := fpInt_lt_iff x y
  have hyx := fpInt_lt_iff y x
  omega

theorem InUnits.sub {a b : Dy} {v w : Int} (ha : InUnits a v) (hb : InUnits b w) : InUnits (a.add ⟨-b.m, b.e⟩) (v - w) := by
  obtain ⟨s, hs, hw⟩ := hb
  have hneg : InUnits ⟨-b.m, b.e⟩ (-w) := ⟨s, hs, by rw [← hw, neg_mul]⟩
  exact inUnits_add ha hneg

theorem dy_lt {a b : Dy} {v w : Int} (ha : InUnits a v) (hb : InUnits b w) : a.lt b = decide (v < w) :=
  decide_eq_decide.2 ((ha.sub hb).sign.1.trans sub_neg)

theorem dy_eq {a b : Dy} {v w : Int} (ha : InUnits a v) (hb : InUnits b w) : a.eq b = decide (v = w) :=
  decide_eq_decide.2 ((ha.sub hb).sign.2.trans sub_eq_zero)

/-- The order of the encodings is that of the numbers but for the two zeros. -/
theorem fpKey_lt_iff (x y : BitVec 32) :
    fpKey x < fpKey y ↔ fpSign x < fpSign y ∨ (fpAbs x = 0 ∧ fpAbs y = 0 ∧ x.msb = true ∧ y.msb = false) := by
  unfold fpKey fpSign
  cases x.msb
  · cases y.msb
    · simp
    · simp only [Bool.false_eq_true, Bool.true_eq_false, if_false, if_true, and_false, or_false]
      omega
  · cases y.msb
    · simp only [Bool.false_eq_true, if_false, if_true, and_true]
      omega
    · simp

/-- The infinities lie outside the numbers. -/
theorem fpKey_finite {x : BitVec 32} (h : fpFinite x) : -0x7F800000 ≤ fpKey x ∧ fpKey x < 0x7F800000 := by
  unfold fpFinite at h
  unfold fpKey
  split <;> omega

theorem fpKey_inf {x : BitVec 32} (h : fpAbs x = 0x7F800000) : fpKey x = if x.msb then -0x7F800001 else 0x7F800000 := by
  rw [fpKey, h]
  rfl

theorem fvLess_decode {x y : BitVec 32} (hx : ¬fpNan x) (hy : ¬fpNan y) :
    fvLess (fpDecode fp32 x.toNat) (fpDecode fp32 y.toNat) = decide (fpKey x < fpKey y) := by
  rcases finite_or_inf_or_nan x with hxf | hxi | hxn
  · rcases finite_or_inf_or_nan y with hyf | hyi | hyn
    · have hless : fvLess (fpDecode fp32 x.toNat) (fpDecode fp32 y.toNat) =
          (decide (fpInt x < fpInt y) || (decide (fpAbs x = 0) && decide (fpAbs y = 0) && x.msb && !y.msb)) := by
        rw [← dy_lt (dy_finite hxf) (dy_finite hyf), ← isZero_decode, ← isZero_decode, ← neg_decode hx, ← neg_decode hy,
          fpDecode_finite hxf, fpDecode_finite hyf]
        rfl
      simp only [hless, fpInt_lt_iff, fpKey_lt_iff, Bool.decide_or, Bool.decide_and, Bool.decide_eq_true, Bool.decide_eq_false,
        Bool.and_assoc]
    · have hkey := fpKey_finite hxf
      rw [fpDecode_finite hxf, fpDecode_inf hyi, fpKey_inf hyi]
      cases y.msb
      · exact (decide_eq_true hkey.2).symm
      · exact (decide_eq_false (by simp only [if_true]; omega)).symm
    · exact absurd hyn hy
  · rcases finite_or_inf_or_nan y with hyf | hyi | hyn
    · have hkey := fpKey_finite hyf
      rw [fpDecode_inf hxi, fpDecode_finite hyf, fpKey_inf hxi]
      cases x.msb
      · exact (decide_eq_false (by simp only [Bool.false_eq_true, if_false]; omega)).symm
      · exact (decide_eq_true (by simp only [if_true]; omega)).symm
    · rw [fpDecode_inf hxi, fpDecode_inf hyi, fpKey_inf hxi, fpKey_inf hyi]
      cases x.msb <;> cases y.msb <;> rfl
    · exact absurd hyn hy
  · exact absurd hxn hx

theorem fvLt_decode {x y : BitVec 32} (hx : ¬fpNan x) (hy : ¬fpNan y) :
    fvLt (fpDecode fp32 x.toNat) (fpDecode fp32 y.toNat) = decide (fpSign x < fpSign y) := by
  have hiff : fpKey x < fpKey y ∧ ¬(fpAbs x = 0 ∧ fpAbs y = 0) ↔ fpSign x < fpSign y := by
    have hzero : fpAbs x = 0 ∧ fpAbs y = 0 → ¬fpSign x < fpSign y := by
      rintro ⟨h, h'⟩
      simp [fpSign, h, h']
    rw [fpKey_lt_iff]
    tauto
  rw [fvLt, fvLess_decode hx hy, isZero_decode, isZero_decode, ← Bool.decide_and, ← decide_not, ← Bool.decide_and]
  exact decide_eq_decide.2 hiff

theorem fpSign_inf_ne {x y : BitVec 32} (hx : fpAbs x = 0x7F800000) (hy : fpFinite y) : fpSign x ≠ fpSign y := by
  unfold fpFinite at hy
  unfold fpSign
  split <;> split <;> omega

theorem fvEq_decode {x y : BitVec 32} (hx : ¬fpNan x) (hy : ¬fpNan y) :
    fvEq (fpDecode fp32 x.toNat) (fpDecode fp32 y.toNat) = decide (fpSign x = fpSign y) := by
  rcases finite_or_inf_or_nan x with hxf | hxi | hxn
  · rcases finite_or_inf_or_nan y with hyf | hyi | hyn
    · rw [← decide_eq_decide.2 (fpInt_eq_iff x y), ← dy_eq (dy_finite hxf) (dy_finite hyf), fpDecode_finite hxf, fpDecode_finite hyf]
      rfl
    · rw [decide_eq_false (fpSign_inf_ne hyi hxf).symm, fpDecode_finite hxf, fpDecode_inf hyi]
      rfl
    · exact absurd hyn hy
  · rcases finite_or_inf_or_nan y with hyf | hyi | hyn
    · rw [decide_eq_false (fpSign_inf_ne hxi hyf), fpDecode_inf hxi, fpDecode_finite hyf]
      rfl
    · rw [fpDecode_inf hxi, fpDecode_inf hyi, fpSign, fpSign, hxi, hyi]
      cases x.msb <;> cases y.msb <;> rfl
    · exact absurd hyn hy
  · exact absurd hxn hx

/-! ### Minimum and maximum -/

section MinMax

variable (isMax : Bool) {x y : BitVec 32}

/-- The flag of FMIN and FMAX, of FEQ and of FUN. -/
def signalFlag (x y : BitVec 32) : Nat := if (fpDecode fp32 x.toNat).isSnan || (fpDecode fp32 y.toNat).isSnan then flagIV else 0

theorem fpMinMax_nan_nan (hx : fpNan x) (hy : fpNan y) : fpMinMax fp32 isMax x.toNat y.toNat = ⟨0x7FC00000, signalFlag x y⟩ := by
  rw [fpMinMax, isNan_decode hx, isNan_decode hy]
  rfl

theorem fpMinMax_nan_left (hx : fpNan x) (hy : ¬fpNan y) : fpMinMax fp32 isMax x.toNat y.toNat = ⟨y.toNat, signalFlag x y⟩ := by
  rw [fpMinMax, isNan_decode hx, not_isNan_decode hy]
  exact congrArg (Flagged.mk · _) (Nat.mod_eq_of_lt y.isLt)

theorem fpMinMax_nan_right (hx : ¬fpNan x) (hy : fpNan y) : fpMinMax fp32 isMax x.toNat y.toNat = ⟨x.toNat, signalFlag x y⟩ := by
  rw [fpMinMax, not_isNan_decode hx, isNan_decode hy]
  exact congrArg (Flagged.mk · _) (Nat.mod_eq_of_lt x.isLt)

theorem fpMinMax_not_nan (hx : ¬fpNan x) (hy : ¬fpNan y) :
    fpMinMax fp32 isMax x.toNat y.toNat = ⟨(if decide (fpKey y < fpKey x) != isMax then y else x).toNat, signalFlag x y⟩ := by
  rw [fpMinMax, not_isNan_decode hx, not_isNan_decode hy, fvLess_decode hy hx, apply_ite BitVec.toNat]
  refine congrArg (Flagged.mk · _) (Nat.mod_eq_of_lt ?_)
  split
  · exact y.isLt
  · exact x.isLt

end MinMax

theorem floatMinMax : FloatMinMax := by
  intro s t g d a b f hi ha x y gives h1 h0
  have hw : BitVec.ofNat 5 (signalFlag x y) = f := ivFlag_eq (signals_iff x y) h1 h0
  have op {isMax : Bool} {z : BitVec 32} (hr : fpMinMax fp32 isMax x.toNat y.toNat = ⟨z.toNat, signalFlag x y⟩) :
      ∃ s', fpuOp (fpMinMax fp32 isMax) g d a b s = .next s' ∧ WroteFp s s' t d (z.setWidth 64) f := by
    rw [← hw, ← BitVec.ofNat_toNat]
    exact hi.writesFpuOp ha hr
  refine ⟨fun hx hy => ⟨op (fpMinMax_nan_nan _ hx hy), op (fpMinMax_nan_nan _ hx hy)⟩,
    fun hx hy => ⟨op (fpMinMax_nan_left _ hx hy), op (fpMinMax_nan_left _ hx hy)⟩,
    fun hx hy => ⟨op (fpMinMax_nan_right _ hx hy), op (fpMinMax_nan_right _ hx hy)⟩, fun hx hy => ?_⟩
  have hmin := fpMinMax_not_nan false hx hy
  have hmax := fpMinMax_not_nan true hx hy
  by_cases h : fpKey x ≤ fpKey y
  · rw [decide_eq_false (Int.not_lt.2 h)] at hmin hmax
    rw [if_pos h, if_pos h]
    exact ⟨op hmin, op hmax⟩
  · rw [decide_eq_true (Int.not_le.1 h)] at hmin hmax
    rw [if_neg h, if_neg h]
    exact ⟨op hmin, op hmax⟩

/-! ### Conversions -/

theorem fpFromInt_eq (w : Word) : fpFromInt w.toNat = fpConvert fp32 false 0 0 ((⟨w.toInt, 0⟩ : Dy).toVal false) := by
  have hs : sextNat 64 w.toNat = w.toInt := by rw [sextNat_eq_toInt 63, BitVec.ofNat_toNat]; rfl
  rw [fpFromInt, hs, FVal.ofInt, Dy.toVal]
  split
  · next h =>
    simp only at h
    rw [h]
    rfl
  · rfl

theorem fpFromInt_rounds (w : Word) :
    Rounds (BitVec.ofNat 64 (fpFromInt w.toNat).val) (BitVec.ofNat 5 (fpFromInt w.toNat).flags) (decide (w.toInt < 0)) 1
      (w.toInt.natAbs * 2 ^ 149) false := by
  have hu : InUnits ⟨w.toInt, 0⟩ (w.toInt * 2 ^ 149) := ⟨149, rfl, rfl⟩
  have h := toVal_rounds hu false
  rw [← fpFromInt_eq, natAbs_mul_pow] at h
  have hneg : (if w.toInt * 2 ^ 149 = 0 then false else decide (w.toInt * 2 ^ 149 < 0)) = decide (w.toInt < 0) := by
    split
    · exact (decide_eq_false (by omega)).symm
    · exact decide_eq_decide.2 (by omega)
  rwa [hneg] at h

/-- A number without its fraction (R57). -/
def fpTrunc (x : BitVec 32) : Int := if x.msb then -(fpMag (fpAbs x) / 2 ^ 149 : Nat) else (fpMag (fpAbs x) / 2 ^ 149 : Nat)

theorem fpToInt64_finite {x : BitVec 32} (h : fpFinite x) :
    fpToInt64 x.toNat = if fpTrunc x < -2 ^ 63 then ⟨wrapNat 64 (-2 ^ 63), 16⟩
      else if 2 ^ 63 - 1 < fpTrunc x then ⟨wrapNat 64 (2 ^ 63 - 1), 16⟩
      else ⟨wrapNat 64 (fpTrunc x), if fpMag (fpAbs x) % 2 ^ 149 = 0 then 0 else 1⟩ := by
  have hround : roundToInt 1 0 (fpDecode fp32 x.toNat) = (fpTrunc x, decide (fpMag (fpAbs x) % 2 ^ 149 ≠ 0)) := by
    rw [fpDecode_finite h, roundToInt, roundMag_rz (s := fpPlace (fpAbs x)) (g := 149) 0 _ (by omega), ← fpMag_eq]
    rfl
  rw [fpDecode_finite h] at hround
  rw [fpToInt64, fpDecode_finite h, intConvert, hround]
  simp only [ne_eq, decide_not, Bool.not_eq_true', decide_eq_false_iff_not, ite_not]
  rfl

theorem fpToInt64_inf {x : BitVec 32} (h : fpAbs x = 0x7F800000) :
    fpToInt64 x.toNat = ⟨wrapNat 64 (if x.msb then -2 ^ 63 else 2 ^ 63 - 1), 16⟩ := by
  rw [fpToInt64, fpDecode_inf h]
  rfl

theorem fpToInt64_nan {x : BitVec 32} (h : fpNan x) : fpToInt64 x.toNat = ⟨0, 16⟩ := by
  rw [fpToInt64, fpDecode_nan h]
  rfl

theorem fpToInt64_over {x : BitVec 32} (hn : ¬fpNan x) (hs : x.msb = false) (h : 2 ^ 212 ≤ fpMag (fpAbs x)) :
    fpToInt64 x.toNat = ⟨0x7FFFFFFFFFFFFFFF, 16⟩ := by
  rcases finite_or_inf_or_nan x with hx | hx | hx
  · have ht : 2 ^ 63 ≤ fpTrunc x := by
      rw [fpTrunc, hs]
      simp only [Bool.false_eq_true, if_false]
      omega
    rw [fpToInt64_finite hx, if_neg (by omega), if_pos (by omega)]
    rfl
  · rw [fpToInt64_inf hx, hs]
    rfl
  · exact absurd hx hn

/-- 2^63 is a number of the format, so that the next one is far above it. -/
theorem fpMag_above {k : Nat} (h : 2 ^ 212 < fpMag k) : 2 ^ 212 + 2 ^ 149 ≤ fpMag k := by
  have h0 : fpMag 0x5F000000 = 2 ^ 212 := by decide +kernel
  have h1 : fpMag 0x5F000001 = 2 ^ 212 + 2 ^ 189 := by decide +kernel
  have hk : 0x5F000001 ≤ k := fpMag_strictMono.lt_iff_lt.1 (h0.trans_lt h)
  have := fpMag_strictMono.monotone hk
  omega

theorem fpToInt64_under {x : BitVec 32} (hn : ¬fpNan x) (hs : x.msb = true) (h : 2 ^ 212 < fpMag (fpAbs x)) :
    fpToInt64 x.toNat = ⟨0x8000000000000000, 16⟩ := by
  rcases finite_or_inf_or_nan x with hx | hx | hx
  · have habove := fpMag_above h
    have ht : fpTrunc x < -2 ^ 63 := by
      rw [fpTrunc, hs]
      simp only [if_true]
      omega
    rw [fpToInt64_finite hx, if_pos ht]
    rfl
  · rw [fpToInt64_inf hx, hs]
    rfl
  · exact absurd hx hn

theorem fpToInt64_within {x : BitVec 32} (hn : ¬fpNan x) (h : if x.msb then fpMag (fpAbs x) ≤ 2 ^ 212 else fpMag (fpAbs x) < 2 ^ 212) :
    fpToInt64 x.toNat = ⟨wrapNat 64 (fpTrunc x), if fpMag (fpAbs x) % 2 ^ 149 = 0 then 0 else 1⟩ := by
  rcases finite_or_inf_or_nan x with hx | hx | hx
  · have ht : -2 ^ 63 ≤ fpTrunc x ∧ fpTrunc x ≤ 2 ^ 63 - 1 := by
      unfold fpTrunc
      cases hs : x.msb
      · rw [hs, if_neg Bool.false_ne_true] at h
        rw [if_neg Bool.false_ne_true]
        omega
      · rw [hs, if_pos rfl] at h
        rw [if_pos rfl]
        omega
    rw [fpToInt64_finite hx, if_neg (Int.not_lt.2 ht.1), if_neg (Int.not_lt.2 ht.2)]
  · rw [hx, fpMag_inf] at h
    split at h <;> omega
  · exact absurd hx hn

theorem ofNat_wrapNat (v : Int) : BitVec.ofNat 64 (wrapNat 64 v) = BitVec.ofInt 64 v := by
  apply BitVec.eq_of_toNat_eq
  have hv : wrapNat 64 v < 2 ^ 64 := by unfold wrapNat; omega
  rw [BitVec.toNat_ofNat, Nat.mod_eq_of_lt hv, BitVec.toNat_ofInt]
  rfl

theorem floatConversions : FloatConversions := by
  intro s t g d a hi ha x m gives
  have toInt {r : Flagged Nat} (hr : fpToInt64 x.toNat = r) : gives (BitVec.ofNat 64 r.val) (BitVec.ofNat 5 r.flags) := by
    change ∃ s', execFcvtf g d a s = _ ∧ _
    unfold execFcvtf
    exact hi.writesFp ha (by rw [lo32_eq, hr])
  refine ⟨?_, fun hn => toInt (fpToInt64_nan hn), fun hn hs h => toInt (fpToInt64_over hn hs h),
    fun hn hs h => toInt (fpToInt64_under hn hs h), fun hn h => ?_⟩
  · obtain ⟨s', he, hw⟩ := hi.writesFp (f := fun s t => retireFp s t d (fpFromInt (t.reg a).toNat)) ha rfl
    exact ⟨s', _, _, he, hw, fpFromInt_rounds _⟩
  · have h := toInt (fpToInt64_within hn h)
    rw [ofNat_wrapNat, apply_ite (BitVec.ofNat 5)] at h
    exact h

/-! ### Comparisons -/

theorem fpTest_unordered {x y : BitVec 32} (h : fpNan x ∨ fpNan y) :
    fpTest 0 x.toNat y.toNat = ⟨false, signalFlag x y⟩ ∧ fpTest 1 x.toNat y.toNat = ⟨false, flagIV⟩
      ∧ fpTest 2 x.toNat y.toNat = ⟨false, flagIV⟩ ∧ fpTest 3 x.toNat y.toNat = ⟨true, signalFlag x y⟩ := by
  have hun := (unordered_iff x y).2 h
  simp only [fpTest, hun]
  exact ⟨rfl, rfl, rfl, rfl⟩

theorem fpTest_ordered {x y : BitVec 32} (hx : ¬fpNan x) (hy : ¬fpNan y) :
    fpTest 0 x.toNat y.toNat = ⟨decide (fpSign x = fpSign y), signalFlag x y⟩
      ∧ fpTest 1 x.toNat y.toNat = ⟨decide (fpSign x < fpSign y), 0⟩
      ∧ fpTest 2 x.toNat y.toNat = ⟨decide (fpSign x ≤ fpSign y), 0⟩
      ∧ fpTest 3 x.toNat y.toNat = ⟨false, signalFlag x y⟩ := by
  have hle : decide (fpSign x ≤ fpSign y) = (decide (fpSign x < fpSign y) || decide (fpSign x = fpSign y)) := by
    rw [← Bool.decide_or]
    exact decide_eq_decide.2 Int.le_iff_lt_or_eq
  simp only [fpTest, not_isNan_decode hx, not_isNan_decode hy, fvEq_decode hx hy, fvLt_decode hx hy, hle]
  exact ⟨rfl, rfl, rfl, rfl⟩

theorem floatCompare : FloatCompare := by
  intro s t g p a b q i hi ha x y gives h1 h0 hi1 hi0
  have cmp {c : BitVec 4} {n : Nat} {r : Flagged Bool} {f : BitVec 5}
      (hc : condTest c (t.reg a) (t.reg b) = fpTest n (lo32 (t.reg a)) (lo32 (t.reg b))) (hr : fpTest n x.toNat y.toNat = r)
      (hf : BitVec.ofNat 5 r.flags = f) : gives c r.val f := by
    change ∃ s', execCmp g p a b c 0 s = _ ∧ _
    unfold execCmp
    rw [← hf]
    exact hi.writesPred ha (by rw [hc, lo32_eq, lo32_eq, hr]; rfl)
  have hq : BitVec.ofNat 5 (signalFlag x y) = q := ivFlag_eq (signals_iff x y) h1 h0
  constructor
  · intro h
    obtain ⟨heq, hlt, hle, hun⟩ := fpTest_unordered h
    obtain rfl := hi1 h
    exact ⟨cmp rfl heq hq, cmp rfl hlt rfl, cmp rfl hle rfl, cmp rfl hun hq⟩
  · intro h
    obtain ⟨hx, hy⟩ := not_or.1 h
    obtain ⟨heq, hlt, hle, hun⟩ := fpTest_ordered hx hy
    obtain rfl := hi0 h
    exact ⟨cmp rfl heq hq, cmp rfl hlt rfl, cmp rfl hle rfl, cmp rfl hun hq⟩

/-- Settles O7: an operation sees of a special operand only its kind (`fpDecode_inf`, `fpDecode_nan`), comparisons see the order of the
encodings (`fvLess_decode`), and conversions are one rounding each. -/
theorem floatOthers : Obligations.FloatOthers := ⟨floatSpecials, floatMinMax, floatConversions, floatCompare⟩

end Sys2Proof.Safety
end

section
/-! SUPPORT. Words and their encodings (R59 to R83): the decoder takes back every legal encoding, and every bit of a word that decodes is
encoded again; O56, O57, O9, O58. -/

namespace Sys2Proof.Laws.RoundTrip

open Sys2Proof Sys2Proof.Machine

/-- Every legal instruction comes back from its word: the words of the opcode map one by one, and the steps of the device, which have none. -/
theorem of_instr (i : Instr) : Statement i := by
  cases i with
  | nop => exact nop _ | add => exact add _ _ _ _ | sub => exact sub _ _ _ _ | and => exact and _ _ _ _ | or => exact or _ _ _ _
  | xor => exact xor _ _ _ _ | andn => exact andn _ _ _ _ | shl => exact shl _ _ _ _ | shr => exact shr _ _ _ _ | sra => exact sra _ _ _ _
  | rol => exact rol _ _ _ _ | min => exact min _ _ _ _ | max => exact max _ _ _ _ | minn => exact minn _ _ _ _ | maxn => exact maxn _ _ _ _
  | mul => exact mul _ _ _ _ | mulh => exact mulh _ _ _ _ | mulhn => exact mulhn _ _ _ _ | div => exact div _ _ _ _
  | divn => exact divn _ _ _ _ | rem => exact rem _ _ _ _ | remn => exact remn _ _ _ _ | clz => exact clz _ _ _ | ctz => exact ctz _ _ _
  | popc => exact popc _ _ _ | sext => exact sext _ _ _ _ | zext => exact zext _ _ _ _ | brev => exact brev _ _ _
  | fadd => exact fadd _ _ _ _ | fsub => exact fsub _ _ _ _ | fmul => exact fmul _ _ _ _ | fmin => exact fmin _ _ _ _
  | fmax => exact fmax _ _ _ _ | fcvti => exact fcvti _ _ _ | fcvtf => exact fcvtf _ _ _ | addi => exact addi _ _ _ _
  | andi => exact andi _ _ _ _ | ori => exact ori _ _ _ _ | xori => exact xori _ _ _ _ | shli => exact shli _ _ _ _
  | shri => exact shri _ _ _ _ | srai => exact srai _ _ _ _ | muli => exact muli _ _ _ _ | li => exact li _ _ _ | lis => exact lis _ _ _
  | kld => exact kld _ _ _ | kldX => exact kldX _ _ _ _ | sel => exact sel _ _ _ _ _ | tag => exact tag _ _ _ _ | sega => exact sega _ _ _
  | rds => exact rds _ _ _ | cmp => exact cmp _ _ _ _ _ _ | cmpi => exact cmpi _ _ _ _ _ | pand => exact pand _ _ _ _
  | por => exact por _ _ _ _ | pxor => exact pxor _ _ _ _ | pandn => exact pandn _ _ _ _ | pnot => exact pnot _ _ _
  | pmov => exact pmov _ _ _ | pget => exact pget _ _ | pset => exact pset _ _ | br => exact br _ _ | jal => exact jal _ _
  | jr => exact jr _ _ _ | dbnz => exact dbnz _ _ _ | ld => exact ld _ _ _ _ _ | st => exact st _ _ _ _ _ | lda => exact lda _ _ _ _ _
  | str => exact str _ _ _ _ _ | lde => exact lde _ _ _ _ | mrg => exact mrg _ _ _ _ _ | fmrg => exact fmrg _ _ _ _ _ _
  | vbor => exact vbor _ _ _ | vbtst => exact vbtst _ _ _ _ | fenceD => exact fenceD _ | fenceT => exact fenceT _ | fenceA => exact fenceA _
  | fenceI => exact fenceI _ | barRegion => exact barRegion _ _ _ | barRow => exact barRow _ _ _ | barCol => exact barCol _ _ _
  | prop => exact prop _ _ _ _ | propRun => exact propRun _ _ _ _ | learn => exact learn _ _ _ | learnPoll => exact learnPoll _ _ _
  | learnt => exact learnt _ _ _ _ | ballot => exact ballot _ _ _ | reshape => exact reshape _ _ _ _
  | accordOpen => exact accordOpen _ _ _ _ | accordClose => exact accordClose _ _ _ _ | accordTrunc => exact accordTrunc _ _ _ _
  | accordStat => exact accordStat _ _ _ _ | accordNext => exact accordNext _ _ _ _ | send => exact send _ _ _ _
  | spawn => exact spawn _ _ _ _ _ | migr => exact migr _ _ | chsend => exact chsend _ _ _ | chrecv => exact chrecv _ _ _
  | cvsend => exact cvsend _ _ _ _ _ _ | cvrecv => exact cvrecv _ _ _ | cvopJoin => exact cvopJoin _ _ _ | cvopDlg => exact cvopDlg _ _ _ _
  | cvopLeave => exact cvopLeave _ _ _ | cvopState => exact cvopState _ _ _ _ | tcmd => exact tcmd _ _ _ | tcmdQ1 => exact tcmdQ1 _ _ _ _
  | tloop => exact tloop _ _ _ | adv => exact adv _ _ _ | twait => exact twait _ _ _ | waitt => exact waitt _ _ | tstat => exact tstat _ _
  | hdef => exact hdef _ _ _ | bagpop => exact bagpop _ _ | bagins => exact bagins _ _ _ | rewrite => exact rewrite _
  | nalloc => exact nalloc _ _ _ | nfree => exact nfree _ _ | link => exact link _ _ _ | rules => exact rules _ _ | trap => exact trap _ _
  | eret => exact eret _ | rdsw => exact rdsw _ _ _ | wrsw => exact wrsw _ _ _ | yield => exact yield _ | halt => exact halt _
  | ckpt => exact ckpt _ _ | ologMark => exact ologMark _ _ | ologPause => exact ologPause _ | ologResume => exact ologResume _
  | ologFlush => exact ologFlush _ | lnch => exact lnch _ _ _ | wfm => exact wfm _ | snap => exact snap _ _ _ | tnop => exact tnop _
  | mma => exact mma _ | mmas => exact mmas _ | mmaz => exact mmaz _ | spld => exact spld _ | aclr => exact aclr _ | acld => exact acld _
  | acst => exact acst _ | acsc => exact acsc _ | vadd => exact vadd _ | vsub => exact vsub _ | vmul => exact vmul _ | vfma => exact vfma _
  | vmin => exact vmin _ | vmax => exact vmax _ | vexp2 => exact vexp2 _ | vlog2 => exact vlog2 _ | vrcp => exact vrcp _
  | vrsq => exact vrsq _ | vcvt => exact vcvt _ | vcmp => exact vcmp _ | vsel => exact vsel _ | vand => exact vand _ | vor => exact vor _
  | vxor => exact vxor _ | vred => exact vred _ | vtrn => exact vtrn _ | vbcast => exact vbcast _ | vscl => exact vscl _
  | copy => exact copy _ | copyr => exact copyr _ | gath => exact gath _ | scat => exact scat _ | mcast => exact mcast _
  | zero => exact zero _ | qtld => exact qtld _ | rngk => exact rngk _ | tsig => exact tsig _ | tmark => exact tmark _
  | _ => exact of_none rfl rfl

end Sys2Proof.Laws.RoundTrip

namespace Sys2Proof.Safety

open Sys2Proof Sys2Proof.Machine

/-- Settles O56: the family RoundTrip says it of each instruction. -/
theorem decodeEncode : Obligations.DecodeEncode := Laws.RoundTrip.of_instr

/-- Settles O58: the decoder computes each of the words. -/
theorem decodeWords : Obligations.DecodeWords := by
  unfold Obligations.DecodeWords
  decide

/-! ### Parts that are joined again -/

theorem join_parts {n m : Nat} {x : BitVec (n + m)} {p : BitVec n} {q : BitVec m} (hp : x.extractLsb' m n = p) (hq : x.extractLsb' 0 m = q) :
    p ++ q = x := by
  rw [← hp, ← hq, BitVec.extractLsb'_append_extractLsb'_eq_extractLsb' (Nat.zero_add m).symm, BitVec.extractLsb'_eq_self]

theorem join_three_parts {n m k : Nat} {x : BitVec (n + m + k)} {p : BitVec n} {q : BitVec m} {r : BitVec k}
    (hp : x.extractLsb' (k + m) n = p) (hq : x.extractLsb' k m = q) (hr : x.extractLsb' 0 k = r) : p ++ q ++ r = x :=
  join_parts (by rw [← hp, ← hq, BitVec.extractLsb'_append_extractLsb'_eq_extractLsb' rfl]) hr

theorem join_four_parts {n m k l : Nat} {x : BitVec (n + m + k + l)} {p : BitVec n} {q : BitVec m} {r : BitVec k} {v : BitVec l}
    (hp : x.extractLsb' (l + k + m) n = p) (hq : x.extractLsb' (l + k) m = q) (hr : x.extractLsb' l k = r) (hv : x.extractLsb' 0 l = v) :
    p ++ q ++ r ++ v = x := by
  refine join_parts ?_ hv
  rw [← hp, ← hq, ← hr, BitVec.extractLsb'_append_extractLsb'_eq_extractLsb' rfl, BitVec.extractLsb'_append_extractLsb'_eq_extractLsb' rfl]

theorem wordOf_fieldsOf (w : BitVec 32) : wordOf (fieldsOf w) = w := by
  unfold wordOf fieldsOf
  iterate 5 rw [BitVec.extractLsb'_append_extractLsb'_eq_extractLsb' (by rfl)]
  exact BitVec.extractLsb'_eq_self

theorem packTcw_tcwOf (w : BitVec 256) : packTcw (w.extractLsb' 56 8) (tcwOf w) = w := by
  unfold packTcw tcwOf
  iterate 15 rw [BitVec.extractLsb'_append_extractLsb'_eq_extractLsb' (by rfl)]
  exact BitVec.extractLsb'_eq_self

section Formats

variable {x : Fields} {k : BitVec 7} (ho : x.o = k)
include ho

theorem ofImm12_eq {d a : BitVec 4} {v : BitVec 12} (hd : x.d = d) (ha : x.a = a) (hv : v = x.imm12) : ofImm12 x.g k d a v = x := by
  subst ho hd ha hv
  simp only [ofImm12, Fields.imm12, Laws.join_high, Laws.join_low]

theorem ofImm16_imm16 : ofImm16 x.g k x.d x.imm16 = x := by
  subst ho
  have ha : x.imm16.extractLsb' 12 4 = x.a := Laws.join_top _ _ _
  have hb : x.imm16.extractLsb' 8 4 = x.b := Laws.join_mid _ _ _
  have hf : x.imm16.extractLsb' 0 8 = x.f := Laws.join_low _ _
  simp only [ofImm16, ha, hb, hf]

theorem ofOff20_off20 : ofOff20 x.g k x.off20 = x := by
  subst ho
  have hd : x.off20.extractLsb' 16 4 = x.d := (Laws.append_left _ _ 8 4).trans (Laws.join_top _ _ _)
  have ha : x.off20.extractLsb' 12 4 = x.a := (Laws.append_left _ _ 4 4).trans (Laws.join_mid _ _ _)
  have hb : x.off20.extractLsb' 8 4 = x.b := Laws.join_mid _ _ _
  have hf : x.off20.extractLsb' 0 8 = x.f := Laws.join_low _ _
  simp only [ofOff20, hd, ha, hb, hf]

end Formats

/-- A pair destination names an even register (R76). -/
theorem pair_joined {d : BitVec 4} (h : d.extractLsb' 0 1 = 0) : d.extractLsb' 1 3 ++ 0#1 = d := join_parts rfl h

/-- A count of words or a predicate index (R62). -/
theorem low_joined {f : BitVec 8} (h : f.extractLsb' 4 4 = 0) : 0#4 ++ f.extractLsb' 0 4 = f := join_parts h rfl

/-- The width and the operation of a merge (R74). -/
theorem merge_joined {f : BitVec 8} (h : f.extractLsb' 5 3 = 0) : 0#3 ++ f.extractLsb' 4 1 ++ f.extractLsb' 0 4 = f := join_three_parts h rfl rfl

/-- The role and the kind of a conversation message (R62). -/
theorem conv_joined {f : BitVec 8} (h : f.extractLsb' 7 1 = 0) : 0#1 ++ f.extractLsb' 4 3 ++ f.extractLsb' 0 4 = f := join_three_parts h rfl rfl

theorem fields_eq_iff {x : Fields} {g : BitVec 5} {o : BitVec 7} {d a b : BitVec 4} {f : BitVec 8} :
    (⟨g, o, d, a, b, f⟩ : Fields) = x ↔ g = x.g ∧ o = x.o ∧ d = x.d ∧ a = x.a ∧ b = x.b ∧ f = x.f := by
  cases x
  exact Fields.mk.injEq .. ▸ Iff.rfl

/-! ### The opcode map -/

/-- What a decoder answers, if it answers an instruction, is encoded by the fields `x`. -/
def Reads (x : Fields) (r : Except Reject Instr) : Prop := ∀ i, r = .ok i → encodeFields i = some x

theorem Reads.error (x : Fields) (e : Reject) : Reads x (.error e) := fun _ h => nomatch h

theorem Reads.ok {x y : Fields} {i : Instr} (hi : encodeFields i = some y) (h : y = x) : Reads x (.ok i) := by
  rintro _ ⟨⟩
  rw [hi, h]

/-- A form of an opcode under the condition on its fixed fields. -/
theorem Reads.form {x y : Fields} {i : Instr} {c : Prop} [Decidable c] {r : Except Reject Instr} (hi : encodeFields i = some y) (h : c → y = x)
    (hr : Reads x r) : Reads x (if c then .ok i else r) := by
  split
  · next hc => exact .ok hi (h hc)
  · exact hr

theorem eq_ofNat {n : Nat} {o : BitVec n} {k : Nat} (h : o.toNat = k) : o = BitVec.ofNat n k := by
  rw [← h, BitVec.ofNat_toNat, BitVec.setWidth_eq]

/-- The opcode map: each form of an opcode is encoded by the fields that its condition fixed and the operands that it took. Format I and M, L
and B join their fields to one operand (R62); all other forms take whole fields, or a part of d or f. -/
theorem reads_decodeFields (x : Fields) : Reads x (decodeFields x) := by
  unfold decodeFields
  simp only [Bool.and_eq_true, decide_eq_true_eq]
  split
  case h_77 => exact .error _ _
  all_goals have ho := eq_ofNat ‹_›
  -- ADDI, ANDI, ORI, XORI, MULI; LI, LIS, DBNZ; BR, JAL: the whole field
  case h_4 | h_5 | h_6 | h_7 | h_11 => exact .ok rfl (ofImm12_eq ho rfl rfl rfl)
  case h_12 | h_13 | h_26 => exact .ok rfl (ofImm16_imm16 ho)
  case h_23 | h_24 => exact .ok rfl (ofOff20_off20 ho)
  -- SHLI, SHRI, SRAI, TAG, LDE: its low part; LD, ST, LDA and STR: its parts
  case h_8 | h_9 | h_10 | h_16 | h_31 => exact .form rfl (fun hc => ofImm12_eq ho rfl rfl (join_parts hc rfl)) (.error _ _)
  case h_27 => exact .ok rfl (ofImm12_eq ho rfl rfl (join_parts rfl rfl))
  case h_28 => exact .form rfl (fun hc => ofImm12_eq ho rfl rfl (join_three_parts rfl hc rfl)) (.error _ _)
  case h_29 | h_30 => exact .form rfl (fun hc => ofImm12_eq ho rfl rfl (join_four_parts hc.1 rfl hc.2 rfl)) (.error _ _)
  -- RDS, RDSW, WRSW, TRAP: the whole field, with a or d fixed
  case h_18 | h_68 => exact .form rfl (fun hc => ofImm12_eq ho rfl hc rfl) (.error _ _)
  case h_69 => exact .form rfl (fun hc => ofImm12_eq ho hc rfl rfl) (.error _ _)
  case h_66 => exact .form rfl (fun hc => ofImm12_eq ho hc.1 hc.2 rfl) (.error _ _)
  -- CMP, CMPI
  case h_19 => exact .ok rfl (fields_eq_iff.2 ⟨rfl, ho.symm, rfl, rfl, rfl, join_parts rfl rfl⟩)
  case h_20 => exact .ok rfl (fields_eq_iff.2 ⟨rfl, ho.symm, rfl, rfl, rfl, rfl⟩)
  all_goals
    repeat refine .form rfl (fun hc => by simp [fields_eq_iff, ho, hc, pair_joined, low_joined, merge_joined, conv_joined]) ?_
    exact .error _ _

/-! ### Words -/

theorem checked_ok_iff {r : Except Reject Instr} {i : Instr} : checked r = .ok i ↔ r = .ok i ∧ WellFormed i := by
  unfold checked WellFormed
  split
  · simp
  · next j =>
    constructor
    · intro h
      split at h
      · cases h
      · next hj => cases h; exact ⟨rfl, hj⟩
    · rintro ⟨⟨⟩, hj⟩
      rw [hj]

/-- A scalar word that decodes has the fields of a legal instruction. -/
theorem decodeScalar_fields {w : BitVec 32} {i : Instr} (h : decodeScalar w = .ok i) : encodeFields i = some (fieldsOf w) ∧ WellFormed i :=
  (checked_ok_iff.1 h).imp_left (reads_decodeFields _ _)

theorem encodeTcw_of_tileOp {o : BitVec 8} {c : Tcw} {i : Instr} (h : tileOp o.toNat c = .ok i) : encodeTcw i = some (packTcw o c) := by
  unfold tileOp at h
  split at h
  case h_40 => cases h
  all_goals
    cases h
    rw [eq_ofNat ‹o.toNat = _›]
    rfl

/-- Settles O57: the fields of a word, read by the opcode map (`reads_decodeFields`), are those that the instruction is encoded by. -/
theorem encodeDecode : Obligations.EncodeDecode := by
  unfold Obligations.EncodeDecode
  refine fun i => ⟨fun w h => ?_, fun w h => ?_⟩
  · obtain ⟨hf, hw⟩ := decodeScalar_fields h
    exact ⟨by rw [encode, hf, Option.map_some, wordOf_fieldsOf], hw⟩
  · obtain ⟨ht, hw⟩ := checked_ok_iff.1 h
    exact ⟨by rw [encodeTcw_of_tileOp ht, packTcw_tcwOf], hw⟩

/-- Every scalar form is refused under the reserved guard (R61): its first check is that of the guard. -/
theorem checkInstr_guard {i : Instr} {x : Fields} (h : encodeFields i = some x) (hg : x.g = 16) : checkInstr i = some .guard := by
  cases i <;> cases h <;> cases hg <;> rfl

/-- Settles O9: a word that decoded would have the guard of a legal instruction, and no form is legal under this one. -/
theorem guardReserved : Obligations.GuardReserved := by
  unfold Obligations.GuardReserved
  intro w hg
  have hno : ∀ i, decodeScalar w ≠ .ok i := fun i h => by
    obtain ⟨hf, hw⟩ := decodeScalar_fields h
    cases hw.symm.trans (checkInstr_guard hf hg)
  exact ⟨hno, fun det => issuedInstr_error hno⟩

end Sys2Proof.Safety
end

section
/-! SUPPORT. The frame of every scalar word (R60, R108), and O8; the branches (R65, R105 to R107), and O5. -/

namespace Sys2Proof.Safety

open Sys2Proof Sys2Proof.Machine

/-! ### A guard that is false -/

/-- The meaning of every scalar word is in the frame of its guard. -/
theorem exec_scalar {i : Instr} {x : Fields} (h : encodeFields i = some x) : ∃ f, exec i = fun s => scalar x.g s f := by
  cases i <;> cases h <;> exact ⟨_, rfl⟩

/-- Settles O8: whatever the body of a scalar word says (`exec_scalar`), a false guard retires it. -/
theorem guardFalse : Obligations.GuardFalse := by
  unfold Obligations.GuardFalse
  intro s t i w he hs hw hg ha
  obtain ⟨x, hx, rfl⟩ := Option.map_eq_some_iff.1 he
  have hxg : (wordOf x).extractLsb' 27 5 = x.g := congrArg Fields.g (Laws.fieldsOf_wordOf x)
  obtain ⟨f, hf⟩ := exec_scalar hx
  rw [hf]
  refine ⟨_, scalar_unguarded f hs.1 hs.2 (by rw [hw]; rfl) (hxg ▸ hg), ?_⟩
  rw [ha.retire_eq]
  exact onlyThread_setThread s (stepped t)

/-! ### Branches -/

theorem reg_setReg_same (t : Thread) (d : BitVec 4) (v : Word) : (t.setReg d v).reg d = if d.toNat < 10 then v else 0 := by
  by_cases hd : d.toNat < 10
  · simp [Thread.reg, Thread.setReg, readReg_writeReg, hd]
  · simp [Thread.reg, Thread.setReg, readReg_past _ hd, hd]

theorem reg_setReg_other (t : Thread) {c d : BitVec 4} (v : Word) (h : c ≠ d) : (t.setReg d v).reg c = t.reg c := by
  simp [Thread.reg, Thread.setReg, readReg_writeReg, h]

/-- A slice lies within the 16 KiB of the instruction store (R8). -/
theorem inSlice_lt {s : State} {core p a : Nat} (hp : p < partCount s core) (h : inSlice s core p a = true) : a < 2 ^ 14 := by
  have hn : partCount s core ≠ 0 := by omega
  simp only [inSlice, sliceBase, sliceSize, if_neg hn, Bool.and_eq_true, decide_eq_true_eq] at h
  calc a < 16384 / partCount s core * (p + 1) := by rw [Nat.mul_add_one]; exact h.2
    _ ≤ 16384 / partCount s core * partCount s core := Nat.mul_le_mul_left _ hp
    _ ≤ 2 ^ 14 := Nat.div_mul_le_self _ _

section Jumps

variable {s : State} {t : Thread} {g : BitVec 5} {f : State → Thread → State}

/-- A branch to a target inside the slice, with a register written. -/
theorem jump_jumped (hp : t.part < partCount s t.core) {n : Nat} {v : Int} (hv : v = n) (hn : inSlice s t.core t.part n = true)
    (d : BitVec 4) (w : Word) : Jumped s (jump s t (t.setReg d w) v) t n d w := by
  subst hv
  simp only [jump, Int.natCast_nonneg, decide_true, Int.toNat_natCast, hn, Bool.and_self, if_true]
  exact ⟨_, onlyThread_setThread _ _, Nat.mod_eq_of_lt (inSlice_lt hp hn), rfl, reg_setReg_same t d w, fun c hc => reg_setReg_other t w hc,
    rfl, rfl, rfl, rfl, rfl, rfl, rfl⟩

theorem Issues.jumps (hi : Issues s t g) (hp : t.part < partCount s t.core) {n : Nat} {v : Int} (hv : v = n)
    (hn : inSlice s t.core t.part n = true) {d : BitVec 4} {w : Word} (hf : f s t = jump s t (t.setReg d w) v) :
    ∃ s', scalar g s f = .next s' ∧ Jumped s s' t n d w :=
  ⟨f s t, hi.scalar_eq f, hf ▸ jump_jumped hp hv hn d w⟩

/-- A branch to a target outside the slice writes nothing. -/
theorem Issues.leaves_slice (hi : Issues s t g) {u : Thread} {v : Int} (hv : v < 0 ∨ inSlice s t.core t.part v.toNat = false)
    (hf : f s t = jump s t u v) : ∃ s', scalar g s f = .next s' ∧ FatalHere s s' t 0x01 := by
  refine hi.faults (addr := 2 ^ 64 + wrapNat 64 v) ?_
  rw [hf, jump, if_neg]
  · rfl
  · rw [Bool.and_eq_true, decide_eq_true_eq]
    rintro ⟨h0, hin⟩
    rcases hv with hv | hv
    · omega
    · rw [hv] at hin; cases hin

end Jumps

section Words

variable (s : State) (g : BitVec 5) (d a : BitVec 4)

theorem exec_br (o : BitVec 20) : exec (.br g o) s = scalar g s fun s t => jump s t t (branchTarget t o.toInt) := rfl

theorem exec_jal (o : BitVec 20) :
    exec (.jal g o) s = scalar g s fun s t => jump s t (t.setReg 9 (linkWord t)) (branchTarget t o.toInt) := rfl

theorem exec_jr : exec (.jr g d a) s = scalar g s fun s t => jump s t (t.setReg d (linkWord t)) (t.reg a).toNat := rfl

theorem exec_dbnz (o : BitVec 16) : exec (.dbnz g d o) s = scalar g s fun s t =>
    if t.reg d - 1 = 0 then retireReg s t d (t.reg d - 1) else jump s t (t.setReg d (t.reg d - 1)) (branchTarget t o.toInt) := rfl

end Words

theorem branchTargets : BranchTargets := by
  intro s t g o d a n hi hp hn link
  rw [exec_br, exec_jal, exec_jr]
  exact ⟨fun hv => ⟨hi.jumps hp hv hn rfl, hi.jumps hp hv hn rfl⟩, fun hv => hi.jumps hp (congrArg Nat.cast hv) hn rfl⟩

/-- The count reaches 0 from 1 alone. -/
theorem sub_one_eq_zero_iff (w : Word) : w - 1 = 0 ↔ w = 1 := by bv_omega

theorem countedBranch : CountedBranch := by
  intro s t g d o n hi hp
  rw [exec_dbnz]
  constructor
  · intro h1 hv hn
    exact hi.jumps hp hv hn (if_neg (mt (sub_one_eq_zero_iff _).1 h1))
  · intro h1 ha
    have h0 : t.reg d - 1 = 0 := (sub_one_eq_zero_iff _).2 h1
    exact hi.writesReg ha (by rw [if_pos h0, h0])

theorem branchOutside : BranchOutside := by
  intro s t g o o' d a hi out
  rw [exec_br, exec_jal, exec_jr, exec_dbnz]
  exact ⟨fun hv => ⟨hi.leaves_slice hv rfl, hi.leaves_slice hv rfl⟩, fun hv => hi.leaves_slice hv rfl,
    fun h1 hv => hi.leaves_slice hv (if_neg (mt (sub_one_eq_zero_iff _).1 h1))⟩

/-- Settles O5: `jump` writes its thread once, or faults before it has written anything (`Issues.leaves_slice`). -/
theorem branches : Obligations.Branches := ⟨branchTargets, countedBranch, branchOutside⟩

end Sys2Proof.Safety
end

section
/-! SUPPORT. The tile queue takes commands (R84, R192, R202, R222, R244), and O31. -/

namespace Sys2Proof.Safety

open Sys2Proof Sys2Proof.Machine

/-! ### What a report of a fatal fault leaves of the partitions (R315) -/

/-- Partitions and their sets are as they were. -/
def SameParts (s s' : State) : Prop := s'.parts = s.parts ∧ s'.sets = s.sets

theorem SameParts.trans {s s' s'' : State} (h : SameParts s s') (h' : SameParts s' s'') : SameParts s s'' :=
  ⟨h'.1.trans h.1, h'.2.trans h.2⟩

theorem sameParts_modThread (s : State) (tid : Nat) (f : Thread → Thread) : SameParts s (modThread s tid f) := by
  rw [modThread_frame]; exact ⟨rfl, rfl⟩

theorem sameParts_placeRec (s : State) (q : Nat) (r : TrapRec) : SameParts s (placeRec s q r) := by
  dsimp only [placeRec]
  split <;> exact ⟨rfl, rfl⟩

theorem sameParts_insertWaiting (q : Nat) (l : List TrapRec) (s : State) : SameParts s (insertWaiting q l s) := by
  induction l generalizing s with
  | nil => exact ⟨rfl, rfl⟩
  | cons r l ih =>
    dsimp only [insertWaiting]
    split
    · refine .trans ?_ (.trans (sameParts_placeRec _ q r) (.trans (sameParts_modThread _ r.tid _) (ih _)))
      exact ⟨rfl, rfl⟩
    · exact ⟨rfl, rfl⟩

theorem sameParts_addRec (s : State) (q : Nat) (r : TrapRec) : SameParts s (addRec s q r) := by
  dsimp only [addRec]
  refine .trans ?_ (sameParts_insertWaiting q _ _)
  split
  · exact ⟨rfl, rfl⟩
  · exact .trans ⟨rfl, rfl⟩ (sameParts_modThread _ _ _)

/-- The first fault of a context marks the partition it is reported at, and no more of it. -/
theorem raiseFatal_part {s : State} {ctx : Nat} {x : Ctx} (hx : getCtx s ctx = some x) (hf : x.fault = none)
    (core part tid pc code addr : Nat) :
    getPart (raiseFatal s ctx core part tid pc code addr) core part = { getPart s core part with faulter := true }
      ∧ (raiseFatal s ctx core part tid pc code addr).sets = s.sets := by
  fun_cases raiseFatal s ctx core part tid pc code addr with
  | case1 h => cases h.symm.trans hx
  | case2 y hy f hf' | case3 y hy f hf' =>
    obtain rfl : y = x := Option.some.inj (hy.symm.trans hx)
    cases hf.symm.trans hf'
  | case4 y hy hf' v rep s1 s2 r s3 =>
    obtain ⟨hp, hs⟩ : SameParts s2 s3 := sameParts_addRec _ _ _
    exact ⟨by rw [getPart, bump_parts, post_parts, hp]; exact getPart_setPart _ _ _ _, hs⟩

theorem getPart_setThread (s : State) (u : Thread) (core p : Nat) : getPart (setThread s u) core p = getPart s core p := rfl

theorem Ahead.retire_setPart {s : State} {t : Thread} (h : Ahead s t) (core p : Nat) (x : Part) :
    retire (setPart s core p x) t = setThread (setPart s core p x) (stepped t) :=
  Ahead.retire_eq (s := setPart s core p x) h

/-! ### Acceptance (R84, R192, R222) -/

/-- The partition `p` has taken the command `w` as its entry `e`; owner, handles and loop stay. -/
structure Takes (p p' : Part) (tid pc : Nat) (w : BitVec 256) (e : QEntry) : Prop where
  queue : p'.queue = p.queue ++ [e]
  seq : e.seq = p.seqCtr
  word : e.word = w
  tid : e.tid = tid
  pc : e.pc = pc
  started : e.started = false
  seqCtr : p'.seqCtr = (p.seqCtr + 1) % 2 ^ 32
  owner : p'.owner = p.owner
  handles : p'.handles = p.handles
  loop : p'.loop = p.loop

theorem tileLegal_setPart {s : State} {core p : Nat} {x : Part} (ho : x.owner = (getPart s core p).owner) (w : BitVec 256) :
    tileLegal (setPart s core p x) core p w = tileLegal s core p w := by
  unfold tileLegal
  rw [getPart_setPart, ho]
  rfl

section Accept

variable {s : State} {core p tid pc : Nat} {w : BitVec 256}

theorem acceptTile_takes (h : tileLegal s core p w = true) :
    ∃ x e vt, acceptTile s core p tid pc w = (setPart s core p x, commandWord (tileOpcode w) (getPart s core p).seqCtr vt)
      ∧ Takes (getPart s core p) x tid pc w e ∧ e.vt = vt := by
  simp only [acceptTile, h, Bool.not_true, Bool.false_eq_true, if_false]
  exact ⟨_, _, _, rfl, ⟨rfl, rfl, rfl, rfl, rfl, rfl, rfl, rfl, rfl, rfl⟩, rfl⟩

theorem captureTile_idle (h : (getPart s core p).loop = .idle) : captureTile s core p tid pc w = s := by
  simp only [captureTile, h]

/-- A command fault is reported for the owner of the partition; queue, numbers and loop stay (R229). -/
theorem tileFault_reports {x : Ctx} (hx : getCtx s (getPart s core p).owner = some x) (hf : x.fault = none) (seq : Nat) :
    let s' := tileFault s core p tid pc seq
    (getPart s' core p).queue = (getPart s core p).queue ∧ (getPart s' core p).seqCtr = (getPart s core p).seqCtr
      ∧ (getPart s' core p).loop = (getPart s core p).loop ∧ s'.sets = s.sets
      ∧ ∃ x' f, getCtx s' (getPart s core p).owner = some x' ∧ x'.fault = some f ∧ f.code = 0x20 ∧ f.tid = tid ∧ f.pc = pc := by
  unfold tileFault
  extract_lets s1 s'
  have hx1 : getCtx s1 (getPart s core p).owner = some x := hx
  obtain ⟨hp, hs⟩ := raiseFatal_part hx1 hf core p tid pc 0x20 seq
  obtain ⟨x', hx', hrep⟩ := raiseFatal_ctx hx1 core p tid pc 0x20 seq
  obtain ⟨⟨f, hf', hcode, htid, hpc⟩, -⟩ := hrep hf
  rw [show getPart s1 core p = _ from getPart_setPart _ _ _ _] at hp
  exact ⟨(congrArg Part.queue hp :), (congrArg Part.seqCtr hp :), (congrArg Part.loop hp :), hs, x', f, hx', hf', hcode, htid, hpc⟩

/-- An illegal command is numbered and faults; it enters no queue. -/
theorem acceptTile_faults (h : tileLegal s core p w = false) {x : Ctx} (hx : getCtx s (getPart s core p).owner = some x)
    (hf : x.fault = none) : ∃ s' v, acceptTile s core p tid pc w = (s', v) ∧ (getPart s' core p).queue = (getPart s core p).queue
      ∧ (getPart s' core p).seqCtr = ((getPart s core p).seqCtr + 1) % 2 ^ 32 ∧ (getPart s' core p).loop = (getPart s core p).loop
      ∧ s'.sets = s.sets
      ∧ ∃ x' f, getCtx s' (getPart s core p).owner = some x' ∧ x'.fault = some f ∧ f.code = 0x20 ∧ f.tid = tid ∧ f.pc = pc := by
  simp only [acceptTile, h, Bool.not_false, if_true]
  refine ⟨_, _, rfl, ?_⟩
  have hreports := tileFault_reports (s := setPart s core p { getPart s core p with seqCtr := ((getPart s core p).seqCtr + 1) % 2 ^ 32 })
    (x := x) (core := core) (p := p) (tid := tid) (pc := pc) (by rw [getPart_setPart]; exact hx) hf (getPart s core p).seqCtr
  rw [getPart_setPart] at hreports
  exact hreports

end Accept

/-! ### TCMD (R77, R192) -/

section Offer

variable {s : State} {t : Thread} {d : BitVec 4} {q : List Word}

theorem offerTile_waits (h : tcmdRoom (getPart s t.core t.part) t.id = false) :
    offerTile s t d q = setThread s { t with held := q, wait := .until .queueFree } := by
  simp only [offerTile, h, Bool.not_false, if_true]
  rfl

theorem offerTile_room (h : tcmdRoom (getPart s t.core t.part) t.id = true) {r : State × Word}
    (hr : acceptTile (setPart s t.core t.part ((getPart s t.core t.part).dropEntry t.id)) t.core t.part t.id t.pc.toNat (tcwBits q) = r)
    (hl : (getPart r.1 t.core t.part).loop = .idle) : offerTile s t d q = retireReg r.1 t d r.2 := by
  simp only [offerTile, h, Bool.not_true, Bool.false_eq_true, if_false, modPart, hr, captureTile_idle hl]

end Offer

theorem exec_tcmd_eq (s : State) (g : BitVec 5) (d a : BitVec 4) : exec (.tcmd g d a) s = scalar g s fun s t => tcmdOp s t d a none := rfl

theorem exec_tcmdQ1_eq (s : State) (g : BitVec 5) (d a b : BitVec 4) :
    exec (.tcmdQ1 g d a b) s = scalar g s fun s t => tcmdOp s t d a (some (t.reg b)) := rfl

/-- TCMD and TCMD.Q1 offer the quads they read, with b in the place of Q1. -/
theorem exec_tcmd_offers {s : State} {t : Thread} {g : BitVec 5} (hi : Issues s t g) {d a b : BitVec 4} {k : Nat} (hh : t.held = [])
    (hk : ownKey s t (t.reg a) 32 32 = .ok k) (q1 : Bool) :
    exec (if q1 then .tcmdQ1 g d a b else .tcmd g d a) s = .next (offerTile s t d
      (if q1 then setNth (toQuads 4 (readBefore s k 32)) 1 (t.reg b) else toQuads 4 (readBefore s k 32))) := by
  cases q1
  · simp only [Bool.false_eq_true, if_false, exec_tcmd_eq, hi.scalar_eq, tcmdOp, hh, hk]
  · simp only [if_true, exec_tcmdQ1_eq, hi.scalar_eq, tcmdOp, hh, hk]

theorem commandWord_copy {op : Nat} (h : isCopyOp op = true) (seq vt : Nat) :
    (commandWord op seq vt).toNat = seq % 128 * 2 ^ 56 + vt % 2 ^ 56 := by
  rw [commandWord, if_pos h, BitVec.toNat_ofNat]
  omega

theorem commandWord_ticket {op : Nat} (h : isCopyOp op = false) (seq vt : Nat) :
    commandWord op seq vt = BitVec.ofNat 64 (2 ^ 63 + seq % 2 ^ 32) := by
  simp [commandWord, h]

theorem tileAccepted : TileAccepted := by
  intro s t g d a b k q1 hi ha hh hk p q w i
  have hexec : exec i s = .next (offerTile s t d (if q1 then setNth q 1 (t.reg b) else q)) := exec_tcmd_offers hi hh hk q1
  rw [hexec]
  let s0 := setPart s t.core t.part (p.dropEntry t.id)
  have hp0 : getPart s0 t.core t.part = p.dropEntry t.id := getPart_setPart _ _ _ _
  have hlegal : tileLegal s0 t.core t.part w = tileLegal s t.core t.part w := tileLegal_setPart (x := p.dropEntry t.id) rfl w
  refine ⟨fun hroom hidle hw => ?_, fun x hroom hidle hw hx hf => ?_, fun hroom => ?_⟩
  · obtain ⟨y, e, _, hacc, htakes, rfl⟩ := acceptTile_takes (tid := t.id) (pc := t.pc.toNat) (hlegal.trans hw)
    rw [hp0] at htakes hacc
    obtain ⟨hqueue, hseq, hword, htid, hpc, hstart, hctr, -, hhandles, hloop⟩ := htakes
    let s1 := setPart s0 t.core t.part y
    have hp1 : getPart s1 t.core t.part = y := getPart_setPart _ _ _ _
    have ha1 : Ahead s1 t := ha
    rw [offerTile_room hroom hacc (by rw [hp1, hloop]; exact hidle), ha1.retireReg_eq]
    refine ⟨_, _, e, _, rfl, getThread_setThread _ _, rfl, rfl, rfl, rfl, fun k hk => getThread_setThread_other _ _ _ hk,
      ⟨rfl, rfl, rfl, rfl, rfl, rfl⟩, rfl, ?_⟩
    rw [getPart_setThread, hp1]
    exact ⟨hqueue, hseq, hword, htid, hpc, hstart, hctr, hhandles, fun h => commandWord_ticket h _ _, fun h => commandWord_copy h _ _⟩
  · obtain ⟨s1, v, hacc, hqueue, hctr, hloop, hsets, hfault⟩ :=
      acceptTile_faults (tid := t.id) (pc := t.pc.toNat) (hlegal.trans hw) (by rw [hp0]; exact hx) hf
    rw [hp0] at hqueue hctr hloop hfault
    obtain ⟨x', f, hx', hrep⟩ := hfault
    have ha1 : Ahead s1 t := ha.imp_right (inSlice_congr hsets _ _ _).trans
    rw [offerTile_room hroom hacc (hloop.trans hidle), ha1.retireReg_eq]
    exact ⟨_, x', f, rfl, hqueue, hctr, hx', hrep⟩
  · rw [offerTile_waits hroom]
    exact ⟨_, _, rfl, onlyThread_setThread _ _, rfl, rfl, rfl⟩

/-! ### Loops of commands (R202, R244) -/

/-- The operands that TLOOP takes: no reserved bit is set, and there is an iteration. -/
def LoopOperands (x y : Nat) : Prop := x < 2 ^ 32 ∧ x / 8 % 2 ^ 13 = 0 ∧ y < 2 ^ 22 ∧ x / 2 ^ 16 ≠ 0

theorem loopOperands_iff {x y : Nat} :
    LoopOperands x y ↔ ¬(x / 2 ^ 32 ≠ 0 || bitsOf x 15 3 ≠ 0 || y / 2 ^ 22 ≠ 0 || bitsOf x 31 16 = 0) = true := by
  simp only [LoopOperands, Bool.or_eq_true, decide_eq_true_eq]
  simp only [bitsOf]
  omega

theorem iterations_eq {x : Nat} (h : x < 2 ^ 32) : bitsOf x 31 16 = x / 2 ^ 16 := Nat.mod_eq_of_lt (by omega)

theorem exec_tloop_eq (s : State) (g : BitVec 5) (a b : BitVec 4) : exec (.tloop g a b) s = execTloop g a b s := rfl

/-- TLOOP_PUSH accepts an iteration: its commands go to the queue in their order. -/
theorem pushAll_queue {core p strides i : Nat} (cmds : List QEntry) (s : State)
    (h : ∀ e ∈ cmds, tileLegal s core p (loopWord s core p e.word strides i) = true) :
    ∃ l, (getPart (pushAll core p strides i cmds s) core p).queue = (getPart s core p).queue ++ l
      ∧ l.map (·.word) = cmds.map (fun e => loopWord s core p e.word strides i)
      ∧ (pushAll core p strides i cmds s).threads = s.threads ∧ (pushAll core p strides i cmds s).mem = s.mem := by
  induction cmds generalizing s with
  | nil => exact ⟨[], by rw [pushAll, List.append_nil], rfl, rfl, rfl⟩
  | cons e cmds ih =>
    obtain ⟨y, f, vt, hacc, htakes, -⟩ := acceptTile_takes (tid := e.tid) (pc := e.pc) (h e List.mem_cons_self)
    rw [pushAll, hacc]
    obtain ⟨l, hl, hwords, hthreads, hmem⟩ :=
      ih (setPart s core p y) fun e' he' => (tileLegal_setPart htakes.owner _).trans (h e' (List.mem_cons_of_mem e he'))
    rw [getPart_setPart, htakes.queue, List.append_assoc] at hl
    exact ⟨[f] ++ l, hl, by rw [List.map_append, hwords, List.map_singleton, htakes.word]; rfl, hthreads, hmem⟩

/-- Beside the iteration, TLOOP_PUSH moves the loop on, or ends it. -/
theorem tloopPush_pushes {s : State} {core p m strides iter pos : Nat} {cmds : List QEntry} (hf : s.focus = .part core p)
    (hl : (getPart s core p).loop = .pushing m strides iter pos cmds)
    (hr : (getPart s core p).queue.length + (getPart s core p).reserved.length + cmds.length ≤ 64) :
    let s1 := pushAll core p strides iter cmds s
    ∃ s', exec .tloopPush s = .next s' ∧ s'.threads = s1.threads ∧ s'.mem = s1.mem ∧ getPart s' core p
      = { getPart s1 core p with loop := if iter + 1 < m then .pushing m strides (iter + 1) pos cmds else .idle } := by
  have hexec : exec .tloopPush s = execTloopPush s := rfl
  simp only [hexec, execTloopPush, hf, hl, if_neg (Nat.not_lt.2 hr)]
  split
  · exact ⟨_, rfl, rfl, rfl, getPart_setPart _ _ _ _⟩
  · exact ⟨_, rfl, rfl, rfl, getPart_setPart _ _ _ _⟩

theorem tileLoops : TileLoops := by
  intro s t g a b core p m strides iter pos cmds x y good
  have hgood : good ↔ _ := loopOperands_iff (x := x) (y := y)
  refine ⟨fun hi ha => ?_, fun hf hl hr hlegal => ?_⟩
  · rw [exec_tloop_eq, execTloop, hi.scalar_eq]
    dsimp only
    refine ⟨fun hg hidle hr => ?_, fun hg hidle hr => ?_, fun hg => ?_⟩
    · rw [if_neg (hgood.1 hg), hidle]
      dsimp only
      rw [hr, iterations_eq hg.1, List.isEmpty_nil, if_pos rfl]
      rw [ha.retire_setPart]
      refine ⟨_, rfl, getThread_setThread _ _, fun k hk => getThread_setThread_other _ _ _ hk, ⟨rfl, rfl, rfl, rfl, rfl, rfl⟩, ?_⟩
      rw [getPart_setThread, getPart_setPart]
      exact ⟨rfl, rfl⟩
    · rw [if_neg (hgood.1 hg), hidle]
      dsimp only
      rw [if_neg (mt List.isEmpty_iff.1 hr)]
      exact ⟨_, rfl, onlyThread_setThread _ _⟩
    · rw [if_pos (not_not.1 (mt hgood.2 hg))]
      exact ⟨_, rfl, fatalAt_fatalHere hi.1.2 _ _⟩
  · obtain ⟨l, hqueue, hwords, hthreads, hmem⟩ := pushAll_queue cmds s hlegal
    obtain ⟨s', he, hthreads', hmem', hp⟩ := tloopPush_pushes hf hl hr
    refine ⟨s', l, he, ?_⟩
    rw [hp]
    exact ⟨hqueue, hthreads'.trans hthreads, hmem'.trans hmem, hwords, rfl⟩

/-- Settles O31: acceptance puts one entry at the tail, or numbers and faults (`acceptTile_takes`, `acceptTile_faults`); a push is a row of
acceptances (`pushAll_queue`). -/
theorem tileAcceptance : Obligations.TileAcceptance := ⟨tileAccepted, tileLoops⟩

end Sys2Proof.Safety
end

section
/-! SUPPORT. The constants of format L: the word of LI and LIS and the value that each leaves (R94, R95), and O3. -/

namespace Sys2Proof.Safety

open Sys2Proof Sys2Proof.Machine

/-! ### The word of format L (R62) -/

/-- The three low fields of the word are the immediate in one piece. -/
theorem wordOf_ofImm16 (g : BitVec 5) (o : BitVec 7) (d : BitVec 4) (i : BitVec 16) : wordOf (ofImm16 g o d i) = g ++ o ++ d ++ i := by
  have low {k l : Nat} (h : k + l ≤ 16) : (g ++ o ++ d ++ i).extractLsb' k l = i.extractLsb' k l :=
    BitVec.extractLsb'_append_eq_of_add_le h
  exact join_four_parts (n := 16) (m := 4) (k := 4) (l := 8) (Laws.join_high (g ++ o ++ d) i) (low (by decide)) (low (by decide))
    (low (by decide))

theorem encode_li (g : BitVec 5) (d : BitVec 4) (i : BitVec 16) : encode (.li g d i) = some (g ++ (0x0C : BitVec 7) ++ d ++ i) :=
  congrArg some (wordOf_ofImm16 g 0x0C d i)

theorem encode_lis (g : BitVec 5) (d : BitVec 4) (i : BitVec 16) : encode (.lis g d i) = some (g ++ (0x0D : BitVec 7) ++ d ++ i) :=
  congrArg some (wordOf_ofImm16 g 0x0D d i)

/-! ### The values (R94, R95) -/

/-- The value of LIS: the shift leaves bits [15:0] free for the immediate, and the old bits [63:48] go out at the top. -/
theorem shiftIn16_eq (x : Word) (i : BitVec 16) :
    x <<< 16 ||| i.setWidth 64 = BitVec.ofNat 64 (x.toNat % 2 ^ 48 * 2 ^ 16 + i.toNat) := by
  have hi : i.toNat < 2 ^ 16 := i.isLt
  have hi64 : i.toNat % 2 ^ 64 = i.toNat := Nat.mod_eq_of_lt (by omega)
  have hlow : x.toNat * 2 ^ 16 % 2 ^ 64 = x.toNat % 2 ^ 48 * 2 ^ 16 := Nat.mul_mod_mul_right (2 ^ 16) x.toNat (2 ^ 48)
  have hfits : x.toNat % 2 ^ 48 * 2 ^ 16 + i.toNat < 2 ^ 64 := by omega
  apply BitVec.eq_of_toNat_eq
  rw [BitVec.toNat_or, BitVec.toNat_shiftLeft, Nat.shiftLeft_eq, hlow, BitVec.toNat_setWidth, hi64, BitVec.toNat_ofNat,
    Nat.mod_eq_of_lt hfits, ← Nat.shiftLeft_eq, Nat.shiftLeft_add_eq_or_of_lt hi]

theorem exec_li (s : State) (g : BitVec 5) (d : BitVec 4) (i : BitVec 16) :
    exec (.li g d i) s = scalar g s fun s t => retireReg s t d (sext16 i) := rfl

theorem exec_lis (s : State) (g : BitVec 5) (d : BitVec 4) (i : BitVec 16) :
    exec (.lis g d i) s = scalar g s fun s t => retireReg s t d ((t.reg d <<< 16) ||| i.setWidth 64) := rfl

theorem liResult : LiResult := by
  intro s t g d i
  refine ⟨encode_li g d i, fun hi ha => ?_⟩
  rw [exec_li]
  exact hi.writesReg ha rfl

theorem lisResult : LisResult := by
  intro s t g d i
  refine ⟨encode_lis g d i, fun hi ha => ?_⟩
  rw [exec_lis]
  exact hi.writesReg ha (congrArg (retireReg s t d) (shiftIn16_eq (t.reg d) i))

/-- Settles O3: a word of format L holds its immediate in one piece (`wordOf_ofImm16`), and each of the two ends by writing its register,
LIS with the value that `shiftIn16_eq` works out. -/
theorem constants : Obligations.Constants := ⟨liResult, lisResult⟩

end Sys2Proof.Safety
end

section
/-! SUPPORT. Messages to and from the members of an accord, and what a member keeps (R140, R147). -/

namespace Sys2Proof.Safety

open Sys2Proof Sys2Proof.Machine

/-! ### Messages -/

theorem PacketsOnly.dev_id {s s' : State} (h : PacketsOnly s s') : s'.dev.id = s.dev.id := by
  obtain ⟨-, -, -, -, hdev, -⟩ := h.quiet
  exact (congrArg Dev.id hdev :)

theorem PacketsOnly.cycle {s s' : State} (h : PacketsOnly s s') : s'.cycle = s.cycle := by
  obtain ⟨-, -, -, -, -, hcycle⟩ := h.quiet
  exact hcycle

theorem PacketsOnly.mem {s s' : State} (h : PacketsOnly s s') : s'.mem = s.mem := h.quiet.1

theorem PacketsOnly.regions {s s' : State} (h : PacketsOnly s s') : s'.regions = s.regions := by
  obtain ⟨-, -, -, hregions, -⟩ := h.quiet
  exact hregions

theorem packetsOnly_toMember (s : State) (core dev region payload : Nat) (i : Instr) :
    PacketsOnly s (toMember s core dev region payload i) := by
  unfold toMember
  split
  · exact packetsOnly_sendOn _ _ _ _ _ _ _ _ _
  · exact packetsOnly_emit _ _ _

theorem packetsOnly_fromMember (s : State) (g dev core payload : Nat) (i : Instr) :
    PacketsOnly s (fromMember s g dev core payload i) := by
  unfold fromMember
  split
  · exact packetsOnly_sendOn _ _ _ _ _ _ _ _ _
  · exact packetsOnly_emit _ _ _

theorem packetsOnly_replyTo (s : State) (m : AMsg) (i : Instr) : PacketsOnly s (replyTo s m i) := packetsOnly_fromMember _ _ _ _ _ _

theorem packetsOnly_toEach (core payload : Nat) (mk : Nat → Nat → Instr) (n : Nat) (l : List (Nat × Nat)) (s : State) :
    PacketsOnly s (toEach core payload mk n l s) := by
  induction l generalizing n s with
  | nil => exact .refl s
  | cons m l ih => exact (packetsOnly_toMember _ _ _ _ _ _).trans (ih _ _)

/-- A message to a member on this device goes through the module's network. -/
theorem toMember_sends {s : State} {dev : Nat} (h : dev = s.dev.id) (core region payload : Nat) (i : Instr) :
    Sends s (toMember s core dev region payload i) i := by
  rw [toMember, if_pos h]
  exact sendOn_sends _ _ _ _ _ _ _ _ _

/-- The reply to a message from this device. -/
theorem replyTo_sends {s : State} {m : AMsg} (h : m.dev = s.dev.id) (i : Instr) : Sends s (replyTo s m i) i := by
  rw [replyTo, fromMember, if_pos h]
  exact sendOn_sends _ _ _ _ _ _ _ _ _

/-- Every member on this device gets its message. -/
theorem toEach_sends (core payload : Nat) (mk : Nat → Nat → Instr) {l : List (Nat × Nat)} {s : State} (hl : ∀ m ∈ l, m.1 = s.dev.id)
    (n : Nat) {i : Nat} {m : Nat × Nat} (hi : l[i]? = some m) : Sends s (toEach core payload mk n l s) (mk (n + i) m.2) := by
  induction l generalizing n i s with
  | nil => simp at hi
  | cons x l ih =>
    have hx := packetsOnly_toMember s core x.1 x.2 payload (mk n x.2)
    cases i with
    | zero =>
      obtain rfl : x = m := by simpa using hi
      exact (toMember_sends (hl x List.mem_cons_self) core x.2 payload (mk n x.2)).after (packetsOnly_toEach _ _ _ _ _ _).pend
    | succ i =>
      have h := ih (s := toMember s core x.1 x.2 payload (mk n x.2)) (fun y hy => hx.dev_id ▸ hl y (List.mem_cons_of_mem x hy)) (n + 1)
        (i := i) (by simpa using hi)
      rw [Nat.add_right_comm] at h
      exact h.before hx.pend hx.cycle

/-! ### The configuration entries of a member -/

theorem getRegion_modRegion (s : State) (g : Nat) (f : Region → Region) : getRegion (modRegion s g f) g = f (getRegion s g) :=
  getRegion_setRegion s g _

theorem findAcc_congr {s s' : State} (h : s'.regions = s.regions) (g acc : Nat) : findAcc s' g acc = findAcc s g acc := by
  simp only [findAcc, getRegion, h]

theorem acc_of_findAcc {s : State} {g acc : Nat} {c : AccCfg} (h : findAcc s g acc = some c) : c.acc = acc := by
  simpa using List.find?_some h

/-- A member finds the entry that was put in the place of one it has. -/
theorem findAcc_setAcc {s : State} {g acc : Nat} {c c' : AccCfg} (h : findAcc s g acc = some c) (hc : c'.acc = acc) :
    findAcc (setAcc s g c') g acc = some c' := by
  subst hc
  have hkey : ((fun c : AccCfg => c.acc == c'.acc) ∘ fun x => if x.acc = c'.acc then c' else x) = fun c => c.acc == c'.acc := by
    funext x
    by_cases hx : x.acc = c'.acc <;> simp [hx]
  rw [findAcc] at h
  rw [findAcc, setAcc, getRegion_modRegion, List.find?_map, hkey, h, Option.map_some, if_pos (acc_of_findAcc h)]

end Sys2Proof.Safety
end

section
/-! SUPPORT. A proposal sends its phases (R147, R149). -/

namespace Sys2Proof.Safety

open Sys2Proof Sys2Proof.Machine

/-- Message `a` is that of a proposal to member `i` in region `g`, with the operation number after the thread's present one. -/
structure Carries (t : Thread) (p : PropOp) (flag : Bool) (i g : Nat) (a : AMsg) : Prop where
  region : a.region = g
  member : a.member = i
  acc : a.acc = p.acc
  slot : a.slot = p.slot
  bal : a.bal = p.bal
  flag : a.flag = flag
  v : a.v = p.v
  orig : a.orig = p.orig
  tid : a.tid = t.id
  op : a.op = t.op + 1

/-- A phase begins: the thread waits in it, and every member has its message. -/
theorem startPhase_sends {s : State} {t : Thread} {p : PropOp} (ph : Phase) (flag : Bool) (mk : AMsg → Instr)
    (hq : ∀ m ∈ p.q.members, m.1 = s.dev.id) :
    ∃ q, q.phase = ph ∧ q.bal = p.bal ∧ q.grants = []
      ∧ Touches s (startPhase s t p ph flag mk) t { t with op := t.op + 1, kept := [], wait := .op (.prop q) }
      ∧ ∀ (i : Nat) (m : Nat × Nat), p.q.members[i]? = some m →
        ∃ a, Sends s (startPhase s t p ph flag mk) (mk a) ∧ Carries t p flag i m.2 a := by
  dsimp -zeta only [startPhase]
  extract_lets q u s1
  let mk' := fun i r => mk (propMsg s u q flag i r)
  have h1 : PacketsOnly (setThread s u) s1 := packetsOnly_toEach t.core 32 mk' 0 p.q.members (setThread s u)
  have h2 : PacketsOnly s1 (after s1 262144 (.phaseTimeout u.id u.op q.bal)) := packetsOnly_post _ _ _ _ _
  refine ⟨q, rfl, rfl, rfl, (touches_setThread s t u rfl).after (h1.trans h2), fun i m hi => ?_⟩
  have hsend := toEach_sends (s := setThread s u) t.core 32 mk' hq 0 hi
  rw [Nat.zero_add] at hsend
  exact ⟨_, (hsend.after h2.pend).before (.of_subset fun _ h => h) rfl, ⟨rfl, rfl, rfl, rfl, rfl, rfl, rfl, rfl, rfl, rfl⟩⟩

/-- Phase 1 at a round that there is. -/
theorem sendPrepare_eq {s : State} {t : Thread} {p : PropOp} {round : Nat} (h : round < 2 ^ 24) :
    sendPrepare s t p round
      = startPhase s t { p with bal := round * 2 ^ 40 + t.id, best := 0, runs := 0, viaRun := false } .prep p.run .prepare :=
  if_neg (Nat.not_le.2 h)

end Sys2Proof.Safety
end

section
/-! SUPPORT. The gate's lease, the freezes of the members, and the holder (R151), and O29. -/

namespace Sys2Proof.Safety

open Sys2Proof Sys2Proof.Machine

/-! ### The gate -/

/-- Granting the lease: the holder is told, the members are asked to freeze, and the gate keeps the lease until its expiry. -/
theorem grantLease_grants {s : State} {g acc : Nat} {c c0 : AccCfg} {m : AMsg} (hc0 : findAcc s g acc = some c0) (hc : c.acc = acc) :
    let ex := s.cycle + 4096 * max 1 c.wsen
    findAcc (grantLease s g c m) g acc = some { c with lease := some (m, ex) }
      ∧ (m.dev = s.dev.id → Sends s (grantLease s g c m) (.leaseGrant m))
      ∧ ((∀ x ∈ (governing c.qa c.qb m.slot).members, x.1 = s.dev.id) →
        ∀ (i : Nat) (x : Nat × Nat), (governing c.qa c.qb m.slot).members[i]? = some x →
          Sends s (grantLease s g c m) (.freeze { m with member := i, region := x.2 } ex))
      ∧ Sends s (grantLease s g c m) (.leaseExpiry g acc m.tid m.op) := by
  subst hc
  intro ex
  obtain ⟨s1, hs1⟩ : ∃ s1, s1 = setAcc s g { c with lease := some (m, ex) } := ⟨_, rfl⟩
  obtain ⟨s2, hs2⟩ : ∃ s2, s2 = replyTo s1 m (.leaseGrant m) := ⟨_, rfl⟩
  let mk := fun i r => Instr.freeze { m with member := i, region := r } ex
  let members := (governing c.qa c.qb m.slot).members
  obtain ⟨s3, hs3⟩ : ∃ s3, s3 = toEach (regionHub g) 24 mk 0 members s2 := ⟨_, rfl⟩
  have hgrant : grantLease s g c m = post s3 ex 0 (.leaseExpiry g c.acc m.tid m.op) := by rw [hs3, hs2, hs1]; rfl
  have h12 : PacketsOnly s1 s2 := hs2 ▸ packetsOnly_replyTo _ _ _
  have h23 : PacketsOnly s2 s3 := hs3 ▸ packetsOnly_toEach _ _ _ _ _ _
  have h34 : PacketsOnly s3 (grantLease s g c m) := hgrant ▸ packetsOnly_post _ _ _ _ _
  have hpend : s1.pend = s.pend := by rw [hs1]; rfl
  have hcycle : s1.cycle = s.cycle := by rw [hs1]; rfl
  have hdev : s1.dev = s.dev := by rw [hs1]; rfl
  have first {i : Instr} (h : Sends s1 (grantLease s g c m) i) : Sends s (grantLease s g c m) i :=
    h.before (hpend ▸ .of_subset fun _ h => h) hcycle
  refine ⟨?_, fun hm => first ?_, fun hmem i x hx => first ?_, first ?_⟩
  · rw [findAcc_congr (h12.trans (h23.trans h34)).regions, hs1]
    exact findAcc_setAcc hc0 rfl
  · exact (hs2 ▸ replyTo_sends (by rw [hdev]; exact hm) _ : Sends s1 s2 _).after (h23.trans h34).pend
  · have hl : ∀ y ∈ members, y.1 = s2.dev.id := fun y hy => by rw [h12.dev_id, hdev]; exact hmem y hy
    have h := toEach_sends (regionHub g) 24 mk hl 0 hx
    rw [← hs3, Nat.zero_add] at h
    exact (h.after h34.pend).before h12.pend h12.cycle
  · have hex : s3.cycle ≤ ex := by rw [h23.cycle, h12.cycle, hcycle]; exact Nat.le_add_right _ _
    have h : Sends s3 (grantLease s g c m) (.leaseExpiry g c.acc m.tid m.op) := hgrant ▸ post_sends s3 0 _ _ hex
    exact h.before (h12.trans h23).pend (h12.trans h23).cycle

/-- The next queued request may get the lease; the freeze of the gate's own entry stays. -/
theorem nextLease_frozen {s : State} {g acc : Nat} {c : AccCfg} (h : findAcc s g acc = some c) :
    ∃ c', findAcc (nextLease s g acc) g acc = some c' ∧ c'.frozen = c.frozen := by
  unfold nextLease
  rw [h]
  dsimp only
  split
  · next m l hl =>
    have hacc := acc_of_findAcc h
    obtain ⟨hfound, -⟩ := grantLease_grants (c := { c with leaseQ := l, lease := none }) (m := m) h hacc
    exact ⟨_, hfound, rfl⟩
  · exact ⟨c, h, rfl⟩

theorem nextLease_frozen_if {s : State} {g acc : Nat} {c : AccCfg} (h : findAcc s g acc = some c) (b : Bool) :
    ∃ c', findAcc (if b then nextLease s g acc else s) g acc = some c' ∧ c'.frozen = c.frozen := by
  cases b
  · exact ⟨c, h, rfl⟩
  · exact nextLease_frozen h

section Gate

variable {s : State} {m : AMsg} {c : AccCfg}

theorem exec_lease_free (h : findAcc s m.region m.acc = some c) (hg : m.gen = c.gen) (he : m.epoch = epochFor c m.slot)
    (hl : c.lease = none) : exec (.lease m) s = .next (grantLease s m.region c m) := by
  have hexec : exec (.lease m) s = execLease m s := rfl
  simp [hexec, execLease, h, hg, he, hl]

/-- R151: a member that is told to freeze reports its entry of the slot. -/
theorem freeze_reports (h : findAcc s m.region m.acc = some c) (hd : m.dev = s.dev.id) (hg : m.gen = c.gen) (ex : Nat) :
    ∃ s' c' q, exec (.freeze m ex) s = .next s' ∧ findAcc s' m.region m.acc = some c' ∧ c'.frozen = some (m.tid, ex)
      ∧ Sends s s' (.freezeReport q) ∧ q.tid = m.tid ∧ q.num = ((slotEntry c m.slot).getD { slot := m.slot }).p := by
  have hexec : exec (.freeze m ex) s = execFreeze m ex s := rfl
  rw [hexec, execFreeze, h]
  dsimp only
  rw [if_neg (not_not_intro hg)]
  let c' := { c with frozen := some (m.tid, ex) }
  have hreply := fun i => packetsOnly_replyTo (setAcc s m.region c') m i
  have hpost := fun i s1 => packetsOnly_post s1 ex 0 i .idle
  refine ⟨_, c', _, rfl, ?_, rfl, ((replyTo_sends (s := setAcc s m.region c') hd _).before (.of_subset fun _ h => h) rfl).after
    (hpost _ _).pend, rfl, rfl⟩
  rw [findAcc_congr ((hreply _).trans (hpost _ _)).regions]
  exact findAcc_setAcc h (acc_of_findAcc h :)

/-- R151: a release ends the freeze of its holder. -/
theorem leaseRelease_thaws (h : findAcc s m.region m.acc = some c) :
    ∃ s' c', exec (.leaseRelease m) s = .next s' ∧ findAcc s' m.region m.acc = some c' ∧ ∀ f, c'.frozen = some f → f.1 ≠ m.tid := by
  have hexec : exec (.leaseRelease m) s = execLeaseRelease m s := rfl
  rw [hexec, execLeaseRelease, h]
  dsimp -zeta only
  extract_lets held frozen c1
  have hacc := acc_of_findAcc h
  obtain ⟨c', hc', hfrozen⟩ := nextLease_frozen_if (s := setAcc s m.region c1) (findAcc_setAcc h hacc) held
  refine ⟨_, c', rfl, hc', fun f hf hid => ?_⟩
  rw [hfrozen] at hf
  change frozen = some f at hf
  simp only [frozen] at hf
  split at hf
  · split at hf
    · cases hf
    · next hne => exact hne (Option.some.inj hf ▸ hid)
  · cases hf

/-- R151: the expiry ends a freeze whose time has come. -/
theorem leaseExpiry_thaws {g acc : Nat} (h : findAcc s g acc = some c) (tid op : Nat) :
    ∃ s' c', exec (.leaseExpiry g acc tid op) s = .next s' ∧ findAcc s' g acc = some c'
      ∧ ∀ f, c'.frozen = some f → f.1 = tid → s.cycle < f.2 := by
  have hexec : exec (.leaseExpiry g acc tid op) s = execLeaseExpiry g acc tid op s := rfl
  rw [hexec, execLeaseExpiry, h]
  dsimp -zeta only
  extract_lets held frozen
  have hacc := acc_of_findAcc h
  obtain ⟨c', hc', hfrozen⟩ := nextLease_frozen_if (s := setAcc s g { c with frozen, lease := if held then none else c.lease })
    (findAcc_setAcc h hacc) held
  refine ⟨_, c', rfl, hc', fun f hf hid => ?_⟩
  rw [hfrozen] at hf
  change frozen = some f at hf
  simp only [frozen] at hf
  split at hf
  · split at hf
    · cases hf
    · next hne =>
      obtain rfl := Option.some.inj hf
      simpa [hid] using hne
  · cases hf

end Gate

/-! ### The holder -/

theorem parkProp_waiting {s : State} {t : Thread} {p : PropOp} (hw : t.wait = .op (.prop p)) (q : PropOp) :
    parkProp s t q = setThread s { t with wait := .op (.prop q) } := by
  simp only [parkProp, hw, wait]

/-- A reply to the attempt in progress reaches it (R149). -/
theorem Awaits.onProp_eq {s : State} {t : Thread} {p : PropOp} {r : ARep} (h : Awaits s t p r) (i : Instr)
    (k : State → Thread → PropOp → State) : onProp s r i k = .next (k s t p) := by
  obtain ⟨ht, halive, htid, hw, hsop, hlo, hhi, hfirst⟩ := h
  have hin : propIn t = some p := by simp only [propIn, hw]
  rw [onProp, htid, toLive_alive ht halive]
  simp [hin, hsop, hfirst, Nat.not_lt.2 hlo, Nat.not_lt.2 hhi]

/-- R151: with the lease granted the holder waits for the reports. -/
theorem leaseGrant_waits {s : State} {t : Thread} {p : PropOp} {m : AMsg} (ht : getThread s t.id = some t) (ha : Alive s t)
    (hm : m.tid = t.id) (hw : t.wait = .op (.prop p)) (hop : t.op = m.op) (hph : p.phase = .lease)
    (hr : p.reports.length < p.q.members.length) : ∃ s' q, exec (.leaseGrant m) s = .next s'
      ∧ getThread s' t.id = some { t with wait := .op (.prop q) } ∧ q.phase = .reports ∧ q.leased = true
      ∧ Sends s s' .seniorReportTimeout := by
  have hexec : exec (.leaseGrant m) s = execLeaseGrant m s := rfl
  let q := { p with leased := true, phase := .reports }
  refine ⟨after (setThread s { t with wait := .op (.prop q) }) 262144 .seniorReportTimeout (.op t.id t.op), q, ?_,
    getThread_setThread s { t with wait := .op (.prop q) }, rfl, rfl, post_sends (setThread s _) 0 _ _ (Nat.le_add_right _ _)⟩
  rw [hexec, execLeaseGrant, hm, toLive_alive ht ha]
  simp [ht, hw, hop, hph, Nat.not_le.2 hr, parkProp_waiting hw, q]

/-- R151: a report that comes before the lease is noted. -/
theorem freezeReport_noted {s : State} {t : Thread} {p : PropOp} {r : ARep} (h : Awaits s t p r) (hph : p.phase = .lease) :
    ∃ s' q, exec (.freezeReport r) s = .next s' ∧ OnlyThread s s' { t with wait := .op (.prop q) }
      ∧ q.reports = natInsert p.reports r.member ∧ q.topRound = max p.topRound (r.num / 2 ^ 40) := by
  have hexec : exec (.freezeReport r) s = execFreezeReport r s := rfl
  rw [hexec, execFreezeReport, h.onProp_eq]
  obtain ⟨-, -, -, hw, -⟩ := h
  simp only [hph, parkProp_waiting hw]
  exact ⟨_, _, rfl, onlyThread_setThread s _, rfl, rfl⟩

/-- R151: when the reports have been waited for, phase 1 begins above every reported round. -/
theorem seniorReportTimeout_prepares {s : State} {t : Thread} {p : PropOp} (ht : getThread s t.id = some t) (hw : t.wait = .op (.prop p))
    (hph : p.phase = .reports) (hf : s.focus = .op t.id t.op) (hq : ∀ x ∈ p.q.members, x.1 = s.dev.id)
    (hr : p.topRound + 1 < 2 ^ 24) (hh : p.hint = 0) (hfall : p.fall = false) :
    ∃ s' u q, exec .seniorReportTimeout s = .next s' ∧ getThread s' t.id = some u ∧ u.wait = .op (.prop q) ∧ q.phase = .prep
      ∧ q.bal = (p.topRound + 1) * 2 ^ 40 + t.id
      ∧ ∀ (i : Nat) (x : Nat × Nat), p.q.members[i]? = some x →
        ∃ n, Sends s s' (.prepare n) ∧ n.member = i ∧ n.region = x.2 ∧ n.bal = q.bal := by
  have hexec : exec .seniorReportTimeout s = execSeniorReportTimeout s := rfl
  have hround : max (chooseRound p) (p.topRound + 1) = p.topRound + 1 := by
    simp [chooseRound, hh, hfall]
  obtain ⟨q, hphase, hbal, -, htouch, hsends⟩ := startPhase_sends (t := t)
    (p := { p with bal := (p.topRound + 1) * 2 ^ 40 + t.id, best := 0, runs := 0, viaRun := false }) .prep p.run .prepare hq
  refine ⟨_, _, q, ?_, htouch.this, rfl, hphase, hbal, fun i x hx => ?_⟩
  · rw [hexec, execSeniorReportTimeout, hf]
    simp only [ht, hw, hph, seniorPrepare, hround, sendPrepare_eq hr, decide_true, Bool.and_true, if_true]
  · obtain ⟨n, hn, hc⟩ := hsends i x hx
    exact ⟨n, hn, hc.member, hc.region, hc.bal.trans hbal.symm⟩

/-- Settles O29: the gate grants by `grantLease_grants`, members freeze and thaw, and the holder's replies move its proposal from the lease
to the reports and on to phase 1 (`startPhase_sends`). -/
theorem leases : Obligations.Leases := by
  intro s m c t p r ex
  refine ⟨fun hc hd hg => ⟨fun he hl hq => ?_, fun _ => freeze_reports hc hd hg ex, leaseRelease_thaws hc, leaseExpiry_thaws hc m.tid m.op⟩,
    leaseGrant_waits, freezeReport_noted, seniorReportTimeout_prepares⟩
  obtain ⟨hfound, hholder, hfreeze, hexpiry⟩ := grantLease_grants (m := m) hc (acc_of_findAcc hc)
  exact ⟨_, _, exec_lease_free hc hg he hl, hholder hd, hfound, rfl, hfreeze hq, hexpiry⟩

end Sys2Proof.Safety
end

section
/-! SUPPORT. How PROP and PROP.RUN choose their path (R145 to R147, R151, R152, R163, R186), and O25. -/

namespace Sys2Proof.Safety

open Sys2Proof Sys2Proof.Machine

/-! ### The accord table -/

theorem packetsOnly_putTab (s : State) (t : Thread) (e : AccTab) : PacketsOnly s (putTab s t e) := packetsOnly_modPart _ _ _ _

/-- An accord whose entry the table holds needs no fill (R148). -/
theorem withEntry_found {s : State} {t : Thread} {acc : Nat} {e : AccTab} {keep : List Op} (hp : t.place ≠ .engine)
    (hs : keep.any Op.isSnap = false) (he : ((getPart s t.core t.part).accTab.find? fun x => x.acc == acc) = some e)
    (k : State → Thread → AccTab → State) : withEntry s t acc keep k = k (putTab s t e) t e := by
  simp [withEntry, hp, hs, he]

/-- An agreement instruction that starts, outside a replay. -/
theorem agree_starts {s : State} {t : Thread} (hw : t.wait = .ready) (hk : t.kept = []) (start : State → Thread → State) :
    agree s t start = start s t := by
  simp only [agree, hw, hk]

theorem Plain.liveOr_eq {s : State} {t : Thread} (h : Plain s t) (type form : Nat) (obj : Word) (live : State → Thread → State)
    (old : State → Thread → LogRead → State) : liveOr s t type form obj live old = live s t := by
  obtain ⟨x, hx, -, hr⟩ := h
  simp [liveOr, hx, hr]

/-! ### The paths of a proposal -/

section Paths

variable {s : State} {t : Thread} {p : PropOp} {e : AccTab}

/-- FENCE.D of a proposal with nothing to wait for (R163). -/
theorem Fenced.fencedProp_eq (h : Fenced t) (hk : t.kept = []) (k : State → Thread → State) : fencedProp s t p k = k s t := by
  have hf : Fenced { t with kept := [.prop p] } := h
  rw [fencedProp, hf.fenced_eq]
  cases t
  cases hk
  rfl

theorem Touches.proposes {s' : State} {q : PropOp} {ph : Phase} {mk : AMsg → Instr} {bal : Nat} {flag : Bool} {v : Word}
    (h : Touches s s' t { t with op := t.op + 1, kept := [], wait := .op (.prop q) }) (hph : q.phase = ph) (hbal : q.bal = bal)
    (hg : q.grants = [])
    (hm : ∀ (i : Nat) (m : Nat × Nat), p.q.members[i]? = some m → ∃ a, Sends s s' (mk a) ∧ Carries t p flag i m.2 a)
    (hp : p.bal = bal ∧ p.v = v ∧ p.orig = t.id) : Proposes s s' t p.q ph mk p.acc p.slot bal flag v := by
  obtain ⟨hpbal, hpv, hporig⟩ := hp
  refine ⟨⟨_, q, h.this, rfl, hph, hbal, hg, rfl, ⟨rfl, rfl, rfl, rfl, rfl, rfl, rfl⟩, rfl⟩, h.others, h.quiet, fun i m hi => ?_⟩
  obtain ⟨a, hsend, hc⟩ := hm i m hi
  exact ⟨a, hsend, hc.region, hc.member, hc.acc, hc.slot, hc.bal.trans hpbal, hc.flag, hc.v.trans hpv, hc.orig.trans hporig, hc.tid, hc.op⟩

/-- A phase that begins at its members is a proposal under way. -/
theorem startPhase_proposes (ph : Phase) (flag : Bool) (mk : AMsg → Instr) {s0 : State} (h0 : PacketsOnly s0 s)
    (hq : ∀ m ∈ p.q.members, m.1 = s.dev.id) (ho : p.orig = t.id) :
    Proposes s0 (startPhase s t p ph flag mk) t p.q ph mk p.acc p.slot p.bal flag p.v := by
  obtain ⟨q, hph, hbal, hg, htouch, hsends⟩ := startPhase_sends (t := t) ph flag mk hq
  refine (h0.touches htouch).proposes hph hbal hg (fun i m hi => ?_) ⟨rfl, rfl, ho⟩
  obtain ⟨a, hsend, hc⟩ := hsends i m hi
  exact ⟨a, hsend.before h0.pend h0.cycle, hc⟩

/-- R151: the request for the lease goes to the gate, the first member. -/
theorem sendLease_asks (hd : (nth (0, 0) p.q.members 0).1 = s.dev.id) :
    ∃ q m, Touches s (sendLease s t p) t { t with op := t.op + 1, kept := [], wait := .op (.prop q) } ∧ q.phase = .lease
      ∧ Sends s (sendLease s t p) (.lease m) ∧ m.region = (nth (0, 0) p.q.members 0).2 ∧ m.acc = p.acc ∧ m.tid = t.id := by
  dsimp -zeta only [sendLease]
  extract_lets q u m
  have h := packetsOnly_toMember (setThread s u) t.core m.1 m.2 24 (.lease (propMsg s u q false 0 m.2))
  exact ⟨q, _, (touches_setThread s t u rfl).after h, rfl,
    (toMember_sends (s := setThread s u) hd _ _ _ _).before (.of_subset fun _ h => h) rfl, rfl, rfl, rfl⟩

end Paths

theorem nth_mem {α : Type} (d : α) {l : List α} (h : l ≠ []) : nth d l 0 ∈ l := by
  cases l with
  | nil => exact absurd rfl h
  | cons a l => exact List.mem_cons_self

/-! ### The instructions -/

/-- A plain proposal as an instruction begins it; `f` is the form, 1 for PROP.RUN. -/
def plainProp (t : Thread) (f : Nat) (d : BitVec 3) (a b : BitVec 4) : PropOp :=
  { outer := .plain, form := f, d := (pairLo d).toNat, acc := (t.reg a).toNat / 2 ^ 32, slot := (t.reg a).toNat % 2 ^ 32, v0 := t.reg b,
    hint := t.reg (pairHi d), run := f == 1 }

/-- The same with the configuration known. -/
def configured (t : Thread) (p : PropOp) (e : AccTab) : PropOp :=
  { p with gen := e.gen, epoch := epochAt e.epoch e.qb p.slot, q := governing e.qa e.qb p.slot, v := p.v0, orig := t.id, strict := e.strict }

section Instructions

variable {s : State} {t : Thread} {g : BitVec 5} {d : BitVec 3} {a b : BitVec 4} {e : AccTab}

theorem propBegin_plain {p : PropOp} {f : Nat} (hp : p = configured t (plainProp t f d a b) e) : propBegin s t (plainProp t f d a b) e =
    if e.conv then returnProp s t p 2 5 11 0 0 0 none
    else if p.q.members.length = 1 then
      fencedProp s t p fun s t => startPhase s t { p with bal := 2 ^ 40 + t.id } .pre false .prepacc
    else if 3 ≤ t.defeat then fencedProp s t p fun s t => sendLease s t p
    else if runPath t p then
      fencedProp s t p fun s t => sendAccept s t { p with bal := p.hint.toNat / 2 ^ 40 * 2 ^ 40 + t.id, viaRun := true }
    else sendPrepare s t p (chooseRound p) := by
  subst hp
  have hplain : (plainProp t f d a b).outer = .plain := rfl
  simp only [propBegin, hplain, decide_true, Bool.and_true]
  rfl

/-- A plain proposal begins with the entry of the table. -/
theorem propGo_begins {p : PropOp} (hp : t.place ≠ .engine) (he : ((getPart s t.core t.part).accTab.find? fun x => x.acc == p.acc) = some e)
    (ho : p.outer = .plain) (hph : p.phase = .begin) : propGo s t p = propBegin (putTab s t e) t p e := by
  have hs : [Op.prop p].any Op.isSnap = false := by simp [Op.isSnap, ho]
  simp [propGo, hph, withEntry_found hp hs he, markPending, ho]

/-- PROP and PROP.RUN go on from the entry of the table. -/
theorem AgreeReady.prop_begins (h : AgreeReady s t g ((t.reg a).toNat / 2 ^ 32) e) (run : Bool) :
    exec (if run then .propRun g d a b else .prop g d a b) s
      = .next (propBegin (putTab s t e) t (plainProp t (b2n run) d a b) e) := by
  obtain ⟨hi, hk, hp, hplain, he, -⟩ := h
  have hgo (f : Nat) : propOp f g d a b s = .next (propBegin (putTab s t e) t (plainProp t f d a b) e) := by
    rw [propOp, hi.scalar_eq, agree_starts hi.2.1 hk, hplain.liveOr_eq]
    exact congrArg Host.Outcome.next (propGo_begins (p := plainProp t f d a b) hp he rfl rfl)
  cases run
  · exact (rfl : exec (.prop g d a b) s = propOp 0 g d a b s).trans (hgo 0)
  · exact (rfl : exec (.propRun g d a b) s = propOp 1 g d a b s).trans (hgo 1)

theorem pairLo_toNat (d : BitVec 3) : (pairLo d).toNat = 2 * d.toNat := by
  have hd := d.isLt
  rw [pairLo, BitVec.toNat_ofNat]
  omega

theorem pairHi_toNat (d : BitVec 3) : (pairHi d).toNat = 2 * d.toNat + 1 := by
  have hd := d.isLt
  rw [pairHi, BitVec.toNat_ofNat]
  omega

/-- What a pair reads after both its registers were written. -/
theorem reg_pair (t : Thread) {d : BitVec 3} (hd : d.toNat < 5) (v w : Word) :
    let u : Thread := { t with regs := writeReg (writeReg t.regs (pairLo d) v) (pairHi d) w }
    u.reg (pairLo d) = v ∧ u.reg (pairHi d) = w := by
  have hlo : (pairLo d).toNat < 10 := by rw [pairLo_toNat]; omega
  have hhi : (pairHi d).toNat < 10 := by rw [pairHi_toNat]; omega
  have hne : pairLo d ≠ pairHi d := fun h => by
    have := congrArg BitVec.toNat h
    rw [pairLo_toNat, pairHi_toNat] at this
    omega
  simp [Thread.reg, readReg_writeReg, hlo, hhi, hne]

/-- R144, R186: a conversation's accord refuses with reason 11, status word 0xB5. -/
theorem returnProp_refused {p : PropOp} (hd : d.toNat < 5) (hpd : p.d = (pairLo d).toNat) (hplain : Plain s t) (ha : Ahead s t) :
    ∃ u, getThread (returnProp s t p 2 5 11 0 0 0 none) t.id = some u ∧ u.pc = BitVec.ofNat 14 (t.pc.toNat + 4)
      ∧ u.reg (pairLo d) = 0 ∧ u.reg (pairHi d) = 0xB5 := by
  obtain ⟨x, hx, hl, -⟩ := hplain
  have hlo : BitVec.ofNat 4 p.d = pairLo d := by rw [hpd, BitVec.ofNat_toNat, BitVec.setWidth_eq]
  have hhi : BitVec.ofNat 4 (p.d + 1) = pairHi d := by rw [hpd, pairLo_toNat]; rfl
  let c : Completion := { r1 := pairLo d, v1 := 0, r2 := pairHi d, v2 := 0xB5 }
  have hret : returnProp s t p 2 5 11 0 0 0 none = setThread s (stepped (t.apply c)) := by
    have hac : Ahead s (t.apply c) := ha
    rw [returnProp, finish_unlogged hx hl, hlo, hhi]
    exact hac.retire_eq
  obtain ⟨hvlo, hvhi⟩ := reg_pair t hd 0 0xB5
  exact ⟨stepped (t.apply c), by rw [hret]; exact getThread_setThread s (stepped (t.apply c)), rfl, hvlo, hvhi⟩

theorem PacketsOnly.fatalHere {s1 s' : State} {code : Nat} (h : PacketsOnly s s1) (hq : s1.trapqs = s.trapqs) (hf : FatalHere s1 s' t code) :
    FatalHere s s' t code := by
  obtain ⟨hthread, hctx⟩ := hf
  obtain ⟨hmem, -, hctxs, -⟩ := h.quiet
  have hqueue : trapQueueOf s1 t.core t.part = trapQueueOf s t.core t.part := by simp only [trapQueueOf, psetOf, h.sets]
  refine ⟨hthread, fun x hx => ?_⟩
  have hx1 : getCtx s1 t.ctx = some x := by rw [getCtx, hctxs]; exact hx
  rw [hqueue, getTrapQ, hq, hmem] at hctx
  exact hctx x hx1

theorem runPath_configured (f : Nat) : runPath t (configured t (plainProp t f d a b) e)
    = decide ((t.reg (pairHi d)).toNat % 256 = 0x10 ∧ (t.reg (pairHi d)).toNat / 256 % 2 ^ 32 = t.id / 256) := by
  rw [Bool.decide_and]
  rfl

theorem chooseRound_configured (f : Nat) : chooseRound (configured t (plainProp t f d a b) e)
    = if (t.reg (pairHi d)).toNat % 16 = 2 then (t.reg (pairHi d)).toNat / 2 ^ 40 + 1 else 1 := by
  by_cases h : (t.reg (pairHi d)).toNat % 16 = 2 <;> simp [chooseRound, configured, plainProp, h]

end Instructions

/-- Settles O25: PROP goes on from its entry of the accord table (`AgreeReady.prop_begins`), and each way that `propBegin` can take sends its
phase by `startPhase_proposes`, the lease by `sendLease_asks`. -/
theorem proposals : Obligations.Proposals := by
  intro s t g d a b e run hd acc slot hready i q h mine round many
  obtain ⟨p, hp⟩ : ∃ p, p = configured t (plainProp t (b2n run) d a b) e := ⟨_, rfl⟩
  have hexec : exec i s = _ := hready.prop_begins run
  rw [propBegin_plain hp] at hexec
  obtain ⟨⟨⟨-, ht⟩, -⟩, hk, -, hplain, -, hq⟩ := hready
  obtain ⟨hne, hlocal⟩ := hq slot
  obtain ⟨s1, hs1⟩ : ∃ s1, s1 = putTab s t e := ⟨_, rfl⟩
  have htab : PacketsOnly s s1 := hs1 ▸ packetsOnly_putTab s t e
  have hpq : p.q = q := by subst hp; rfl
  have hdev : ∀ m ∈ p.q.members, m.1 = s1.dev.id := fun m hm => by
    rw [hpq] at hm
    exact (hlocal m hm).trans htab.dev_id.symm
  have horig : p.orig = t.id := by subst hp; rfl
  have hpath : runPath t p = decide mine := hp ▸ runPath_configured _
  have hround : chooseRound p = round := hp ▸ chooseRound_configured _
  have hsingle (hm : 2 ≤ q.members.length) : ¬p.q.members.length = 1 := by rw [hpq]; omega
  rw [hexec, ← hs1]
  refine ⟨fun ⟨hc, hm⟩ hdef hmine hlt => ?_, fun ⟨hc, hm⟩ hdef hmine hf => ?_, fun hc hm hf => ?_, fun ⟨hc, hm⟩ hdef hf => ?_,
    fun ⟨hc, hm⟩ hdef hmine hge => ?_, fun hc ha => ?_⟩
  · rw [if_neg (by simp [hc]), if_neg (hsingle hm), if_neg (Nat.not_le.2 hdef), hpath, if_neg (by simpa using hmine), hround,
      sendPrepare_eq hlt]
    have hsent := startPhase_proposes (t := t) (p := { p with bal := round * 2 ^ 40 + t.id, best := 0, runs := 0, viaRun := false }) .prep
      p.run .prepare htab hdev horig
    refine ⟨_, rfl, ?_⟩
    subst hp
    cases run <;> exact hsent
  · rw [if_neg (by simp [hc]), if_neg (hsingle hm), if_neg (Nat.not_le.2 hdef), hpath, if_pos (by simpa using hmine), hf.fencedProp_eq hk]
    have hsent := startPhase_proposes (t := t) (p := { p with bal := p.hint.toNat / 2 ^ 40 * 2 ^ 40 + t.id, viaRun := true }) .acc true
      .accept htab hdev horig
    refine ⟨_, rfl, ?_⟩
    subst hp
    exact hsent
  · rw [if_neg (by simp [hc]), if_pos (hpq ▸ hm), hf.fencedProp_eq hk]
    have hsent := startPhase_proposes (t := t) (p := { p with bal := 2 ^ 40 + t.id }) .pre false .prepacc htab hdev horig
    refine ⟨_, rfl, ?_⟩
    subst hp
    exact hsent
  · rw [if_neg (by simp [hc]), if_neg (hsingle hm), if_pos hdef, hf.fencedProp_eq hk]
    obtain ⟨r, m, htouch, hph, hsend, hregion, hmacc, htid⟩ := sendLease_asks (t := t) (hdev _ (nth_mem (0, 0) (hpq ▸ hne)))
    refine ⟨_, _, r, m, rfl, htouch.this, rfl, hph, rfl, hsend.before htab.pend htab.cycle, ?_, ?_, htid⟩
    · rw [hregion, hpq]
    · subst hp
      exact hmacc
  · rw [if_neg (by simp [hc]), if_neg (hsingle hm), if_neg (Nat.not_le.2 hdef), hpath, if_neg (by simpa using hmine), hround, sendPrepare,
      if_pos hge]
    have htrapqs : s1.trapqs = s.trapqs := by rw [hs1]; rfl
    exact ⟨_, rfl, htab.fatalHere htrapqs (fatalAt_fatalHere ((htab.getThread _).trans ht) 0x12 round)⟩
  · rw [if_pos hc]
    have hplain' : Plain s1 t := by rw [hs1]; exact hplain
    have hpd : p.d = (pairLo d).toNat := by subst hp; rfl
    obtain ⟨u, hu, hpc, hlo, hhi⟩ := returnProp_refused hd hpd hplain' (htab.ahead ha)
    exact ⟨_, u, rfl, hu, hpc, hlo, hhi⟩

end Sys2Proof.Safety
end

section
/-! SUPPORT. An ACCORD.OPEN of the device's own engine thread, against O26 and O30: `returnAcc` leaves such a thread with its outcome held. -/

namespace Sys2Proof.Safety

open Sys2Proof Sys2Proof.Machine

/-- A context with segment 0 over the scratchpad of core 0. -/
def engineCtx : Ctx := { fetchCtx with segs := [{ limit := 65536, r := true, w := true, a := true }] }

/-- The engine's thread on core 0 of context 1, in wait `w`; g1 is 0, the program address of the scratchpad's first byte. -/
def engineThread (w : Wait) : Thread := { id := 1, ctx := 1, core := 0, part := 0, place := .engine, op := 5, wait := w }

/-- A READY device with that thread in focus. -/
def engineState (w : Wait) : State :=
  { fetchBase State.reset with focus := .thread 1, threads := [(1, engineThread w)], ctxs := [(1, engineCtx)] }

/-- What the thread is after an instruction. -/
def engineAfter (r : Res) : Option Thread :=
  match r with
  | .next s => getThread s 1
  | _ => none

theorem engineThread_ahead (w : Wait) : Ahead (engineState w) (engineThread w) :=
  ⟨rfl, (inSlice_congr (s := fetchBase State.reset) (s' := engineState w) rfl 0 0 4).trans (by decide)⟩

/-! ### An invalid descriptor -/

theorem engine_segCheck : segCheck engineCtx ((engineThread (.gathered [] 1)).reg 1) 384 128 rightARW = .ok 0 := by decide

theorem engine_openCheck : openCheck (engineState (.gathered [] 1)) engineCtx [] = false := by decide

/-- The thread does not leave its instruction. -/
theorem engine_open_stays : (engineAfter (exec (.accordOpen 0 4 1 2) (engineState (.gathered [] 1)))).map (·.pc) = some 0 := by decide

/-- Refutes O26: the clause on an invalid descriptor of ACCORD.OPEN covers the thread of the device's engine too, and that one keeps the
outcome for the configuration ring (R353) and waits at the same word. -/
theorem not_questions : ¬Obligations.Questions := by
  unfold Obligations.Questions
  intro ⟨_, _, hforms⟩
  have hctx : getCtx (engineState (.gathered [] 1)) 1 = some engineCtx := rfl
  obtain ⟨-, -, -, hbad, -⟩ := hforms _ (engineThread (.gathered [] 1)) engineCtx 0 0 4 1 2
    ⟨0, 0, 0, ⟨0, 0, 0, []⟩, none, 0, 0, false, false, 0⟩ 0 hctx
  obtain ⟨s', u, hexec, hu, hpc, -⟩ := hbad [] ⟨rfl, rfl⟩ rfl engine_segCheck (by decide) engine_openCheck (engineThread_ahead _)
  have hthread : engineAfter (.next s') = some u := hu
  have hstays := engine_open_stays
  rw [hexec, hthread, Option.map_some, hpc] at hstays
  exact absurd hstays (by decide)

/-! ### A failed registration -/

/-- An OPEN that is taken back and waits for its last member. -/
def lastUndo : AccOp := { form := 0, d := 4, acc := 7, first := false, undo := true, waiting := [2], code := 3 }

theorem engine_undo_waits : (engineAfter (exec (.memberReply 1 5 2 (.status 0 0)) (engineState (.op (.acc lastUndo))))).map (·.wait)
    = some (.until .always) := by decide

/-- Refutes O30: the last answer of a failed OPEN leaves the thread of the device's engine, which opens the launch accords (R353), waiting
with the code held, and not ready at the next word. -/
theorem not_members : ¬Obligations.Members := by
  unfold Obligations.Members
  intro ⟨_, hanswers, _⟩
  obtain ⟨-, -, hfailed, -⟩ := hanswers (engineState (.op (.acc lastUndo))) (engineThread (.op (.acc lastUndo)))
    { form := .learn, d := 0, acc := 0, slot := 0 } 2 0 0 0 0 0 0 .ack lastUndo 0 0 rfl rfl (by decide)
  obtain ⟨s', u, hexec, hu, hready, -⟩ := hfailed rfl rfl rfl rfl (engineThread_ahead _)
  have hthread : engineAfter (.next s') = some u := hu
  have hwaits := engine_undo_waits
  rw [show exec (.memberReply 1 5 2 (.status 0 0)) _ = .next s' from hexec, hthread, Option.map_some, hready] at hwaits
  exact absurd hwaits (by decide)

end Sys2Proof.Safety
end

section
/-! SUPPORT. An OPENL whose accord has a member on another device, beside a context 0, against O53. -/

namespace Sys2Proof.Safety

open Sys2Proof Sys2Proof.Machine

/-- The nonzero bytes of memory: at commons address 0x1000 the descriptor of launch accord 0, with its decision array of 64 slots at commons
address 0 and one member, region 0 of device 1; in the host's memory at 0 the configuration ring's entry, with the descriptor's address. -/
def farMem : List Host.Cell :=
  [(commonsKey 0 0x1001, 0x10), (commonsKey 0 0x1016, 0x30), (commonsKey 0 0x1018, 6), (commonsKey 0 0x1080, 0x11),
    (commonsKey 0 0x1081, 1), (commonsKey 0 0x108A, 1), (tierKey 2 9, 0x10), (tierKey 2 14, 0x30)]

/-- Device 0 with that entry at the head of its configuration ring, and a context 0 that has no segments. -/
def farState : State :=
  { State.reset with
    focus := .ring 1, mem := farMem, ctxs := [(0, fetchCtx)],
    sets := [{ rx := 0, ry := 0, rw := 1, rh := 1, n := 1, holder := 0, entries := [⟨0, 0, 1, 0, 16, 16⟩], turns := [], raw := [0] }] }

/-- The descriptor. -/
def farDesc : List Byte := (List.range 384).map fun i => memByte farMem (commonsKey 0 0x1000 + i)

/-! What OPENL finds there (R160, R353): a good descriptor with a member elsewhere, a closed accord, and a free engine. -/

theorem far_canonical : Canonical farState := ⟨by decide +kernel, List.Pairwise.nil, List.pairwise_singleton _ _⟩

theorem far_arg : headQuad farState 1 2 = 0 := by decide +kernel

theorem far_parts : openlParts farState (headQuad farState 1 2 / 2 ^ 16 % 16) (headQuad farState 1 1) (headQuad farState 1 2)
    = some (farDesc, none, 0) := by decide +kernel

theorem far_member : (1, 0) ∈ (parseQuorum ((farDesc.drop 128).take 128)).members := by decide +kernel

theorem far_array : fieldAt farDesc 16 8 = 3 * 2 ^ 52 := by decide +kernel

/-- The decision arrays in the registrations that are on their way after a step. -/
def sentArrays (r : Res) : List Nat :=
  match r with
  | .next s => s.pend.filterMap fun p =>
    match p.what with
    | .accordRegister _ _ _ _ darr _ _ _ _ _ => some darr
    | _ => none
  | _ => []

/-- The one registration names array 0: the address is checked as if context 0 had asked. -/
theorem far_sentArrays : sentArrays (exec .openl farState) = [0] := by decide +kernel

/-- Refutes O53: the submission engine's thread has context 0, and where there is a context of that number its segments say what the
decision array's address is worth, so that the registration of a good descriptor goes out without its array. -/
theorem not_configuration : ¬Obligations.Configuration := by
  unfold Obligations.Configuration
  intro ⟨_, haccords, _⟩
  obtain ⟨-, hgood⟩ := haccords farState farDesc none 0 far_canonical rfl
  obtain ⟨-, -, -, -, hfar, -⟩ := hgood (by rw [far_arg]; decide) far_parts
  obtain ⟨s', u, a, m, pr, st, w, hexec, -, -, -, -, -, -, hsend, -, -⟩ :=
    hfar (by rw [far_arg]; decide) (by rw [far_arg]; decide) ⟨(1, 0), far_member, by decide⟩ rfl
  obtain ⟨-, p, hp, hwhat, -⟩ := hsend
  have hmem : 3 * 2 ^ 52 ∈ sentArrays (.next s') := List.mem_filterMap.2 ⟨p, hp, by rw [hwhat, far_array]⟩
  rw [← hexec, far_sentArrays] at hmem
  exact absurd hmem (by decide)

end Sys2Proof.Safety
end

section
/-! SUPPORT. What recording a decision leaves unchanged, and what it makes known (R141, R142). -/

namespace Sys2Proof.Safety

open Sys2Proof Sys2Proof.Machine

/-! ### Time, device and what is under way -/

/-- From `s` to `s'` the cycle and the device's name are the same, and what was under way still is. -/
structure Forward (s s' : State) : Prop where
  pend : PendGrows s.pend s'.pend
  cycle : s'.cycle = s.cycle
  dev : s'.dev.id = s.dev.id

protected theorem Forward.refl (s : State) : Forward s s := ⟨.of_subset fun _ h => h, rfl, rfl⟩

section Steps

variable {s0 s : State}

protected theorem Forward.frame {s' : State} (h : Forward s0 s) (hp : s'.pend = s.pend := by rfl) (hc : s'.cycle = s.cycle := by rfl)
    (hd : s'.dev.id = s.dev.id := by rfl) : Forward s0 s' := ⟨hp ▸ h.pend, hc.trans h.cycle, hd.trans h.dev⟩

protected theorem Forward.packets {s' : State} (h : Forward s0 s) (hp : PacketsOnly s s') : Forward s0 s' :=
  ⟨h.pend.trans hp.pend, hp.cycle.trans h.cycle, hp.dev_id.trans h.dev⟩

protected theorem Forward.ite {a b : State} {p : Prop} [Decidable p] (ha : Forward s0 a) (hb : Forward s0 b) :
    Forward s0 (if p then a else b) := by
  split
  · exact ha
  · exact hb

protected theorem Forward.post {n k : Nat} {i : Instr} {w : Focus} (h : Forward s0 s) : Forward s0 (post s n k i w) :=
  h.packets (packetsOnly_post _ _ _ _ _)

protected theorem Forward.setAcc {g : Nat} {c : AccCfg} (h : Forward s0 s) : Forward s0 (setAcc s g c) := h.frame

protected theorem Forward.replyTo {m : AMsg} {i : Instr} (h : Forward s0 s) : Forward s0 (replyTo s m i) := h.packets (packetsOnly_replyTo _ _ _)

protected theorem Forward.answerTo {q : LReq} {b : MBody} (h : Forward s0 s) : Forward s0 (answerTo s q b) :=
  h.packets (packetsOnly_fromMember _ _ _ _ _ _)

protected theorem Forward.sendAccess {a : Access} (h : Forward s0 s) : Forward s0 (sendAccess s a) := h.packets (packetsOnly_sendAccess _ _)

/-! A unit reads (R280, R284). -/

protected theorem Forward.takePage {p ctx cls va pa : Nat} {l : Leaf} {w : List Access} (h : Forward s0 s) :
    Forward s0 (takePage s p ctx cls va l pa w) := h.frame.post

protected theorem Forward.useLeaf {s' : State} {p ctx cls va pa : Nat} {l : Leaf} (h : Forward s0 s)
    (e : useLeaf s p ctx cls va ⟨true, false, false⟩ l = some (pa, s')) : Forward s0 s' := by
  cases e
  exact h.frame

protected theorem Forward.unitWalk {ctx root cls va : Nat} (h : Forward s0 s) :
    Forward s0 (unitWalk s ctx root cls va ⟨true, false, false⟩).1 := by
  fun_cases unitWalk s ctx root cls va ⟨true, false, false⟩ with
  | case1 | case2 => exact h
  | case3 _ _ _ _ e => exact h.useLeaf e
  | case4 _ _ _ _ e => exact (h.useLeaf e).takePage

protected theorem Forward.unitKey {ctx core p r4 r5 r6 da : Nat} (h : Forward s0 s) :
    Forward s0 (unitKey s ctx core p r4 r5 r6 da ⟨true, false, false⟩).1 := by
  unfold unitKey
  split
  case h_4 => exact h.unitWalk
  all_goals exact h

protected theorem Forward.unitRead {ctx core p r4 r5 r6 n da len : Nat} (h : Forward s0 s) :
    Forward s0 (unitRead s ctx core p r4 r5 r6 n da len).1 := by
  fun_induction unitRead s ctx core p r4 r5 r6 n da len with
  | case1 | case2 => exact h
  | case3 _ _ _ _ _ _ e => exact (congrArg (Forward s0 ·.1) e).mp h.unitKey
  | case4 _ _ _ _ _ _ _ _ e => exact (congrArg (Forward s0 ·.1) e).mp h.unitKey
  | case5 _ _ _ _ _ _ _ _ e _ _ ih => exact ih ((congrArg (Forward s0 ·.1) e).mp h.unitKey)

/-! What a decided slot sets off (R288, R300, R320). -/

protected theorem Forward.requestDusk {d : Nat} {l : List Nat} (h : Forward s0 s) : Forward s0 (requestDusk d l s) := by
  induction l generalizing s with
  | nil => exact h
  | cons c l ih =>
    refine ih ?_
    split
    · exact .ite h.frame.post h
    · exact h

protected theorem Forward.takeEpoch {slot orig da : Nat} (h : Forward s0 s) : Forward s0 (takeEpoch s slot orig da) := by
  unfold takeEpoch
  split
  · exact .ite h h.unitRead.frame.post.frame
  · exact h

protected theorem Forward.applySlot {c : AccCfg} {e : SlotEntry} (h : Forward s0 s) : Forward s0 (applySlot s c e) := by
  fun_cases applySlot s c e with
  | case1 => exact h.requestDusk
  | case2 => exact h.takeEpoch
  | case3 | case5 => exact h
  | case4 => exact h.frame.post

/-! Learners, arrays and the frontier (R138, R142, R151, R154, R397). -/

protected theorem Forward.noteAsk {q : LReq} (h : Forward s0 s) : Forward s0 (noteAsk s q) := .ite h h.answerTo.post

protected theorem Forward.keepWaiting {g : Nat} {c : AccCfg} {q : LReq} (h : Forward s0 s) : Forward s0 (keepWaiting s g c q) := by
  fun_cases keepWaiting s g c q with
  | case1 => exact h.setAcc.noteAsk
  | case2 | case3 => exact h.answerTo

protected theorem Forward.beginRead {g slot : Nat} {c : AccCfg} {ask : ArrayAsk} (h : Forward s0 s) : Forward s0 (beginRead s g c slot ask) := by
  refine Forward.sendAccess ?_
  split
  · exact h.frame.noteAsk
  · exact h.frame

protected theorem Forward.answerMsg {m : AMsg} {below : Bool} {e : Option SlotEntry} (h : Forward s0 s) : Forward s0 (answerMsg s m below e) := by
  unfold answerMsg
  split
  · exact h.replyTo
  · exact .ite h.replyTo h.replyTo

protected theorem Forward.learnFrom {g slot : Nat} {c : AccCfg} {q : LReq} {e : Option SlotEntry} (h : Forward s0 s) :
    Forward s0 (learnFrom s g c q slot e) := by
  fun_cases learnFrom s g c q slot e with
  | case3 | case6 | case16 => exact h.keepWaiting
  | case4 => exact h.beginRead
  | _ => exact h.answerTo

protected theorem Forward.answerAsk {g : Nat} {c : AccCfg} {ask : ArrayAsk} {e : Option SlotEntry} (h : Forward s0 s) :
    Forward s0 (answerAsk s g c ask e) := by
  cases ask
  · exact h.answerMsg
  · exact h.answerMsg
  · exact h.learnFrom

protected theorem Forward.readArray {g : Nat} {c : AccCfg} {ask : ArrayAsk} (h : Forward s0 s) : Forward s0 (readArray s g c ask) :=
  .ite h.answerAsk h.beginRead

protected theorem Forward.readAll {g acc : Nat} {l : List ArrayAsk} (h : Forward s0 s) : Forward s0 (readAll g acc l s) := by
  induction l generalizing s with
  | nil => exact h
  | cons a l ih =>
    refine ih ?_
    split
    · exact h.readArray
    · exact h

protected theorem Forward.answerWaits {c : AccCfg} {l : List LReq} (h : Forward s0 s) : Forward s0 (answerWaits c l s).1 := by
  induction l generalizing s with
  | nil => exact h
  | cons q l ih =>
    unfold answerWaits
    split
    · exact ih h.answerTo
    · exact ih h
    · exact ih h

protected theorem Forward.serveWaits {g acc : Nat} {known : List SlotEntry} (h : Forward s0 s) : Forward s0 (serveWaits s g acc known) := by
  unfold serveWaits
  split
  · exact h
  · exact h.answerWaits.setAcc.readAll

protected theorem Forward.moveFront {g : Nat} {c : AccCfg} {known : List SlotEntry} (h : Forward s0 s) : Forward s0 (moveFront s g c known) :=
  .ite h.setAcc.serveWaits.post h.setAcc.serveWaits

protected theorem Forward.writeArray {g : Nat} {c : AccCfg} {e : SlotEntry} (h : Forward s0 s) : Forward s0 (writeArray s g c e) :=
  .ite h.setAcc h.setAcc.sendAccess.sendAccess

end Steps

theorem packetsOnly_tellQueue (e : SlotEntry) (l : List AMsg) (s : State) : PacketsOnly s (tellQueue e l s) := by
  induction l generalizing s with
  | nil => exact .refl s
  | cons m l ih =>
    refine .trans ?_ (ih _)
    split
    · exact packetsOnly_replyTo _ _ _
    · exact .refl s

protected theorem Forward.recordDecision {s0 s : State} {g : Nat} {c : AccCfg} {d : SlotEntry} (h : Forward s0 s) :
    Forward s0 (recordDecision s g c d) := by
  unfold recordDecision
  extract_lets fresh had e c1 c2 s1 s2 s3
  have h1 : Forward s0 s1 := .ite h.setAcc h.setAcc.writeArray
  have h3 : Forward s0 s3 := h1.moveFront.packets (packetsOnly_tellQueue _ _ _)
  exact .ite h (.ite h3.applySlot h3)

end Sys2Proof.Safety
end

section
/-! SUPPORT. What an acceptor keeps of a slot, its answers, and the decisions that it records (R140 to R142, R147, R149), and O27. -/

namespace Sys2Proof.Safety

open Sys2Proof Sys2Proof.Machine

/-! ### The entry of a slot -/

theorem slot_of_slotEntry {c : AccCfg} {slot : Nat} {e : SlotEntry} (h : slotEntry c slot = some e) : e.slot = slot := by
  simpa using List.find?_some h

theorem mem_of_slotEntry {c : AccCfg} {slot : Nat} {e : SlotEntry} (h : slotEntry c slot = some e) : e ∈ c.entries := List.mem_of_find?_eq_some h

/-- The entry that was put is the slot's. -/
theorem slotEntry_putEntry (c : AccCfg) (e : SlotEntry) : slotEntry (putEntry c e) e.slot = some e := by
  unfold slotEntry putEntry
  dsimp only
  split
  · next h =>
    have hkey : ((fun x : SlotEntry => x.slot == e.slot) ∘ fun x => if x.slot = e.slot then e else x) = fun x => x.slot == e.slot := by
      funext x
      by_cases hx : x.slot = e.slot <;> simp [hx]
    obtain ⟨x, hx⟩ := Option.isSome_iff_exists.1 ((List.find?_isSome (p := fun x : SlotEntry => x.slot == e.slot)).2 (List.any_eq_true.1 h))
    have hslot : x.slot = e.slot := by simpa using List.find?_some hx
    rw [List.find?_map, hkey, hx, Option.map_some, if_pos hslot]
  · next h =>
    have hnone : (c.entries.find? fun x => x.slot == e.slot) = none := by simpa using h
    simp [List.find?_append, hnone]

theorem knownDecided_of_slotEntry {c : AccCfg} {slot : Nat} {e : SlotEntry} (h : slotEntry c slot = some e) (hd : e.decided = true) :
    knownDecided c slot = true := by
  have : (c.entries.any fun x => x.slot == slot && x.decided) = true :=
    List.any_eq_true.2 ⟨e, mem_of_slotEntry h, by simp [slot_of_slotEntry h, hd]⟩
  simp [knownDecided, this]

/-- A slot that is not known decided has no decided entry. -/
theorem slotEntry_undecided {c : AccCfg} {slot : Nat} (h : knownDecided c slot = false) : (slotEntry c slot).any (·.decided) = false := by
  cases he : slotEntry c slot with
  | none => rfl
  | some e =>
    by_contra hd
    have hd : e.decided = true := by simpa using hd
    rw [knownDecided_of_slotEntry he hd] at h
    cases h

/-! ### The checks of R141 -/

section Checks

variable {s : State} {m : AMsg} {c : AccCfg} {e : SlotEntry}

theorem Passes.slot (h : Passes s m c e) : e.slot = m.slot := by
  obtain ⟨-, -, -, -, -, -, -, -, ⟨hs, -⟩ | ⟨-, rfl, -⟩⟩ := h
  · exact slot_of_slotEntry hs
  · rfl

/-- A message that passes goes on with its slot's entry. -/
theorem Passes.chk_eq (h : Passes s m c e) (k : AccCfg → SlotEntry → State) : chk s m k = k c e := by
  obtain ⟨-, hc, hf, hg, he, ht, hfront, harr, hentry⟩ := h
  have hroom : ¬(c.front + 16 ≤ m.slot ∨ ¬c.darr = 0 ∧ c.trunc + 2 ^ c.llen ≤ m.slot) := by omega
  obtain ⟨hs, hd⟩ | ⟨hs, rfl, hshare⟩ := hentry
  · simp [chk, hc, hf, hg, he, Nat.not_lt.2 ht, hs, hd, hroom]
  · simp [chk, hc, hf, hg, he, Nat.not_lt.2 ht, hs, hshare, hroom]

/-- A member that does not hold the accord. -/
theorem chk_missing (h : findAcc s m.region m.acc = none) (k : AccCfg → SlotEntry → State) : chk s m k = nackTo s m 8 0 := by
  rw [chk, h]

/-- A decided slot is answered with its decision. -/
theorem chk_decided (hc : findAcc s m.region m.acc = some c) (hf : c.frozen = none) (hg : m.gen = c.gen) (he : m.epoch = epochFor c m.slot)
    (ht : c.trunc ≤ m.slot) (hs : slotEntry c m.slot = some e) (hd : e.decided = true) (k : AccCfg → SlotEntry → State) :
    chk s m k = replyTo s m (.decidedReply { repTo m with ab := e.ab, av := e.av, ao := e.ao, num := 1, config := e.config }) := by
  simp [chk, hc, hf, hg, he, Nat.not_lt.2 ht, hs, hd]

theorem convCheck_plain (h : c.proto = none) (v : Word) (o : Nat) (config : Bool) (k : State) : convCheck s m c v o config k = k := by
  rw [convCheck, h]

end Checks

/-! ### Answers -/

/-- The answer that follows a change of the members' configurations alone. -/
theorem replyTo_answers {s s1 : State} {m : AMsg} (h : s1 = { s with regions := s1.regions }) (hd : m.dev = s.dev.id) (i : Instr) :
    Sends s (replyTo s1 m i) i ∧ (replyTo s1 m i).threads = s.threads ∧ (replyTo s1 m i).mem = s.mem := by
  have hp := packetsOnly_replyTo s1 m i
  have hdev : m.dev = s1.dev.id := by rw [h]; exact hd
  have hpend : s1.pend = s.pend := by rw [h]
  have hcycle : s1.cycle = s.cycle := by rw [h]
  refine ⟨(replyTo_sends hdev i).before (hpend ▸ .of_subset fun _ h => h) hcycle, hp.threads.trans ?_, hp.mem.trans ?_⟩ <;> rw [h]

/-- A member that put an entry, and answered, holds it. -/
theorem holds_replyTo {s1 : State} {m : AMsg} {c : AccCfg} {e : SlotEntry} {f : SlotEntry → Prop}
    (hc : findAcc s1 m.region m.acc = some c) (he : slotEntry c m.slot = some e) (hf : f e) (i : Instr) : Holds (replyTo s1 m i) m f :=
  ⟨c, e, by rw [findAcc_congr (packetsOnly_replyTo s1 m i).regions]; exact hc, he, hf⟩

section Acceptor

variable {s : State} {m : AMsg} {c : AccCfg} {e : SlotEntry}

/-- R141, R152: the promise, with the run grant where it is given. -/
theorem Passes.prepare_promises (h : Passes s m c e) (hlt : e.p < m.bal) : ∃ s' n, exec (.prepare m) s = .next s' ∧ s'.threads = s.threads
    ∧ s'.mem = s.mem ∧ n ≤ 1
    ∧ Sends s s' (.promise { repTo m with ab := e.ab, av := e.av, ao := e.ao, num := n, config := e.config })
    ∧ Holds s' m fun x => x.p = m.bal ∧ x.ab = e.ab ∧ x.av = e.av := by
  have hexec : exec (.prepare m) s = execPrepare m s := rfl
  rw [hexec, execPrepare, h.chk_eq, if_neg (Nat.not_le.2 hlt)]
  extract_lets c1 s1 free grant s2
  have hslot := h.slot
  obtain ⟨hd, hc, -⟩ := h
  have hacc := acc_of_findAcc hc
  have hone : b2n grant ≤ 1 := by cases grant <;> decide
  have hentry : slotEntry c1 m.slot = some { e with p := m.bal } := hslot ▸ slotEntry_putEntry c { e with p := m.bal }
  have hc1 : findAcc s1 m.region m.acc = some c1 := findAcc_setAcc hc hacc
  obtain ⟨c2, hc2, hentry2, hregions⟩ : ∃ c2, findAcc s2 m.region m.acc = some c2 ∧ slotEntry c2 m.slot = some { e with p := m.bal }
      ∧ s2 = { s with regions := s2.regions } := by
    unfold s2
    split
    · exact ⟨_, findAcc_setAcc hc1 hacc, hentry, rfl⟩
    · exact ⟨c1, hc1, hentry, rfl⟩
  obtain ⟨hsend, hthreads, hmem⟩ := replyTo_answers hregions hd
    (.promise { repTo m with ab := e.ab, av := e.av, ao := e.ao, num := b2n grant, config := e.config })
  exact ⟨_, _, rfl, hthreads, hmem, hone, hsend, holds_replyTo hc2 hentry2 ⟨rfl, rfl, rfl⟩ _⟩

/-- R141: NACK 2 with the promised ballot. -/
theorem Passes.prepare_refused (h : Passes s m c e) (hle : m.bal ≤ e.p) : exec (.prepare m) s = .next (nackTo s m 2 e.p) := by
  have hexec : exec (.prepare m) s = execPrepare m s := rfl
  rw [hexec, execPrepare, h.chk_eq, if_pos hle]

theorem Passes.accept_eq (h : Passes s m c e) (hp : c.proto = none) :
    exec (.accept m) s = .next (
      if m.flag && e.p ≠ m.bal && !(c.runs.any fun r => r.bal == m.bal && r.lo ≤ m.slot && m.slot ≤ r.hi) then replyTo s m (.norun (repTo m))
      else if m.bal < max e.p (runBallot c m.slot) then nackTo s m 2 (max e.p (runBallot c m.slot))
      else replyTo (setAcc s m.region (putEntry c { e with p := m.bal, ab := m.bal, av := m.v, ao := m.orig, config := m.config })) m
        (.accepted (repTo m))) := by
  have hexec : exec (.accept m) s = execAccept m s := rfl
  rw [hexec, execAccept, h.chk_eq, convCheck_plain hp]

/-- An ACCEPT without the flag, or whose own ballot was promised, needs no run grant (R152). -/
theorem needs_no_run (h : m.flag = false ∨ e.p = m.bal) (granted : Bool) : ¬(m.flag && e.p ≠ m.bal && !granted) = true := by
  obtain h | h := h <;> simp [h]

/-- R141: an ACCEPT whose run grant is not asked for, or whose own ballot was promised, is taken at or above every ballot of its slot. -/
theorem Passes.accept_accepts (h : Passes s m c e) (hp : c.proto = none) (hf : m.flag = false ∨ e.p = m.bal)
    (hle : max e.p (runBallot c m.slot) ≤ m.bal) : ∃ s', exec (.accept m) s = .next s' ∧ s'.threads = s.threads ∧ s'.mem = s.mem
    ∧ Sends s s' (.accepted (repTo m)) ∧ Holds s' m fun x => x.p = m.bal ∧ x.ab = m.bal ∧ x.av = m.v ∧ x.ao = m.orig := by
  rw [h.accept_eq hp, if_neg (needs_no_run hf _), if_neg (Nat.not_lt.2 hle)]
  have hslot := h.slot
  obtain ⟨hd, hc, -⟩ := h
  let e1 := { e with p := m.bal, ab := m.bal, av := m.v, ao := m.orig, config := m.config }
  have hentry : slotEntry (putEntry c e1) m.slot = some e1 := hslot ▸ slotEntry_putEntry c e1
  have hacc := acc_of_findAcc hc
  obtain ⟨hsend, hthreads, hmem⟩ := replyTo_answers (s1 := setAcc s m.region (putEntry c e1)) rfl hd (.accepted (repTo m))
  exact ⟨_, rfl, hthreads, hmem, hsend, holds_replyTo (c := putEntry c e1) (findAcc_setAcc hc hacc) hentry ⟨rfl, rfl, rfl, rfl⟩ _⟩

/-- R141: below it, NACK 2 with the highest ballot. -/
theorem Passes.accept_refused (h : Passes s m c e) (hp : c.proto = none) (hf : m.flag = false ∨ e.p = m.bal)
    (hlt : m.bal < max e.p (runBallot c m.slot)) : exec (.accept m) s = .next (nackTo s m 2 (max e.p (runBallot c m.slot))) := by
  rw [h.accept_eq hp, if_neg (needs_no_run hf _), if_pos hlt]

/-- R152: NORUN where no run record gives what the flag asks for. -/
theorem Passes.accept_norun (h : Passes s m c e) (hp : c.proto = none) (hf : m.flag = true) (hb : e.p ≠ m.bal)
    (hr : ∀ r ∈ c.runs, r.bal ≠ m.bal ∨ m.slot < r.lo ∨ r.hi < m.slot) : exec (.accept m) s = .next (replyTo s m (.norun (repTo m))) := by
  have hnone : (c.runs.any fun r => r.bal == m.bal && r.lo ≤ m.slot && m.slot ≤ r.hi) = false := by
    refine List.any_eq_false.2 fun r hmem => ?_
    have := hr r hmem
    simp only [Bool.and_eq_true, beq_iff_eq, decide_eq_true_eq]
    omega
  rw [h.accept_eq hp, if_pos (by simp [hf, hb, hnone])]

/-- R147: with nothing accepted before, PREPACC decides the message's own value. -/
theorem Passes.prepacc_decides (h : Passes s m c e) (hp : c.proto = none) (hab : e.ab = 0) :
    ∃ s', exec (.prepacc m) s = .next s' ∧ ∃ r, Sends s s' (.decidednow r) ∧ r.tid = m.tid ∧ r.op = m.op ∧ r.av = m.v ∧ r.ao = m.orig
      ∧ r.ab = m.bal := by
  have hexec : exec (.prepacc m) s = execPrepacc m s := rfl
  rw [hexec, execPrepacc, h.chk_eq, convCheck_plain hp]
  simp only [hab]
  obtain ⟨hd, -⟩ := h
  let e1 : SlotEntry := { e with p := m.bal, ab := m.bal, av := m.v, ao := m.orig, config := m.config }
  have hforward : Forward s (recordDecision s m.region c e1) := (Forward.refl s).recordDecision
  exact ⟨_, rfl, _, (replyTo_sends (hd.trans hforward.dev.symm) _).before hforward.pend hforward.cycle, rfl, rfl, rfl, rfl, rfl⟩

end Acceptor

/-! ### The frontier -/

/-- What moving the frontier over decided slots leaves of a member's configuration. -/
structure Advances (c c' : AccCfg) : Prop where
  acc : c'.acc = c.acc
  trunc : c'.trunc = c.trunc
  entries : c'.entries = c.entries
  late : c'.late = c.late
  waits : c'.waits = c.waits
  front : c.front ≤ c'.front

theorem advances_applyConv (c : AccCfg) (e : SlotEntry) : Advances c { applyConv c e with front := c.front + 1 } := by
  fun_cases applyConv c e <;> exact ⟨rfl, rfl, rfl, rfl, rfl, Nat.le_succ _⟩

theorem advances_advanceFront (n : Nat) (c : AccCfg) : Advances c (advanceFront n c) := by
  induction n generalizing c with
  | zero => exact ⟨rfl, rfl, rfl, rfl, rfl, le_rfl⟩
  | succ n ih =>
    unfold advanceFront
    split
    · next e _ =>
      have h1 := advances_applyConv c e
      have h2 := ih { applyConv c e with front := c.front + 1 }
      exact ⟨h2.acc.trans h1.acc, h2.trunc.trans h1.trunc, h2.entries.trans h1.entries, h2.late.trans h1.late, h2.waits.trans h1.waits,
        h1.front.trans h2.front⟩
    · exact ⟨rfl, rfl, rfl, rfl, rfl, le_rfl⟩

/-- A slot at or above the truncation point stays known when the frontier moves, late decisions below it are dropped, and entries are freed
(R142). -/
theorem Advances.knownDecided_collect {c c' : AccCfg} {slot : Nat} (h : Advances c c') (ht : c.trunc ≤ slot)
    (hk : knownDecided c slot = true) :
    knownDecided (collect { c' with late := c'.late.filter fun x => c'.front ≤ x.slot }) slot = true := by
  obtain ⟨-, htrunc, hentries, hlate, -, hfront⟩ := h
  by_cases hlt : slot < c'.front
  · simp [knownDecided, collect, hlt]
  have hold : ¬slot < c.front := by omega
  simp only [knownDecided, hold, decide_false, Bool.false_or, Bool.or_eq_true, List.any_eq_true, Bool.and_eq_true, beq_iff_eq] at hk
  simp only [knownDecided, collect, hlt, decide_false, Bool.false_or, Bool.or_eq_true, List.any_eq_true, Bool.and_eq_true, beq_iff_eq,
    List.mem_filter, hentries, hlate, htrunc]
  obtain ⟨x, hx, hs, hd⟩ | ⟨x, hx, hs⟩ := hk
  · have hkeep : ¬x.slot < c.trunc := by omega
    exact .inl ⟨x, ⟨hx, by simp [hkeep]⟩, hs, hd⟩
  · have hkeep : c'.front ≤ x.slot := by omega
    exact .inr ⟨x, ⟨hx, by simpa using hkeep⟩, hs⟩

/-- Without waiting records there is nobody to serve. -/
theorem serveWaits_idle {s : State} {g acc : Nat} {c : AccCfg} (h : findAcc s g acc = some c) (hw : c.waits = []) (known : List SlotEntry) :
    serveWaits s g acc known = setAcc s g c := by
  cases c
  cases hw
  rw [serveWaits, h]
  rfl

/-- R142: the frontier moves, at a member without waiting records, and what it knew it knows. -/
theorem moveFront_knows {s : State} {g slot : Nat} {c : AccCfg} (hc : findAcc s g c.acc = some c) (hw : c.waits = []) (ht : c.trunc ≤ slot)
    (hk : knownDecided c slot = true) (known : List SlotEntry) :
    ∃ c', findAcc (moveFront s g c known) g c.acc = some c' ∧ knownDecided c' slot = true ∧ (moveFront s g c known).mem = s.mem
      ∧ (moveFront s g c known).dev = s.dev := by
  unfold moveFront
  extract_lets c1 s1
  have hadv : Advances c c1 := advances_advanceFront _ _
  let c2 := collect { c1 with late := c1.late.filter fun x => c1.front ≤ x.slot }
  have hacc : c2.acc = c.acc := hadv.acc
  have hfound : findAcc (setAcc s g c2) g c.acc = some c2 := findAcc_setAcc hc hacc
  have hs1 : s1 = setAcc (setAcc s g c2) g c2 := serveWaits_idle hfound (hadv.waits.trans hw) known
  have hfound1 : findAcc s1 g c.acc = some c2 := hs1 ▸ findAcc_setAcc hfound hacc
  refine ⟨c2, ?_, hadv.knownDecided_collect ht hk, ?_, ?_⟩
  · rw [findAcc_congr (s := s1) (by split <;> rfl)]
    exact hfound1
  · split <;> rw [hs1] <;> rfl
  · split <;> rw [hs1] <;> rfl

/-! ### A decision -/

/-- A decided slot of an accord that is no control accord: at most a launch becomes due (R300). -/
theorem applySlot_plain {s : State} {c : AccCfg} (h : isControl s c.acc = false) (e : SlotEntry) :
    (applySlot s c e).regions = s.regions ∧ (applySlot s c e).mem = s.mem := by
  unfold applySlot
  rw [if_neg (by simp [h])]
  split
  · exact ⟨rfl, rfl⟩
  · exact ⟨rfl, rfl⟩

/-- A member knows slot `n` decided, which no truncation has passed, and nobody waits there. -/
structure Knows (c c' : AccCfg) (n : Nat) : Prop where
  acc : c'.acc = c.acc
  trunc : c'.trunc ≤ n
  waits : c'.waits = []
  known : knownDecided c' n = true

/-- The configuration with a decided entry put, or kept beside the entries when the member has no room for it. -/
def keepDecision (c : AccCfg) (room : Bool) (e : SlotEntry) : AccCfg := if room then putEntry c e else { c with late := c.late ++ [e] }

/-- The configuration once the array write of a slot counts as acknowledged (R138). -/
def ackEntry (c : AccCfg) (n : Nat) : AccCfg :=
  match slotEntry c n with
  | some x => putEntry c { x with acked := true }
  | none => c

theorem noteConfig_eq (c : AccCfg) (e : SlotEntry) : ∃ f, noteConfig c e = { c with cfgAt := f } := by
  unfold noteConfig
  split
  · exact ⟨_, rfl⟩
  · exact ⟨c.cfgAt, rfl⟩

theorem noteConfig_keepDecision (c : AccCfg) (room : Bool) (e : SlotEntry) :
    (noteConfig (keepDecision c room e) e).acc = c.acc ∧ (noteConfig (keepDecision c room e) e).darr = c.darr := by
  obtain ⟨f, hf⟩ := noteConfig_eq (keepDecision c room e) e
  rw [hf]
  cases room <;> exact ⟨rfl, rfl⟩

theorem knows_ackEntry {c : AccCfg} {e : SlotEntry} {room : Bool} (hw : c.waits = []) (ht : c.trunc ≤ e.slot) (hd : e.decided = true)
    (hroom : (slotEntry c e.slot).isSome = true → room = true) :
    Knows c (ackEntry (noteConfig (keepDecision c room e) e) e.slot) e.slot := by
  obtain ⟨f, hf⟩ := noteConfig_eq (keepDecision c room e) e
  rw [hf]
  cases room with
  | true =>
    have hentry : slotEntry { putEntry c e with cfgAt := f } e.slot = some e := slotEntry_putEntry c e
    have hacked := slotEntry_putEntry { putEntry c e with cfgAt := f } { e with acked := true }
    rw [keepDecision, if_pos rfl, ackEntry, hentry]
    exact ⟨rfl, ht, hw, knownDecided_of_slotEntry hacked hd⟩
  | false =>
    have hnone : slotEntry c e.slot = none := by
      cases hs : slotEntry c e.slot with
      | none => rfl
      | some x => exact absurd (hroom (by rw [hs]; rfl)) (by decide)
    have hnone' : slotEntry { c with late := c.late ++ [e], cfgAt := f } e.slot = none := hnone
    rw [keepDecision, if_neg (by decide), ackEntry, hnone']
    exact ⟨rfl, ht, hw, by simp [knownDecided]⟩

/-- The entry of a slot that has been decided. -/
def decidedEntry (c : AccCfg) (d : SlotEntry) : SlotEntry :=
  match slotEntry c d.slot with
  | some x => { x with ab := d.ab, av := d.av, ao := d.ao, config := d.config, decided := true }
  | none => { d with decided := true }

theorem decidedEntry_slot (c : AccCfg) (d : SlotEntry) : (decidedEntry c d).slot = d.slot := by
  unfold decidedEntry
  split
  · next x hx => exact (slot_of_slotEntry hx :)
  · rfl

theorem decidedEntry_decided (c : AccCfg) (d : SlotEntry) : (decidedEntry c d).decided = true := by
  unfold decidedEntry
  split <;> rfl

/-- R141, R142: a decision that the member did not know, of an accord without a decision array. -/
theorem recordDecision_knows {s : State} {g : Nat} {c : AccCfg} {d : SlotEntry} (hc : findAcc s g c.acc = some c)
    (hk : knownDecided c d.slot = false) (ht : c.trunc ≤ d.slot) (hw : c.waits = []) (harr : c.darr = 0) (hctl : isControl s c.acc = false) :
    ∃ c', findAcc (recordDecision s g c d) g c.acc = some c' ∧ knownDecided c' d.slot = true ∧ (recordDecision s g c d).mem = s.mem := by
  unfold recordDecision
  extract_lets fresh had e c1 c2 s1 s2 s3
  have hfresh : fresh = true := by simp [fresh, hk]
  have hslot : e.slot = d.slot := decidedEntry_slot c d
  let room := had.isSome || (fresh && shareRoom s g c.part 1 0)
  have hc2 : c2 = noteConfig (keepDecision c room e) e := by
    unfold c2 c1
    rw [if_pos hfresh, if_pos hfresh]
    rfl
  obtain ⟨hacc2, harr2⟩ : c2.acc = c.acc ∧ c2.darr = c.darr := hc2 ▸ noteConfig_keepDecision c room e
  obtain ⟨c3, hc3⟩ : ∃ c3, c3 = ackEntry c2 e.slot := ⟨_, rfl⟩
  obtain ⟨hacc3, htrunc3, hwaits3, hknown3⟩ : Knows c c3 e.slot := by
    rw [hc3, hc2]
    exact knows_ackEntry hw (hslot ▸ ht) (decidedEntry_decided c d) fun h => by simp [room, had, ← hslot, h]
  have hs1 : s1 = setAcc (setAcc s g c2) g c3 := by
    unfold s1
    rw [if_neg (by simp [harr]), writeArray, if_pos (harr2.trans harr), hc3]
    rfl
  have hfound1 : findAcc s1 g c.acc = some c3 := hs1 ▸ findAcc_setAcc (findAcc_setAcc hc hacc2) hacc3
  have hs2 : s2 = moveFront s1 g c3 [e] := by unfold s2; rw [hfound1]; rfl
  obtain ⟨c4, hc4, hknown4, hmem2, hdev2⟩ := moveFront_knows (hacc3 ▸ hfound1) hwaits3 htrunc3 hknown3 [e]
  rw [← hs2] at hc4 hmem2 hdev2
  have h23 : PacketsOnly s2 s3 := packetsOnly_tellQueue _ _ _
  have hctl3 : isControl s3 c.acc = false := by
    rw [isControl, h23.dev_id, hdev2, hs1]
    exact hctl
  obtain ⟨hregions4, hmem4⟩ := applySlot_plain hctl3 e
  have hmem3 : s3.mem = s.mem := by rw [h23.mem, hmem2, hs1]; rfl
  have hfound3 : findAcc s3 g c.acc = some c4 := by rw [findAcc_congr h23.regions, ← hacc3]; exact hc4
  rw [if_neg (by simp [had, slotEntry_undecided hk])]
  refine ⟨c4, ?_, hslot ▸ hknown4, ?_⟩
  · split
    · rw [findAcc_congr hregions4]
      exact hfound3
    · exact hfound3
  · split
    · exact hmem4.trans hmem3
    · exact hmem3

/-- Settles O27: what a member answers follows from the checks (`Passes.chk_eq`, `chk_missing`, `chk_decided`) and what it records from
`recordDecision_knows`; PREPACC's answer goes out after everything that its decision sets off (`Forward.recordDecision`). -/
theorem acceptors : Obligations.Acceptors := by
  refine ⟨fun s m c e => ?_, fun s m c hc => ⟨fun hg hk ht hw harr hctl => ?_, fun h => ?_⟩⟩
  · have gives {i r : Instr} (hd : m.dev = s.dev.id) (h : exec i s = .next (replyTo s m r)) :
        ∃ s', exec i s = .next s' ∧ Sends s s' r ∧ s'.threads = s.threads ∧ s'.mem = s.mem := ⟨_, h, replyTo_answers rfl hd r⟩
    refine ⟨fun h => ?_, fun hd hc => ?_, fun hd hc hf hg he ht hs hdec => gives hd ?_⟩
    · obtain ⟨hd, -⟩ := id h
      exact ⟨h.prepare_promises, fun hle => gives hd (h.prepare_refused hle), fun hp hf => ⟨h.accept_accepts hp hf, fun hlt =>
        gives hd (h.accept_refused hp hf hlt)⟩, fun hp hf hb hr => gives hd (h.accept_norun hp hf hb hr), h.prepacc_decides⟩
    · have hnack (k : AccCfg → SlotEntry → State) : (Host.Outcome.next (chk s m k) : Res) = .next (nackTo s m 8 0) := by rw [chk_missing hc]
      exact ⟨gives hd (hnack _), gives hd (hnack _), gives hd (hnack _)⟩
    · exact congrArg Host.Outcome.next (chk_decided hc hf hg he ht hs hdec _)
  · have hexec : exec (.decided m) s = execDecided m s := rfl
    have hacc := acc_of_findAcc hc
    rw [hexec, execDecided, hc]
    simp only [hg, ne_eq, not_true_eq_false, if_false]
    obtain ⟨c', hc', hknown, hmem⟩ := recordDecision_knows (d := ⟨m.slot, m.bal, m.bal, m.v, m.orig, false, m.config, false⟩) (hacc ▸ hc) hk ht hw
      harr (hacc ▸ hctl)
    exact ⟨_, c', rfl, hacc ▸ hc', hknown, hmem⟩
  · have hexec : exec (.decided m) s = execDecided m s := rfl
    rw [hexec, execDecided, hc]
    dsimp only
    by_cases hg : m.gen = c.gen
    · have hany : (slotEntry c m.slot).any (·.decided) = true := h.resolve_left (not_not_intro hg)
      rw [if_neg (not_not_intro hg), recordDecision]
      simp [hany]
    · rw [if_pos hg]

end Sys2Proof.Safety
end

section
/-! SUPPORT. What starts of threads, messages and channels share: events that leave partitions alone, the end of a table's entry, a message
that leaves its core (R170, R174), a thread that starts from one (R168, R169), and its acknowledgement (R170). -/

namespace Sys2Proof.Safety

open Sys2Proof Sys2Proof.Machine

/-! ### Partitions -/

theorem getPart_modPart (s : State) (core p : Nat) (f : Part → Part) : getPart (modPart s core p f) core p = f (getPart s core p) :=
  getPart_setPart s core p _

/-- What an update of a partition leaves as it was. -/
theorem modPart_keeps {α : Type} (field : Part → α) (s : State) (core p : Nat) {f : Part → Part}
    (hf : ∀ x, field (f x) = field x := by exact fun _ => rfl) :
    field (getPart (modPart s core p f) core p) = field (getPart s core p) := by
  rw [getPart_modPart, hf]

theorem setFlags_keeps {α : Type} (field : Part → α) (s : State) (core p : Nat)
    (hf : ∀ x n, field { x with flags := n } = field x := by exact fun _ _ => rfl) :
    field (getPart (setFlags s core p) core p) = field (getPart s core p) := modPart_keeps field s core p fun x => hf x _

/-- Only packets, events and what the network keeps about them have changed, and no partition. -/
structure Posted (s s' : State) : Prop where
  packets : PacketsOnly s s'
  parts : s'.parts = s.parts

theorem Posted.refl (s : State) : Posted s s := ⟨.refl s, rfl⟩

theorem Posted.trans {s s' s'' : State} (h : Posted s s') (h' : Posted s' s'') : Posted s s'' :=
  ⟨h.packets.trans h'.packets, h'.parts.trans h.parts⟩

theorem Posted.getPart {s s' : State} (h : Posted s s') (core p : Nat) : getPart s' core p = getPart s core p := by
  simp only [Machine.getPart, h.parts]

theorem PacketsOnly.getRegion {s s' : State} (h : PacketsOnly s s') (g : Nat) : getRegion s' g = getRegion s g := by
  simp only [Machine.getRegion, h.regions]

theorem Quiet.mem {s s' : State} (h : Quiet s s') : s'.mem = s.mem := by
  obtain ⟨hmem, -⟩ := h
  exact hmem

theorem Quiet.cycle {s s' : State} (h : Quiet s s') : s'.cycle = s.cycle := by
  obtain ⟨-, -, -, -, -, hcycle⟩ := h
  exact hcycle

theorem posted_post (s : State) (n k : Nat) (i : Instr) (w : Focus) : Posted s (post s n k i w) := ⟨packetsOnly_post _ _ _ _ _, rfl⟩

theorem wakeRoute_parts (r : Trip) (start : Nat) (l : List (Nat × CoreSt)) (s : State) : (wakeRoute r start l s).parts = s.parts := by
  induction l generalizing s with
  | nil => rfl
  | cons e l ih =>
    rw [wakeRoute, ih]
    split <;> rfl

theorem posted_send (s : State) (src dst payload key : Nat) (i : Instr) (w : Focus) : Posted s (send s src dst payload key i w) :=
  ⟨packetsOnly_sendOn _ _ _ _ _ _ _ _ _, wakeRoute_parts _ _ _ _⟩

theorem send_sends (s : State) (src dst payload key : Nat) (i : Instr) (w : Focus) : Sends s (send s src dst payload key i w) i :=
  sendOn_sends _ _ _ _ _ _ _ _ _

theorem posted_poll (s : State) (n : Nat) (i : Instr) (w : Focus) : Posted s (poll s n i w) := by
  unfold poll
  split
  · exact .refl s
  · exact posted_post _ _ _ _ _

theorem slotCount_congr {s s' : State} (h : s'.sets = s.sets) (core : Nat) : slotCount s' core = slotCount s core := by
  simp only [slotCount, partCount_congr h]

theorem handlerSlot_congr {s s' : State} (h : s'.sets = s.sets) (core p : Nat) : handlerSlot s' core p = handlerSlot s core p := by
  simp only [handlerSlot, firstSlot, slotCount_congr h]

/-! ### The end of a thread's entry -/

theorem tblFind_below {α : Type} {l : List (Nat × α)} {i : Nat} (h : ∀ x ∈ l, i < x.1) : tblFind l i = none := by
  cases l with
  | nil => rfl
  | cons e l =>
    have he : i < e.1 := h e List.mem_cons_self
    rw [tblFind, if_neg (by omega), if_pos he]

/-- An erased key has no value. -/
theorem tblFind_tblErase_same {α : Type} {l : List (Nat × α)} (h : KeysRise l) (i : Nat) : tblFind (tblErase l i) i = none := by
  induction l with
  | nil => rfl
  | cons e l ih =>
    obtain ⟨he, hl⟩ := keysRise_cons.1 h
    rw [tblErase]
    split
    · next hk => exact tblFind_below fun x hx => hk ▸ he x hx
    · next hk =>
      rw [tblFind, if_neg hk, ih hl]
      split <;> rfl

/-- Every other key keeps its value. -/
theorem tblFind_tblErase_other {α : Type} {l : List (Nat × α)} (h : KeysRise l) {i j : Nat} (hj : j ≠ i) :
    tblFind (tblErase l i) j = tblFind l j := by
  induction l with
  | nil => rfl
  | cons e l ih =>
    obtain ⟨he, hl⟩ := keysRise_cons.1 h
    rw [tblErase, tblFind]
    split
    · next hk =>
      rw [if_neg (by omega)]
      split
      · next hlt => exact tblFind_below fun x hx => hlt.trans (he x hx)
      · rfl
    · rw [tblFind, ih hl]

/-! ### A message leaves its core -/

/-- R174: with no store into an instruction store unacknowledged and none held before it, a message leaves at once. -/
theorem sendMsg_leaves {s : State} {m : Msg} (spawn : Bool) (ho : (getPart s m.src m.part).codeOut = [])
    (hh : (getPart s m.src m.part).held = []) :
    PacketsOnly s (sendMsg s m spawn) ∧ Sends s (sendMsg s m spawn) (msgStep m spawn) := by
  simp only [sendMsg, ho, hh, List.filter_nil, List.map_nil, List.isEmpty_nil, List.any_nil, Bool.not_false, Bool.and_self, if_true]
  exact ⟨(packetsOnly_modPart _ _ _ _).trans (posted_send _ _ _ _ _ _ _).packets,
    (send_sends _ _ _ _ _ _ _).before (packetsOnly_modPart _ _ _ _).pend rfl⟩

/-! ### A thread starts from a message -/

theorem nth_eq_getD {α : Type} (d : α) (l : List α) (i : Nat) : nth d l i = l.getD i d := by
  induction l generalizing i with
  | nil => rfl
  | cons a l ih =>
    cases i with
    | zero => rfl
    | succ i => exact ih i

/-- R169: the words that a thread starts with. -/
theorem startThread_started (op tid : Nat) (m : Msg) : Started (startThread op tid m) m.tid m.words := by
  refine ⟨rfl, rfl, fun i h1 h8 => ?_, BitVec.or_self (x := 1), ?_, rfl, rfl, rfl, rfl, rfl, rfl⟩
  · rw [← nth_eq_getD]
    interval_cases i <;> rfl
  · rw [← nth_eq_getD]
    exact BitVec.toNat_setWidth 14 _

/-- A thread that comes from nowhere takes its slot. -/
theorem enterSlot_flight {t : Thread} (h : t.place = .flight) (s : State) (n : Nat) :
    enterSlot s t n
      = setThread (modPart s t.core t.part fun p => { p with flags := p.flags &&& (0xFFFF ^^^ 2 ^ n) }) { t with place := .slot n } := by
  simp only [enterSlot, h]

/-! ### Acknowledgements of messages -/

theorem localCtx_here {dev : Option Nat} (h : dev = none) (s : State) (ctx : Nat) : localCtx s dev ctx = ctx := by
  rw [h]
  rfl

theorem stopSoon_ok (s : State) (tid : Nat) : stopSoon s tid .ok = s := by simp [stopSoon, ackFault]

theorem stopSoon_frame (s : State) (tid : Nat) (st : AckStatus) :
    stopSoon s tid st = { s with threads := (stopSoon s tid st).threads } := by
  unfold stopSoon
  split
  · exact modThread_frame _ _ _
  · rfl

/-- R170: the answer to a message of this device is on its way; a refusal stops the sender first. -/
theorem ackMsg_answers (s : State) (dst : Nat) {a : Access} {tid : Nat} (ha : a.who = .thread tid) (st : AckStatus) :
    Posted (stopSoon s tid st) (ackMsg s none dst a st) ∧ Sends s (ackMsg s none dst a st) (.acknowledgement a st) := by
  have hframe := stopSoon_frame s tid st
  have before {s' : State} (h : Sends (stopSoon s tid st) s' (.acknowledgement a st)) : Sends s s' (.acknowledgement a st) := by
    rw [hframe] at h
    exact h
  simp only [ackMsg, Option.filter_none, ha]
  split
  · exact ⟨posted_post _ _ _ _ _, before (post_sends _ _ _ _ le_rfl)⟩
  · exact ⟨posted_send _ _ _ _ _ _ _, before (send_sends _ _ _ _ _ _ _)⟩

theorem ackMsg_accepts (s : State) (dst : Nat) {a : Access} {tid : Nat} (ha : a.who = .thread tid) :
    Posted s (ackMsg s none dst a .ok) ∧ Sends s (ackMsg s none dst a .ok) (.acknowledgement a .ok) := by
  have h := ackMsg_answers s dst ha .ok
  rwa [stopSoon_ok] at h

end Sys2Proof.Safety
end

section
/-! SUPPORT. Threads that end, give their slot away, wait for an event or spawn another (R175, R261 to R263), and O18. -/

namespace Sys2Proof.Safety

open Sys2Proof Sys2Proof.Machine

/-! ### HALT, YIELD and WFM -/

/-- What looks for a slot when slot `n` of a partition becomes free (R17, R171, R176). -/
def slotTaker (s : State) (core p n : Nat) : Instr := if n = handlerSlot s core p then .handlerStart else .arrivalTaken

theorem slotFreed_sends (s : State) (core p n : Nat) : Sends s (slotFreed s core p n) (slotTaker s core p n) := post_sends _ _ _ _ le_rfl

/-- R17, R261: the thread is gone, its slot is offered, and nothing else has changed but what is on its way. -/
theorem endThread_ends {s : State} {t : Thread} {n : Nat} (hs : Canonical s) (hp : t.place = .slot n) :
    getThread (endThread s t) t.id = none ∧ OtherThreads s (endThread s t) t ∧ (endThread s t).mem = s.mem
      ∧ Sends s (endThread s t) (slotTaker s t.core t.part n) := by
  have hq := packetsOnly_leaveQueue s t
  obtain ⟨s1, hs1⟩ : ∃ s1, s1 = dropThread (leaveQueue s t) t.id := ⟨_, rfl⟩
  have hthreads : s1.threads = tblErase s.threads t.id := by rw [hs1, dropThread, hq.threads]
  have hpoll := (posted_poll (slotFreed s1 t.core t.part n) 1 .launchComplete (.ctx t.ctx)).packets
  have hend : PacketsOnly s1 (endThread s t) := by
    simp only [endThread, hp, ← hs1]
    exact (packetsOnly_slotFreed s1 t.core t.part n).trans hpoll
  have hsend : Sends s1 (endThread s t) (slotTaker s1 t.core t.part n) := by
    simp only [endThread, hp, ← hs1]
    exact (slotFreed_sends s1 t.core t.part n).after hpoll.pend
  have htaker : slotTaker s1 t.core t.part n = slotTaker s t.core t.part n := by
    simp only [slotTaker, handlerSlot_congr (s := s) (s' := s1) (hs1 ▸ hq.sets)]
  refine ⟨?_, fun k hk => ?_, hend.mem.trans (hs1 ▸ hq.mem), htaker ▸ hsend.before (hs1 ▸ hq.pend) (hs1 ▸ hq.cycle)⟩
  · rw [hend.getThread, getThread, hthreads, tblFind_tblErase_same hs.threads]
  · rw [hend.getThread, getThread, hthreads, tblFind_tblErase_other hs.threads hk, getThread]

/-- R262: a thread that yields stands at the tail of a queue. -/
theorem requeue_queues (s : State) (t : Thread) : ∃ q, (q = .arrivalQ ∨ q = .runQ)
    ∧ getThread (requeue s t) t.id = some { t with place := q } ∧ OtherThreads s (requeue s t) t ∧ (requeue s t).mem = s.mem := by
  have freed : PacketsOnly s (match t.place with
      | .slot n => slotFreed s t.core t.part n
      | _ => s) := by
    split
    · exact packetsOnly_slotFreed _ _ _ _
    · exact .refl s
  have moved (q : Place) := freed.touches (touches_setThread _ t { t with place := q } rfl)
  dsimp only [requeue]
  split
  · exact ⟨.arrivalQ, .inl rfl, (moved .arrivalQ).this, (moved .arrivalQ).others, (moved .arrivalQ).quiet.mem⟩
  · exact ⟨.runQ, .inr rfl, (moved .runQ).this, (moved .runQ).others, (moved .runQ).quiet.mem⟩

theorem endingAndWaiting : EndingAndWaiting := by
  intro s t g n hs hi ha hp hn
  have hHalt : exec (.halt g) s = execHalt g s := rfl
  have hYield : exec (.yield g) s = execYield g s := rfl
  have hWfm : exec (.wfm g) s = execWfm g s := rfl
  rw [hHalt, hYield, hWfm, execHalt, execYield, execWfm]
  refine ⟨fun hf => ?_, fun hy => hi.steps ha ?_, fun hy hf => ?_, fun hh he => ?_, fun hh he => hi.holds ?_,
    fun hh => hi.faults (addr := 0) ?_⟩
  · refine ⟨endThread s t, (hi.scalar_eq _).trans (congrArg Host.Outcome.next ?_), endThread_ends hs hp⟩
    obtain ⟨hm, -⟩ := ha
    rw [hf.fenced_eq, hm]
    rfl
  · rw [hy]
    rfl
  · obtain ⟨q, hq, hthis, hothers, hmem⟩ := requeue_queues (setThread s (stepped t)) (stepped t)
    refine ⟨requeue (setThread s (stepped t)) (stepped t), _, (hi.scalar_eq _).trans (congrArg Host.Outcome.next ?_), hthis, hq, rfl,
      ⟨rfl, rfl, rfl, rfl, rfl, rfl, rfl⟩, fun k hk => (hothers k hk).trans (getThread_setThread_other s (stepped t) k hk), hmem⟩
    have hstep : getThread (setThread s (stepped t)) t.id = some (stepped t) := getThread_setThread s (stepped t)
    simp only [hy, Bool.not_true, Bool.false_eq_true, if_false, hf.fenced_eq, ha.retire_eq, hstep]
    exact if_neg Wait.noConfusion
  · obtain ⟨s1, hs1⟩ : ∃ s1, s1 = modPart s t.core t.part fun p => { p with flags := p.flags &&& (0xFFFF ^^^ 2 ^ n) } := ⟨_, rfl⟩
    have h1 : PacketsOnly s s1 := hs1 ▸ packetsOnly_modPart _ _ _ _
    have h2 := h1.touches (touches_setThread s1 t (stepped t) rfl)
    refine ⟨setThread s1 (stepped t), (hi.scalar_eq _).trans (congrArg Host.Outcome.next ?_), h2.this, ?_, h2.others, h2.quiet⟩
    · simp only [hh, he, hp, Bool.false_eq_true, if_false, if_true, ← hs1]
      exact (h1.ahead ha).retire_eq
    · have hplace : (stepped t).place = .slot n := hp
      have hpart := getPart_modPart s t.core t.part fun p => { p with flags := p.flags &&& (0xFFFF ^^^ 2 ^ n) }
      have hflags : (getPart (setThread s1 (stepped t)) (stepped t).core (stepped t).part).flags
          = (getPart s t.core t.part).flags &&& (0xFFFF ^^^ 2 ^ n) := by
        rw [hs1]
        exact congrArg Part.flags hpart
      simp only [eventFlag, hplace, hflags, bitAt_clear _ hn]
  · simp only [hh, he, Bool.false_eq_true, if_false]
  · rw [hh]
    rfl

/-! ### SPAWN -/

/-- The request of a thread for a child with the words `w` on core `c` of this device. -/
def spawnMsg (t : Thread) (c : Nat) (w : List Word) : Msg := ⟨t.id, t.op + 1, t.ctx, t.part, t.core, c, t.interval, w, none, none⟩

/-- R175: the thread parks, and its request leaves. -/
theorem spawnSend_parks {s : State} {t : Thread} (d : BitVec 4) (n : Nat) (target : Word) (c : Nat) (w : List Word)
    (ho : (getPart s t.core t.part).codeOut = []) (hh : (getPart s t.core t.part).held = []) :
    Touches s (spawnSend s t d n target none c w none) t { t with op := t.op + 1, wait := .spawn d n target }
      ∧ Sends s (spawnSend s t d n target none c w none) (.spawnRequest (spawnMsg t c w)) := by
  have hset := touches_setThread s t { t with op := t.op + 1, wait := .spawn d n target } rfl
  obtain ⟨hm, hsend⟩ := sendMsg_leaves (s := setThread s { t with op := t.op + 1, wait := .spawn d n target }) (m := spawnMsg t c w) true
    ho hh
  exact ⟨hset.after hm, hsend⟩

/-- SPAWN of a thread that has read its words, has nothing to fence and does not replay. -/
theorem execSpawn_sends {s : State} {t : Thread} {x : Ctx} {g : BitVec 5} {d a b n : BitVec 4} {bs : List Byte} {c : Nat}
    (hi : Issues s t g) (hheld : t.held = []) (hf : Fenced t) (hx : getCtx s t.ctx = some x) (hr : replaying x = false)
    (hw : readOwn s t (t.reg b) (8 * (n.toNat + 1)) 8 = .ok bs) (hc : coreRef s t.ctx (t.reg a) = .core c 0)
    (hh : holds s t.ctx c t.part = true) :
    exec (.spawn g d a b n) s = .next (spawnSend s { t with held := toQuads (n.toNat + 1) bs } d n.toNat (coreRefWord c) none c
      (toQuads (n.toNat + 1) bs) none) := by
  have hexec : exec (.spawn g d a b n) s = execSpawn g d a b n s := rfl
  have hf' : Fenced { t with held := toQuads (n.toNat + 1) bs } := hf
  rw [hexec, execSpawn, hi.scalar_eq]
  simp only [hheld, hw, hc, hh, ne_eq, not_true_eq_false, decide_false, Bool.not_true, Bool.or_self, Bool.false_eq_true, if_false,
    hf'.fenced_eq, hx, hr]

theorem takeOseq_ctxs (s : State) (ctx obj : Nat) : ∃ ctxs, (takeOseq s ctx obj).1 = { s with ctxs } := by
  fun_cases takeOseq s ctx obj with
  | case1 => exact ⟨_, rfl⟩
  | case2 | case3 => exact ⟨s.ctxs, rfl⟩

/-- R175, R327: the reply to a spawn is on its way; beside it, its record has taken a sequence number. -/
theorem replySpawn_sends (s : State) {m : Msg} (hm : m.dev = none) (status : Nat) :
    (replySpawn s m status).threads = s.threads
      ∧ ∃ q, Sends s (replySpawn s m status) (.spawnReply m.tid m.op ⟨BitVec.ofNat 64 status, q⟩) := by
  obtain ⟨ctxs, hq⟩ := takeOseq_ctxs s m.ctx (logKey 0x07 (coreRefWord m.dst))
  have hsend (q : Option Nat) := send_sends { s with ctxs } m.dst m.src 8 0 (.spawnReply m.tid m.op ⟨BitVec.ofNat 64 status, q⟩) .idle
  simp only [replySpawn, hm, hq]
  exact ⟨(posted_send _ _ _ _ _ _ _).packets.threads, _, hsend _⟩

/-- What a request of this device that no replay gives an id does at a core that may take it (R17, R175). -/
def spawnHere (s : State) (m : Msg) : State :=
  match newTid s m.dst with
  | none => replySpawn s m (bounceStatus 2)
  | some id =>
    let s1 := modPart s m.dst m.part fun p => { p with rcvd := p.rcvd + 1 }
    match freeSlot s m.dst m.part with
    | some n => enterSlot (writeBlock (replySpawn s1 m id) m.dst m.part n m.words) (startThread (startOp s) id m) n
    | none =>
      if (getPart s m.dst m.part).arrivals.length < 8 then
        (queueArrival (replySpawn s1 m id) { startThread (startOp s) id m with held := m.words }).getD s
      else replySpawn s m (bounceStatus 1)

theorem spawnRequest_eq {s : State} {m : Msg} (hdev : m.dev = none) (hforce : m.force = none) (hh : holds s m.ctx m.dst m.part = true)
    (hd : descheduled s m.ctx = false) (hstop : (getPart s m.dst m.part).stopCycle = none) :
    exec (.spawnRequest m) s = .next (spawnHere s m) := by
  have hexec : exec (.spawnRequest m) s = execSpawnRequest m s := rfl
  rw [hexec, execSpawnRequest]
  dsimp only
  rw [localCtx_here hdev, atPartition_open hd hstop]
  obtain ⟨tid, op, ctx, part, src, dst, iv, words, force, dev⟩ := m
  cases hdev
  cases hforce
  simp only [hh, Bool.not_true, Bool.false_eq_true, if_false]
  rfl

/-- R169, R175: the child starts in the free slot, and the reply names it. -/
theorem spawnHere_starts {s : State} {m : Msg} (hdev : m.dev = none) {id i : Nat} (hid : newTid s m.dst = some id)
    (hslot : freeSlot s m.dst m.part = some i) :
    getThread (spawnHere s m) id = some { startThread (startOp s) id m with place := .slot i }
      ∧ ∃ q, Sends s (spawnHere s m) (.spawnReply m.tid m.op ⟨BitVec.ofNat 64 id, q⟩) := by
  obtain ⟨s1, hs1⟩ : ∃ s1, s1 = modPart s m.dst m.part fun p => { p with rcvd := p.rcvd + 1 } := ⟨_, rfl⟩
  have h1 : PacketsOnly s s1 := hs1 ▸ packetsOnly_modPart _ _ _ _
  obtain ⟨-, q, hreply⟩ := replySpawn_sends s1 hdev id
  simp only [spawnHere, hid, hslot, ← hs1, enterSlot_flight (t := startThread (startOp s) id m) rfl]
  exact ⟨getThread_setThread _ _, q, hreply.before h1.pend h1.cycle⟩

/-- A completion that writes one register. -/
theorem apply_reg (t : Thread) (d : BitVec 4) (v : Word) : t.apply { r1 := d, v1 := v } = t.setReg d v := by
  have hzr : ((t.setReg d v).setReg 10 0).orFpx 0 = (t.setReg d v).orFpx 0 := rfl
  rw [Thread.apply]
  exact hzr.trans (orFpx_zero _)

/-- R175: the reply to a spawn of this operation. -/
theorem spawnReply_writes {s : State} {t : Thread} {x : Ctx} {d : BitVec 4} {n : Nat} {target : Word} (ht : getThread s t.id = some t)
    (hal : Alive s t) (hw : t.wait = .spawn d n target) (hx : getCtx s t.ctx = some x) (hl : logging x = false) (v : SpawnRes) :
    exec (.spawnReply t.id t.op v) s = .next (retireReg s t d v.word) := by
  have hexec : exec (.spawnReply t.id t.op v) s = execSpawnReply t.id t.op v s := rfl
  rw [hexec, execSpawnReply, toLive_alive ht hal]
  simp only [ht, Option.isNone_some, Bool.false_eq_true, if_false, hw, ne_eq, not_true_eq_false, finish_unlogged hx hl]
  rw [retireReg, ← apply_reg]
  rfl

theorem writeHalt_frame (s : State) (core p : Nat) : ∃ m, writeHalt s core p = { s with mem := m } := by
  fun_cases writeHalt s core p with
  | case1 | case2 => exact ⟨s.mem, rfl⟩
  | case3 => exact ⟨_, rfl⟩

/-- R318, R319: a stopped partition discards what comes back to its thread. -/
theorem toLive_discards {s : State} {t : Thread} {tid : Nat} (ht : getThread s tid = some t) (hp : t.place ≠ .engine)
    (hs : (getPart s t.core t.part).stopCycle.isSome = true) (k : State → Thread → State) : Discards s (toLive s tid k) t := by
  have hpart := getPart_modPart s t.core t.part fun x => { x with discarded := x.discarded + 1 }
  obtain ⟨m, hm⟩ := writeHalt_frame (modPart s t.core t.part fun x => { x with discarded := x.discarded + 1 }) t.core t.part
  have h : toLive s tid k = discardAt s t.core t.part := by simp [toLive, ht, hp, hs]
  rw [h, discardAt, hm]
  exact ⟨rfl, rfl, hpart⟩

theorem spawning : Spawning := by
  intro s t g a b d n bs c k m target v
  refine ⟨fun hi hheld hf ⟨x, hx, _, hr⟩ hw hc hh ho hq => ?_, fun hdev hforce hh hd hstop => ?_,
    fun ht hp hal hw ha ⟨x, hx, hl, _⟩ => ⟨_, spawnReply_writes ht hal hw hx hl v, ha.wroteReg d v.word⟩, fun ht hp hs => ?_⟩
  · obtain ⟨h, hsend⟩ := spawnSend_parks (s := s) (t := { t with held := toQuads (n.toNat + 1) bs }) d n.toNat (coreRefWord c) c
      (toQuads (n.toNat + 1) bs) ho hq
    exact ⟨_, _, execSpawn_sends hi hheld hf hx hr hw hc hh,
      ⟨_, h.this, rfl, rfl, ⟨rfl, rfl, rfl, rfl, rfl, rfl, rfl⟩, h.others, h.quiet⟩, hsend, rfl, rfl, rfl, rfl⟩
  · have he := spawnRequest_eq hdev hforce hh hd hstop
    refine ⟨fun id i hid hslot => ?_, fun hid => ?_, fun hid hslot hq => ?_⟩
    · obtain ⟨hthread, hsend⟩ := spawnHere_starts hdev hid hslot
      exact ⟨_, _, he, hthread, rfl, rfl, startThread_started (startOp s) id m, hsend⟩
    · rw [spawnHere, hid] at he
      exact ⟨_, he, replySpawn_sends s hdev (bounceStatus 2)⟩
    · obtain ⟨id, hid⟩ := Option.isSome_iff_exists.1 hid
      simp only [spawnHere, hid, hslot, if_neg (Nat.not_lt.2 hq)] at he
      exact ⟨_, he, replySpawn_sends s hdev (bounceStatus 1)⟩
  · have hexec : exec (.spawnReply t.id t.op v) s = execSpawnReply t.id t.op v s := rfl
    rw [hexec, execSpawnReply, ht]
    exact ⟨_, rfl, toLive_discards ht hp hs _⟩

/-- Settles O18: a thread that ends frees its slot (`endThread_ends`), one that yields stands in a queue (`requeue_queues`), and a spawn is
a request (`spawnSend_parks`) whose core answers it by what is free (`spawnRequest_eq`). -/
theorem threadLives : Obligations.ThreadLives := ⟨endingAndWaiting, spawning⟩

end Sys2Proof.Safety
end

section
/-! SUPPORT. Messages leave, wait at their destination and start handlers (R168 to R174), and O19. -/

namespace Sys2Proof.Safety

open Sys2Proof Sys2Proof.Machine

/-! ### SEND -/

/-- The message of a thread with the words `w` to core `c` of this device. -/
def sentMsg (t : Thread) (c : Nat) (w : List Word) : Msg := ⟨t.id, 0, t.ctx, t.part, t.core, c, t.interval, w, none, none⟩

/-- SEND of a thread that has read its words and may have one more access unacknowledged. -/
theorem execSend_sends {s : State} {t : Thread} {g : BitVec 5} {a b n : BitVec 4} {bs : List Byte} {c : Nat} (hi : Issues s t g)
    (hw : readOwn s t (t.reg b) (8 * (n.toNat + 1)) 8 = .ok bs) (hc : coreRef s t.ctx (t.reg a) = .core c 0)
    (hh : holds s t.ctx c t.part = true) (hu : t.uac < 4095) :
    exec (.send g a b n) s = .next (retire
      (sendMsg (setThread s { t with uac := t.uac + 1 }) (sentMsg t c (toQuads (n.toNat + 1) bs)) false) { t with uac := t.uac + 1 }) := by
  have hexec : exec (.send g a b n) s = execSend g a b n s := rfl
  rw [hexec, execSend, hi.scalar_eq]
  simp only [hw, hc, hh, ne_eq, not_true_eq_false, decide_false, Bool.not_true, Bool.or_self, Bool.false_eq_true, if_false, Nat.not_le.2 hu,
    sentMsg]

theorem sendIssues : SendIssues := by
  intro s t g a b n bs c hi ha hw hc hh hu ho hq
  obtain ⟨u, hudef⟩ : ∃ u, u = { t with uac := t.uac + 1 } := ⟨_, rfl⟩
  have hid : u.id = t.id := by rw [hudef]
  have hau : Ahead (setThread s u) u := by rw [hudef]; exact ha
  obtain ⟨hm, hsend⟩ := sendMsg_leaves (s := setThread s u) (m := sentMsg t c (toQuads (n.toNat + 1) bs)) false ho hq
  have h := ((touches_setThread s t u hid).after hm).trans hid (touches_setThread _ u (stepped u) rfl)
  have he := execSend_sends hi hw hc hh hu
  rw [← hudef, (hm.ahead hau).retire_eq] at he
  refine ⟨_, stepped u, sentMsg t c (toQuads (n.toNat + 1) bs), he, h.this, ?_, ?_, ?_, h.others, h.quiet, hsend, rfl, rfl, rfl, rfl⟩
  · rw [hudef]
    rfl
  · rw [hudef]
    rfl
  · rw [hudef]
    exact ⟨rfl, rfl, rfl, rfl, rfl, rfl, rfl⟩

/-! ### The message buffer -/

/-- The access that the acknowledgement of a message of this device answers (R170). -/
def msgAccess (m : Msg) : Access := msgAck m.tid m.ctx m.part m.src m.dst m.iv (8 * m.words.length) none

/-- What follows when a message of this device has been queued: it is acknowledged, and a handler may start (R170, R171). -/
def msgQueued (s : State) (m : Msg) : State :=
  poll (ackMsg (modPart s m.dst m.part fun p => { p with rcvd := p.rcvd + 1 }) none m.dst (msgAccess m) .ok) 0 .handlerStart
    (.part m.dst m.part)

/-- R171, R173: the buffer, the spill queue, or the network. -/
theorem messageArrival_eq {s : State} {m : Msg} (hdev : m.dev = none) (hh : holds s m.ctx m.dst m.part = true)
    (hd : descheduled s m.ctx = false) (hstop : (getPart s m.dst m.part).stopCycle = none) :
    exec (.messageArrival m) s = .next (
      if msgWords (getPart s m.dst m.part).msgs + m.words.length ≤ 32
          && (tblGet [] (getRegion s (regionOf m.dst)).spill m.part).isEmpty then
        msgQueued (setPart s m.dst m.part { getPart s m.dst m.part with msgs := (getPart s m.dst m.part).msgs ++ [m] }) m
      else if msgWords (tblGet [] (getRegion s (regionOf m.dst)).spill m.part) + m.words.length ≤ 256 then
        msgQueued (modRegion s (regionOf m.dst) fun r =>
          { r with spill := tblSet r.spill m.part (tblGet [] (getRegion s (regionOf m.dst)).spill m.part ++ [m]) }) m
      else postFirst s 16 (msgKey m.src m.dst m.part) (.messageArrival m)) := by
  have hexec : exec (.messageArrival m) s = execMessageArrival m s := rfl
  rw [hexec, execMessageArrival]
  dsimp only
  rw [localCtx_here hdev, atPartition_open hd hstop]
  obtain ⟨tid, op, ctx, part, src, dst, iv, words, force, dev⟩ := m
  cases hdev
  simp only [hh, Bool.not_true, Bool.false_eq_true, if_false]
  rfl

/-- R170: a queued message is acknowledged, and its queue is left as it is. -/
theorem msgQueued_acks (s : State) (m : Msg) :
    PacketsOnly s (msgQueued s m) ∧ (getPart (msgQueued s m) m.dst m.part).msgs = (getPart s m.dst m.part).msgs
      ∧ Sends s (msgQueued s m) (.acknowledgement (msgAccess m) .ok) := by
  obtain ⟨s1, hs1⟩ : ∃ s1, s1 = modPart s m.dst m.part fun p => { p with rcvd := p.rcvd + 1 } := ⟨_, rfl⟩
  have h1 : PacketsOnly s s1 := hs1 ▸ packetsOnly_modPart _ _ _ _
  have hmsgs : (getPart s1 m.dst m.part).msgs = (getPart s m.dst m.part).msgs :=
    hs1 ▸ modPart_keeps Part.msgs s m.dst m.part
  have hwho : (msgAccess m).who = .thread m.tid := rfl
  obtain ⟨hack, hsend⟩ := ackMsg_accepts s1 m.dst hwho
  have hpoll := posted_poll (ackMsg s1 none m.dst (msgAccess m) .ok) 0 .handlerStart (.part m.dst m.part)
  rw [msgQueued, ← hs1]
  exact ⟨h1.trans (hack.trans hpoll).packets, by rw [(hack.trans hpoll).getPart, hmsgs],
    (hsend.after hpoll.packets.pend).before h1.pend h1.cycle⟩

/-- R173: what is put in front of its key comes later, and all others of the key after it. -/
theorem postFirst_first (s : State) {n : Nat} (hn : 0 < n) (key : Nat) (i : Instr) :
    ∃ q ∈ (postFirst s n key i).pend, q.what = i ∧ s.cycle < q.due
      ∧ ∀ r ∈ (postFirst s n key i).pend, r.key = q.key → q.due ≤ r.due := by
  refine ⟨_, List.mem_cons_self, rfl, Nat.lt_add_of_pos_right hn, fun r hr hk => ?_⟩
  rcases List.mem_cons.1 hr with rfl | hr
  · exact le_rfl
  · obtain ⟨p, -, rfl⟩ := List.mem_map.1 hr
    by_cases hp : p.key = key
    · rw [if_pos hp]
      exact Nat.le_max_right _ _
    · rw [if_neg hp] at hk
      exact absurd hk hp

/-- R174: the only held message, none of whose stores is unacknowledged, leaves. -/
theorem codeOrderRelease_sends {s : State} {core p : Nat} {h : HeldMsg} (hf : s.focus = .part core p)
    (hq : (getPart s core p).held = [h]) (ho : ∀ i ∈ h.after, ∀ c ∈ (getPart s core p).codeOut, c.2 ≠ i) :
    ∃ s', exec .codeOrderRelease s = .next s' ∧ PacketsOnly s s' ∧ (getPart s' core p).held = []
      ∧ Sends s s' (msgStep h.m h.spawn) := by
  have hexec : exec .codeOrderRelease s = execCodeOrderRelease s := rfl
  have hfree : (h.after.any ((getPart s core p).codeOut.map (·.2)).contains) = false := by
    simp only [List.any_eq_false, List.contains_iff_mem, List.mem_map, not_exists, not_and]
    exact fun i hi c hc => ho i hi c hc
  obtain ⟨s1, hs1⟩ : ∃ s1, s1 = send s core h.m.dst (8 * h.m.words.length) (msgKey core h.m.dst p) (msgStep h.m h.spawn) := ⟨_, rfl⟩
  have h1 : PacketsOnly s s1 := hs1 ▸ (posted_send _ _ _ _ _ _ _).packets
  have hsend : Sends s s1 (msgStep h.m h.spawn) := hs1 ▸ send_sends _ _ _ _ _ _ _
  refine ⟨modPart s1 core p fun x => { x with held := [] }, ?_, h1.trans (packetsOnly_modPart _ _ _ _),
    congrArg Part.held (getPart_modPart s1 core p fun x => { x with held := [] }), hsend⟩
  rw [hexec, execCodeOrderRelease, hf]
  simp only [hq, releaseHeld, List.contains_nil, hfree, Bool.or_self, Bool.false_eq_true, if_false, ← hs1]

theorem messageBuffered : MessageBuffered := by
  intro s m h core p
  refine ⟨fun hdev hh hd hstop => ?_, fun hf hq ho => ?_⟩
  · have he := messageArrival_eq hdev hh hd hstop
    intro buffer spill
    have unfit (hn : 32 < msgWords buffer + m.words.length ∨ spill ≠ []) :
        ¬(msgWords buffer + m.words.length ≤ 32 ∧ spill = []) := by
      rwa [not_and_or, Nat.not_le]
    by_cases hfit : msgWords buffer + m.words.length ≤ 32 ∧ spill = []
    · rw [if_pos (by simpa [buffer, spill] using hfit)] at he
      obtain ⟨hp, hmsgs, hack⟩ := msgQueued_acks (setPart s m.dst m.part { getPart s m.dst m.part with msgs := buffer ++ [m] }) m
      refine ⟨_, he, hp.mem, hp.threads, fun _ _ => ⟨?_, _, hack, rfl⟩, fun hn _ => ?_, fun _ hn => ?_⟩
      · rw [hmsgs, getPart_setPart]
      · exact absurd hfit (unfit hn)
      · exact absurd hfit (unfit hn)
    · rw [if_neg (by simpa [buffer, spill] using hfit)] at he
      by_cases hspill : msgWords spill + m.words.length ≤ 256
      · rw [if_pos hspill] at he
        obtain ⟨hp, -, hack⟩ := msgQueued_acks
          (modRegion s (regionOf m.dst) fun r => { r with spill := tblSet r.spill m.part (spill ++ [m]) }) m
        refine ⟨_, he, hp.mem, hp.threads, fun h1 h2 => absurd ⟨h1, h2⟩ hfit, fun _ _ => ⟨?_, _, hack, rfl⟩,
          fun hn => absurd hspill (Nat.not_le.2 hn)⟩
        rw [hp.getRegion, getRegion_modRegion, tblGet_tblSet_same]
      · rw [if_neg hspill] at he
        exact ⟨_, he, rfl, rfl, fun h1 h2 => absurd ⟨h1, h2⟩ hfit, fun _ h => absurd h hspill, fun _ _ =>
          ⟨rfl, postFirst_first s (by decide) _ _⟩⟩
  · obtain ⟨s', he, hp, hheld, hsend⟩ := codeOrderRelease_sends hf hq ho
    exact ⟨s', he, hheld, hsend, hp.mem, hp.threads⟩

/-! ### The handler -/

theorem memRead_take (m : List Host.Cell) (k n j : Nat) : (memRead m k (n + j)).take n = memRead m k n := by
  induction n generalizing k with
  | zero => simp [memRead]
  | succ n ih =>
    rw [Nat.add_right_comm]
    simp [memRead, ih]

/-- The first part of what was written reads back. -/
theorem memRead_memWrite_append {m : List Host.Cell} (h : Memory.wf m = true) (k : Nat) (a b : List Byte) :
    memRead (memWrite m k (a ++ b)) k a.length = a := by
  rw [← memRead_take _ k a.length b.length, ← List.length_append, memRead_memWrite h, List.take_left]

theorem quadBytes_append (a b : List Word) : quadBytes (a ++ b) = quadBytes a ++ quadBytes b := by
  induction a with
  | nil => rfl
  | cons w a ih => rw [List.cons_append, quadBytes, ih, quadBytes, List.append_assoc]

theorem quadBytes_length (a : List Word) : (quadBytes a).length = 8 * a.length := by
  induction a with
  | nil => rfl
  | cons w a ih =>
    rw [quadBytes, List.length_append, leBytes_length, ih, List.length_cons]
    omega

theorem writeBlock_mem {s : State} (hs : Memory.wf s.mem = true) (core p n : Nat) (w : List Word) :
    memRead (writeBlock s core p n w).mem (scratchKey core (viewBase s core p + 0x800 + 128 * (n - firstSlot s core p))) (8 * w.length)
      = quadBytes w := by
  have h := memRead_memWrite_append hs (scratchKey core (viewBase s core p + 0x800 + 128 * (n - firstSlot s core p))) (quadBytes w)
    (quadBytes (List.replicate (16 - w.length) 0))
  rwa [quadBytes_length, ← quadBytes_append] at h

/-- R168, R169: a handler starts, its words are in its arrival block, and the messages that wait are as they were. -/
theorem startHandler_starts {s : State} (hs : Memory.wf s.mem = true) {core p : Nat} (id : Nat) {m : Msg} (hc : m.dst = core)
    (hp : m.part = p) :
    getThread (startHandler s core p id m) id = some { startThread (startOp s) id m with place := .slot (handlerSlot s core p) }
      ∧ (getPart (startHandler s core p id m) core p).msgs = (getPart s core p).msgs
      ∧ memRead (startHandler s core p id m).mem
          (scratchKey core (viewBase s core p + 0x800 + 128 * (handlerSlot s core p - firstSlot s core p))) (8 * m.words.length)
        = quadBytes m.words := by
  subst hc hp
  rw [startHandler, enterSlot_flight rfl]
  refine ⟨getThread_setThread _ _, ?_, writeBlock_mem hs _ _ _ _⟩
  rw [setFlags_keeps Part.msgs, getPart_setThread]
  exact modPart_keeps Part.msgs _ m.dst m.part

theorem handlerStarts : HandlerStarts := by
  intro s x core p id m l hs hf hslot ho hx hl hr hmsgs hc hp hid _
  have hexec : exec .handlerStart s = execHandlerStart s := rfl
  obtain ⟨s1, hs1⟩ : ∃ s1, s1 = setPart s core p { getPart s core p with msgs := l } := ⟨_, rfl⟩
  have hnext : nextMessage s core p none = some (m, s1) := by
    rw [nextMessage, hmsgs, takeFirst_all (by simp [hc]), hs1]
  have hpart : (getPart s1 core p).msgs = l := by rw [hs1, getPart_setPart]
  have hx1 : getCtx s1 m.ctx = some x := by rw [hs1]; exact hx
  obtain ⟨hthread, hrest, hmem⟩ := startHandler_starts (s := s1) (hs1 ▸ hs.mem) id hc hp
  have he : exec .handlerStart s = .next (startHandler s1 core p id m) := by
    rw [hexec, execHandlerStart, hf]
    simp only [hslot, Option.isSome_none, ho, replays, hx, hr, Bool.false_eq_true, if_false, hnext, hid, logStart, hx1, hl]
  subst hs1
  exact ⟨_, _, he, hthread, rfl, rfl, hc, hp, startThread_started (startOp s) id m, hrest.trans hpart, hmem⟩

/-- Settles O19: a message leaves (`sendMsg_leaves`), is queued and acknowledged or waits (`messageArrival_eq`), and starts a handler with
its words (`startHandler_starts`). -/
theorem messages : Obligations.Messages := ⟨sendIssues, messageBuffered, handlerStarts⟩

end Sys2Proof.Safety
end

section
/-! SUPPORT. Words and credits of channels (R177 to R179), and O20. -/

namespace Sys2Proof.Safety

open Sys2Proof Sys2Proof.Machine

/-! ### The tables of writers and readers -/

/-- The number of the next word of a channel (R177). -/
def nextWord (p : Part) (c i : Nat) : Nat :=
  match findWr p.wr c i with
  | some e => e.sent
  | none => 0

/-- A reader's channel of a partition. -/
def rdChan (p : Part) (i : Nat) : RdChan := tblGet {} p.rd i

/-- Channel `i` of a partition after its reader took the next word, of writer `c` (R179). -/
def wordTaken (c i : Nat) (p : Part) : Part :=
  { p with rd := tblSet p.rd i ⟨(rdChan p i).taken + 1, (rdChan p i).valid - 2 ^ ((rdChan p i).taken % 16), some c⟩ }

/-- Channel `i` of a partition with word `q` of writer `w` (R178). -/
def wordStored (w i q : Nat) (p : Part) : Part :=
  { p with rd := tblSet p.rd i ⟨(rdChan p i).taken, (rdChan p i).valid ||| 2 ^ (q % 16), some w⟩ }

theorem rdChan_wordTaken (c i : Nat) (p : Part) :
    rdChan (wordTaken c i p) i = ⟨(rdChan p i).taken + 1, (rdChan p i).valid - 2 ^ ((rdChan p i).taken % 16), some c⟩ :=
  tblGet_tblSet_same _ _ _ _

theorem rdChan_wordStored (w i q : Nat) (p : Part) :
    rdChan (wordStored w i q p) i = ⟨(rdChan p i).taken, (rdChan p i).valid ||| 2 ^ (q % 16), some w⟩ := tblGet_tblSet_same _ _ _ _

/-- The key of a word of a reader's channel (R177). -/
def chKey (s : State) (core p i q : Nat) : Nat := scratchKey core (viewBase s core p + 0x1000 + 128 * i + 8 * (q % 16))

theorem bitAt_set (v n : Nat) : bitAt (v ||| 2 ^ n) n = true := by
  rw [bitAt_eq_testBit, Nat.testBit_or, Nat.testBit_two_pow_self, Bool.or_true]

/-- Taking away a bit that is set leaves it clear. -/
theorem bitAt_sub {v n : Nat} (h : bitAt v n = true) : bitAt (v - 2 ^ n) n = false := by
  have hdiv := Nat.sub_mul_div v (2 ^ n) 1
  rw [Nat.mul_one] at hdiv
  simp only [bitAt, beq_iff_eq] at h
  simp only [bitAt, hdiv, beq_eq_false_iff_ne]
  omega

/-- One word of a channel less is untaken (R178). -/
theorem findWr_taken {l : List WrChan} {dst idx : Nat} {e : WrChan} (h : findWr l dst idx = some e) :
    findWr (l.map fun e => if e.dst == dst && e.idx == idx then { e with untaken := e.untaken - 1 } else e) dst idx
      = some { e with untaken := e.untaken - 1 } := by
  have hkey : ((fun e : WrChan => e.dst == dst && e.idx == idx) ∘ fun e : WrChan =>
      if e.dst == dst && e.idx == idx then { e with untaken := e.untaken - 1 } else e) = fun e => e.dst == dst && e.idx == idx := by
    funext e
    rw [Function.comp_apply]
    split <;> rfl
  rw [findWr] at h
  have he := List.find?_some h
  rw [findWr, List.find?_map, hkey, h, Option.map_some, if_pos he]

/-! ### CHSEND -/

/-- The packet of a channel word of a thread. -/
def wordPkt (s : State) (t : Thread) (c i : Nat) (v : Word) : ChPkt :=
  ⟨t.id, t.ctx, t.part, t.core, c, i, nextWord (getPart s t.core t.part) c i, v, none⟩

theorem Fenced.uac {t : Thread} (h : Fenced t) : t.uac = 0 := by
  obtain ⟨-, huac, -⟩ := h
  exact huac

/-- R178: CHSEND with room, and nothing to fence, counts its word and sends it. -/
theorem execChsend_sends {s : State} {t : Thread} {g : BitVec 5} {a b : BitVec 4} {c i : Nat} (hi : Issues s t g) (hf : Fenced t)
    (hc : coreRef s t.ctx (t.reg a) = .core c i) (h16 : i < 16) (hh : holds s t.ctx c t.part = true)
    (hr : chRoom (getPart s t.core t.part) c i = true) :
    ∃ u, Counts t u ∧ exec (.chsend g a b) s
      = .next (retire (send (modPart (setThread s u) t.core t.part fun x => { x with wr := noteSent x.wr c i }) t.core c 8 0
        (.channelWord (wordPkt s t c i (t.reg b)))) u) := by
  have hexec : exec (.chsend g a b) s = execChsend g a b s := rfl
  have hu : ¬4095 ≤ t.uac := by rw [hf.uac]; decide
  obtain ⟨n, hn⟩ := noteSkid_eq { t with uac := t.uac + 1 } (secondWriter s c t.part i t.core)
  refine ⟨{ t with uac := t.uac + 1, skid := n }, ⟨rfl, ⟨rfl, rfl, rfl, rfl, rfl, rfl, rfl⟩, rfl, rfl, rfl, rfl, rfl⟩, ?_⟩
  rw [hexec, execChsend, hi.scalar_eq]
  simp only [hc, Nat.not_le.2 h16, hh, chName, hr, hu, hf.fenced_eq, Option.isNone_none, decide_false, Bool.not_true, Bool.and_false,
    Bool.or_self, Bool.false_eq_true, if_false, Bool.true_and, hn]
  rfl

/-- R178: CHSEND changes its thread alone, beside its word under way. -/
theorem chsend_leaves {s : State} {t : Thread} {g : BitVec 5} {a b : BitVec 4} {c i : Nat} (hi : Issues s t g) (ha : Ahead s t)
    (hf : Fenced t) (hc : coreRef s t.ctx (t.reg a) = .core c i) (h16 : i < 16) (hh : holds s t.ctx c t.part = true)
    (hr : chRoom (getPart s t.core t.part) c i = true) :
    ∃ s' u, Counts t u ∧ exec (.chsend g a b) s = .next s' ∧ Touches s s' t (stepped u)
      ∧ Sends s s' (.channelWord (wordPkt s t c i (t.reg b))) := by
  obtain ⟨u, hu, he⟩ := execChsend_sends (b := b) hi hf hc h16 hh hr
  obtain ⟨s1, hs1⟩ : ∃ s1, s1 = modPart (setThread s u) t.core t.part fun x => { x with wr := noteSent x.wr c i } := ⟨_, rfl⟩
  have h1 : Touches s s1 t u := hs1 ▸ (touches_setThread s t u hu.id).after (packetsOnly_modPart _ _ _ _)
  have hsend := posted_send s1 t.core c 8 0 (.channelWord (wordPkt s t c i (t.reg b))) .idle
  have hsets : (send s1 t.core c 8 0 (.channelWord (wordPkt s t c i (t.reg b)))).sets = s.sets := hsend.packets.sets.trans (hs1 ▸ rfl)
  rw [← hs1, hu.retire_eq ha hsets] at he
  have h2 := (h1.after hsend.packets).trans hu.id (touches_setThread _ u (stepped u) rfl)
  refine ⟨_, u, hu, he, h2, (send_sends s1 _ _ _ _ _ _).before h1.pend h1.quiet.cycle⟩

theorem execChsend_outside {s : State} {t : Thread} {g : BitVec 5} {a : BitVec 4} (b : BitVec 4) {c i : Nat} (hi : Issues s t g)
    (hc : coreRef s t.ctx (t.reg a) = .core c i) (hh : holds s t.ctx c t.part = false) :
    ∃ s', exec (.chsend g a b) s = .next s' ∧ FatalHere s s' t 0x10 := by
  have hexec : exec (.chsend g a b) s = execChsend g a b s := rfl
  rw [hexec, execChsend]
  exact hi.faults (addr := (t.reg a).toNat) (by simp [hc, hh])

/-! ### CHRECV -/

/-- The word that a reader takes next from its channel `r`. -/
def wordRead (s : State) (t : Thread) (i : Nat) (r : RdChan) : Word :=
  BitVec.ofNat 64 (ofLeBytes (memRead s.mem (chKey s t.core t.part i r.taken) 8))

/-- The packet of the credit for that word. -/
def creditPkt (t : Thread) (c i : Nat) (r : RdChan) : ChPkt := ⟨t.id, t.ctx, t.part, t.core, c, i, r.taken, 0, none⟩

section Receive

variable {s : State} {t : Thread} {g : BitVec 5} {d a : BitVec 4} {c i : Nat} {r : RdChan}
variable (hi : Issues s t g) (hc : coreRef s t.ctx (t.reg a) = .core c i)
include hi hc

theorem execChrecv_outside (hh : holds s t.ctx c t.part = false) : ∃ s', exec (.chrecv g d a) s = .next s' ∧ FatalHere s s' t 0x10 := by
  have hexec : exec (.chrecv g d a) s = execChrecv g d a s := rfl
  rw [hexec, execChrecv]
  exact hi.faults (addr := (t.reg a).toNat) (by simp [hc, hh])

variable (h16 : i < 16) (hh : holds s t.ctx c t.part = true) (hrd : tblGet {} (getPart s t.core t.part).rd i = r)
include h16 hh hrd

/-- R179: without its next word, CHRECV waits. -/
theorem execChrecv_parks (hv : bitAt r.valid (r.taken % 16) = false) :
    ∃ s', exec (.chrecv g d a) s = .next s' ∧ OnlyThread s s' { t with wait := .until (.chWord i) } := by
  have hexec : exec (.chrecv g d a) s = execChrecv g d a s := rfl
  rw [hexec, execChrecv]
  exact hi.holds (by simp [hc, Nat.not_le.2 h16, hh, hrd, hv])

variable (hv : bitAt r.valid (r.taken % 16) = true)
include hv

/-- R179: a word that the named core has not written is a channel fault. -/
theorem execChrecv_stranger (hw : r.writer ≠ some c) : ∃ s', exec (.chrecv g d a) s = .next s' ∧ FatalHere s s' t 0x13 := by
  have hexec : exec (.chrecv g d a) s = execChrecv g d a s := rfl
  rw [hexec, execChrecv]
  exact hi.faults (addr := (t.reg a).toNat) (by simp [hc, Nat.not_le.2 h16, hh, hrd, hv, chName, hw])

/-- R179: CHRECV takes its next word and sends a credit. -/
theorem execChrecv_takes (hw : r.writer = some c) (hp : poisoned s (chKey s t.core t.part i r.taken) 8 = false) :
    exec (.chrecv g d a) s = .next (retireReg
      (send (modPart s t.core t.part (wordTaken c i)) t.core c 8 0 (.channelCredit (creditPkt t c i r))) t d (wordRead s t i r)) := by
  have hexec : exec (.chrecv g d a) s = execChrecv g d a s := rfl
  rw [chKey] at hp
  rw [hexec, execChrecv, hi.scalar_eq]
  simp only [hc, Nat.not_le.2 h16, hh, hrd, hv, hw, hp, chName, Option.isNone_none, decide_false, Bool.not_true, Bool.and_false,
    Bool.or_self, Bool.false_eq_true, if_false, ne_eq, not_true_eq_false, Option.map_none]
  rw [modPart, wordTaken, rdChan, hrd]
  rfl

/-- R179: only the thread and its channel have changed, beside the credit under way. -/
theorem chrecv_takes (ha : Ahead s t) (hw : r.writer = some c) (hp : poisoned s (chKey s t.core t.part i r.taken) 8 = false) :
    ∃ s', exec (.chrecv g d a) s = .next s' ∧ Touches s s' t { stepped t with regs := writeReg t.regs d (wordRead s t i r) }
      ∧ getPart s' t.core t.part = wordTaken c i (getPart s t.core t.part) ∧ Sends s s' (.channelCredit (creditPkt t c i r)) := by
  have he := execChrecv_takes (d := d) hi hc h16 hh hrd hv hw hp
  obtain ⟨s1, hs1⟩ : ∃ s1, s1 = modPart s t.core t.part (wordTaken c i) := ⟨_, rfl⟩
  have h1 : PacketsOnly s s1 := hs1 ▸ packetsOnly_modPart _ _ _ _
  have hsend := posted_send s1 t.core c 8 0 (.channelCredit (creditPkt t c i r)) .idle
  have h2 := h1.trans hsend.packets
  rw [← hs1, (h2.ahead ha).retireReg_eq] at he
  refine ⟨_, he, h2.touches (touches_setThread _ t _ rfl), ?_, (send_sends s1 _ _ _ _ _ _).before h1.pend h1.cycle⟩
  rw [getPart_setThread, hsend.getPart, hs1, getPart_modPart]

end Receive

/-! ### Words and credits arrive -/

/-- The access that the acknowledgement of a channel word answers (R178). -/
def wordAccess (p : ChPkt) : Access := msgAck p.tid p.ctx p.part p.src p.dst 0 8 none

/-- The word of a packet in its quad, with the reader's channel and the flags of its partition (R177, R263). -/
def storeWord (s : State) (p : ChPkt) : State :=
  setFlags (modPart { s with mem := memWrite s.mem (chKey s p.dst p.part p.idx p.q) (leBytes 8 p.w.toNat) } p.dst p.part
    (wordStored p.src p.idx p.q)) p.dst p.part

theorem rdChan_storeWord (s : State) (p : ChPkt) : rdChan (getPart (storeWord s p) p.dst p.part) p.idx
    = rdChan (wordStored p.src p.idx p.q (getPart s p.dst p.part)) p.idx := by
  rw [rdChan, storeWord, setFlags_keeps Part.rd, getPart_modPart]
  rfl

section Arrivals

variable {s : State} {p : ChPkt} (hdev : p.dev = none) (hd : descheduled s p.ctx = false)
  (hstop : (getPart s p.dst p.part).stopCycle = none)
include hdev hd hstop

/-- R177, R178: a word of the channel's writer is stored. -/
theorem channelWord_stores (hh : holds s p.ctx p.dst p.part = true) (hw : secondWriter s p.dst p.part p.idx p.src = false) :
    exec (.channelWord p) s = .next (ackMsg (storeWord s p) none p.dst (wordAccess p) .ok) := by
  have hexec : exec (.channelWord p) s = execChannelWord p s := rfl
  rw [hexec, execChannelWord]
  dsimp only
  rw [localCtx_here hdev, atPartition_open hd hstop]
  simp only [hdev, chName, hh, hw, Bool.not_true, Bool.false_eq_true, if_false]
  rfl

/-- R179: a word of a second writer is refused. -/
theorem channelWord_refuses (hh : holds s p.ctx p.dst p.part = true) (hw : secondWriter s p.dst p.part p.idx p.src = true) :
    exec (.channelWord p) s = .next (ackMsg s none p.dst (wordAccess p) .channel) := by
  have hexec : exec (.channelWord p) s = execChannelWord p s := rfl
  rw [hexec, execChannelWord]
  dsimp only
  rw [localCtx_here hdev, atPartition_open hd hstop]
  simp only [hdev, chName, hh, hw, Bool.not_true, Bool.false_eq_true, if_false, if_true]
  rfl

/-- R178: a credit. -/
theorem channelCredit_counts : exec (.channelCredit p) s = .next (modPart s p.dst p.part fun x =>
    { x with wr := x.wr.map fun e => if e.dst == p.src && e.idx == p.idx then { e with untaken := e.untaken - 1 } else e }) := by
  have hexec : exec (.channelCredit p) s = execChannelCredit p s := rfl
  rw [hexec, execChannelCredit, atPartition_open hd hstop, hdev]
  rfl

end Arrivals

/-- A channel is written by nobody else when it is empty or the writer's own. -/
theorem secondWriter_own {s : State} {c p i w : Nat}
    (h : (rdChan (getPart s c p) i).valid = 0 ∨ (rdChan (getPart s c p) i).writer = some w) : secondWriter s c p i w = false := by
  rw [rdChan] at h
  rcases h with h | h <;> simp [secondWriter, h]

theorem secondWriter_stranger {s : State} {c p i w : Nat} (hv : (rdChan (getPart s c p) i).valid ≠ 0)
    (hw : (rdChan (getPart s c p) i).writer ≠ some w) : secondWriter s c p i w = true := by
  rw [rdChan] at hv hw
  simp [secondWriter, hv, hw]

/-- R177, R178: the word stands in its quad, the reader's channel is the writer's, and the acknowledgement is on its way. -/
theorem channelWord_delivers {s : State} {p : ChPkt} (hs : Memory.wf s.mem = true) (hdev : p.dev = none) (hd : descheduled s p.ctx = false)
    (hstop : (getPart s p.dst p.part).stopCycle = none) (hh : holds s p.ctx p.dst p.part = true)
    (hw : secondWriter s p.dst p.part p.idx p.src = false) :
    ∃ s', exec (.channelWord p) s = .next s' ∧ memRead s'.mem (chKey s p.dst p.part p.idx p.q) 8 = leBytes 8 p.w.toNat
      ∧ Outside s s' (chKey s p.dst p.part p.idx p.q) 8 ∧ s'.threads = s.threads
      ∧ rdChan (getPart s' p.dst p.part) p.idx = rdChan (wordStored p.src p.idx p.q (getPart s p.dst p.part)) p.idx
      ∧ Sends s s' (.acknowledgement (wordAccess p) .ok) := by
  have hwho : (wordAccess p).who = .thread p.tid := rfl
  obtain ⟨hack, hsend⟩ := ackMsg_accepts (storeWord s p) p.dst hwho
  have hmem : (storeWord s p).mem = memWrite s.mem (chKey s p.dst p.part p.idx p.q) (leBytes 8 p.w.toNat) := rfl
  have hread := memRead_memWrite hs (chKey s p.dst p.part p.idx p.q) (leBytes 8 p.w.toNat)
  rw [leBytes_length] at hread
  refine ⟨_, channelWord_stores hdev hd hstop hh hw, ?_, fun j hj => ?_, hack.packets.threads, ?_, hsend⟩
  · rw [hack.packets.mem, hmem, hread]
  · rw [hack.packets.mem, hmem]
    exact memByte_memWrite_other hs _ _ j (by rwa [leBytes_length])
  · rw [hack.getPart, rdChan_storeWord]

/-- Settles O20: a word leaves (`chsend_leaves`), is stored and acknowledged (`channelWord_delivers`) or refused, and is taken in its turn
for a credit (`chrecv_takes`) that gives the writer room again (`findWr_taken`). -/
theorem channels : Obligations.Channels := by
  intro s t g a b d c i p
  refine ⟨fun hi ha hc h16 => ⟨fun hh hr hf => ?_, fun hh => ⟨execChsend_outside b hi hc hh, execChrecv_outside hi hc hh⟩,
    fun hh hv hw hp => ?_, fun hh hv hw => execChrecv_stranger hi hc h16 hh rfl hv hw, fun hh hv => execChrecv_parks hi hc h16 hh rfl hv⟩,
    fun hdev hd hstop _ hs => ⟨fun hh hw => ?_, fun hh hv hw => ?_, fun e hwr => ?_⟩⟩
  · obtain ⟨s', u, hu, he, h, hsend⟩ := chsend_leaves (b := b) hi ha hf hc h16 hh hr
    refine ⟨s', stepped u, wordPkt s t c i (t.reg b), he, h.this, ?_, ?_, hu.keeps, h.others, h.quiet, hsend, rfl, rfl, rfl, rfl, rfl⟩
    · exact hu.uac.trans (by rw [hf.uac])
    · rw [stepped, hu.pc]
  · obtain ⟨s', he, h, hpart, hsend⟩ := chrecv_takes (d := d) hi hc h16 hh rfl hv ha hw hp
    have hchan := hpart ▸ rdChan_wordTaken c i (getPart s t.core t.part)
    refine ⟨s', _, _, he, h.this, rfl, rfl, congrArg RdChan.taken hchan, ?_, h.quiet, hsend, rfl, rfl, rfl⟩
    exact (congrArg (bitAt ·.valid _) hchan).trans (bitAt_sub hv)
  · obtain ⟨s', he, hread, hout, hthreads, hchan, hsend⟩ := channelWord_delivers hs.mem hdev hd hstop hh (secondWriter_own hw)
    rw [rdChan_wordStored] at hchan
    refine ⟨s', he, hread, hout, hthreads, ?_, congrArg RdChan.writer hchan, wordAccess p, hsend, rfl⟩
    exact (congrArg (bitAt ·.valid _) hchan).trans (bitAt_set _ _)
  · have hwho : (wordAccess p).who = .thread p.tid := rfl
    obtain ⟨hack, hsend⟩ := ackMsg_answers s p.dst hwho .channel
    have hframe := stopSoon_frame s p.tid .channel
    refine ⟨_, wordAccess p, channelWord_refuses hdev hd hstop hh (secondWriter_stranger hv hw), ?_, ?_, hsend, rfl⟩
    · rw [hack.packets.mem, hframe]
    · rw [hack.parts, hframe]
  · refine ⟨_, { e with untaken := e.untaken - 1 }, channelCredit_counts hdev hd hstop, ?_, rfl, rfl, rfl, rfl⟩
    rw [getPart_modPart]
    exact findWr_taken hwr

end Sys2Proof.Safety
end

section
/-! SUPPORT. Handles, tickets and promises at their thread (R197 to R202, R223, R224, R228), and O32. -/

namespace Sys2Proof.Safety

open Sys2Proof Sys2Proof.Machine

/-! ### Handles (R197 to R201) -/

theorem getHandle_setHandle (s : State) (core p h k : Nat) (x : Handle) :
    getHandle (getPart (setHandle s core p h x) core p) k = if k = h then x else getHandle (getPart s core p) k := by
  rw [setHandle, getPart_modPart, getHandle]
  split
  · next hk => rw [hk, tblGet_tblSet_same]
  · next hk => exact tblGet_tblSet_other _ _ _ _ _ hk

/-- A word that ends by writing a handle. -/
theorem Ahead.setsHandle {s : State} {t : Thread} (ha : Ahead s t) (h : Nat) (y : Handle) :
    SetsHandle s (retire (setHandle s t.core t.part h y) t) t h y := by
  have hparts : ∀ k, getHandle (getPart (retire (setHandle s t.core t.part h y) t) t.core t.part) k
      = if k = h then y else getHandle (getPart s t.core t.part) k := fun k => by
    rw [setHandle, modPart, ha.retire_setPart, getPart_setThread]
    exact getHandle_setHandle s t.core t.part h k y
  refine ⟨?_, ?_, ?_, ?_, by rw [hparts, if_pos rfl], fun k hk => by rw [hparts, if_neg hk]⟩
  all_goals rw [setHandle, modPart, ha.retire_setPart]
  · exact getThread_setThread _ (stepped t)
  · exact fun k hk => getThread_setThread_other _ (stepped t) k hk
  · exact .refl s
  · rfl

theorem bitAt_toNat (v : Word) (n : Nat) : bitAt v.toNat n = v.getLsbD n := by rw [bitAt_eq_testBit, BitVec.testBit_toNat]

theorem NamesHandle.operand {s : State} {t : Thread} {v : Word} {h : Nat} {x : Handle} (hn : NamesHandle s t v h x) :
    handleOperand s t v = some (h, v.getLsbD 8, x) := by
  obtain ⟨hlt, hres, rfl, hin, rfl, hdef⟩ := hn
  have hhigh : v.toNat / 512 = 0 := Nat.div_eq_of_lt hlt
  have hzero : bitsOf v.toNat 7 5 = 0 := hres
  simp only [handleOperand, hhigh, hzero, hin, hdef, bitAt_toNat, ne_eq, not_true_eq_false, decide_false, Bool.not_true, Bool.or_self,
    Bool.false_eq_true, if_false]

/-- R200: the consuming side advances up to P. -/
theorem advance_consume {x : Handle} {n : Nat} (hn : x.n ≠ 0) (hp : (sextNat 16 (x.ce + n + 65536 - x.p) : Int) ≤ 0) :
    advance x true n = some { x with c := (x.c + n) % 65536, ce := (x.ce + n) % 65536 } := by
  simp only [advance, if_neg hn, if_true, if_neg (Int.not_lt.2 hp)]

theorem advance_past {x : Handle} {n : Nat} (hp : ¬(sextNat 16 (x.ce + n + 65536 - x.p) : Int) ≤ 0) : advance x true n = none := by
  simp only [advance, if_true, if_pos (Int.not_le.1 hp), ite_self]

/-- R200: the producing side advances within the slots. -/
theorem advance_produce {x : Handle} {n : Nat} (hn : x.n ≠ 0) (hp : countDiff (x.pe + n) x.c ≤ x.n) :
    advance x false n = some { x with p := (x.p + n) % 65536, pe := (x.pe + n) % 65536 } := by
  simp only [advance, if_neg hn, Bool.false_eq_true, if_false, if_neg (Nat.not_lt.2 hp)]

section Counts

variable {s : State} {t : Thread} {g : BitVec 5} {a b : BitVec 4} {h : Nat} {x : Handle}

/-- ADV with a good operand, past the fence of its producing side: the handle advances, or the advance is refused. -/
theorem exec_adv_eq (hi : Issues s t g) (hn : NamesHandle s t (t.reg a) h x) (h16 : (t.reg b).toNat ≤ 16) {side : Bool}
    (hside : (t.reg a).getLsbD 8 = side) (hf : side = true ∨ Fenced t) :
    (∀ y, advance x side (t.reg b).toNat = some y → exec (.adv g a b) s = .next (retire (setHandle s t.core t.part h y) t))
      ∧ (advance x side (t.reg b).toNat = none → exec (.adv g a b) s = .next (fatalAt s t 0x0A (t.reg a).toNat)) := by
  obtain ⟨-, -, -, -, rfl, -⟩ := id hn
  have hexec : exec (.adv g a b) s = execAdv g a b s := rfl
  simp only [hexec, execAdv, hi.scalar_eq, hn.operand, if_neg (Nat.not_lt.2 h16), hside]
  rcases hf with rfl | hf
  · exact ⟨fun y hy => by simp only [if_true, hy], fun hy => by simp only [if_true, hy]⟩
  · simp only [hf.fenced_eq, ite_self]
    exact ⟨fun y hy => by simp only [hy], fun hy => by simp only [hy]⟩

/-- TWAIT of at most the handle's slots: it steps when the count of its side is there, and waits for it otherwise. -/
theorem exec_twait_eq (hi : Issues s t g) (hn : NamesHandle s t (t.reg a) h x) (hle : (t.reg b).toNat ≤ x.n) :
    exec (.twait g a b) s = .next (
      if (t.reg b).toNat ≤ (if (t.reg a).getLsbD 8 then x.free else x.filled) then retire s t
      else wait s t (.until (if (t.reg a).getLsbD 8 then .room h (t.reg b).toNat else .filled h (t.reg b).toNat))) := by
  have hexec : exec (.twait g a b) s = execTwait g a b s := rfl
  simp only [hexec, execTwait, hi.scalar_eq, hn.operand, if_neg (Nat.not_lt.2 hle)]
  cases (t.reg a).getLsbD 8 <;> simp only [Bool.false_eq_true, if_true, if_false]

/-- The operands that HDEF takes: a handle of the slice, and slots within the view, past the constant window. -/
def HandleOperands (s : State) (t : Thread) (h y : Nat) : Prop :=
  h < 32 ∧ inHandles s t.core t.part h = true ∧ y / 2 ^ 32 ≤ 16 ∧ 1 ≤ y / 2 ^ 32 ∧ y % 2 ^ 16 % 32 = 0 ∧ 0x800 ≤ y % 2 ^ 16
    ∧ y / 2 ^ 16 % 2 ^ 16 % 32 = 0 ∧ y / 2 ^ 16 % 2 ^ 16 ≠ 0 ∧ y % 2 ^ 16 + y / 2 ^ 16 % 2 ^ 16 * (y / 2 ^ 32) ≤ viewSize s t.core

theorem handleOperands_iff {h y : Nat} : HandleOperands s t h y ↔ ¬(32 ≤ h || y / 2 ^ 37 ≠ 0 || !inHandles s t.core t.part h
    || bitsOf y 15 0 % 32 ≠ 0 || bitsOf y 15 0 < 0x800 || bitsOf y 31 16 % 32 ≠ 0 || bitsOf y 31 16 = 0 || bitsOf y 36 32 = 0
    || 16 < bitsOf y 36 32 || viewSize s t.core < bitsOf y 15 0 + bitsOf y 31 16 * bitsOf y 36 32) = true := by
  have hsize : bitsOf y 31 16 = y / 2 ^ 16 % 2 ^ 16 := rfl
  have hbase : bitsOf y 15 0 = y % 2 ^ 16 := by rw [bitsOf, Nat.pow_zero, Nat.div_one]
  have hslots : bitsOf y 36 32 = y / 2 ^ 32 % 2 ^ 5 := rfl
  have hhigh : y / 2 ^ 37 = y / 2 ^ 32 / 2 ^ 5 := by rw [Nat.div_div_eq_div_mul]; rfl
  rw [hsize, hbase, hslots, hhigh]
  simp only [HandleOperands, Bool.or_eq_true, decide_eq_true_eq, not_or, Bool.not_eq_true', Bool.not_eq_false]
  generalize y / 2 ^ 16 % 2 ^ 16 = size
  generalize y % 2 ^ 16 = base
  generalize y / 2 ^ 32 = slots
  by_cases hle : slots < 32
  · rw [Nat.mod_eq_of_lt (show slots < 2 ^ 5 from hle)]
    generalize base + size * slots = top
    cases inHandles s t.core t.part h
    · simp only [Bool.false_eq_true, false_and, and_false]
    · simp only [true_and, and_true]
      omega
  · exact iff_of_false (fun ⟨_, _, h16, _⟩ => by omega) fun h => by omega

/-- HDEF of a free handle with good operands, and with others (R198). -/
theorem exec_hdef_eq (hi : Issues s t g) (a b : BitVec 4) :
    let h := (t.reg a).toNat
    let y := (t.reg b).toNat
    (HandleOperands s t h y → handleFree (getPart s t.core t.part) h = true → exec (.hdef g a b) s
        = .next (retire (setHandle s t.core t.part h ⟨y % 2 ^ 16, y / 2 ^ 16 % 2 ^ 16, y / 2 ^ 32, 0, 0, 0, 0⟩) t))
      ∧ (¬HandleOperands s t h y → exec (.hdef g a b) s = .next (fatalAt s t 0x0A y)) := by
  intro h y
  have hexec : exec (.hdef g a b) s = execHdef g a b s := rfl
  rw [hexec, execHdef, hi.scalar_eq]
  refine ⟨fun hg hfree => ?_, fun hg => ?_⟩ <;> dsimp only
  · obtain ⟨-, -, hle, -⟩ := id hg
    have hsize : bitsOf y 31 16 = y / 2 ^ 16 % 2 ^ 16 := rfl
    have hbase : bitsOf y 15 0 = y % 2 ^ 16 := by rw [bitsOf, Nat.pow_zero, Nat.div_one]
    have hslots : bitsOf y 36 32 = y / 2 ^ 32 := Nat.mod_eq_of_lt (by omega)
    rw [if_neg (handleOperands_iff.1 hg), hfree, hsize, hbase, hslots]
    rfl
  · rw [if_pos (not_not.1 (mt handleOperands_iff.2 hg))]

end Counts

theorem handleInstructions : HandleInstructions := by
  intro s t g a b h x hi ha n y side past size base slots good
  obtain ⟨hdefines, hbad⟩ := exec_hdef_eq hi a b
  refine ⟨fun hn h16 => ?_, fun hn hle => ?_, fun hg hfree => ⟨_, hdefines hg hfree, ha.setsHandle _ _⟩,
    fun hg => ⟨_, hbad hg, fatalAt_fatalHere hi.1.2 _ _⟩⟩
  · obtain ⟨-, -, -, -, -, hdef⟩ := id hn
    refine ⟨fun hside hp => ?_, fun hside hp => ?_, fun hside hf hp => ?_⟩
    · exact ⟨_, (exec_adv_eq hi hn h16 hside (.inl rfl)).1 _ (advance_consume hdef hp), ha.setsHandle _ _⟩
    · exact ⟨_, (exec_adv_eq hi hn h16 hside (.inl rfl)).2 (advance_past hp), fatalAt_fatalHere hi.1.2 _ _⟩
    · exact ⟨_, (exec_adv_eq hi hn h16 hside (.inr hf)).1 _ (advance_produce hdef hp), ha.setsHandle _ _⟩
  · intro have'
    refine ⟨fun hthere => ⟨_, exec_twait_eq hi hn hle, ?_⟩, fun hless => ⟨_, exec_twait_eq hi hn hle, ?_⟩⟩
    · rw [if_pos hthere, ha.retire_eq]
      exact onlyThread_setThread s (stepped t)
    · rw [if_neg (Nat.not_le.2 hless)]
      exact onlyThread_setThread s { t with wait := .until _ }

/-! ### Traps (R256) -/

theorem getLsbD_trapPend (i : Nat) : (0x10 : BitVec 16).getLsbD i = decide (i = 4) := by
  have h : (0x10 : BitVec 16).getLsbD i = (2 ^ 4 : Nat).testBit i := rfl
  rw [h, Nat.testBit_two_pow]
  exact decide_eq_decide.2 eq_comm

/-- A trap with a vector leaves all but the trap words, TRAPPEND and the pc. -/
theorem takeTrap_trapped {s : State} {t : Thread} {x : Ctx} {n cause : Nat} (hx : getCtx s t.ctx = some x) (hv : x.tvec = some n)
    (hc : cause < 256) (value : Word) (ret : BitVec 14) : Trapped s (takeTrap s t cause value ret) t n cause value ret := by
  rw [takeTrap_vector cause value ret hx hv]
  refine ⟨_, getThread_setThread _ _, ?_, rfl, rfl, rfl, ?_, fun i hi => ?_, rfl, rfl, rfl, rfl,
    fun k hk => getThread_setThread_other _ _ _ hk, rfl, rfl⟩
  · exact Nat.mod_eq_of_lt hc
  · simp only [Thread.setTrapPend, if_true, BitVec.getLsbD_or, getLsbD_trapPend, decide_true, Bool.or_true]
  · simp only [Thread.setTrapPend, if_true, BitVec.getLsbD_or, getLsbD_trapPend, decide_eq_false hi, Bool.or_false]

/-! ### Promises, tickets and status (R202, R223, R224, R228) -/

/-- A wait ends at most a capture of the thread's own. -/
theorem endCapture_cases (s : State) (t : Thread) :
    endCapture s t = s ∨ endCapture s t = modPart s t.core t.part fun p => { p with loop := .idle } := by
  unfold endCapture
  split
  · exact (ite_eq_or_eq _ _ _).symm
  · exact .inl rfl

theorem endCapture_idle {s : State} {t : Thread} (h : (getPart s t.core t.part).loop = .idle) : endCapture s t = s := by
  simp only [endCapture, h]

theorem packetsOnly_endCapture (s : State) (t : Thread) : PacketsOnly s (endCapture s t) := by
  rcases endCapture_cases s t with h | h <;> rw [h]
  · exact .refl s
  · exact packetsOnly_modPart _ _ _ _

theorem namedCommand_endCapture (s : State) (t : Thread) (a : Word) :
    namedCommand (getPart (endCapture s t) t.core t.part) a = namedCommand (getPart s t.core t.part) a := by
  rcases endCapture_cases s t with h | h <;> rw [h]
  rw [getPart_modPart]
  rfl

/-- R224: the revised promise, from the thread's own context and core. -/
theorem missPromise_trapped {s : State} {t : Thread} {x : Ctx} {n : Nat} (hx : getCtx s t.ctx = some x) (hv : x.tvec = some n)
    (e : QEntry) (v : Nat) :
    Trapped s (missPromise s t e v) t n 2 (revisedPromise s t e v) (BitVec.ofNat 14 (t.pc.toNat + 4)) :=
  takeTrap_trapped hx hv (by decide) _ _

section Waitt

variable {s : State} {t : Thread} {x : Ctx} {e : QEntry} {g : BitVec 5} {a : BitVec 4}

/-- R202, R223: on a word that names no unfinished command WAITT ends a capture and steps. -/
theorem exec_waitt_none (hi : Issues s t g) (hn : namedCommand (getPart s t.core t.part) (t.reg a) = none) :
    exec (.waitt g a) s = .next (retire (endCapture s t) t) := by
  have hexec : exec (.waitt g a) s = execWaitt g a s := rfl
  simp only [hexec, execWaitt, hi.scalar_eq, namedCommand_endCapture, hn]

/-- R223, R224: what WAITT does on a word that names a command. -/
theorem exec_waitt_some (hi : Issues s t g) (hx : getCtx s t.ctx = some x) (hn : namedCommand (getPart s t.core t.part) (t.reg a) = some e)
    (hl : (getPart s t.core t.part).loop = .idle) :
    exec (.waitt g a) s = .next (
      if (t.reg a).getLsbD 63 || t.inTrap || x.det then wait s t (.until (.cmdDone e.seq none))
      else if (t.reg a).toNat % 2 ^ 56 < vtimeOf s x then missPromise s t e (vtimeOf s x)
      else post (wait s { t with op := t.op + 1 } (.until (.cmdDone e.seq (some ((t.reg a).toNat % 2 ^ 56)))))
        (s.cycle + ((t.reg a).toNat % 2 ^ 56 + 1 - vtimeOf s x)) 0 .promiseMissed (.op t.id (t.op + 1))) := by
  have hexec : exec (.waitt g a) s = execWaitt g a s := rfl
  simp only [hexec, execWaitt, hi.scalar_eq, endCapture_idle hl, hn, hx]

end Waitt

/-- R224: a wait for a promise whose cycle has passed ends in the trap. -/
theorem exec_promiseMissed_late {s : State} {t : Thread} {x : Ctx} {e : QEntry} {vt : Nat} (hf : s.focus = .op t.id t.op)
    (ht : getThread s t.id = some t) (hx : getCtx s t.ctx = some x) (hw : t.wait = .until (.cmdDone e.seq (some vt)))
    (he : ((getPart s t.core t.part).queue.find? fun y => y.seq == e.seq) = some e) (hlt : vt < vtimeOf s x) :
    exec .promiseMissed s = .next (missPromise s t e (vtimeOf s x - 1)) := by
  have hexec : exec .promiseMissed s = execPromiseMissed s := rfl
  simp only [hexec, execPromiseMissed, hf, ht, hw, hx, he, ne_eq, not_true_eq_false, if_false, if_neg (Nat.not_le.2 hlt)]

theorem exec_tstat_eq {s : State} {t : Thread} {g : BitVec 5} (hi : Issues s t g) (d : BitVec 4) :
    exec (.tstat g d) s = .next (retireReg (setPart s t.core t.part { getPart s t.core t.part with
        sticky := if (getPart s t.core t.part).newAt = s.cycle then (getPart s t.core t.part).newFlags else 0 }) t d
      (BitVec.ofNat 64 ((getPart s t.core t.part).mark.toNat % 2 ^ 32 * 2 ^ 32 + (tstatWord s t.core t.part).toNat % 2 ^ 32))) := by
  have hexec : exec (.tstat g d) s = execTstat g d s := rfl
  rw [hexec, execTstat, hi.scalar_eq]

theorem promisesAndStatus : PromisesAndStatus := by
  intro s t x e g a d ha hx p vt v k revised waits
  refine ⟨fun hi => ⟨fun hn => ?_, fun hn hl => ?_, ?_⟩, fun n vt' hf ht hw he hv hlt => ?_⟩
  · have hcapture := packetsOnly_endCapture s t
    have ha' := hcapture.ahead ha
    have h := hcapture.touches (touches_setThread _ t (stepped t) rfl)
    exact ⟨_, exec_waitt_none hi hn, by rw [ha'.retire_eq]; exact h.this, by rw [ha'.retire_eq]; exact h.others,
      by rw [ha'.retire_eq]; exact h.quiet⟩
  · have hexec := exec_waitt_some hi hx hn hl
    refine ⟨fun h => ?_, fun hticket htrap hdet => ?_⟩
    · have hwaits : ((t.reg a).getLsbD 63 || t.inTrap || x.det) = true := by
        simpa only [Bool.or_eq_true, Thread.inTrap, bne_iff_ne, or_assoc] using h
      rw [if_pos hwaits] at hexec
      exact ⟨_, hexec, _, getThread_setThread _ _, rfl, rfl, ⟨rfl, rfl, rfl, rfl, rfl, rfl, rfl⟩,
        fun k hk => getThread_setThread_other _ _ _ hk, rfl⟩
    · have hwaits : ¬((t.reg a).getLsbD 63 || t.inTrap || x.det) = true := by
        rw [hticket, Thread.inTrap, htrap, hdet]; decide
      rw [if_neg hwaits] at hexec
      refine ⟨fun hle => ?_, fun n hlt hv => ?_⟩
      · rw [if_neg (Nat.not_lt.2 hle)] at hexec
        refine ⟨_, hexec, ⟨_, getThread_setThread _ _, rfl, rfl, ⟨rfl, rfl, rfl, rfl, rfl, rfl, rfl⟩,
          fun k hk => getThread_setThread_other _ _ _ hk, rfl⟩, ?_⟩
        exact post_sends _ _ _ _ (Nat.le_add_right _ _)
      · rw [if_pos hlt] at hexec
        exact ⟨_, hexec, missPromise_trapped hx hv e v⟩
  · have ha' : Ahead (setPart s t.core t.part { p with sticky := if p.newAt = s.cycle then p.newFlags else 0 }) t := ha
    refine ⟨_, _, exec_tstat_eq hi d, by rw [ha'.retireReg_eq]; exact getThread_setThread _ _, ?_, ?_, rfl, rfl, ?_⟩
    all_goals rw [ha'.retireReg_eq]
    · exact fun k hk => getThread_setThread_other _ _ _ hk
    · exact .refl s
    · rw [getPart_setThread, getPart_setPart]
  · exact ⟨_, exec_promiseMissed_late hf ht hx hw he hlt, missPromise_trapped hx hv e _⟩

/-- Settles O32: a handle advances or the advance is refused (`exec_adv_eq`), its operands are good or not (`handleOperands_iff`); WAITT and
PROMISE_MISSED end in the trap with the revised promise (`missPromise_trapped`). -/
theorem tileHandles : Obligations.TileHandles := ⟨handleInstructions, promisesAndStatus⟩

end Sys2Proof.Safety
end

section
/-! SUPPORT. Two commands alone in their queue, against O33 and O34: a VAND whose second input has no format, and an entry whose word is not the
command that starts. -/

namespace Sys2Proof.Safety

open Sys2Proof Sys2Proof.Machine

/-- The only command in a queue, with word `w`. -/
def loneEntry (w : BitVec 256) : QEntry := { seq := 0, tid := 1, pc := 0, word := w }

/-- A READY device with that entry in the queue of core 0, where handle 0 has two slots of 1,024 bytes and no other handle is defined. -/
def loneState (w : BitVec 256) : State :=
  { fetchBase State.reset with
    focus := .part 0 0
    parts := [(0, { owner := 1, queue := [loneEntry w], seqCtr := 1, handles := [(0, { base := 0x800, size := 1024, n := 2 })] })] }

theorem loneEntry_atHead {op : Nat} {c : Tcw} (w : BitVec 256)
    (h : ∀ k ∈ Machine.tileHandles op c, (getHandle (getPart (loneState w) 0 0) k).n ≠ 0) : AtHead (loneState w) 0 0 op c (loneEntry w) :=
  ⟨rfl, rfl, rfl, h⟩

/-- A field of the entries in the queue of core 0 after a step. -/
def entriesAfter {α : Type} (field : QEntry → α) (r : Res) : List α :=
  match r with
  | .next s => (getPart s 0 0).queue.map field
  | _ => []

/-- The one entry of the queue after a command has begun. -/
theorem entriesAfter_begun {α : Type} (field : QEntry → α) {w : BitVec 256} {op : Nat} {c : Tcw} {s' : State} {e' : QEntry}
    (h : Begun (loneState w) s' 0 0 op c (loneEntry w) e') : entriesAfter field (.next s') = [field e'] := by
  obtain ⟨hqueue, -⟩ := h
  exact congrArg (List.map field) hqueue

/-! ### A tile without a format -/

/-- A VAND of 64 int8 elements whose second input has format code 0, which names no format: its elements take no bytes (R35). -/
def formatless : Tcw := { tcwOf 0 with fmtA := 8, fmtOut := 8, count := 1 }

theorem formatless_form : vecForm (.vand formatless) = some (0x3D, formatless, 64, 0, 0, 64, 1) := rfl

theorem formatless_tile : TileIn (loneState 0) 0 0 0 formatless.hA.toNat 64 (memRead [] 0x800 64) := ⟨by decide, by decide, rfl, rfl⟩

theorem formatless_fits : 64 ≤ (getHandle (getPart (loneState 0) 0 0) formatless.dst.toNat).size := by decide

/-- The command pairs the bytes of its first input with none. -/
theorem formatless_empty : entriesAfter (·.outBytes.map (·.2.length)) (exec (.vand formatless) (loneState 0)) = [[0]] := by decide +kernel

/-- Refutes O33: its clauses on bits ask for format int8 of the second input only where that input has bytes, and where its format code names
no format it has none; VAND then writes nothing, where the clause wants 64 bytes. (Such a command is illegal, R84, and enters no queue.) -/
theorem not_vectorUnit : ¬Obligations.VectorUnit := by
  unfold Obligations.VectorUnit
  intro ⟨_, hbits⟩
  obtain ⟨hand, -⟩ := hbits (loneState 0) 0 0 0x3D 64 0 0 64 1 (.vand formatless) formatless (loneEntry 0) (memRead [] 0x800 64) [] []
    formatless_form (loneEntry_atHead 0 (by decide)) formatless_tile (fun h => absurd rfl h) (fun h => absurd rfl h) formatless_fits rfl rfl
    (fun h => absurd rfl h)
  obtain ⟨s', e', hexec, hbegun, hout⟩ := hand rfl
  have hlength := entriesAfter_begun (·.outBytes.map (·.2.length)) hbegun
  rw [← hexec, formatless_empty, hout] at hlength
  simp only [List.map_cons, List.map_nil, List.length_map, List.length_range] at hlength
  exact absurd hlength (by decide)

/-! ### A word that is another command's -/

/-- The fields of an ACST of accumulator 0 in int8 to the slots of handle 0 (R209). -/
def storeFields : Tcw := { tcwOf 0 with fmtOut := 8 }

/-- The word of an ACST to the slots of handle 1. -/
def otherStore : BitVec 256 := packTcw 0x22 { storeFields with dst := 1 }

theorem otherStore_unblocked : blocked (getPart (loneState otherStore) 0 0).queue (loneEntry otherStore) = false := by decide

theorem storeFields_fit :
    tileBytes storeFields.fmtOut.toNat 1024 ≤ (getHandle (getPart (loneState otherStore) 0 0) storeFields.dst.toNat).size := by decide

/-- The ACST looks for room at handle 1, finds none, and is never done. -/
theorem otherStore_unfinished : entriesAfter (·.finish) (exec (.acst storeFields) (loneState otherStore)) = [none] := by decide

/-- Refutes O34: the clause on ACST speaks of the fields that the instruction carries, and the model converts by those of the entry's word
(`acstWork`), which `AtHead` leaves open; here they name an output handle without slots, and the command faults where the clause wants it to
run 64 cycles. (A step decodes the instruction from that very word, so that the two agree there.) -/
theorem not_matrixArray : ¬Obligations.MatrixArray := by
  unfold Obligations.MatrixArray
  intro ⟨hcommands, _⟩
  obtain ⟨-, -, -, -, hstore, -⟩ := hcommands (loneState otherStore) 0 0 storeFields (loneEntry otherStore) [] []
  obtain ⟨s', e', bs, hexec, hbegun, -, -, hruns⟩ :=
    (hstore (loneEntry_atHead otherStore (by decide))).2 otherStore_unblocked storeFields_fit
  obtain ⟨hfinish, -⟩ := hruns
  have htimes := entriesAfter_begun (·.finish) hbegun
  rw [← hexec, otherStore_unfinished, hfinish] at htimes
  cases htimes

end Sys2Proof.Safety
end

section
/-! SUPPORT. How a tile command starts (R194, R196, R199): what the claim of its slots leaves as it was, what it then reads, and how it
runs for its time. -/

namespace Sys2Proof.Safety

open Sys2Proof Sys2Proof.Machine

/-! ### What a command reads does not depend on claims -/

/-- Beside packets, only what partitions keep has changed, and not who owns them. -/
structure OwnersKept (s s' : State) : Prop where
  packets : PacketsOnly s s'
  owner : ∀ c q, (getPart s' c q).owner = (getPart s c q).owner

theorem OwnersKept.trans {s s' s'' : State} (h : OwnersKept s s') (h' : OwnersKept s' s'') : OwnersKept s s'' :=
  ⟨h.packets.trans h'.packets, fun c q => (h'.owner c q).trans (h.owner c q)⟩

theorem ownersKept_setPart {s : State} {core p : Nat} {x : Part} (hx : x.owner = (getPart s core p).owner) :
    OwnersKept s (setPart s core p x) := by
  refine ⟨packetsOnly_setPart _ _ _ _, fun c q => ?_⟩
  by_cases hk : partKey c q = partKey core p
  · rw [show getPart (setPart s core p x) c q = x by rw [getPart, hk]; exact getPart_setPart s core p x, hx]
    simp only [getPart, hk]
  · rw [getPart_setPart_other _ _ _ _ _ _ hk]

theorem ownersKept_setCore (s : State) (core : Nat) (x : CoreSt) : OwnersKept s (setCore s core x) :=
  ⟨packetsOnly_setCore _ _ _, fun _ _ => rfl⟩

theorem ownersKept_modEntry (s : State) (core p seq : Nat) (f : QEntry → QEntry) : OwnersKept s (modEntry s core p seq f) :=
  ownersKept_setPart rfl

section Reads

variable {s s' : State}

theorem PacketsOnly.poison (h : PacketsOnly s s') : s'.poison = s.poison := by
  obtain ⟨-, hpoison, -⟩ := h.quiet
  exact hpoison

theorem PacketsOnly.ctxs (h : PacketsOnly s s') : s'.ctxs = s.ctxs := by
  obtain ⟨-, -, hctxs, -⟩ := h.quiet
  exact hctxs

theorem PacketsOnly.getCtx (h : PacketsOnly s s') (ctx : Nat) : getCtx s' ctx = getCtx s ctx := by
  simp only [Machine.getCtx, h.ctxs]

theorem PacketsOnly.poisoned (h : PacketsOnly s s') (k n : Nat) : poisoned s' k n = poisoned s k n := by
  simp only [Machine.poisoned, h.poison]

theorem PacketsOnly.viewSize (h : PacketsOnly s s') (core : Nat) : viewSize s' core = viewSize s core := by
  simp only [Machine.viewSize, partCount_congr h.sets]

theorem PacketsOnly.viewBase (h : PacketsOnly s s') (core p : Nat) : viewBase s' core p = viewBase s core p := by
  simp only [Machine.viewBase, h.viewSize]

theorem PacketsOnly.sliceSize (h : PacketsOnly s s') (core : Nat) : sliceSize s' core = sliceSize s core := by
  simp only [Machine.sliceSize, partCount_congr h.sets]

theorem PacketsOnly.inHandles (h : PacketsOnly s s') (core p n : Nat) : inHandles s' core p n = inHandles s core p n := by
  have hcount : handleCount s' core = handleCount s core := by simp only [handleCount, partCount_congr h.sets]
  simp only [Machine.inHandles, hcount]

theorem PacketsOnly.inFabric (h : PacketsOnly s s') (d : Nat) : inFabric s' d = inFabric s d := by
  obtain ⟨-, -, -, -, hdev, -⟩ := h.quiet
  have hgroups : s'.dev.groups = s.dev.groups := by rw [← hdev]
  simp only [Machine.inFabric, h.dev_id, hgroups]

theorem OwnersKept.holds (h : OwnersKept s s') (ctx core p : Nat) : holds s' ctx core p = holds s ctx core p := by
  simp only [Machine.holds, partCount_congr h.packets.sets, h.owner]

theorem OwnersKept.holdsRegion (h : OwnersKept s s') (ctx g : Nat) : holdsRegion s' ctx g = holdsRegion s ctx g := by
  simp only [Machine.holdsRegion, h.packets.getCtx, h.holds]

theorem OwnersKept.viewHome (h : OwnersKept s s') (ctx core p off : Nat) : viewHome s' ctx core p off = viewHome s ctx core p off := by
  simp only [Machine.viewHome, h.holds, h.packets.viewSize, h.packets.viewBase]

theorem OwnersKept.homeOf (h : OwnersKept s s') (ctx core p da : Nat) : homeOf s' ctx core p da = homeOf s ctx core p da := by
  simp only [Machine.homeOf, h.viewHome, h.holds, h.holdsRegion, sliceBase, h.packets.sliceSize, h.packets.getCtx, h.packets.inFabric]
  rfl

theorem OwnersKept.tileAddr (h : OwnersKept s s') (core p : Nat) (dev : Bool) (q : Word) (off n align : Nat) (need : Rights) :
    tileAddr s' core p dev q off n align need = tileAddr s core p dev q off n align need := by
  simp only [Machine.tileAddr, h.owner, h.packets.getCtx, h.homeOf]

theorem OwnersKept.inWindow (h : OwnersKept s s') (core p da : Nat) : inWindow s' core p da = inWindow s core p da := by
  simp only [Machine.inWindow, h.owner, h.homeOf, h.packets.viewBase]

end Reads

/-! ### The claim of the slots (R199) -/

/-- An update of the handles in a list, each once. -/
theorem tblGet_foldl_tblSet {l : List Nat} (hl : l.Nodup) (f : Handle → Handle) (t : List (Nat × Handle)) (h : Nat) :
    tblGet {} (l.foldl (fun t i => tblSet t i (f (tblGet {} t i))) t) h = if h ∈ l then f (tblGet {} t h) else tblGet {} t h := by
  induction l generalizing t with
  | nil => rfl
  | cons a l ih =>
    obtain ⟨ha, hl⟩ := List.nodup_cons.1 hl
    rw [List.foldl_cons, ih hl]
    by_cases hk : h = a
    · subst hk
      rw [if_neg ha, if_pos List.mem_cons_self, tblGet_tblSet_same]
    · rw [tblGet_tblSet_other _ _ _ _ _ hk]
      simp only [List.mem_cons, hk, false_or]

theorem eraseDups_nodup (l : List Nat) : l.eraseDups.Nodup := by
  match l with
  | [] => exact List.nodup_nil
  | a :: l =>
    rw [List.eraseDups_cons]
    exact List.nodup_cons.2 ⟨by simp, eraseDups_nodup _⟩
termination_by l.length
decreasing_by exact Nat.lt_succ_of_le (List.length_filter_le _ _)

theorem tileIns_nodup (op : Nat) (c : Tcw) : (tileIns op c).Nodup := eraseDups_nodup _

theorem optionToList_nodup (o : Option Nat) : o.toList.Nodup := by cases o <;> simp

/-- The entry with its slots claimed (R197, R199). -/
def claimedEntry (s : State) (core p op : Nat) (c : Tcw) (e : QEntry) : QEntry := (claimSlots s core p e op c).2

/-- The state `s1` in which the body of a starting command runs, its entry being `e1`. -/
structure Engaged (s s1 : State) (core p op : Nat) (c : Tcw) (e e1 : QEntry) : Prop where
  begun : Begun s s1 core p op c e e1
  kept : OwnersKept s s1
  part : ∃ q h, getPart s1 core p = { getPart s core p with queue := q, handles := h }
  copies : (getCore s1 core).copies = (getCore s core).copies

/-- The body of a command at the head of its queue runs once its slots are claimed. -/
theorem AtHead.starts {s : State} {core p op : Nat} {c : Tcw} {e : QEntry} (h : AtHead s core p op c e) :
    ∃ s1, Engaged s s1 core p op c e (claimedEntry s core p op c e) ∧ s1.pend = s.pend
      ∧ ∀ body, tile op c s body = .next (body s1 core p (claimedEntry s core p op c e)) := by
  obtain ⟨hfocus, hhead, -, hdef⟩ := h
  have hall : ((Machine.tileHandles op c).any fun h => (getHandle (getPart s core p) h).n == 0) = false := by
    simpa only [List.any_eq_false, beq_iff_eq] using hdef
  refine ⟨(claimSlots (passTurn s core p (tileUnit op)) core p e op c).1, ⟨⟨?_, rfl, rfl, rfl, rfl, rfl, rfl, fun k => ?_⟩, ?_, ?_, ?_⟩, rfl,
    fun body => ?_⟩
  · rw [claimSlots, getPart_setPart]; rfl
  · rw [claimSlots, getPart_setPart, getHandle]
    dsimp only
    rw [tblGet_foldl_tblSet (optionToList_nodup _) (fun x => { x with pe := (x.pe + c.wout.toNat) % 65536 }),
      tblGet_foldl_tblSet (tileIns_nodup op c) (fun x => { x with ce := (x.ce + c.win.toNat) % 65536 })]
    simp only [Option.mem_toList]
    have hpart : getPart (passTurn s core p (tileUnit op)) core p = getPart s core p := rfl
    rw [hpart]
    by_cases hin : k ∈ tileIns op c <;> by_cases hout : tileOut op c = some k <;> simp only [hin, hout, if_true, if_false] <;> rfl
  · exact (ownersKept_setCore _ _ _).trans (ownersKept_setPart rfl)
  · exact ⟨_, _, getPart_setPart _ _ _ _⟩
  · have hcore : getCore (passTurn s core p (tileUnit op)) core = _ := getCore_setCore _ _ _
    exact (congrArg CoreSt.copies hcore :)
  · simp only [tile, hfocus, hhead, hall, Bool.false_eq_true, if_false]
    rfl

/-! ### What follows the claim -/

section Follows

variable {s s1 s2 : State} {core p op : Nat} {c : Tcw} {e e1 : QEntry}

/-- A change of the partition's queue and of no handle. -/
theorem Begun.update (h : Begun s s1 core p op c e e1) {e2 : QEntry}
    (hqueue : (getPart s2 core p).queue = (getPart s1 core p).queue.map fun x => if x.seq = e.seq then e2 else x)
    (hseq : e2.seq = e1.seq) (hstart : e2.started = e1.started) (hword : e2.word = e1.word)
    (hhandles : (getPart s2 core p).handles = (getPart s1 core p).handles) (hmem : s2.mem = s1.mem) (hthreads : s2.threads = s1.threads)
    (hctxs : s2.ctxs = s1.ctxs) : Begun s s2 core p op c e e2 := by
  obtain ⟨hq, hs, ht, hw, hm, hth, hc, hh⟩ := h
  refine ⟨?_, hseq.trans hs, hstart.trans ht, hword.trans hw, hmem.trans hm, hthreads.trans hth, hctxs.trans hc, fun k => ?_⟩
  · rw [hqueue, hq, List.map_map]
    refine List.map_congr_left fun x _ => ?_
    by_cases hx : x.seq = e.seq <;> simp [hx, hs]
  · rw [getHandle, hhandles]
    exact hh k

theorem Begun.modEntry (h : Begun s s1 core p op c e e1) {f : QEntry → QEntry} (hseq : (f e1).seq = e1.seq)
    (hstart : (f e1).started = e1.started) (hword : (f e1).word = e1.word) :
    Begun s (modEntry s1 core p e.seq f) core p op c e (f e1) := by
  refine h.update ?_ hseq hstart hword ?_ rfl rfl rfl <;> rw [Machine.modEntry, getPart_modPart]
  obtain ⟨hq, hs, -⟩ := h
  rw [hq, List.map_map, List.map_map]
  refine List.map_congr_left fun x _ => ?_
  by_cases hx : x.seq = e.seq <;> simp [hx, hs]

/-- What touches neither the partition's queue and handles nor memory, threads and contexts. -/
theorem Begun.after (h : Begun s s1 core p op c e e1) (hqueue : (getPart s2 core p).queue = (getPart s1 core p).queue)
    (hhandles : (getPart s2 core p).handles = (getPart s1 core p).handles) (hmem : s2.mem = s1.mem) (hthreads : s2.threads = s1.threads)
    (hctxs : s2.ctxs = s1.ctxs) : Begun s s2 core p op c e e1 := by
  obtain ⟨hq, hs, -⟩ := id h
  refine h.update ?_ rfl rfl rfl hhandles hmem hthreads hctxs
  rw [hqueue, hq, List.map_map]
  refine List.map_congr_left fun x _ => ?_
  by_cases hx : x.seq = e.seq <;> simp [hx, hs]

theorem Begun.posted (h : Begun s s1 core p op c e e1) (hp : Posted s1 s2) : Begun s s2 core p op c e e1 :=
  h.after (by rw [hp.getPart]) (by rw [hp.getPart]) hp.packets.mem hp.packets.threads hp.packets.ctxs

theorem Engaged.modEntry (h : Engaged s s1 core p op c e e1) {f : QEntry → QEntry} (hseq : (f e1).seq = e1.seq)
    (hstart : (f e1).started = e1.started) (hword : (f e1).word = e1.word) :
    Engaged s (modEntry s1 core p e.seq f) core p op c e (f e1) where
  begun := h.begun.modEntry hseq hstart hword
  kept := h.kept.trans (ownersKept_modEntry _ _ _ _ _)
  part := by
    obtain ⟨q, k, hp⟩ := h.part
    rw [Machine.modEntry, getPart_modPart, hp]
    exact ⟨_, _, rfl⟩
  copies := h.copies

/-! ### Running (R208, R209, R213, R360) -/

/-- The entry of a command that runs until a given cycle. -/
def runningTo (f : Nat) (e : QEntry) : QEntry := { e with finish := some f, cost := 0 }

theorem stretch_full {s : State} {core : Nat} (h : (getRegion s (regionOf core)).clock = 1300) (n : Nat) : stretch s core n = n := by
  rw [stretch, h]
  show (n * 1300 + 1300 - 1) / 1300 = n
  omega

theorem getPart_finishAt (s : State) (core p seq unit n d c q : Nat) :
    getPart (finishAt s core p seq unit n d) c q = getPart (modEntry s core p seq fun e =>
      { e with finish := some (s.cycle + stretch s core n + stretch s core d), cost := 0 }) c q := by
  dsimp only [finishAt]
  split <;> rfl

theorem finishAt_frame (s : State) (core p seq unit n d : Nat) :
    (finishAt s core p seq unit n d).mem = s.mem ∧ (finishAt s core p seq unit n d).threads = s.threads
      ∧ (finishAt s core p seq unit n d).ctxs = s.ctxs := by
  dsimp only [finishAt]
  split <;> exact ⟨rfl, rfl, rfl⟩

/-- The event of the completion is put on the list, and the unit is taken until the cost has run. -/
theorem finishAt_sets (s : State) (core p seq unit n d : Nat) :
    let s' := finishAt s core p seq unit n d
    let f := s.cycle + stretch s core n + stretch s core d
    (∃ q ∈ s'.pend, q.what = .tileCommandComplete ∧ q.who = .cmd core p seq ∧ q.due = f)
      ∧ (stretch s core n ≠ 0 → (unit = 1 → (getCore s' core).matrixBusy = s.cycle + stretch s core n)
        ∧ (unit = 2 → (getCore s' core).vectorBusy = s.cycle + stretch s core n)) := by
  intro s' f
  refine ⟨⟨_, List.mem_append_right _ (List.mem_singleton_self _), rfl, rfl, rfl⟩, fun hn => ?_⟩
  have hcores : getCore s' core = (fun x : CoreSt => if unit = 1 then { x with matrixBusy := s.cycle + stretch s core n }
      else if unit = 2 then { x with vectorBusy := s.cycle + stretch s core n } else x) (getCore s core) := by
    dsimp only [s', finishAt]
    rw [if_neg hn]
    exact getCore_setCore _ _ _
  rw [hcores]
  exact ⟨fun hu => by simp only [hu, if_true], fun hu => by simp only [hu, Nat.succ_ne_self, if_true, if_false]⟩

/-- A command whose work is done runs its cycles and completes after its drain. -/
theorem Begun.runs (h : Begun s s1 core p op c e e1) (hcycle : s1.cycle = s.cycle) (hclock : (getRegion s1 (regionOf core)).clock = 1300)
    (unit n d : Nat) : Begun s (finishAt s1 core p e.seq unit n d) core p op c e (runningTo (s.cycle + n + d) e1)
      ∧ RunsFor s (finishAt s1 core p e.seq unit n d) core p unit n d (runningTo (s.cycle + n + d) e1) := by
  obtain ⟨hmem, hthreads, hctxs⟩ := finishAt_frame s1 core p e.seq unit n d
  obtain ⟨hpost, hbusy⟩ := finishAt_sets s1 core p e.seq unit n d
  have hpart := getPart_finishAt s1 core p e.seq unit n d core p
  rw [stretch_full hclock, hcycle] at hbusy
  rw [stretch_full hclock, stretch_full hclock, hcycle] at hpost hpart
  obtain ⟨-, hseq, -⟩ := id h
  refine ⟨?_, rfl, ?_, fun hu hn => (hbusy hn).1 hu, fun hu hn => (hbusy hn).2 hu⟩
  · exact (h.modEntry (f := runningTo (s.cycle + n + d)) rfl rfl rfl).after (by rw [hpart]; rfl) (by rw [hpart]; rfl) hmem hthreads hctxs
  · rw [show (runningTo (s.cycle + n + d) e1).seq = e.seq from hseq]
    exact hpost

theorem Engaged.runs (h : Engaged s s1 core p op c e e1) (hclock : (getRegion s (regionOf core)).clock = 1300) (unit n d : Nat) :
    Begun s (finishAt s1 core p e.seq unit n d) core p op c e (runningTo (s.cycle + n + d) e1)
      ∧ RunsFor s (finishAt s1 core p e.seq unit n d) core p unit n d (runningTo (s.cycle + n + d) e1) :=
  h.begun.runs h.kept.packets.cycle (by rw [h.kept.packets.getRegion]; exact hclock) unit n d

end Follows

end Sys2Proof.Safety
end

section
/-! SUPPORT. TNOP, RNGK, TMARK, QTLD, TSIG and the copy family start (R195, R199, R214 to R219, R226, R227), and O35. -/

namespace Sys2Proof.Safety

open Sys2Proof Sys2Proof.Machine

/-! ### Commands that complete at once -/

theorem modEntry_keeps {α : Type} (field : Part → α) (s : State) (core p seq : Nat) (f : QEntry → QEntry)
    (hf : ∀ x q, field { x with queue := q } = field x := by exact fun _ _ => rfl) :
    field (getPart (modEntry s core p seq f) core p) = field (getPart s core p) := modPart_keeps field s core p fun x => hf x _

theorem finishAt_keeps {α : Type} (field : Part → α) (s : State) (core p seq unit n d : Nat)
    (hf : ∀ x q, field { x with queue := q } = field x := by exact fun _ _ => rfl) :
    field (getPart (finishAt s core p seq unit n d) core p) = field (getPart s core p) := by
  rw [getPart_finishAt, modEntry_keeps field _ _ _ _ _ hf]

theorem Engaged.part_keeps {s s1 : State} {core p op : Nat} {c : Tcw} {e e1 : QEntry} (h : Engaged s s1 core p op c e e1) {α : Type}
    (field : Part → α) (hf : ∀ x q k, field { x with queue := q, handles := k } = field x := by exact fun _ _ _ => rfl) :
    field (getPart s1 core p) = field (getPart s core p) := by
  obtain ⟨q, k, hp⟩ := h.part
  rw [hp, hf]

/-- A command without work of its own. -/
theorem AtHead.idle_runs {s : State} {core p op : Nat} {c : Tcw} {e : QEntry} (h : AtHead s core p op c e) :
    ∃ s' e', tile op c s (fun s core p e => finishAt s core p e.seq 0 0 0) = .next s' ∧ Begun s s' core p op c e e'
      ∧ RunsFor s s' core p 0 0 0 e' ∧ (getPart s' core p).mark = (getPart s core p).mark := by
  obtain ⟨s1, hs1, -, htile⟩ := h.starts
  obtain ⟨-, -, hclock, -⟩ := h
  obtain ⟨hbegun, hruns⟩ := hs1.runs hclock 0 0 0
  exact ⟨_, _, htile _, hbegun, hruns, (finishAt_keeps (·.mark) _ _ _ _ _ _ _).trans (hs1.part_keeps (·.mark))⟩

/-- R227: TMARK leaves its mark. -/
theorem AtHead.tmark_runs {s : State} {core p : Nat} {c : Tcw} {e : QEntry} (h : AtHead s core p 0x71 c e) :
    ∃ s' e', exec (.tmark c) s = .next s' ∧ Begun s s' core p 0x71 c e e' ∧ RunsFor s s' core p 0 0 0 e' ∧ (getPart s' core p).mark = c.q1 := by
  obtain ⟨s1, hs1, -, htile⟩ := h.starts
  obtain ⟨-, -, hclock, -⟩ := h
  have hexec : exec (.tmark c) s = execTmark c s := rfl
  have hpart := getPart_modPart s1 core p fun x => { x with mark := c.q1 }
  have hbegun2 := hs1.begun.after (s2 := modPart s1 core p fun x => { x with mark := c.q1 }) (by rw [hpart]) (by rw [hpart]) rfl rfl rfl
  obtain ⟨hbegun, hruns⟩ := hbegun2.runs hs1.kept.packets.cycle (by rw [← hclock]; exact congrArg _ (hs1.kept.packets.getRegion _)) 0 0 0
  exact ⟨_, _, hexec.trans (htile _), hbegun, hruns, (finishAt_keeps (·.mark) _ _ _ _ _ _ _).trans (by rw [hpart])⟩

/-! ### The copy family (R216 to R219) -/

theorem OwnersKept.copyIndex {s s' : State} (h : OwnersKept s s') (core p op : Nat) (c : Tcw) :
    copyIndex s' core p op c = copyIndex s core p op c := by
  have hlist (off n : Nat) : indexList s' core p off n = indexList s core p off n := by
    simp only [indexList, h.packets.viewBase, h.packets.viewSize, h.packets.poisoned, h.packets.mem]
  have htargets (ctx da wx wy : Nat) : mcastTargets s' ctx da wx wy = mcastTargets s ctx da wx wy := by
    simp only [mcastTargets, h.packets.getCtx]
  simp only [Machine.copyIndex, hlist, htargets, h.tileAddr, h.owner]

/-- What an update of a core leaves as it was, on every core. -/
theorem modCore_keeps {α : Type} (field : CoreSt → α) (s : State) (k core : Nat) {f : CoreSt → CoreSt}
    (hf : ∀ x, field (f x) = field x := by exact fun _ => rfl) : field (getCore (modCore s k f) core) = field (getCore s core) := by
  by_cases hk : core = k
  · subst hk
    rw [modCore, getCore_setCore, hf]
  · rw [modCore, getCore_setCore_other _ _ _ _ hk]

theorem posted_modCore (s : State) (core : Nat) (f : CoreSt → CoreSt) : Posted s (modCore s core f) := ⟨packetsOnly_setCore _ _ _, rfl⟩

/-- A copy takes a comparator on the core of its first source row (R131). -/
def takeComparator (s : State) (core p op : Nat) (c : Tcw) (e : QEntry) : State :=
  match shadowCore s core p op c e with
  | some k =>
    match unreadRange s core p op c e k 0 0 with
    | some (lo, hi) => modCore s k fun x => { x with shadows := x.shadows ++ [⟨core, p, e.seq, lo, hi, []⟩] }
    | none => s
  | none => s

theorem takeComparator_keeps (s : State) (core p op : Nat) (c : Tcw) (e : QEntry) : Posted s (takeComparator s core p op c e)
    ∧ (getCore (takeComparator s core p op c e) core).copies = (getCore s core).copies := by
  unfold takeComparator
  split
  · split
    · exact ⟨posted_modCore _ _ _, modCore_keeps (·.copies) _ _ _⟩
    · exact ⟨.refl s, rfl⟩
  · exact ⟨.refl s, rfl⟩

/-- A copy takes an engine, with the entries `idx` of its index list, and a comparator; its first line follows. -/
def engageCopy (s : State) (core p op : Nat) (c : Tcw) (e : QEntry) (idx : List Nat) : State :=
  let s1 := modCore (modEntry s core p e.seq fun x => { x with idx := idx, allRead := false }) core fun x => { x with copies := x.copies + 1 }
  let s2 := takeComparator s1 core p op c { e with idx := idx, allRead := false }
  post s2 s2.cycle 0 .copyShadowRelease (.cmd core p e.seq)

theorem copyOp_eq {s s1 : State} {core p op : Nat} {c : Tcw} {e : QEntry} {idx : List Nat} (hf : copyFieldsOk op c = true)
    (hi : copyIndex s1 core p op c = some idx) (h : ∀ body, tile op c s body = .next (body s1 core p e)) :
    copyOp op c s = .next (engageCopy s1 core p op c e idx) := by
  rw [copyOp, h]
  simp only [hi, hf, Bool.not_true, Bool.false_eq_true, if_false]
  rfl

/-- A copy whose fields are good holds an engine and goes on to its first line. -/
theorem AtHead.copy_starts {s : State} {core p op : Nat} {c : Tcw} {e : QEntry} (h : AtHead s core p op c e)
    (hf : copyFieldsOk op c = true) {l : List Nat} (hl : copyIndex s core p op c = some l) :
    ∃ s' e', copyOp op c s = .next s' ∧ Begun s s' core p op c e e' ∧ e'.idx = l ∧ e'.allRead = false ∧ e'.next = e.next
      ∧ (getCore s' core).copies = (getCore s core).copies + 1
      ∧ ∃ q ∈ s'.pend, q.what = .copyShadowRelease ∧ q.who = .cmd core p e.seq ∧ q.due = s.cycle := by
  obtain ⟨s1, hs1, -, htile⟩ := h.starts
  have hbegun := hs1.begun.modEntry (f := fun x => { x with idx := l, allRead := false }) rfl rfl rfl
  obtain ⟨s2, hs2⟩ : ∃ s2, s2 = modEntry s1 core p e.seq fun x => { x with idx := l, allRead := false } := ⟨_, rfl⟩
  rw [← hs2] at hbegun
  obtain ⟨hposted, hkeeps⟩ := takeComparator_keeps (modCore s2 core fun x => { x with copies := x.copies + 1 }) core p op c
    { claimedEntry s core p op c e with idx := l, allRead := false }
  have hposted2 := (posted_modCore s2 core _).trans hposted
  have hcycle : s2.cycle = s.cycle := by rw [hs2]; exact hs1.kept.packets.cycle
  refine ⟨_, { claimedEntry s core p op c e with idx := l, allRead := false }, copyOp_eq hf ((hs1.kept.copyIndex _ _ _ _).trans hl) htile, ?_, rfl, rfl, rfl, ?_,
    ⟨_, List.mem_append_right _ (List.mem_singleton_self _), rfl, rfl, ?_⟩⟩
  · subst hs2
    exact hbegun.posted (hposted2.trans (posted_post _ _ _ _ _))
  · subst hs2
    exact hkeeps.trans ((congrArg CoreSt.copies (getCore_setCore _ _ _)).trans (congrArg (· + 1) hs1.copies))
  · subst hs2
    exact hposted2.packets.cycle.trans hcycle

/-! ### QTLD (R214) -/

theorem AtHead.qtld_loads {s : State} {core p da o : Nat} {c : Tcw} {e : QEntry} (h : AtHead s core p 0x60 c e)
    (hda : tileAddr s core p (q1dev c) c.q1 0 16 16 rightR = some da) (hhome : homeOf s (getPart s core p).owner core p da = .scratch core o)
    (hpoison : poisoned s (scratchKey core o) 16 = false) :
    ∃ s' e', exec (.qtld c) s = .next s' ∧ Begun s s' core p 0x60 c e e' ∧ e'.allRead = true
      ∧ (getPart s' core p).table = (memRead s.mem (scratchKey core o) 16).map (·.toInt)
      ∧ (getPart s' core p).esc = c.flags.getLsbD 0 := by
  obtain ⟨s1, hs1, -, htile⟩ := h.starts
  obtain ⟨s2, hs2⟩ : ∃ s2, s2 = modPart s1 core p fun x =>
    { x with table := (memRead s.mem (scratchKey core o) 16).map (·.toInt), esc := c.flags.getLsbD 0 } := ⟨_, rfl⟩
  have hexec : exec (.qtld c) s = .next (post (modEntry s2 core p e.seq fun x => { x with reading := false, allRead := true }) s2.cycle 0
      .tileCommandComplete (.cmd core p e.seq)) := by
    have hq : exec (.qtld c) s = execQtld c s := rfl
    rw [hq, execQtld, htile, qtldRead, hs2]
    simp only [hs1.kept.tileAddr, hda, hs1.kept.homeOf, hs1.kept.owner, hhome, hs1.kept.packets.poisoned, hpoison, hs1.kept.packets.mem,
      Bool.false_eq_true, if_false]
    rfl
  have hpart : getPart s2 core p = _ := hs2 ▸ getPart_modPart s1 core p _
  have hbegun2 : Begun s s2 core p 0x60 c e (claimedEntry s core p 0x60 c e) :=
    hs1.begun.after (by rw [hpart]) (by rw [hpart]) (by rw [hs2]; rfl) (by rw [hs2]; rfl) (by rw [hs2]; rfl)
  have hbegun3 := hbegun2.modEntry (f := fun x => { x with reading := false, allRead := true }) rfl rfl rfl
  refine ⟨_, _, hexec, hbegun3.posted (posted_post _ _ _ _ _), rfl, ?_, ?_⟩
  · rw [(posted_post _ _ _ _ _).getPart, modEntry_keeps (·.table), hpart]
  · rw [(posted_post _ _ _ _ _).getPart, modEntry_keeps (·.esc), hpart]

/-! ### TSIG (R226) -/

theorem posted_sendAccess (s : State) (a : Access) : Posted s (sendAccess s a) := by
  refine ⟨packetsOnly_sendAccess s a, ?_⟩
  have go (s1 : State) (dst : Nat) (h : s1.parts = s.parts) : (sendOn (lineRoute s1 a.core (lineOf s a.ctx a.da)) s1 0 a.core dst a.payload
      (lineKey s a.ctx a.core a.da) (accessStep a)).parts = s.parts := (wakeRoute_parts _ _ _ _).trans h
  have hcounted : (if counted a then enterLine s a.core (lineOf s a.ctx a.da) else s).parts = s.parts := by split <;> rfl
  dsimp only [sendAccess]
  split
  · split
    · rfl
    · exact go _ _ hcounted
  · split
    · rfl
    · exact go _ _ hcounted
  · exact hcounted
  · exact go _ _ hcounted

/-- A TSIG with a quad leaves as a store. -/
theorem AtHead.tsig_stores {s : State} {core p da : Nat} {c : Tcw} {e : QEntry} (h : AtHead s core p 0x70 c e)
    (hf : c.flags.getLsbD 0 = false) (hda : tileAddr s core p (q1dev c) c.q1 0 8 8 rightW = some da) (hw : inWindow s core p da = false) :
    ∃ s' e' a, exec (.tsig c) s = .next s' ∧ Begun s s' core p 0x70 c e e' ∧ e'.unacked = 1 ∧ Sends s s' (accessStep a) ∧ a.da = da
      ∧ a.act = .store (leBytes 8 c.q2.toNat) ∧ a.who = .cmd core p e.seq := by
  obtain ⟨s1, hs1, -, htile⟩ := h.starts
  have hexec : exec (.tsig c) s = .next (sendAccess (modEntry s1 core p e.seq fun x => { x with unacked := 1 })
      (cmdAccess s1 core p (claimedEntry s core p 0x70 c e) 0 da 8 (.store (leBytes 8 c.q2.toNat)))) := by
    have hq : exec (.tsig c) s = execTsig c s := rfl
    rw [hq, execTsig, htile]
    simp only [hf, hs1.kept.tileAddr, hda, hs1.kept.inWindow, hw, Bool.false_eq_true, if_false]
    rfl
  have hs2 := hs1.modEntry (f := fun x => { x with unacked := 1 }) rfl rfl rfl
  exact ⟨_, _, _, hexec, hs2.begun.posted (posted_sendAccess _ _), rfl,
    (sendAccess_sends _ _).before hs2.kept.packets.pend hs2.kept.packets.cycle, rfl, rfl, rfl⟩

/-- A TSIG names no handle that it claims. -/
theorem Engaged.tsig_handle {s s1 : State} {core p : Nat} {c : Tcw} {e e1 : QEntry} (h : Engaged s s1 core p 0x70 c e e1) (k : Nat) :
    getHandle (getPart s1 core p) k = getHandle (getPart s core p) k := by
  obtain ⟨-, -, -, -, -, -, -, hhandles⟩ := h.begun
  have hin : tileIns 0x70 c = [] := rfl
  have hout : tileOut 0x70 c = none := rfl
  rw [hhandles, hin, hout]
  rfl

/-- A TSIG with an advance applies it to the own core. -/
theorem AtHead.tsig_advances {s : State} {core p : Nat} {c : Tcw} {e : QEntry} {y : Handle} (h : AtHead s core p 0x70 c e)
    (hf : c.flags.getLsbD 0 = true) (hlt : c.q1.toNat < 512) (hres : c.q1.toNat / 32 % 8 = 0)
    (hh : holds s (getPart s core p).owner core p = true) (hin : inHandles s core p (c.q1.toNat % 32) = true)
    (hy : advance (getHandle (getPart s core p) (c.q1.toNat % 32)) (bitAt c.q1.toNat 8) c.q2.toNat = some y) :
    ∃ s', exec (.tsig c) s = .next s' ∧ getHandle (getPart s' core p) (c.q1.toNat % 32) = y ∧ s'.mem = s.mem ∧ s'.threads = s.threads := by
  obtain ⟨s1, hs1, -, htile⟩ := h.starts
  obtain ⟨s2, hs2⟩ : ∃ s2, s2 = setFlags (setHandle s1 core p (c.q1.toNat % 32) y) core p := ⟨_, rfl⟩
  have happly : applyAdvance s1 core p (c.q1.toNat % 32) (bitAt c.q1.toNat 8) c.q2.toNat = some s2 := by
    simp only [applyAdvance, hs1.kept.packets.inHandles, hin, hs1.tsig_handle, hy, Bool.not_true, Bool.false_eq_true, if_false, Option.map_some,
      hs2]
  have hsub : c.q1.toNat % 65536 = c.q1.toNat := Nat.mod_eq_of_lt (by omega)
  have hhigh : c.q1.toNat / 512 = 0 := Nat.div_eq_of_lt hlt
  have hzero : bitsOf c.q1.toNat 7 5 = 0 := hres
  have hown : c.q1.toNat / 2 ^ 16 = 0 := Nat.div_eq_of_lt (by omega)
  have hexec : exec (.tsig c) s = .next (finishAt s2 core p e.seq 0 0 0) := by
    have hq : exec (.tsig c) s = execTsig c s := rfl
    rw [hq, execTsig, htile]
    simp only [hf, if_true, tsigAdvance, hsub, hhigh, hzero, hown, ne_eq, not_true_eq_false, decide_false, Bool.or_self, Bool.false_eq_true,
      if_false, hs1.kept.owner, hs1.kept.holds, hh, Bool.not_true, happly]
    rfl
  obtain ⟨hmem, hthreads, -⟩ := finishAt_frame s2 core p e.seq 0 0 0
  refine ⟨_, hexec, ?_, hmem.trans ?_, hthreads.trans ?_⟩
  · rw [getHandle, finishAt_keeps (·.handles), hs2, setFlags_keeps (·.handles)]
    exact (getHandle_setHandle s1 core p _ _ y).trans (if_pos rfl)
  · rw [hs2]
    exact hs1.kept.packets.mem
  · rw [hs2]
    exact hs1.kept.packets.threads

/-- Settles O35: the claim leaves what a command reads as it was (`OwnersKept`), a command without work completes at once
(`AtHead.idle_runs`, `AtHead.tmark_runs`), and every copy form starts alike (`AtHead.copy_starts`). -/
theorem otherTileCommands : Obligations.OtherTileCommands := by
  unfold Obligations.OtherTileCommands
  intro s core p c e own plain copies
  refine ⟨AtHead.idle_runs, AtHead.idle_runs, AtHead.tmark_runs, fun h hf l => h.copy_starts hf, fun h hf l => h.copy_starts hf,
    fun h hf l => h.copy_starts hf, fun h hf l => h.copy_starts hf, fun h hf l => h.copy_starts hf, fun h hf l => h.copy_starts hf,
    fun da o h => h.qtld_loads, fun da h => h.tsig_stores, fun y h => h.tsig_advances⟩

end Sys2Proof.Safety
end

section
/-! SUPPORT. Accumulators as pieces of a table (R7, R208), how a tile command completes (R194, R199, R228), the lines of a copy (R216 to R221)
and remote advances (R226), and O36. -/

namespace Sys2Proof.Safety

open Sys2Proof Sys2Proof.Machine

/-! ### Reading a table in rising order -/

theorem tblGet_of_mem {α : Type} {d : α} {l : List (Nat × α)} (hl : KeysRise l) {k : Nat} {v : α} (h : (k, v) ∈ l) : tblGet d l k = v := by
  induction l with
  | nil => cases h
  | cons e l ih =>
    obtain ⟨he, hl⟩ := keysRise_cons.1 hl
    rcases List.mem_cons.1 h with rfl | h
    · rw [tblGet, if_pos rfl]
    · have hlt : e.1 < k := he _ h
      rw [tblGet, if_neg (by omega), if_neg (by omega), ih hl h]

theorem tblGet_of_not_mem {α : Type} {d : α} {l : List (Nat × α)} {k : Nat} (h : ∀ v, (k, v) ∉ l) : tblGet d l k = d := by
  induction l with
  | nil => rfl
  | cons e l ih =>
    have hk : e.1 ≠ k := fun hk => h e.2 (hk ▸ List.mem_cons_self)
    rw [tblGet, if_neg hk, ih fun v hv => h v (List.mem_cons_of_mem e hv), ite_self]

/-- A run from key `i` on, of a table without smaller keys. -/
theorem tblRun_eq {n i : Nat} {l : List (Nat × Nat)} (hl : KeysRise l) (hi : ∀ e ∈ l, i ≤ e.1) :
    tblRun n i l = (List.range n).map fun j => tblGet 0 l (i + j) := by
  induction n generalizing i l with
  | zero => rfl
  | succ n ih =>
    have hnext (l : List (Nat × Nat)) : (fun j => tblGet 0 l (i + j)) ∘ Nat.succ = fun j => tblGet 0 l (i + 1 + j) := by
      funext j
      rw [Function.comp_apply, Nat.succ_eq_add_one, Nat.add_right_comm, Nat.add_assoc]
    rw [List.range_succ_eq_map, List.map_cons, List.map_map, hnext]
    cases l with
    | nil => rw [tblRun, ih hl fun e he => nomatch he]; rfl
    | cons e l =>
      obtain ⟨k, v⟩ := e
      obtain ⟨he, hl'⟩ := keysRise_cons.1 hl
      have hk : i ≤ k := hi _ List.mem_cons_self
      rw [tblRun]
      split
      · next hki =>
        subst hki
        rw [ih hl' fun e h => he e h, Nat.add_zero, tblGet_of_mem hl List.mem_cons_self]
        congr 1
        refine List.map_congr_left fun j _ => ?_
        rw [tblGet, if_neg (by omega), if_neg (by omega)]
      · next hki =>
        rw [ih hl, tblGet, if_neg (by omega), if_pos (by omega)]
        intro e h
        rcases List.mem_cons.1 h with rfl | h
        · exact Nat.lt_of_le_of_ne hk (Ne.symm hki)
        · exact Nat.lt_of_le_of_lt hk (he e h)

theorem mem_dropWhile_below {α : Type} {l : List (Nat × α)} (hl : KeysRise l) (i : Nat) (e : Nat × α) :
    e ∈ l.dropWhile (fun p => p.1 < i) ↔ e ∈ l ∧ i ≤ e.1 := by
  induction l with
  | nil => simp
  | cons x l ih =>
    obtain ⟨hx, hl'⟩ := keysRise_cons.1 hl
    rw [List.dropWhile_cons]
    split
    · next hlt =>
      have hlt : x.1 < i := of_decide_eq_true hlt
      rw [ih hl', List.mem_cons]
      refine ⟨fun h => ⟨.inr h.1, h.2⟩, fun h => ⟨h.1.resolve_left fun he => ?_, h.2⟩⟩
      rw [he] at h
      omega
    · next hlt =>
      have hlt : i ≤ x.1 := Nat.not_lt.1 fun h => hlt (decide_eq_true h)
      refine ⟨fun h => ⟨h, ?_⟩, fun h => h.1⟩
      rcases List.mem_cons.1 h with rfl | h
      · exact hlt
      · exact hlt.trans (hx e h).le

/-- A slice reads the table key by key. -/
theorem tblSlice_eq {l : List (Nat × Nat)} (hl : KeysRise l) (i n : Nat) :
    tblSlice l i n = (List.range n).map fun j => tblGet 0 l (i + j) := by
  have hdrop : KeysRise (l.dropWhile fun p => p.1 < i) := hl.of_sublist (List.dropWhile_sublist _)
  rw [tblSlice, tblRun_eq hdrop fun e he => ((mem_dropWhile_below hl i e).1 he).2]
  refine List.map_congr_left fun j _ => ?_
  by_cases h : ∃ v, (i + j, v) ∈ l
  · obtain ⟨v, hv⟩ := h
    rw [tblGet_of_mem hl hv, tblGet_of_mem hdrop ((mem_dropWhile_below hl i _).2 ⟨hv, Nat.le_add_right _ _⟩)]
  · rw [tblGet_of_not_mem fun v hv => h ⟨v, hv⟩, tblGet_of_not_mem fun v hv => h ⟨v, ((mem_dropWhile_below hl i _).1 hv).1⟩]

/-! ### Pasting values into a table -/

theorem mem_numbered {vs : List Nat} {i k v : Nat} : (k, v) ∈ numbered i vs ↔ ∃ j, k = i + j ∧ vs[j]? = some v ∧ v ≠ 0 := by
  induction vs generalizing i with
  | nil => simp [numbered]
  | cons w vs ih =>
    have hsplit : (∃ j, k = i + j ∧ (w :: vs)[j]? = some v ∧ v ≠ 0)
        ↔ (k = i ∧ w = v ∧ v ≠ 0) ∨ ∃ j, k = i + 1 + j ∧ vs[j]? = some v ∧ v ≠ 0 := by
      constructor
      · rintro ⟨j, hk, hj⟩
        cases j with
        | zero => exact .inl ⟨hk, by simpa using hj⟩
        | succ j => exact .inr ⟨j, by omega, by simpa using hj⟩
      · rintro (⟨hk, hj⟩ | ⟨j, hk, hj⟩)
        · exact ⟨0, hk, by simpa using hj⟩
        · exact ⟨j + 1, by omega, by simpa using hj⟩
    rw [hsplit, numbered]
    split
    · next hw => rw [ih]; constructor
                 · exact .inr
                 · rintro (⟨_, rfl, hv⟩ | h)
                   · exact absurd hw hv
                   · exact h
    · next hw =>
      rw [List.mem_cons, Prod.mk.injEq, ih]
      constructor
      · rintro (⟨rfl, rfl⟩ | h)
        · exact .inl ⟨rfl, rfl, hw⟩
        · exact .inr h
      · rintro (⟨rfl, rfl, _⟩ | h)
        · exact .inl ⟨rfl, rfl⟩
        · exact .inr h

theorem numbered_bounds {vs : List Nat} {i : Nat} {e : Nat × Nat} (h : e ∈ numbered i vs) : i ≤ e.1 ∧ e.1 < i + vs.length := by
  obtain ⟨j, hk, hj, -⟩ := mem_numbered.1 h
  have := (List.getElem?_eq_some_iff.1 hj).1
  omega

theorem numbered_keysRise (vs : List Nat) (i : Nat) : KeysRise (numbered i vs) := by
  induction vs generalizing i with
  | nil => exact List.Pairwise.nil
  | cons v vs ih =>
    rw [numbered]
    split
    · exact ih _
    · exact keysRise_cons.2 ⟨fun e he => (numbered_bounds he).1, ih _⟩

theorem tblPaste_keysRise {l : List (Nat × Nat)} (hl : KeysRise l) (i : Nat) (vs : List Nat) : KeysRise (tblPaste l i vs) := by
  have below {e} (h : e ∈ l.filter fun p => p.1 < i) : e.1 < i := by simpa using (List.mem_filter.1 h).2
  have above {e} (h : e ∈ l.filter fun p => i + vs.length ≤ p.1) : i + vs.length ≤ e.1 := by simpa using (List.mem_filter.1 h).2
  unfold KeysRise tblPaste
  rw [List.map_append, List.map_append, List.pairwise_append, List.pairwise_append]
  refine ⟨⟨hl.filter _, numbered_keysRise vs i, ?_⟩, hl.filter _, ?_⟩
  · simp only [List.mem_map]
    rintro _ ⟨a, ha, rfl⟩ _ ⟨b, hb, rfl⟩
    exact (below ha).trans_le (numbered_bounds hb).1
  · simp only [List.mem_append, List.mem_map]
    rintro _ (⟨a, ha, rfl⟩ | ⟨a, ha, rfl⟩) _ ⟨b, hb, rfl⟩
    · exact (below ha).trans_le ((Nat.le_add_right _ _).trans (above hb))
    · exact (numbered_bounds ha).2.trans_le (above hb)

/-- A pasted table holds the values where they were put, and elsewhere what it held. -/
theorem tblGet_tblPaste {l : List (Nat × Nat)} (hl : KeysRise l) (i : Nat) (vs : List Nat) (k : Nat) :
    tblGet 0 (tblPaste l i vs) k = if i ≤ k ∧ k < i + vs.length then vs.getD (k - i) 0 else tblGet 0 l k := by
  have hp := tblPaste_keysRise hl i vs
  have hmem (v : Nat) : (k, v) ∈ tblPaste l i vs ↔ ((k, v) ∈ l ∧ ¬(i ≤ k ∧ k < i + vs.length)) ∨ (k, v) ∈ numbered i vs := by
    simp only [tblPaste, List.mem_append, List.mem_filter, decide_eq_true_eq]
    constructor
    · rintro ((⟨h, hk⟩ | h) | ⟨h, hk⟩)
      · exact .inl ⟨h, by omega⟩
      · exact .inr h
      · exact .inl ⟨h, by omega⟩
    · rintro (⟨h, hk⟩ | h)
      · rcases Nat.lt_or_ge k i with hlt | hge
        · exact .inl (.inl ⟨h, hlt⟩)
        · exact .inr ⟨h, by omega⟩
      · exact .inl (.inr h)
  split
  · next hk =>
    obtain ⟨v, hv⟩ : ∃ v, vs[k - i]? = some v := ⟨_, List.getElem?_eq_getElem (by omega)⟩
    rw [List.getD_eq_getElem?_getD, hv, Option.getD_some]
    by_cases h0 : v = 0
    · refine (tblGet_of_not_mem fun w hw => ?_).trans h0.symm
      rcases (hmem w).1 hw with h | h
      · exact h.2 hk
      · obtain ⟨j, hj, hw, hne⟩ := mem_numbered.1 h
        rw [show k - i = j by omega, hw] at hv
        exact hne ((Option.some.inj hv).trans h0)
    · exact tblGet_of_mem hp ((hmem v).2 (.inr (mem_numbered.2 ⟨k - i, by omega, hv, h0⟩)))
  · next hk =>
    by_cases h : ∃ v, (k, v) ∈ l
    · obtain ⟨v, hv⟩ := h
      rw [tblGet_of_mem hl hv, tblGet_of_mem hp ((hmem v).2 (.inl ⟨hv, hk⟩))]
    · rw [tblGet_of_not_mem fun v hv => h ⟨v, hv⟩]
      refine tblGet_of_not_mem fun v hv => ?_
      rcases (hmem v).1 hv with hv | hv
      · exact h ⟨v, hv.1⟩
      · exact hk (numbered_bounds hv)

/-- R7: writing an accumulator leaves the others as they were. -/
theorem tblSlice_tblPaste {l : List (Nat × Nat)} (hl : KeysRise l) (b : Nat) {vs : List Nat} (hv : vs.length = 1024) (a : Nat) :
    tblSlice (tblPaste l (1024 * b) vs) (1024 * a) 1024 = if b = a then vs else tblSlice l (1024 * a) 1024 := by
  rw [tblSlice_eq (tblPaste_keysRise hl _ _), tblSlice_eq hl]
  split
  · next hab =>
    subst hab
    refine List.ext_getElem (by simp [hv]) fun j hj hj' => ?_
    rw [List.getElem_map, List.getElem_range, tblGet_tblPaste hl, if_pos (by omega), Nat.add_sub_cancel_left, List.getD_eq_getElem _ _ hj']
  · next hab =>
    refine List.map_congr_left fun j hj => ?_
    have := List.mem_range.1 hj
    rw [tblGet_tblPaste hl, if_neg (by omega)]

/-- The accumulators that a command writes, each once. -/
theorem tblSlice_foldl_tblPaste {out : List (Nat × List Nat)} (hout : (out.map (·.1)).Nodup) (hlen : ∀ r ∈ out, r.2.length = 1024)
    {l : List (Nat × Nat)} (hl : KeysRise l) (a : Nat) :
    tblSlice (out.foldl (fun t r => tblPaste t (1024 * r.1) r.2) l) (1024 * a) 1024
      = ((out.find? fun r => r.1 == a).map (·.2)).getD (tblSlice l (1024 * a) 1024) := by
  induction out generalizing l with
  | nil => rfl
  | cons r out ih =>
    obtain ⟨hr, hout⟩ := List.nodup_cons.1 hout
    rw [List.foldl_cons, ih hout (fun x hx => hlen x (List.mem_cons_of_mem r hx)) (tblPaste_keysRise hl _ _),
      tblSlice_tblPaste hl _ (hlen r List.mem_cons_self), List.find?_cons]
    by_cases hra : r.1 = a
    · have hnone : (out.find? fun x => x.1 == a) = none :=
        List.find?_eq_none.2 fun x hx h => hr (List.mem_map.2 ⟨x, hx, (beq_iff_eq.1 h).trans hra.symm⟩)
      rw [if_pos hra, hnone, beq_iff_eq.2 hra]
      rfl
    · rw [if_neg hra, beq_eq_false_iff_ne.2 hra]

end Sys2Proof.Safety
end

section
/-! SUPPORT. How a tile command completes (R194, R199, R228). -/

namespace Sys2Proof.Safety

open Sys2Proof Sys2Proof.Machine

/-- When no command waits for its array cycles, the rest of the queue is only looked at again. -/
theorem wakeBlocked_posts {core p : Nat} {l : List QEntry} (hl : ∀ x ∈ l, x.cost = 0) (s : State) :
    ∃ ps, wakeBlocked core p l s = { s with pend := ps } := by
  induction l generalizing s with
  | nil => exact ⟨s.pend, rfl⟩
  | cons e l ih =>
    have hcost : e.cost = 0 := hl e List.mem_cons_self
    have hrest : ∀ x ∈ l, x.cost = 0 := fun x hx => hl x (List.mem_cons_of_mem e hx)
    simp only [wakeBlocked, hcost, ne_eq, not_true_eq_false, decide_false, Bool.false_and, Bool.false_eq_true, if_false]
    split
    · obtain ⟨ps, h⟩ := ih hrest (post s s.cycle 0 .tileCommandComplete (.cmd core p e.seq))
      exact ⟨ps, h⟩
    · exact ih hrest s

/-- What a completing command writes: its slot bytes and its accumulators, and the copy engine that it gives back. -/
def resultsWritten (s : State) (core p : Nat) (e : QEntry) : State :=
  modCore (putResults core p e.outBytes s) core fun x => { x with
    acc := e.outAcc.foldl (fun t a => tblPaste t (1024 * a.1) a.2) x.acc
    side := e.outSide.foldl (fun t a => tblPaste t (512 * a.1) a.2) x.side
    copies := if isCopyOp (tileOpcode e.word) then x.copies - 1 else x.copies }

/-- The stickies with the flags of a completing command. -/
def flagsRaised (s : State) (core p : Nat) (e : QEntry) : State := if e.flags = 0 then s else orSticky s core p e.flags

/-- The state of a completed command, its entry gone and its handles advanced, before what waits for it is looked at. -/
def entryGone (s : State) (core p : Nat) (e : QEntry) : State :=
  modPart (flagsRaised (resultsWritten s core p e) core p e) core p fun x => { x with
    handles := advanceHandles (tileOpcode e.word) (tcwOf e.word) x.handles, queue := x.queue.filter fun f => f.seq != e.seq }

theorem getPart_entryGone (s : State) (core p : Nat) (e : QEntry) : getPart (entryGone s core p e) core p =
    { getPart (flagsRaised (resultsWritten s core p e) core p e) core p with
      handles := advanceHandles (tileOpcode e.word) (tcwOf e.word) (getPart (flagsRaised (resultsWritten s core p e) core p e) core p).handles
      queue := (getPart (flagsRaised (resultsWritten s core p e) core p e) core p).queue.filter fun f => f.seq != e.seq } :=
  getPart_modPart _ _ _ _

theorem flagsRaised_keeps {α : Type} (field : Part → α) (s : State) (core p : Nat) (e : QEntry)
    (hf : ∀ x a b c, field { x with sticky := a, newFlags := b, newAt := c } = field x := by exact fun _ _ _ _ => rfl) :
    field (getPart (flagsRaised s core p e) core p) = field (getPart s core p) := by
  unfold flagsRaised
  split
  · rfl
  · exact modPart_keeps field _ _ _ fun x => hf x _ _ _

theorem flagsRaised_sticky (s : State) (core p : Nat) (e : QEntry) :
    (getPart (flagsRaised s core p e) core p).sticky = (getPart s core p).sticky ||| e.flags := by
  unfold flagsRaised
  split
  · next h => rw [h, Nat.or_zero]
  · rw [orSticky, getPart_modPart]

theorem flagsRaised_frame (s : State) (core p : Nat) (e : QEntry) : (flagsRaised s core p e).mem = s.mem
    ∧ (flagsRaised s core p e).threads = s.threads ∧ getCore (flagsRaised s core p e) core = getCore s core := by
  unfold flagsRaised
  split <;> exact ⟨rfl, rfl, rfl⟩

theorem getPart_resultsWritten {s : State} {core p off : Nat} {bs : List Byte} {e : QEntry} (ho : e.outBytes = [(off, bs)]) :
    getPart (resultsWritten s core p e) core p = getPart s core p := by
  rw [resultsWritten, ho]
  rfl

theorem resultsWritten_mem {s : State} {core p off : Nat} {bs : List Byte} {e : QEntry} (ho : e.outBytes = [(off, bs)]) :
    (resultsWritten s core p e).mem = memWrite s.mem (scratchKey core (viewBase s core p + off)) bs := by
  rw [resultsWritten, ho]
  rfl

theorem resultsWritten_threads {s : State} {core p off : Nat} {bs : List Byte} {e : QEntry} (ho : e.outBytes = [(off, bs)]) :
    (resultsWritten s core p e).threads = s.threads := by
  rw [resultsWritten, ho]
  rfl

theorem resultsWritten_acc {s : State} {core p off : Nat} {bs : List Byte} {e : QEntry} (ho : e.outBytes = [(off, bs)]) :
    (getCore (resultsWritten s core p e) core).acc = e.outAcc.foldl (fun t a => tblPaste t (1024 * a.1) a.2) (getCore s core).acc := by
  rw [resultsWritten, modCore, getCore_setCore, ho]
  rfl

/-- R197, R200: C of the inputs and P of the output advance, each handle once. -/
theorem tblGet_advanceHandles (op : Nat) (c : Tcw) (t : List (Nat × Handle)) (h : Nat) : tblGet {} (advanceHandles op c t) h =
    { tblGet {} t h with
        c := if h ∈ tileIns op c then ((tblGet {} t h).c + c.win.toNat) % 65536 else (tblGet {} t h).c,
        p := if tileOut op c = some h then ((tblGet {} t h).p + c.wout.toNat) % 65536 else (tblGet {} t h).p } := by
  rw [advanceHandles]
  dsimp only
  rw [tblGet_foldl_tblSet (optionToList_nodup _) (fun x => { x with p := (x.p + c.wout.toNat) % 65536 }),
    tblGet_foldl_tblSet (tileIns_nodup op c) (fun x => { x with c := (x.c + c.win.toNat) % 65536 })]
  simp only [Option.mem_toList]
  by_cases hin : h ∈ tileIns op c <;> by_cases hout : tileOut op c = some h <;> simp only [hin, hout, if_true, if_false]

/-- After its results a completing command only posts. -/
theorem completeTile_posts {s : State} {core p off : Nat} {bs : List Byte} {e : QEntry} (ho : e.outBytes = [(off, bs)])
    (hcost : ∀ x ∈ (getPart s core p).queue, x.cost = 0) : ∃ ps, completeTile s core p e = { entryGone s core p e with pend := ps } := by
  have hqueue : ∀ x ∈ (getPart (entryGone s core p e) core p).queue, x.cost = 0 := by
    intro x hx
    rw [getPart_entryGone] at hx
    replace hx := (List.mem_filter.1 hx).1
    rw [flagsRaised_keeps (·.queue), getPart_resultsWritten ho] at hx
    exact hcost x hx
  obtain ⟨ps, hwake⟩ := wakeBlocked_posts (core := core) (p := p) hqueue (entryGone s core p e)
  fun_cases completeTile s core p e with
  | case1 op s1 s2 s3 s4 s5 =>
    have hs5 : s5 = { entryGone s core p e with pend := ps } := hwake
    rw [hs5]
    exact ⟨_, rfl⟩
  | case2 => exact ⟨ps, hwake⟩

theorem tileCompletes : TileCompletes := by
  intro s core p off f bs e hs hfocus hfind hstarted hfinish hle hread hstop hdev hacked hblocked ho hcost hacc hlen hnodup op c k
  have hexec : exec .tileCommandComplete s = .next (completeTile s core p e) := by
    have hdef : exec .tileCommandComplete s = execTileCommandComplete s := rfl
    simp only [hdef, execTileCommandComplete, hfocus, hfind, hfinish, hle, hstarted, hread, hstop, hdev, hacked, hblocked, decide_true,
      Bool.not_true, Option.isSome_none, Bool.or_self, List.isEmpty_nil, ne_eq, not_true_eq_false, decide_false, Bool.false_eq_true, if_false]
  obtain ⟨ps, hposts⟩ := completeTile_posts (core := core) (p := p) (e := e) ho hcost
  obtain ⟨hmem, hthreads, hcore⟩ := flagsRaised_frame (resultsWritten s core p e) core p e
  have hmem' : (completeTile s core p e).mem = memWrite s.mem k bs := by rw [hposts]; exact hmem.trans (resultsWritten_mem ho)
  have hpart : getPart (completeTile s core p e) core p = _ :=
    (congrArg (getPart · core p) hposts).trans (getPart_entryGone s core p e)
  have hthreads' : (completeTile s core p e).threads = s.threads := by rw [hposts]; exact hthreads.trans (resultsWritten_threads ho)
  have hacc' : (getCore (completeTile s core p e) core).acc = _ :=
    (congrArg (fun x => (getCore x core).acc) hposts).trans ((congrArg CoreSt.acc hcore).trans (resultsWritten_acc ho))
  refine ⟨_, hexec, ?_, fun i hi => ?_, hthreads', ?_, ?_, fun a => ?_, fun h => ?_⟩
  · rw [hmem', memRead_memWrite hs.mem]
  · rw [hmem', memByte_memWrite_other hs.mem _ _ _ hi]
  · rw [hpart]
    dsimp only
    rw [flagsRaised_keeps (·.queue), getPart_resultsWritten ho, List.filter_map]
    rfl
  · rw [hpart]
    exact (flagsRaised_sticky _ _ _ _).trans (by rw [getPart_resultsWritten ho])
  · rw [hacc', tblSlice_foldl_tblPaste hnodup hlen hacc]
  · rw [getHandle, hpart]
    dsimp only
    rw [flagsRaised_keeps (·.handles), getPart_resultsWritten ho, tblGet_advanceHandles]
    rfl

end Sys2Proof.Safety
end

section
/-! SUPPORT. The lines of a copy (R131, R216 to R221), remote advances (R226), and O36. -/

namespace Sys2Proof.Safety

open Sys2Proof Sys2Proof.Machine

/-! ### The frame of a line -/

/-- Memory and threads are the same, and no pending step is lost. -/
structure StepsGrow (s s' : State) : Prop where
  mem : s'.mem = s.mem
  threads : s'.threads = s.threads
  pend : PendGrows s.pend s'.pend

theorem StepsGrow.refl (s : State) : StepsGrow s s := ⟨rfl, rfl, (PacketsOnly.refl s).pend⟩

theorem PacketsOnly.stepsGrow {s s' : State} (h : PacketsOnly s s') : StepsGrow s s' := ⟨h.mem, h.threads, h.pend⟩

theorem nextLine_stepsGrow (s : State) (core p seq : Nat) : StepsGrow s (nextLine s core p seq) := ⟨rfl, rfl, (packetsOnly_post _ _ _ _ _).pend⟩

/-- A store of bytes at a device address is on its way for the command `seq`. -/
def StoreSent (s s' : State) (core p seq da : Nat) (bs : List Byte) : Prop :=
  s'.mem = s.mem ∧ s'.threads = s.threads ∧ ∃ a, Sends s s' (accessStep a) ∧ a.da = da ∧ a.z = bs.length ∧ a.act = .store bs
    ∧ a.who = .cmd core p seq

theorem StoreSent.after {s s1 s' : State} {core p seq da : Nat} {bs : List Byte} (h : StoreSent s s1 core p seq da bs) (hg : StepsGrow s1 s') :
    StoreSent s s' core p seq da bs := by
  obtain ⟨hmem, hthreads, a, hsends, ha⟩ := h
  exact ⟨hg.mem.trans hmem, hg.threads.trans hthreads, a, hsends.after hg.pend, ha⟩

/-! ### One line of stores -/

/-- Bytes within a line go as one part. -/
theorem splitLines_one {bs : List Byte} (hne : bs ≠ []) (n : Nat) {da : Nat} (hle : bs.length ≤ 64 - da % 64) :
    splitLines (n + 1) da bs = [(da, bs)] := by
  have hempty : bs.isEmpty = false := by simpa using hne
  rw [splitLines, hempty]
  dsimp only
  rw [List.take_of_length_le hle, List.drop_of_length_le hle]
  cases n <;> rfl

/-- The entry of a copy with one more store of line `m` unacknowledged. -/
def lineSent (m : Nat) (x : QEntry) : QEntry := { x with unacked := x.unacked + 1, lineAcks := x.lineAcks ++ [m] }

theorem sendLines_one {core p op : Nat} (hop : op ≠ 0x51) (c : Tcw) (e : QEntry) {bs : List Byte} (hne : bs ≠ []) {off da : Nat}
    (hle : bs.length ≤ 64 - (da + off) % 64) (s : State) :
    let m := e.next / 2 ^ 24 * 2 ^ 24 + ((da + off) / 64 - da / 64)
    let s1 := modEntry s core p e.seq (lineSent m)
    sendLines core p op c e bs off [da] s = sendAccess s1 (cmdAccess s1 core p e m (da + off) bs.length (.store bs)) := by
  simp only [sendLines, splitLines_one hne _ hle, lineAct, if_neg hop, List.foldl_cons, List.foldl_nil, List.map_cons, List.map_nil]
  rfl

theorem storeSent_sendAccess {s s1 : State} (h : PacketsOnly s s1) (core p : Nat) (e : QEntry) (m da : Nat) (bs : List Byte) :
    StoreSent s (sendAccess s1 (cmdAccess s1 core p e m da bs.length (.store bs))) core p e.seq da bs := by
  have hsent := packetsOnly_sendAccess s1 (cmdAccess s1 core p e m da bs.length (.store bs))
  exact ⟨hsent.mem.trans h.mem, hsent.threads.trans h.threads, _, (sendAccess_sends _ _).before h.pend h.cycle, rfl, rfl, rfl, rfl⟩

theorem storeSent_sendLines {core p op : Nat} (hop : op ≠ 0x51) (c : Tcw) (e : QEntry) {bs : List Byte} (hne : bs ≠ []) {off da : Nat}
    (hle : bs.length ≤ 64 - (da + off) % 64) {s s1 : State} (h : PacketsOnly s s1) :
    StoreSent s (sendLines core p op c e bs off [da] s1) core p e.seq (da + off) bs := by
  rw [sendLines_one hop c e hne hle]
  exact storeSent_sendAccess (h.trans (ownersKept_modEntry _ _ _ _ _).packets) _ _ _ _ _ _

/-! ### Comparators (R131) -/

theorem wakeRoute_cores (t : Trip) (start : Nat) (l : List (Nat × CoreSt)) (s : State) : (wakeRoute t start l s).cores = s.cores := by
  induction l generalizing s with
  | nil => rfl
  | cons e l ih =>
    rw [wakeRoute, ih]
    split <;> rfl

/-- A packet on its way changes of the cores only how long their routers have been idle. -/
theorem tblGet_passRoute (t : Trip) (start : Nat) (l : List (Nat × CoreSt)) (k : Nat) :
    (tblGet {} (passRoute t start l) k).shadows = (tblGet {} l k).shadows := by
  induction l with
  | nil => rfl
  | cons e l ih =>
    have hpass : passRoute t start (e :: l)
        = (e.1, if onRoute t e.1 then { e.2 with idle := max e.2.idle (reaches t start e.1) } else e.2) :: passRoute t start l := by
      rw [passRoute, List.map_cons, passRoute]
      split <;> rfl
    rw [hpass, tblGet, tblGet]
    split
    · split <;> rfl
    · split
      · rfl
      · exact ih

theorem sendOn_shadows (y : Bool) (s : State) (n src dst z key : Nat) (i : Instr) (w : Focus) (k : Nat) :
    (getCore (sendOn y s n src dst z key i w) k).shadows = (getCore s k).shadows := by
  have hcores : (sendOn y s n src dst z key i w).cores = passRoute ⟨src, dst, s.cycle + n, y⟩ (injectAt (s.cycle + n)) s.cores :=
    congrArg (passRoute _ _) (wakeRoute_cores _ _ _ _)
  rw [getCore, hcores]
  exact tblGet_passRoute _ _ _ _

theorem sendAccess_shadows (s : State) (a : Access) (k : Nat) : (getCore (sendAccess s a) k).shadows = (getCore s k).shadows := by
  have hcounted : (getCore (if counted a then enterLine s a.core (lineOf s a.ctx a.da) else s) k).shadows = (getCore s k).shadows := by
    split
    · exact modCore_keeps (·.shadows) _ _ _
    · rfl
  fun_cases sendAccess s a with
  | case1 | case3 => rfl
  | case2 | case4 | case6 => exact (sendOn_shadows _ _ _ _ _ _ _ _ _ _).trans hcounted
  | case5 => exact hcounted

/-- A comparator that holds no access back moves without effect. -/
theorem moveShadow_stepsGrow {s : State} (h : ∀ n, ∀ x ∈ (getCore s n).shadows, x.held = []) (home core p seq : Nat)
    (range : Option (Nat × Nat)) : StepsGrow s (moveShadow s home core p seq range) := by
  fun_cases moveShadow s home core p seq range with
  | case1 => exact .refl s
  | case2 | case3 =>
    rw [h home _ (List.mem_of_find?_eq_some ‹_›)]
    exact (packetsOnly_setCore _ _ _).stepsGrow

/-! ### ZERO and COPY (R216, R218, R221) -/

/-- R216: a ZERO stores zeros up to the end of the line or of the row. -/
theorem zeroLine_stores (s : State) (core p : Nat) (c : Tcw) (e : QEntry) (da : Nat) (hlt : e.next % 2 ^ 24 < (copyGeom 0x55 c).dbytes) :
    StoreSent s (zeroLine s core p c e da) core p e.seq (da + e.next % 2 ^ 24)
      (List.replicate (min ((copyGeom 0x55 c).dbytes - e.next % 2 ^ 24) (64 - (da + e.next % 2 ^ 24) % 64)) 0) := by
  unfold zeroLine
  extract_lets g off z next done s1 s2
  have hz : 0 < z := Nat.lt_min.2 ⟨Nat.sub_pos_of_lt hlt, Nat.sub_pos_of_lt (Nat.mod_lt _ (by decide))⟩
  have hsent : StoreSent s s2 core p e.seq (da + off) (List.replicate z 0) :=
    storeSent_sendLines (by decide) c e (by simpa using hz.ne') (by rw [List.length_replicate]; exact Nat.min_le_right _ _)
      (packetsOnly_modPart _ _ _ _)
  split
  · exact hsent
  · exact hsent.after (nextLine_stepsGrow _ _ _ _)

theorem cleanBytes_length (code : Nat) (bs : List Byte) : (cleanBytes code bs).length = bs.length := by
  unfold cleanBytes
  split
  · exact List.length_map _
  · rfl

/-- R218: a line of a COPY without conversion stores its bytes as they are. -/
theorem lineRead_stores {s : State} {core p da : Nat} {c : Tcw} {e : QEntry} {bs : List Byte} (hcarry : e.carry = [])
    (hfmt : c.fmtA = c.fmtOut) (hne : bs ≠ []) (hle : bs.length ≤ 64 - (da + e.next % 2 ^ 24) % 64)
    (hheld : ∀ n, ∀ x ∈ (getCore s n).shadows, x.held = []) :
    StoreSent s (lineRead s core p 0x50 c e [da] bs) core p e.seq (da + e.next % 2 ^ 24) (cleanBytes c.fmtOut.toNat bs) := by
  have hdata : e.carry ++ bs = bs := by rw [hcarry, List.nil_append]
  have hwhole (n : Nat) : wholeBytes c n = n := by simp [wholeBytes, hfmt]
  have hconvert (t : List Int) (esc : Bool) (rm : Nat) (sat : Bool) :
      copyConvert t esc c.fmtA.toNat c.fmtOut.toNat rm sat bs = (cleanBytes c.fmtOut.toNat bs, 0) := by rw [copyConvert, if_pos (by rw [hfmt])]
  have hoff (n : Nat) : convertedOff c n = n := if_pos hfmt
  unfold lineRead
  extract_lets g pt row off data k cv next done home s1 s2 s3
  have hcv : cv = (cleanBytes c.fmtOut.toNat bs, 0) := by
    show copyConvert _ _ _ _ _ _ ((e.carry ++ bs).take (wholeBytes c (e.carry ++ bs).length)) = _
    rw [hdata, hwhole, List.take_length, hconvert]
  have hs2 : s2 = sendLines core p 0x50 c e (cleanBytes c.fmtOut.toNat bs) off [da] s1 := by
    show sendLines core p 0x50 c e cv.1 (convertedOff c (off - e.carry.length)) [da] s1 = _
    rw [hcv, hoff, hcarry]
    rfl
  have hclean : cleanBytes c.fmtOut.toNat bs ≠ [] := by
    rwa [ne_eq, ← List.length_eq_zero_iff, cleanBytes_length, List.length_eq_zero_iff]
  have hle' : (cleanBytes c.fmtOut.toNat bs).length ≤ 64 - (da + off) % 64 := by rw [cleanBytes_length]; exact hle
  have hsent : StoreSent s s2 core p e.seq (da + off) (cleanBytes c.fmtOut.toNat bs) := by
    rw [hs2]
    exact storeSent_sendLines (by decide) c e hclean hle' (packetsOnly_modPart _ _ _ _)
  have hheld2 : ∀ n, ∀ x ∈ (getCore s2 n).shadows, x.held = [] := by
    intro n x hx
    rw [hs2, sendLines_one (by decide) c e hclean hle', sendAccess_shadows] at hx
    exact hheld n x hx
  have hs3 : StepsGrow s2 s3 := by
    cases hhome : home with
    | none => simpa only [s3, hhome] using StepsGrow.refl s2
    | some k => simpa only [s3, hhome] using moveShadow_stepsGrow hheld2 k core p e.seq _
  split
  · exact (hsent.after hs3).after (packetsOnly_post _ _ _ _ _).stepsGrow
  · exact (hsent.after hs3).after (nextLine_stepsGrow _ _ _ _)

theorem memRead_length (m : List Host.Cell) (k n : Nat) : (memRead m k n).length = n := by
  induction n generalizing k with
  | zero => rfl
  | succ n ih => rw [memRead, List.length_cons, ih]

/-- A COPY without conversion reads as many bytes as it writes. -/
theorem copyGeom_bytes {c : Tcw} (h : c.fmtA = c.fmtOut) : (copyGeom 0x50 c).sbytes = (copyGeom 0x50 c).dbytes := by
  simp [copyGeom, h]

/-- A copy command between two lines of its work. -/
structure AtLine (s : State) (core p : Nat) (e : QEntry) : Prop where
  focus : s.focus = .cmd core p e.seq
  entry : ((getPart s core p).queue.find? fun x => x.seq == e.seq) = some e
  started : e.started = true
  left : e.allRead = false
  idle : e.reading = false
  free : e.parked = false
  going : (getPart s core p).stopCycle = none
  day : duskDue s (getPart s core p).owner = false

theorem AtLine.exec_eq {s : State} {core p : Nat} {e : QEntry} (h : AtLine s core p e) :
    exec .copyShadowRelease s = .next (copyLine s core p (tileOpcode e.word) (tcwOf e.word) e) := by
  have hdef : exec .copyShadowRelease s = execCopyShadowRelease s := rfl
  simp only [hdef, execCopyShadowRelease, h.focus, h.entry, h.started, h.left, h.idle, h.free, h.going, h.day, Bool.not_true,
    Option.isSome_none, Bool.or_self, Bool.false_eq_true, if_false]

section Lines

variable {s : State} {core p da : Nat} {c : Tcw} {e : QEntry}

/-- With room for its stores a line is not put off. -/
theorem writeRoom_all (hroom : ∀ n, unackedTo (getCore s core) n < 255) (ctx out : Nat) :
    ([da].any fun d => !writeRoom s core ctx (d + out) || !writeRoom s core ctx (d + out + 64)) = false := by
  simp [writeRoom, hroom]

theorem copyLine_zero (hroom : ∀ n, unackedTo (getCore s core) n < 255) (hdst : dstRow s core p 0x55 c e (e.next / 2 ^ 24) = some [da]) :
    copyLine s core p 0x55 c e = zeroLine s core p c e da := by
  simp only [copyLine, hdst, writeRoom_all hroom, Bool.false_eq_true, if_false, if_true]
  rfl

theorem copyLine_copy {src o : Nat} (hroom : ∀ n, unackedTo (getCore s core) n < 255)
    (hdst : dstRow s core p 0x50 c e (e.next / 2 ^ 24) = some [da]) (hsrc : srcRow s core p 0x50 c e (e.next / 2 ^ 24) = some src)
    (hhome : homeOf s (getPart s core p).owner core p (src + e.next % 2 ^ 24) = .scratch core o)
    (hpoison : poisoned s (scratchKey core o)
      (min ((copyGeom 0x50 c).sbytes - e.next % 2 ^ 24) (64 - (src + e.next % 2 ^ 24) % 64)) = false) :
    copyLine s core p 0x50 c e = lineRead s core p 0x50 c e [da] (memRead s.mem (scratchKey core o)
      (min ((copyGeom 0x50 c).sbytes - e.next % 2 ^ 24) (64 - (src + e.next % 2 ^ 24) % 64))) := by
  have hop : ¬(0x50 : Nat) = 0x55 := by decide
  simp only [copyLine, hdst, writeRoom_all hroom, hop, hsrc, hhome, hpoison, Bool.false_eq_true, if_false]

end Lines

/-! ### Remote advances (R200, R226, R263) -/

/-- R263: the event flags of the partition's work slots are set. -/
theorem setFlags_bitAt (s : State) (core p : Nat) {n : Nat} (hle : firstSlot s core p ≤ n) (hlt : n < handlerSlot s core p) :
    bitAt (getPart (setFlags s core p) core p).flags n = true := by
  have hwork : n - firstSlot s core p < slotCount s core - 1 := by
    unfold handlerSlot at hlt
    omega
  rw [setFlags, getPart_modPart, bitAt_eq_testBit, Nat.testBit_or, Nat.testBit_mul_two_pow, Nat.testBit_two_pow_sub_one,
    decide_eq_true hle, decide_eq_true hwork, Bool.and_self, Bool.or_true]

/-- The access whose acknowledgement answers a remote advance. -/
def advanceAck (q : AdvPkt) : Access := ⟨.cmd q.src q.part q.seq, 0, q.ctx, q.part, q.src, 0, 2 ^ 52, 8, 0, .store [], none, none⟩

/-- The reply to an advance from this device. -/
def ackAdvance (q : AdvPkt) (s : State) (st : AckStatus) : State :=
  Machine.send s q.dst q.src 8 0 (.acknowledgement (advanceAck q) st) (.cmd q.src q.part q.seq)

section Advances

variable {s : State} {q : AdvPkt}

/-- An advance that reaches a partition of its context is applied or refused. -/
theorem exec_remoteAdvance_eq (hdev : q.dev = none) (hon : descheduled s q.ctx = false) (hgo : (getPart s q.dst q.part).stopCycle = none)
    (hholds : holds s q.ctx q.dst q.part = true) (hin : inHandles s q.dst q.part q.h = true) :
    (∀ y, advance (getHandle (getPart s q.dst q.part) q.h) q.consume q.n = some y → exec (.remoteAdvance q) s
        = .next (ackAdvance q (setFlags (setHandle s q.dst q.part q.h y) q.dst q.part) .ok))
      ∧ (advance (getHandle (getPart s q.dst q.part) q.h) q.consume q.n = none →
        exec (.remoteAdvance q) s = .next (ackAdvance q s .badAdvance)) := by
  have hdef : exec (.remoteAdvance q) s = execRemoteAdvance q s := rfl
  rw [hdef, execRemoteAdvance, localCtx_here hdev]
  dsimp only
  rw [atPartition_open hon hgo]
  refine ⟨fun y hy => ?_, fun hy => ?_⟩ <;>
    simp only [hholds, applyAdvance, hin, hy, hdev, Bool.not_true, Bool.false_eq_true, if_false, Option.map_some, Option.map_none] <;> rfl

theorem advance_applies (y : Handle) :
    let s' := ackAdvance q (setFlags (setHandle s q.dst q.part q.h y) q.dst q.part) .ok
    getHandle (getPart s' q.dst q.part) q.h = y ∧ Quiet s s' ∧ s'.threads = s.threads
      ∧ (∀ n, firstSlot s q.dst q.part ≤ n → n < handlerSlot s q.dst q.part → bitAt (getPart s' q.dst q.part).flags n = true)
      ∧ Sends s s' (.acknowledgement (advanceAck q) .ok) := by
  intro s'
  have hhandle : PacketsOnly s (setHandle s q.dst q.part q.h y) := packetsOnly_modPart _ _ _ _
  have hflags : PacketsOnly s (setFlags (setHandle s q.dst q.part q.h y) q.dst q.part) := hhandle.trans (packetsOnly_setPart _ _ _ _)
  have hposted : Posted (setFlags (setHandle s q.dst q.part q.h y) q.dst q.part) s' := posted_send _ _ _ _ _ _ _
  have hall := hflags.trans hposted.packets
  refine ⟨?_, hall.quiet, hall.threads, fun n hle hlt => ?_, (send_sends _ _ _ _ _ _ _).before hflags.pend hflags.cycle⟩
  · rw [hposted.getPart, getHandle, setFlags_keeps (·.handles)]
    exact (getHandle_setHandle s q.dst q.part _ _ y).trans (if_pos rfl)
  · rw [hposted.getPart]
    exact setFlags_bitAt (setHandle s q.dst q.part q.h y) _ _ hle hlt

end Advances

/-- R131, R216 to R218, R221, R226: the lines of ZERO and COPY, and remote advances. -/
theorem copyLinesAndAdvances : CopyLines := by
  intro s core p da src o e q op c g row off stores
  refine ⟨fun hfocus hentry hstarted hleft hidle hfree hcarry hgoing hoff hday hroom hdst => ?_, fun hdev hon hgo hholds hin => ?_⟩
  · have hexec := AtLine.exec_eq ⟨hfocus, hentry, hstarted, hleft, hidle, hfree, hgoing, hday⟩
    have sent {s' : State} {bs : List Byte} (heq : exec .copyShadowRelease s = .next s') (h : StoreSent s s' core p e.seq (da + off) bs) :
        stores bs := by
      obtain ⟨hmem, hthreads, a, hsends, hda, hz, hact, hwho⟩ := h
      exact ⟨_, a, heq, hmem, hthreads, hsends, hda, hz, hact, hwho⟩
    refine ⟨fun hop => ?_, fun hop hfmt hsrc hline hhome => ?_⟩
    · simp only [op, g, hop] at hexec hoff hdst ⊢
      rw [copyLine_zero hroom hdst] at hexec
      exact sent hexec (zeroLine_stores s core p c e da hoff)
    · intro z hpoison hheld
      simp only [op, g, hop] at hexec hoff hdst hsrc
      simp only [z, g, op, hop] at hpoison ⊢
      rw [copyLine_copy hroom hdst hsrc hhome hpoison] at hexec
      have hz : 0 < min ((copyGeom 0x50 c).sbytes - off) (64 - (src + off) % 64) :=
        Nat.lt_min.2 ⟨Nat.sub_pos_of_lt (hoff.trans_eq (copyGeom_bytes hfmt).symm), Nat.sub_pos_of_lt (Nat.mod_lt _ (by decide))⟩
      refine sent hexec (lineRead_stores hcarry hfmt (fun h => ?_) ?_ hheld)
      · rw [← List.length_eq_zero_iff, memRead_length] at h
        exact hz.ne' h
      · rw [memRead_length]
        exact (Nat.min_le_right _ _).trans_eq (congrArg (64 - ·) hline)
  · obtain ⟨happlied, hrefused⟩ := exec_remoteAdvance_eq hdev hon hgo hholds hin
    refine ⟨fun y hy => ⟨_, _, happlied y hy, advance_applies y⟩, fun hy => ⟨_, advanceAck q, hrefused hy, ?_⟩⟩
    have hposted : Posted s (ackAdvance q s .badAdvance) := posted_send _ _ _ _ _ _ _
    exact ⟨hposted.parts, hposted.packets.quiet, hposted.packets.threads, send_sends _ _ _ _ _ _ _⟩

/-- Settles O36: the rest of the queue is only looked at again once the results are written (`completeTile_posts`); a line within its cache
line leaves as one store (`sendLines_one`), and a comparator that holds nothing back moves without effect (`moveShadow_stepsGrow`). -/
theorem tileCompletion : Obligations.TileCompletion := ⟨tileCompletes, copyLinesAndAdvances⟩

end Sys2Proof.Safety
end
